-- ==== Sys2Proof/Word.lean ====
section
/-! DEFINITION. The word types of the KG7-4D20 (R3: bit 0 is the least significant bit of any field). -/

namespace Sys2Proof

/-- An 8-bit byte of memory. -/
abbrev Byte := BitVec 8
/-- A 32-bit lane register word (R42). -/
abbrev Word := BitVec 32
/-- A 64-bit scalar register (R42). -/
abbrev DWord := BitVec 64

end Sys2Proof
end

