-- ==== Sys2Proof/Config.lean ====
section
/-! DEFINITION. What the KG7-4D20 fixes (R2, the glance of 00_scope.md), and the free values of the model: opaque
constants without a body, so that no proof can see a value the spec does not state. -/

namespace Sys2Proof.Config

/-- Dies of the package (R2). -/
abbrev nDies : Nat := 4
/-- Quads of a die (00_scope.md). -/
abbrev nQuads : Nat := 18
/-- Cores of a quad. -/
abbrev nCoresPerQuad : Nat := 4
/-- Issue schedulers of a core. -/
abbrev nScheds : Nat := 4
/-- Resident groups a scheduler holds. -/
abbrev nSlots : Nat := 16
/-- Main-file blocks of a core (R45: 512 blocks of 2 KiB). -/
abbrev nBlocks : Nat := 512
/-- Groups whose tiles one core's Anvil tile store holds (R59). -/
abbrev nTileGroups : Nat := 16
/-- Store-buffer entries of a region (R29). -/
abbrev nStoreBuf : Nat := 64
/-- Draw-buffer entries of a lane (R125). -/
abbrev nDrawBuf : Nat := 32
/-- Entries of an L1 TLB (R357). -/
abbrev nL1Tlb : Nat := 128
/-- Entries of a quad's TLB (R357). -/
abbrev nL2Tlb : Nat := 4096
/-- Lines of a core's L1 data cache (R86: 256 KiB of 128-byte lines). -/
abbrev nL1Lines : Nat := 2048
/-- Copies of one team in flight (R101). -/
abbrev nCopies : Nat := 16
/-- Anvil queue entries of a group (R268). -/
abbrev nAnvilQueue : Nat := 8

/-- FREE VALUE: a 32-bit value the spec leaves open, fresh for each `n` (log entry 3). -/
opaque freeWord : Nat → BitVec 32
/-- FREE VALUE: a natural number the spec leaves open, fresh for each `n` (log entry 3). -/
opaque freeNat : Nat → Nat
/-- FREE VALUE: which of `len` still possible values an early read of a z register returns (R51, R171; log entry 4). -/
opaque zPick (n len : Nat) : Nat
/-- FREE VALUE: records that an endpoint's event ring holds; the spec gives no size (R414; log entry 18). -/
opaque endpointRing : Nat
/-- FREE VALUE: which winding of a screen triangle is its front (R139, R340; log entry 30). -/
opaque frontCcw : Bool
/-- FREE VALUE: the place of a pixel's word in a visibility buffer, in words from VISBASE (R141, R340; log entry 30). -/
opaque visIndex (px py : Nat) : Nat
/-- SHA3-256 (R416, R418), left uninterpreted: the spec names the function and defines none of its values (log entry 5). -/
opaque sha3 : List Byte → List Byte
/-- The ML-DSA-44 public key derived from a fused seed (R418; log entry 5). -/
opaque mldsaPublic : List Byte → List Byte
/-- An ML-DSA-44 signature under a seed over a message; the signature may differ from one call to the next (R418; log entry 5). -/
opaque mldsaSign (n : Nat) (seed msg : List Byte) : List Byte
/-- Whether an ML-DSA-44 signature verifies: public key, message, signature (R416; log entry 5). -/
opaque mldsaVerify (pk msg sig : List Byte) : Bool

end Sys2Proof.Config
end

