-- ==== Sys2Proof/Syntax.lean ====
section
/-! DEFINITION. The steps of the KG7-4D20: every row of the opcode table is a constructor of `Instr`. The scalar and
lane instructions are decoded from words (08_encodings_and_opcode_maps.md); the rows after them are steps of the
machine's other agents and service commands, whose operands say which agent acts and what the outside supplies. -/

namespace Sys2Proof

/-- A scalar register s0-s63 (R42). -/
abbrev SReg := BitVec 6

/-- Width and signedness of a scalar integer operation: the F bits U and W of R181. -/
structure IntF where
  u : Bool
  w : Bool
  deriving DecidableEq, Repr

/-- Formats of scalar floating point, F[1:0] (R186). -/
inductive SFmt | f32 | f16 | b16
  deriving DecidableEq, Repr

/-- Rounding modes (R68). -/
inductive Rnd | rne | rtz | rup | rdn | rna
  deriving DecidableEq, Repr

/-- Conditions of FCMP and VFCMP (R188, R224). -/
inductive FCond | eq | lt | le | un
  deriving DecidableEq, Repr

/-- Conversions of FCVT (R189). -/
inductive CvtKind
  | f32F16 | f32B16 | f16F32 | b16F32 | f32I32 | f32N32 | f32I64 | f32N64 | i32F32 | n32F32 | i64F32 | n64F32
  deriving DecidableEq, Repr

/-- Conditions of BRC (R158). -/
inductive SCond | eq | ne | lt | ge | gt | le
  deriving DecidableEq, Repr

/-- Conditions of BRM (R158). -/
inductive MCond | none | any | all | nall
  deriving DecidableEq, Repr

/-- Mask operands (R157). -/
inductive MaskOp
  | s (n : BitVec 5)
  | p (n : BitVec 3)
  | em
  | xm
  | flm
  deriving DecidableEq, Repr

/-- The count of LRUN: n - 1 in F10, or a register (R192). -/
inductive LrunCount
  | imm (nm1 : BitVec 10)
  | reg (a : SReg)
  deriving DecidableEq, Repr

/-- Access sizes of LD and ST, and the first four of R242. -/
inductive MemSize | b8 | b16 | b32 | b64
  deriving DecidableEq, Repr

/-- Bytes of an access. -/
def MemSize.bytes : MemSize → Nat
  | .b8 => 1 | .b16 => 2 | .b32 => 4 | .b64 => 8

/-- Operations of ATOM and VATOM (R200, R249). -/
inductive AtomOp | add | min | max | umin | umax | and | or | xor | xchg | cas
  deriving DecidableEq, Repr

/-- Special registers (R60); level registers crd2-crd7 carry their level. -/
inductive SpecialReg
  | teamidx | grpidx | grpcnt | coreid | launchid | launchseq
  | crd (level : BitVec 3)
  | cyc | cycn | time | seed | drawmode | replayiter
  | em | flm | xm | valloc | flags | reentry | regen
  deriving DecidableEq, Repr

/-- Path classes (R96). -/
inductive PathClass | ls | cp | cr | mx | tr | rp
  deriving DecidableEq, Repr

/-- Scopes (R111). -/
inductive Scope | grp | team | quad | die | pkg | sys
  deriving DecidableEq, Repr

/-- System registers (R329). -/
inductive SysReg | sstat | epc | ecause | einfo | svec | escr | sthread | evpend | semstate
  deriving DecidableEq, Repr

/-! ### Lane words (R165-R170) -/

/-- Formats of the FMT field (R72). -/
inductive Fmt
  | f32 | f16 | b16 | e4m3 | e5m2 | e2m1 | i8 | i16 | i32 | i64 | n8 | n16 | n32 | n64 | x8a | x8b | x4
  deriving DecidableEq, Repr

/-- A source's register (R167), with FE where the class carries full/empty state (R168). -/
inductive SrcReg
  | v (i : Byte) (fe : Bool)
  | q (n : BitVec 3)
  | i (n : BitVec 2)
  | w (n : BitVec 4)
  | z (n : BitVec 2)
  | s (n : SReg) (fe : Bool)
  | vi (n : BitVec 2) (k : BitVec 6) (fe : Bool)
  deriving DecidableEq, Repr

/-- A source field: a register and its modifier MOD (R166, R168). -/
structure Src where
  reg : SrcReg
  mod : BitVec 2
  deriving DecidableEq, Repr

/-- A destination field (R167). -/
inductive Dst
  | v (i : Byte)
  | q (n : BitVec 3)
  | w (n : BitVec 4)
  | vi (n : BitVec 2) (k : BitVec 6)
  deriving DecidableEq, Repr

/-- The fields every lane word carries: VER, SCB and PRED (R165, R170). -/
structure LaneHdr where
  /-- VER = 1, the current generation; false is VER = 0. -/
  current : Bool
  scb : BitVec 10
  pidx : BitVec 3
  pinv : Bool
  deriving DecidableEq, Repr

/-- A lane word's operands. Fields an instruction does not use hold their zero values (R164). -/
structure LaneOp where
  h : LaneHdr
  d : Dst
  a : Src
  b : Src
  c : Src
  fmt : Fmt
  rnd : Rnd
  sat : Bool
  xf : BitVec 13
  deriving DecidableEq, Repr

/-- What VSETI writes: a register's word, or BASE and LEN (R252). -/
inductive SetSrc
  | reg (a : Src)
  | imm (base len : Byte)
  deriving DecidableEq, Repr

/-- What VINCI adds: a register's low byte, or an immediate (R253). -/
inductive IncSrc
  | reg (a : Src)
  | imm (n : Byte)
  deriving DecidableEq, Repr

/-! ### Operands of the other steps -/

/-- Who runs scalar words: a group on a compute core, or a service thread (R9, R327). -/
inductive Agent
  | none
  | group (g : Nat)
  | svc (t : Nat)
  deriving DecidableEq, Repr

/-- Where an issue happens: a scheduler of a compute core, or a service core (R34, R327). -/
inductive IssueUnit
  | sched (core sch : Nat)
  | service (core : Nat)
  deriving DecidableEq, Repr

/-- An error a copy may meet besides the faults its addresses decide (R103). -/
inductive CopyErr | none | memory | cxl
  deriving DecidableEq, Repr

/-- What a pool error hits (R409): a pending load, a group's write-back, a copy of a team, or a reduction of a launch. -/
inductive PoolVictim
  | none
  | read (g n : Nat)
  | writeBack (g : Nat)
  | copy (t n : Nat)
  | reduction (l r : Nat)
  deriving DecidableEq, Repr

/-- A link's state (R415). -/
inductive LinkState | down | up | retraining
  deriving DecidableEq, Repr

/-- A ring whose HEAD the driver advances (R363, R414). -/
inductive RingId
  | fault (ctx : Nat)
  | event (ctx : Nat)
  | endpoint (b : Bool)
  /-- No ring: the host's explicit request to advance the rollback counter (R417), for which the spec names no command (log entry
  36). -/
  | rollback
  deriving DecidableEq, Repr

/-- What the viewport transform gives the classifier of one primitive (R139): its three screen positions, snapped to 1/256
pixel, and whether it crosses the guard band or the near plane. -/
structure TriInfo where
  prim : Nat
  a : Int × Int
  b : Int × Int
  c : Int × Int
  crosses : Bool
  deriving DecidableEq, Repr

/-- A covered 2 x 2 pixel quad as the fixed rasteriser emits it (R142). -/
structure FragQuad where
  core : Nat
  /-- Pixel of lane 0 of the quad; the others follow to the right and below. -/
  px : Nat
  py : Nat
  cover : BitVec 4
  prim : Word
  inst : Word
  material : Word
  /-- The depth keys of its four pixels (R141). -/
  keys : List Word
  /-- The primitive's last quad. -/
  last : Bool
  deriving DecidableEq, Repr

/-- A service request (R410): endpoint, header fields and the 48 argument bytes. -/
structure Req where
  endpointB : Bool
  cmd : BitVec 16
  seq : Word
  vf : Byte
  ctx : BitVec 16
  args : List Byte
  deriving DecidableEq, Repr

/-- The steps of the machine, one constructor per row of the opcode table. -/
inductive Instr
  /-- `PFX` (R159). -/
  | pfx (cap sat : Bool) (rnd : Rnd)
  /-- `NOP` (R190). -/
  | nop
  /-- `TRAP` (R214). -/
  | trap (code : BitVec 10)
  /-- `BRK` (R214). -/
  | brk (code : BitVec 10)
  /-- `ADD` (R182). -/
  | add (f : IntF) (d a b : SReg)
  /-- `SUB` (R182). -/
  | sub (f : IntF) (d a b : SReg)
  /-- `MUL` (R182). -/
  | mul (f : IntF) (d a b : SReg)
  /-- `MULH` (R182). -/
  | mulh (f : IntF) (d a b : SReg)
  /-- `DIV` (R183). -/
  | div (f : IntF) (d a b : SReg)
  /-- `REM` (R183). -/
  | rem (f : IntF) (d a b : SReg)
  /-- `MIN` (R182). -/
  | min (f : IntF) (d a b : SReg)
  /-- `MAX` (R182). -/
  | max (f : IntF) (d a b : SReg)
  /-- `SLT` (R182). -/
  | slt (f : IntF) (d a b : SReg)
  /-- `SEQ` (R182). -/
  | seq (f : IntF) (d a b : SReg)
  /-- `AND` (R182). -/
  | and (f : IntF) (d a b : SReg)
  /-- `OR` (R182). -/
  | or (f : IntF) (d a b : SReg)
  /-- `XOR` (R182). -/
  | xor (f : IntF) (d a b : SReg)
  /-- `SHL` (R182). -/
  | shl (f : IntF) (d a b : SReg)
  /-- `SHR` (R182). -/
  | shr (f : IntF) (d a b : SReg)
  /-- `SAR` (R182). -/
  | sar (f : IntF) (d a b : SReg)
  /-- `MOV` (R182). -/
  | mov (d a : SReg)
  /-- `ADDI` (R184). -/
  | addi (d a : SReg) (imm : BitVec 10)
  /-- `ANDI` (R184). -/
  | andi (d a : SReg) (imm : BitVec 10)
  /-- `ORI` (R184). -/
  | ori (d a : SReg) (imm : BitVec 10)
  /-- `XORI` (R184). -/
  | xori (d a : SReg) (imm : BitVec 10)
  /-- `SHLI` (R184). -/
  | shli (d a : SReg) (n : BitVec 6)
  /-- `SHRI` (R184). -/
  | shri (d a : SReg) (n : BitVec 6)
  /-- `SARI` (R184). -/
  | sari (d a : SReg) (n : BitVec 6)
  /-- `SLTI` (R184). -/
  | slti (d a : SReg) (imm : BitVec 10)
  /-- `MOVL` (R185). -/
  | movl (d : SReg) (imm : Word)
  /-- `MOVH` (R185). -/
  | movh (d : SReg) (imm : Word)
  /-- `ADDL` (R185). -/
  | addl (f : IntF) (d a : SReg) (imm : Word)
  /-- `FADD` (R187). -/
  | fadd (f : SFmt) (d a b : SReg)
  /-- `FSUB` (R187). -/
  | fsub (f : SFmt) (d a b : SReg)
  /-- `FMUL` (R187). -/
  | fmul (f : SFmt) (d a b : SReg)
  /-- `FMA` (R187). -/
  | fma (f : SFmt) (d a b : SReg)
  /-- `FDIV` (R187). -/
  | fdiv (f : SFmt) (d a b : SReg)
  /-- `FSQRT` (R187). -/
  | fsqrt (f : SFmt) (d a : SReg)
  /-- `FMIN` (R188). -/
  | fmin (f : SFmt) (d a b : SReg)
  /-- `FMAX` (R188). -/
  | fmax (f : SFmt) (d a b : SReg)
  /-- `FCMP` (R188). -/
  | fcmp (c : FCond) (f : SFmt) (d a b : SReg)
  /-- `FCVT` (R189). -/
  | fcvt (k : CvtKind) (d a : SReg)
  /-- `BR` (R190). -/
  | br (off : BitVec 22)
  /-- `BRC` (R190). -/
  | brc (c : SCond) (a : SReg) (off : Word)
  /-- `BRM` (R190). -/
  | brm (c : MCond) (m : MaskOp) (off : Word)
  /-- `CALL` (R190). -/
  | call (off : BitVec 22)
  /-- `CALLR` (R190). -/
  | callr (a : SReg)
  /-- `RET` (R190). -/
  | ret
  /-- `EXIT` (R191). -/
  | exit
  /-- `LRUN` (R192). -/
  | lrun (e : Bool) (n : LrunCount) (k : Word)
  /-- `MMOV` (R193). -/
  | mmov (d a : MaskOp)
  /-- `MAND` (R193). -/
  | mand (d a b : MaskOp)
  /-- `MOR` (R193). -/
  | mor (d a b : MaskOp)
  /-- `MXOR` (R193). -/
  | mxor (d a b : MaskOp)
  /-- `MANDN` (R193). -/
  | mandn (d a b : MaskOp)
  /-- `MCNT` (R193). -/
  | mcnt (d : BitVec 5) (a : MaskOp)
  /-- `JOIN` (R194). -/
  | join (a : MaskOp)
  /-- `REGION` (R196). -/
  | region (idx : Word)
  /-- `LD` (R199). -/
  | ld (sz : MemSize) (sx sp : Bool) (d a : SReg) (off : Word)
  /-- `ST` (R199). -/
  | st (sz : MemSize) (sp : Bool) (d a : SReg) (off : Word)
  /-- `ATOM` (R200). -/
  | atom (op : AtomOp) (wide sp : Bool) (d a : SReg) (off : Word)
  /-- `SRD` (R201). -/
  | srd (d : SReg) (n : SpecialReg)
  /-- `SWR` (R201). -/
  | swr (n : SpecialReg) (a : SReg)
  /-- `BARA` (R202). -/
  | bara (level : BitVec 3) (n : BitVec 4)
  /-- `BARW` (R202). -/
  | barw (d : SReg) (level : BitVec 3) (n : BitVec 4)
  /-- `BAR` (R202). -/
  | bar (d : SReg) (level : BitVec 3) (n : BitVec 4)
  /-- `EFENCE` (R113). -/
  | efence
  /-- `MFENCE` (R112). -/
  | mfence (x y : PathClass) (sc : Scope)
  /-- `ARM` (R99). -/
  | arm (sp : Bool) (a b : SReg)
  /-- `WAITM` (R99). -/
  | waitm
  /-- `YIELD` (R99). -/
  | yield (off : BitVec 22)
  /-- `SCHUNK` (R209). -/
  | schunk (d a : SReg) (minc : Word)
  /-- `RINGP` (R22). -/
  | ringp (k : BitVec 3)
  /-- `RINGG` (R22). -/
  | ringg (k : BitVec 3)
  /-- `QCFG` (R211). -/
  | qcfg (q : BitVec 3) (a : SReg) (cap : Word)
  /-- `STCFG` (R212). -/
  | stcfg (n : BitVec 3) (a : SReg)
  /-- `SGROW` (R213). -/
  | sgrow (b : BitVec 10)
  /-- `SSHRINK` (R213). -/
  | sshrink (b : BitVec 10)
  /-- `SYSRD` (R329). -/
  | sysrd (d : SReg) (n : SysReg)
  /-- `SYSWR` (R329). -/
  | syswr (n : SysReg) (a : SReg)
  /-- `ERET` (R331). -/
  | eret
  /-- `L1INV` (R334). -/
  | l1inv (all : Bool) (a : SReg)
  /-- `PARK` (R334). -/
  | park (d a : SReg)
  /-- `UNPARK` (R334). -/
  | unpark (d a : SReg)
  /-- `HALT` (R334). -/
  | halt (d a : SReg)
  /-- `RESUME` (R334). -/
  | resume (d a : SReg)
  /-- `CTXSV` (R334). -/
  | ctxsv (d a b : SReg)
  /-- `CTXLD` (R334). -/
  | ctxld (d a b : SReg)
  /-- `PREEMPT` (R334). -/
  | preempt (d a b : SReg)
  /-- `SEMACQ` (R335). -/
  | semacq (d a b : SReg)
  /-- `SEMREL` (R335). -/
  | semrel (d a : SReg)
  /-- `SVC` (R330). -/
  | svc (code : BitVec 10)
  /-- `TLBIV` (R360). -/
  | tlbiv (a b : SReg)
  /-- `TLBIA` (R360). -/
  | tlbia (all : Bool) (a : SReg)
  /-- `VADD` (R220). -/
  | vadd (o : LaneOp)
  /-- `VSUB` (R220). -/
  | vsub (o : LaneOp)
  /-- `VMUL` (R220). -/
  | vmul (o : LaneOp)
  /-- `VMULH` (R220). -/
  | vmulh (o : LaneOp)
  /-- `VMAD` (R220). -/
  | vmad (o : LaneOp)
  /-- `VMIN` (R220). -/
  | vmin (o : LaneOp)
  /-- `VMAX` (R220). -/
  | vmax (o : LaneOp)
  /-- `VSHL` (R220). -/
  | vshl (o : LaneOp)
  /-- `VSHR` (R220). -/
  | vshr (o : LaneOp)
  /-- `VSAR` (R220). -/
  | vsar (o : LaneOp)
  /-- `VAND` (R221). -/
  | vand (o : LaneOp)
  /-- `VOR` (R221). -/
  | vor (o : LaneOp)
  /-- `VXOR` (R221). -/
  | vxor (o : LaneOp)
  /-- `VLOP3` (R222). -/
  | vlop3 (o : LaneOp)
  /-- `VBFE` (R221). -/
  | vbfe (o : LaneOp)
  /-- `VBFI` (R221). -/
  | vbfi (o : LaneOp)
  /-- `VPOPC` (R221). -/
  | vpopc (o : LaneOp)
  /-- `VCLZ` (R221). -/
  | vclz (o : LaneOp)
  /-- `VSEL` (R221). -/
  | vsel (o : LaneOp)
  /-- `VMOV` (R221). -/
  | vmov (o : LaneOp)
  /-- `VMOVI` (R223). -/
  | vmovi (h : LaneHdr) (d : Dst) (imm : Word)
  /-- `VCMP` (R224). -/
  | vcmp (o : LaneOp)
  /-- `VFADD` (R225). -/
  | vfadd (o : LaneOp)
  /-- `VFSUB` (R225). -/
  | vfsub (o : LaneOp)
  /-- `VFMUL` (R225). -/
  | vfmul (o : LaneOp)
  /-- `VFMA` (R225). -/
  | vfma (o : LaneOp)
  /-- `VFMIN` (R225). -/
  | vfmin (o : LaneOp)
  /-- `VFMAX` (R225). -/
  | vfmax (o : LaneOp)
  /-- `VFCMP` (R224). -/
  | vfcmp (o : LaneOp)
  /-- `VFCLASS` (R226). -/
  | vfclass (o : LaneOp)
  /-- `VRCP` (R227). -/
  | vrcp (o : LaneOp)
  /-- `VRSQ` (R227). -/
  | vrsq (o : LaneOp)
  /-- `VSQRT` (R227). -/
  | vsqrt (o : LaneOp)
  /-- `VEXP2` (R227). -/
  | vexp2 (o : LaneOp)
  /-- `VLOG2` (R227). -/
  | vlog2 (o : LaneOp)
  /-- `VSIN` (R227). -/
  | vsin (o : LaneOp)
  /-- `VCOS` (R227). -/
  | vcos (o : LaneOp)
  /-- `VCVT` (R228). -/
  | vcvt (o : LaneOp)
  /-- `VPACK` (R229). -/
  | vpack (o : LaneOp)
  /-- `VUNPK` (R230). -/
  | vunpk (o : LaneOp)
  /-- `VQNT_SCL` (R231). -/
  | vqntScl (o : LaneOp)
  /-- `VQNT` (R231). -/
  | vqnt (o : LaneOp)
  /-- `VDQNT` (R232). -/
  | vdqnt (o : LaneOp)
  /-- `VDOT4` (R233). -/
  | vdot4 (o : LaneOp)
  /-- `VDOT8` (R233). -/
  | vdot8 (o : LaneOp)
  /-- `VSHFL` (R235). -/
  | vshfl (o : LaneOp)
  /-- `VBCST` (R236). -/
  | vbcst (o : LaneOp)
  /-- `VRED` (R237). -/
  | vred (o : LaneOp)
  /-- `VSCAN` (R238). -/
  | vscan (o : LaneOp)
  /-- `VBALT` (R239). -/
  | vbalt (o : LaneOp)
  /-- `VTOS` (R240). -/
  | vtos (o : LaneOp)
  /-- `VLSR` (R241). -/
  | vlsr (o : LaneOp)
  /-- `VLD` (R245). -/
  | vld (o : LaneOp)
  /-- `VST` (R246). -/
  | vst (o : LaneOp)
  /-- `VLDS` (R245). -/
  | vlds (o : LaneOp)
  /-- `VSTS` (R246). -/
  | vsts (o : LaneOp)
  /-- `VLDLK` (R91). -/
  | vldlk (o : LaneOp)
  /-- `VSTUL` (R248). -/
  | vstul (o : LaneOp)
  /-- `VATOM` (R249). -/
  | vatom (o : LaneOp)
  /-- `VFATOM` (R250). -/
  | vfatom (o : LaneOp)
  /-- `VLDU` (R245). -/
  | vldu (o : LaneOp)
  /-- `VPREF` (R247). -/
  | vpref (o : LaneOp)
  /-- `VSETI` (R252). -/
  | vseti (h : LaneHdr) (n : BitVec 2) (v : SetSrc)
  /-- `VINCI` (R253). -/
  | vinci (h : LaneHdr) (n : BitVec 2) (v : IncSrc)
  /-- `VDRAW` (R122). -/
  | vdraw (o : LaneOp)
  /-- `VOUTCOME` (R255). -/
  | voutcome (o : LaneOp)
  /-- `VCALL` (R260). -/
  | vcall (o : LaneOp)
  /-- `VRET` (R261). -/
  | vret (o : LaneOp)
  /-- `VORDB` (R263). -/
  | vordb (o : LaneOp)
  /-- `VORDE` (R263). -/
  | vorde (o : LaneOp)
  /-- `VMCNT` (R264). -/
  | vmcnt (o : LaneOp)
  /-- `VMVTX` (R264). -/
  | vmvtx (o : LaneOp)
  /-- `VMPRIM` (R264). -/
  | vmprim (o : LaneOp)
  /-- `VEXIT` (R265). -/
  | vexit (o : LaneOp)
  /-- `TLD` (R271). -/
  | tld (o : LaneOp)
  /-- `TST` (R271). -/
  | tst (o : LaneOp)
  /-- `TZERO` (R273). -/
  | tzero (o : LaneOp)
  /-- `TMMA` (R276). -/
  | tmma (o : LaneOp)
  /-- `TMMAS` (R276). -/
  | tmmas (o : LaneOp)
  /-- `TTOV` (R278). -/
  | ttov (o : LaneOp)
  /-- `VTOT` (R278). -/
  | vtot (o : LaneOp)
  /-- `ATOV` (R278). -/
  | atov (o : LaneOp)
  /-- `VTOA` (R278). -/
  | vtoa (o : LaneOp)
  /-- `STAGE` (R279). -/
  | stage (o : LaneOp)
  /-- `CPYRED` (R280). -/
  | cpyred (o : LaneOp)
  /-- `CPYNET` (R283). -/
  | cpynet (o : LaneOp)
  /-- `RTRACE` (R284). -/
  | rtrace (o : LaneOp)
  /-- `RTRACE_SHADE` (R286). -/
  | rtraceShade (o : LaneOp)
  /-- `REPLAY` (R287). -/
  | replay (o : LaneOp)
  /-- `RRES` (R288). -/
  | rres (o : LaneOp)
  /-- `TRAVERSAL_STEP` (R290). -/
  | traversalStep (ray core : Nat)
  /-- `RAY_RESUME` (R152). -/
  | rayResume (ray core : Nat)
  /-- `CALLBACK_RESUME` (R305). -/
  | callbackResume (ray : Nat)
  /-- `RAY_COUNT` (R285). -/
  | rayCount (ray : Nat)
  /-- `HIT_DELIVERY` (R153). -/
  | hitDelivery (ray : Nat)
  /-- `ISSUE` (R34). -/
  | issue (u : IssueUnit) (soft : Option Word)
  /-- `PROMOTION` (R34). -/
  | promotion (g : Nat)
  /-- `STORE_PERFORMED` (R109). -/
  | storePerformed (g n : Nat)
  /-- `LONG_LATENCY_WRITE` (R53). -/
  | longLatencyWrite (a : Agent) (n : Nat)
  /-- `ATOMIC_REQUEST` (R98). -/
  | atomicRequest (u n : Nat)
  /-- `ORDER_GATE` (R389). -/
  | orderGate (u n : Nat)
  /-- `VLDLK_RETRY` (R91). -/
  | vldlkRetry (g : Nat)
  /-- `MONITOR_FIRE` (R99). -/
  | monitorFire (a : Agent)
  /-- `SWAGE_HOLD_EXPIRY` (R25). -/
  | swageHoldExpiry (t key : Nat)
  /-- `SWAGE_GROUP_FORMATION` (R25). -/
  | swageGroupFormation (t key : Nat)
  /-- `REGISTER_GRANT` (R46). -/
  | registerGrant (core : Nat)
  /-- `SGROW_DEADLOCK_PREEMPT` (R47). -/
  | sgrowDeadlockPreempt (core : Nat)
  /-- `QUARANTINE_RELEASE` (R48). -/
  | quarantineRelease (core n : Nat)
  /-- `ANVIL_COMMAND_COMPLETE` (R268). -/
  | anvilCommandComplete (g : Nat)
  /-- `GATED_COMMAND_START` (R277). -/
  | gatedCommandStart (g : Nat)
  /-- `BARRIER_ARRIVAL` (R400). -/
  | barrierArrival (n : Nat)
  /-- `BARRIER_NOTICE` (R400). -/
  | barrierNotice (n : Nat)
  /-- `COPY_COMPLETE` (R101). -/
  | copyComplete (t n : Nat)
  /-- `COPY_FAULT` (R103). -/
  | copyFault (t n : Nat) (e : CopyErr)
  /-- `REDUCTION_APPLY` (R102). -/
  | reductionApply (l r : Nat)
  /-- `CPYNET_TRANSMIT` (R283). -/
  | cpynetTransmit (t n : Nat)
  /-- `CPYNET_CONFIRM` (R283). -/
  | cpynetConfirm (t n : Nat)
  /-- `CPYNET_FAIL` (R283). -/
  | cpynetFail (t n : Nat)
  /-- `RMA_WRITE_RECEIVE` (R405). -/
  | rmaWriteReceive (job : BitVec 24) (addr : DWord) (data : List Byte)
  /-- `DUSK_RELAUNCH` (R131). -/
  | duskRelaunch (n : Nat)
  /-- `RESULT_WORD` (R132). -/
  | resultWord (n i : Nat)
  /-- `QUENCH` (R251). -/
  | quench (l : Nat)
  /-- `QUEUE_DISPATCH` (R344). -/
  | queueDispatch (c q : Nat)
  /-- `TEAM_PLACEMENT` (R347). -/
  | teamPlacement (l core : Nat)
  /-- `LAUNCH_COMPLETE` (R345). -/
  | launchComplete (l : Nat)
  /-- `PAGE_WALK` (R358). -/
  | pageWalk (die n : Nat)
  /-- `FAULT_RECORD` (R363). -/
  | faultRecord (n : Nat)
  /-- `HANDLER_ENTRY` (R330). -/
  | handlerEntry (t : Nat)
  /-- `ORDER_STALL` (R147). -/
  | orderStall (g : Nat)
  /-- `MESH_OUTPUT_CLASSIFY` (R139). -/
  | meshOutputClassify (t : Nat) (tris : List TriInfo)
  /-- `FRAGMENT_QUAD_EMIT` (R142). -/
  | fragmentQuadEmit (l : Nat) (f : FragQuad)
  /-- `PIXEL_TEAM_FORM` (R143). -/
  | pixelTeamForm (l core : Nat)
  /-- `SAMPLE` (R383). -/
  | sample (core sch : Nat)
  /-- `TEAM_STOP` (R384). -/
  | teamStop (t : Nat)
  /-- `RELOCK_COMPLETE` (R395). -/
  | relockComplete (die d : Nat)
  /-- `LEASE_EXPIRED` (R415). -/
  | leaseExpired (slot : Nat)
  /-- `PTP_EVENT_MESSAGE` (R404). -/
  | ptpEventMessage (port die : Nat) (ppm : Int)
  /-- `POOL_ERROR` (R409). -/
  | poolError (port kind : BitVec 4) (dpa : BitVec 56) (v : PoolVictim)
  /-- `LINK_DOWN` (R409). -/
  | linkDown (port : BitVec 4)
  /-- `CORRECTED` (R419). -/
  | corrected (src : Word) (count : Word) (mem : Byte)
  /-- `HEARTH_PATROL_SCRUB` (R419). -/
  | hearthPatrolScrub (die : Nat)
  /-- `POWER` (R420). -/
  | power (watts : BitVec 16) (die : BitVec 2) (mhz : Nat)
  /-- `THERMAL_TRIP` (R420). -/
  | thermalTrip (die : Nat)
  /-- `BOOT` (R416). -/
  | boot
  /-- `RING` (R341). -/
  | ring (q : Req)
  /-- `RESOLVE` (R365). -/
  | resolve (q : Req)
  /-- `UNPARK_CMD` (R376). -/
  | unparkCmd (q : Req)
  /-- `KILLTEAM` (R369). -/
  | killteam (q : Req)
  /-- `KILLLAUNCH` (R369). -/
  | killlaunch (q : Req)
  /-- `SWITCH` (R377). -/
  | switch (q : Req)
  /-- `PREEMPTVF` (R376). -/
  | preemptvf (q : Req)
  /-- `HALTSVC` (R368). -/
  | haltsvc (q : Req)
  /-- `RESUMESVC` (R368). -/
  | resumesvc (q : Req)
  /-- `TRACE` (R379). -/
  | trace (q : Req)
  /-- `RRSET` (R387). -/
  | rrset (q : Req)
  /-- `PROFOPEN` (R385). -/
  | profopen (q : Req)
  /-- `PROFREAD` (R385). -/
  | profread (q : Req)
  /-- `PROFCLOSE` (R385). -/
  | profclose (q : Req)
  /-- `CLKSET` (R395). -/
  | clkset (q : Req)
  /-- `PARTCFG` (R375). -/
  | partcfg (q : Req)
  /-- `HEARTHCFG` (R355). -/
  | hearthcfg (q : Req)
  /-- `POOLCFG` (R408). -/
  | poolcfg (q : Req)
  /-- `PEERSET` (R405). -/
  | peerset (q : Req)
  /-- `NETADMIT` (R406). -/
  | netadmit (q : Req)
  /-- `ASIDSET` (R353). -/
  | asidset (q : Req)
  /-- `CTXCREATE` (R411). -/
  | ctxcreate (q : Req)
  /-- `FEATNEG` (R413). -/
  | featneg (q : Req)
  /-- `ATTEST` (R418). -/
  | attest (q : Req)
  /-- `IMGSTAGE` (R417). -/
  | imgstage (q : Req)
  /-- `POWERCAP` (R420). -/
  | powercap (q : Req)
  /-- `LEASE` (R412). -/
  | lease (q : Req)
  /-- `UNLEASE` (R412). -/
  | unlease (q : Req)
  /-- `UNKNOWN_SERVICE_COMMAND` (R411). -/
  | unknownServiceCommand (q : Req)
  /-- `RING_HEAD_ADVANCE` (R363). -/
  | ringHeadAdvance (r : RingId) (head : Word)
  /-- `LINK_STATE_CHANGE` (R415). -/
  | linkStateChange (cxl : Bool) (port : BitVec 4) (st : LinkState)
  deriving DecidableEq, Repr

end Sys2Proof
end

