-- ==== Sys2Proof/Machine/Rules.lean ====
section
/-! DEFINITION. Which operand fields each instruction admits: the tables of R220 to R289 read as rules over `LaneOp`,
and the scalar field limits (R155, R164, R181). A word outside them raises ENC_RESERVED (R164, R167, R168, R217, R218). -/

namespace Sys2Proof.Machine

/-- The zero value of a source field: v0, FE 0, MOD 00. -/
def zeroSrc : Src := ⟨.v 0 false, 0⟩

/-- The zero value of a destination field. -/
def zeroDst : Dst := .v 0

/-- Element width in bits of a format (R63, R67, R72); X8A, X8B and X4 are E4M3, E5M2 and E2M1 elements (R74). -/
def Fmt.width : Fmt → Nat
  | .f32 | .i32 | .n32 => 32
  | .f16 | .b16 | .i16 | .n16 => 16
  | .e4m3 | .e5m2 | .i8 | .n8 | .x8a | .x8b => 8
  | .e2m1 | .x4 => 4
  | .i64 | .n64 => 64

/-- The element format of a block format (R74). -/
def Fmt.elem : Fmt → Fmt
  | .x8a => .e4m3 | .x8b => .e5m2 | .x4 => .e2m1 | f => f

/-- Whether a format is a floating-point one. -/
def Fmt.isFloat : Fmt → Bool
  | .f32 | .f16 | .b16 | .e4m3 | .e5m2 | .e2m1 | .x8a | .x8b | .x4 => true
  | _ => false

/-- Whether a format is a signed integer. -/
def Fmt.isI : Fmt → Bool
  | .i8 | .i16 | .i32 | .i64 => true
  | _ => false

/-- Elements of a format in one 32-bit word (R64), 1 for the wider formats. -/
def Fmt.count (f : Fmt) : Nat := if 32 ≤ Fmt.width f then 1 else 32 / Fmt.width f

/-- Registers an operand of a format takes (R169). -/
def Fmt.regs (f : Fmt) : Nat := if Fmt.width f = 64 then 2 else 1

/-- How an instruction reads a source (R168). -/
inductive ReadKind | flt | int | raw
  deriving DecidableEq, Repr

/-- R167, R169, R242: the register a source names exists and may hold `n` words; `queue` false bars queues (R234).
A queue element and an index register hold 32 bits, so neither names a pair (log entry 6). -/
def srcRegOk (n : Nat) (queue : Bool) : SrcReg → Bool
  | .v i _ => i.toNat < 240 && i.toNat % n == 0
  | .q _ => n == 1 && queue
  | .i _ => n == 1
  | .w k => k.toNat % n == 0
  | .z _ => n == 1
  | .s _ _ => n ≤ 2
  | .vi _ _ _ => true

/-- R168: the modifiers each reading admits. -/
def modOk (k : ReadKind) (m : BitVec 2) : Bool :=
  match k with
  | .flt => true
  | .int => m != 3
  | .raw => m == 0

/-- A source an instruction uses. -/
structure SrcRule where
  kind : ReadKind
  n : Nat
  queue : Bool
  deriving DecidableEq, Repr

/-- What a source field must satisfy; `none` is an unused field (R164). -/
def srcOk (r : Option SrcRule) (s : Src) : Bool :=
  match r with
  | none => s == zeroSrc
  | some r => srcRegOk r.n r.queue s.reg && modOk r.kind s.mod

/-- How an instruction uses DST: not at all, as any destination of `n` words, or as a main-file one (R216, R243). -/
inductive DstRule
  | unused
  | any (n : Nat)
  | main (n : Nat)
  deriving DecidableEq, Repr

/-- What a destination field must satisfy (R167, R169, R216, R243). -/
def dstOk : DstRule → Dst → Bool
  | .unused, d => d == zeroDst
  | .any n, .v i => i.toNat < 240 && i.toNat % n == 0
  | .any n, .q _ => n == 1
  | .any n, .w k => k.toNat % n == 0
  | .any _, .vi _ _ => true
  | .main n, .v i => i.toNat < 240 && i.toNat % n == 0
  | .main _, .vi _ _ => true
  | .main _, _ => false

/-- One row of an instruction table: sources, destination, formats, option fields and the XF bits it uses. -/
structure LaneRule where
  a : Option SrcRule := none
  b : Option SrcRule := none
  c : Option SrcRule := none
  d : DstRule := .unused
  fmts : List Fmt := [.f32]
  rnd : Bool := false
  sat : Bool := false
  xfMask : BitVec 13 := 0
  extra : Bool := true
  deriving DecidableEq, Repr

/-- R164, R217, R218: the operands obey the row. -/
def LaneRule.ok (r : LaneRule) (o : LaneOp) : Bool :=
  srcOk r.a o.a && srcOk r.b o.b && srcOk r.c o.c && dstOk r.d o.d && r.fmts.contains o.fmt &&
  (r.rnd || o.rnd == .rne) && (r.sat || !o.sat) && (o.xf &&& ~~~r.xfMask == 0) && r.extra

/-- A bit of XF. -/
def LaneOp.xbit (o : LaneOp) (k : Nat) : Bool := o.xf.getLsbD k

/-- A field of XF: bits lo + n - 1 down to lo. -/
def LaneOp.xfield (o : LaneOp) (lo n : Nat) : Nat := o.xf.toNat / 2 ^ lo % 2 ^ n

/-- XF[12] = CAP (R218). -/
def LaneOp.cap (o : LaneOp) : Bool := LaneOp.xbit o 12

/-- Source rules by reading. -/
def rInt (n : Nat) : Option SrcRule := some ⟨.int, n, true⟩
def rFlt : Option SrcRule := some ⟨.flt, 1, true⟩
def rRaw (n : Nat) : Option SrcRule := some ⟨.raw, n, true⟩

/-- Reading of a packed or single element of a format (R217). -/
def rFmt (f : Fmt) : Option SrcRule := some ⟨if Fmt.isFloat f then .flt else .int, Fmt.regs f, true⟩

/-- The formats with codes 6-13, 10-13 and 6-9. -/
def intFmts : List Fmt := [.i8, .i16, .i32, .i64, .n8, .n16, .n32, .n64]
def narrowIntFmts : List Fmt := [.i8, .i16, .i32, .n8, .n16, .n32]

/-- R220. -/
def ruleInt2 (fmts : List Fmt) (opt : Bool) (o : LaneOp) : LaneRule :=
  { a := rInt (Fmt.regs o.fmt), b := rInt (Fmt.regs o.fmt), d := .any (Fmt.regs o.fmt), fmts := fmts, sat := opt,
    xfMask := if opt then 0x1000 else 0 }

/-- R220, VMAD. -/
def ruleInt3 (o : LaneOp) : LaneRule := { ruleInt2 narrowIntFmts true o with c := rInt (Fmt.regs o.fmt) }

/-- R221: VAND, VOR, VXOR. -/
def ruleLogic2 : LaneRule := { a := rInt 1, b := rInt 1, d := .any 1 }

/-- R221: VPOPC, VCLZ. -/
def ruleLogic1 : LaneRule := { a := rInt 1, d := .any 1 }

/-- R221, R222: VLOP3. -/
def ruleLop3 : LaneRule := { a := rInt 1, b := rInt 1, c := rInt 1, d := .any 1, xfMask := 0xFF }

/-- R221: POS and LEN of VBFE and VBFI. -/
def bfPos (o : LaneOp) : Nat := LaneOp.xfield o 0 5
def bfLen (o : LaneOp) : Nat := LaneOp.xfield o 5 6
def bfOk (o : LaneOp) : Bool := bfLen o != 0 && bfLen o ≤ 32 && bfPos o + bfLen o ≤ 32

/-- R221: VBFE. -/
def ruleBfe (o : LaneOp) : LaneRule := { a := rInt 1, d := .any 1, xfMask := 0xFFF, extra := bfOk o }

/-- R221: VBFI. -/
def ruleBfi (o : LaneOp) : LaneRule := { a := rInt 1, b := rInt 1, d := .any 1, xfMask := 0x7FF, extra := bfOk o }

/-- R221: VSEL. -/
def ruleSel : LaneRule := { a := rRaw 1, b := rRaw 1, d := .any 1, xfMask := 0xF }

/-- R221: VMOV, XF[0] = W64. -/
def ruleMov (o : LaneOp) : LaneRule :=
  let n := if LaneOp.xbit o 0 then 2 else 1
  { a := rRaw n, d := .any n, xfMask := 1 }

/-- R224: VCMP and VFCMP, with the number of conditions. -/
def ruleCmp (flt : Bool) (o : LaneOp) : LaneRule :=
  { a := if flt then rFlt else rInt (Fmt.regs o.fmt), b := if flt then rFlt else rInt (Fmt.regs o.fmt),
    d := if LaneOp.xbit o 7 then .any 1 else .unused,
    fmts := if flt then [.f32, .f16, .b16] else [.i32, .i64, .n32, .n64], xfMask := 0xFF,
    extra := decide (LaneOp.xfield o 3 4 < (if flt then 4 else 6)) && (LaneOp.xbit o 7 || LaneOp.xfield o 0 3 != 0) }

/-- R225: two- and three-operand floating-point arithmetic; `opt` admits RND, SAT and CAP. -/
def ruleFlt (nsrc : Nat) (opt : Bool) : LaneRule :=
  { a := rFlt, b := if 2 ≤ nsrc then rFlt else none, c := if 3 ≤ nsrc then rFlt else none, d := .any 1,
    fmts := [.f32, .f16, .b16], rnd := opt, sat := opt, xfMask := if opt then 0x1000 else 0 }

/-- R227. -/
def ruleSfu : LaneRule := { a := rFlt, d := .any 1, rnd := true, sat := true, xfMask := 0x1000 }

/-- The format of a 5-bit code (R72). -/
def fmtOfCode : Nat → Option Fmt
  | 0 => some .f32 | 1 => some .f16 | 2 => some .b16 | 3 => some .e4m3 | 4 => some .e5m2 | 5 => some .e2m1
  | 6 => some .i8 | 7 => some .i16 | 8 => some .i32 | 9 => some .i64 | 10 => some .n8 | 11 => some .n16
  | 12 => some .n32 | 13 => some .n64 | 14 => some .x8a | 15 => some .x8b | 16 => some .x4
  | _ => none

/-- R228: the permitted pairs (source, destination). -/
def cvtOk (f t : Fmt) : Bool :=
  let small : List Fmt := [.f32, .f16, .b16, .e4m3, .e5m2, .e2m1]
  let big : List Fmt := [.f32, .f16, .b16]
  (small.contains f && small.contains t) || (big.contains f && intFmts.contains t) ||
  (intFmts.contains f && big.contains t) || (intFmts.contains f && intFmts.contains t)

/-- R228: VCVT, XF[4:0] the source code. -/
def cvtFrom (o : LaneOp) : Fmt := (fmtOfCode (LaneOp.xfield o 0 5)).getD .x4

def ruleCvt (o : LaneOp) : LaneRule :=
  { a := rFmt (cvtFrom o), d := .any (Fmt.regs o.fmt),
    fmts := [.f32, .f16, .b16, .e4m3, .e5m2, .e2m1, .i8, .i16, .i32, .i64, .n8, .n16, .n32, .n64],
    rnd := true, sat := true, xfMask := 0x101F, extra := cvtOk (cvtFrom o) o.fmt }

/-- Formats of VPACK and VUNPK (R229, R230). -/
def packFmts : List Fmt := [.f16, .b16, .e4m3, .e5m2, .e2m1, .i8, .i16, .n8, .n16]

/-- R229. -/
def rulePack (o : LaneOp) : LaneRule :=
  let k := if Fmt.isFloat o.fmt then rFlt else rInt 1
  { a := k, b := k, c := rRaw 1, d := .any 1, fmts := packFmts, rnd := true, sat := true, xfMask := 0x1003,
    extra := decide (LaneOp.xfield o 0 2 < Fmt.count o.fmt / 2) }

/-- R230. -/
def ruleUnpk (o : LaneOp) : LaneRule :=
  { a := rFmt o.fmt, d := .any 1, fmts := packFmts, xfMask := 7, extra := decide (LaneOp.xfield o 0 3 < Fmt.count o.fmt) }

/-- R231: the scale form. -/
def ruleQntScl (o : LaneOp) : LaneRule :=
  { a := rFlt, d := .any 1, fmts := [.x8a, .x8b, .x4], xfMask := 0x1008, extra := LaneOp.xbit o 3 }

/-- R231: the element form. -/
def ruleQnt (o : LaneOp) : LaneRule :=
  { a := rFlt, b := rRaw 1, c := rRaw 1, d := .any 1, fmts := [.x8a, .x8b, .x4], rnd := true, sat := true,
    xfMask := 0x1007, extra := decide (LaneOp.xfield o 0 3 < Fmt.count o.fmt) }

/-- R232. -/
def ruleDqnt (o : LaneOp) : LaneRule :=
  { a := rFmt o.fmt, b := rRaw 1, d := .any 1, fmts := [.x8a, .x8b, .x4], rnd := true, sat := true, xfMask := 0x1007,
    extra := decide (LaneOp.xfield o 0 3 < Fmt.count o.fmt) }

/-- R233: the format of the b elements. -/
def dotB (o : LaneOp) : Fmt := (fmtOfCode (LaneOp.xfield o 0 5)).getD .x4

/-- R233: VDOT4. -/
def ruleDot4 (o : LaneOp) : LaneRule :=
  let f : List Fmt := [.e4m3, .e5m2]
  let n : List Fmt := [.i8, .n8]
  { a := rFmt o.fmt, b := rFmt (dotB o), c := if Fmt.isFloat o.fmt then rFlt else rInt 1, d := .any 1, fmts := f ++ n,
    sat := !Fmt.isFloat o.fmt, xfMask := 0x101F,
    extra := (f.contains o.fmt && f.contains (dotB o)) || (n.contains o.fmt && n.contains (dotB o)) }

/-- R233: VDOT8. -/
def ruleDot8 (o : LaneOp) : LaneRule :=
  { a := rFlt, b := rFlt, c := rFlt, d := .any 1, fmts := [.e2m1], xfMask := 0x101F, extra := dotB o == .e2m1 }

/-- R234: a cross-lane source, which no queue may be. -/
def rCross (k : ReadKind) : Option SrcRule := some ⟨k, 1, false⟩

/-- R235. -/
def ruleShfl (o : LaneOp) : LaneRule :=
  let idx := LaneOp.xfield o 0 2 == 0
  { a := rCross .raw, b := if idx then rRaw 1 else none, d := .any 1, xfMask := if idx then 3 else 0x7F }

/-- R236. -/
def ruleBcst : LaneRule := { a := rCross .raw, d := .any 1, xfMask := 0x1F }

/-- R237, R238, R240: an option-field limit shared by VRED, VSCAN and VTOS; `op` 0 is ADD and 6 FIRST. -/
def redOk (op : Nat) (o : LaneOp) : Bool :=
  (o.rnd == .rne || (op == 0 && o.fmt == .f32)) && (!o.sat || op == 0) && (!LaneOp.cap o || op == 0) &&
  (op < 3 || 6 ≤ op || o.fmt == .n32)

/-- R237. -/
def ruleRed (o : LaneOp) : LaneRule :=
  { a := rCross (if o.fmt == .f32 then .flt else .int), d := .any 1, fmts := [.f32, .i32, .n32], rnd := true, sat := true,
    xfMask := 0x1007, extra := redOk (LaneOp.xfield o 0 3) o && decide (LaneOp.xfield o 0 3 < 6) }

/-- R238. -/
def ruleScan (o : LaneOp) : LaneRule := { ruleRed o with xfMask := 0x100F }

/-- R239. -/
def ruleBalt : LaneRule := { a := rCross .int, d := .any 1 }

/-- R240. -/
def ruleTos (o : LaneOp) : LaneRule :=
  { a := rCross (if o.fmt == .f32 then .flt else .int), fmts := [.f32, .i32, .n32], rnd := true, sat := true, xfMask := 0x11FF,
    extra := redOk (LaneOp.xfield o 6 3) o && decide (LaneOp.xfield o 6 3 < 7) }

/-- R241. -/
def ruleLsr (o : LaneOp) : LaneRule := { d := .any 1, xfMask := 0xF, extra := decide (LaneOp.xfield o 0 4 < 6) }

/-! ### Memory instructions (R242, R243) -/

/-- XF fields of R242. -/
def memSz (o : LaneOp) : Nat := LaneOp.xfield o 0 3
def memSx (o : LaneOp) : Bool := LaneOp.xbit o 3
def memOfs (o : LaneOp) : Bool := LaneOp.xbit o 4
def memSh (o : LaneOp) : Nat := LaneOp.xfield o 5 2
def memCh (o : LaneOp) : Nat := LaneOp.xfield o 7 2
def memOp (o : LaneOp) : Nat := LaneOp.xfield o 7 4
def memRet (o : LaneOp) : Bool := LaneOp.xbit o 11

/-- Bytes of an access (R242). -/
def memBytes (o : LaneOp) : Nat := 2 ^ memSz o

/-- Registers of a B8 to B128 operand. -/
def memRegs (o : LaneOp) : Nat := if memSz o ≤ 2 then 1 else if memSz o = 3 then 2 else 4

/-- An offset the word does not use leaves its shift unused too (R164; log entry 7). -/
def ofsOk (o : LaneOp) : Bool := memOfs o || memSh o == 0

/-- Loads and stores: global or not, sizes, SX, CH, load or store (R243). -/
def ruleMem (glob : Bool) (szs : List Nat) (sx : Bool) (chs : List Nat) (load store : Bool) (o : LaneOp) : LaneRule :=
  { a := rRaw (if glob then 2 else 1), b := if memOfs o then rRaw 1 else none, c := if store then rRaw (memRegs o) else none,
    d := if load then .main (memRegs o) else .unused, xfMask := 0x1FF,
    extra := szs.contains (memSz o) && (!memSx o || (sx && memSz o < 2)) && chs.contains (memCh o) && ofsOk o }

def ruleVld := ruleMem true [0, 1, 2, 3, 4] true [0, 1] true false
def ruleVst := ruleMem true [0, 1, 2, 3, 4] false [0] false true
def ruleVlds := ruleMem false [0, 1, 2, 3, 4] true [0] true false
def ruleVsts := ruleMem false [0, 1, 2, 3, 4] false [0] false true
def ruleVldlk := ruleMem false [2] false [0] true false
def ruleVstul := ruleMem false [2] false [0] false true
def ruleVpref := ruleMem true [0] false [0, 2] false false

/-- R245: VLDU takes its address from a scalar snapshot. -/
def ruleVldu (o : LaneOp) : LaneRule :=
  let r := ruleMem true [0, 1, 2, 3] true [0, 1] true false o
  { r with extra := r.extra && !memOfs o && (match o.a.reg with | .s _ _ => true | _ => false) }

/-- R249, R250: VATOM (`ops` 10) and VFATOM (`ops` 3). -/
def ruleVatom (szs : List Nat) (ops : Nat) (o : LaneOp) : LaneRule :=
  let cas := ops == 10 && memOp o == 9
  { a := rRaw (if memSx o then 1 else 2), b := if memOfs o then rRaw 1 else none,
    c := rRaw (if cas then 2 * memRegs o else memRegs o), d := if memRet o then .main (memRegs o) else .unused,
    xfMask := 0xFFF, extra := szs.contains (memSz o) && decide (memOp o < ops) && ofsOk o }

/-! ### The rest of 11_lane_memory_and_control_instructions.md -/

/-- R254. -/
def ruleDraw (o : LaneOp) : LaneRule := { d := .main 1, xfMask := 0xFFF, extra := decide (LaneOp.xfield o 0 12 < 4094) }

/-- R255. -/
def ruleOutcome : LaneRule := { a := rFlt }

/-- R258: KEYZ is XF[12]. -/
def ruleCall (call : Bool) (o : LaneOp) : LaneRule :=
  { a := if call then rInt 1 else none, b := if LaneOp.xbit o 12 then none else rRaw 1, c := if call then rInt 1 else none,
    xfMask := 0x1FFF }

/-- R263, R265, R279: no operand field. -/
def ruleBare : LaneRule := {}

/-- R264: VMCNT and VMPRIM; VMVTX has k in XF[5:0]. -/
def ruleMesh (mask : BitVec 13) : LaneRule := { a := rRaw 1, b := rRaw 1, xfMask := mask }

/-! ### Matrix and engine commands -/

/-- Whether a source is a scalar snapshot. -/
def isSnap (s : Src) : Bool := match s.reg with | .s _ _ => true | _ => false

/-- R270. -/
def ruleTld (o : LaneOp) : LaneRule :=
  { a := rRaw 2, b := rRaw 1, xfMask := 0x1F, extra := isSnap o.a && isSnap o.b && (!LaneOp.xbit o 3 || !LaneOp.xbit o 2) }

/-- R273. -/
def ruleTzero (o : LaneOp) : LaneRule := { xfMask := 0xF, extra := !LaneOp.xbit o 3 || !LaneOp.xbit o 2 }

/-- R274: a scale operand's class and index. -/
def scaleOk (s : Src) : Bool :=
  s.mod == 0 && (match s.reg with
    | .v i _ => i.toNat < 240 && i.toNat % 2 == 0
    | .w k => k.toNat % 2 == 0
    | .vi _ _ _ => true
    | _ => false)

/-- R274. SAT is judged against the format word at issue, so every value decodes. -/
def ruleTmma (o : LaneOp) : LaneRule :=
  { a := some ⟨.raw, 1, false⟩, b := rRaw 2, c := rRaw 2, sat := true, xfMask := 0x17FF, extra := scaleOk o.b && scaleOk o.c }

/-- Block counts of SGROW and SSHRINK (R213). -/
def growOk (b : BitVec 10) : Bool := decide (1 ≤ b.toNat ∧ b.toNat ≤ 15)

/-- R202: the levels 0 and 1 are no barrier's. -/
def barLevelOk (level : BitVec 3) : Bool := 2 ≤ level.toNat

/-- R278: the moves; `tile` selects the tile layout, `load` a move to lanes. -/
def ruleTmov (tile load : Bool) (o : LaneOp) : LaneRule :=
  let q := LaneOp.xbit o 8
  let k := if tile then LaneOp.xfield o 3 4 else LaneOp.xfield o 3 5
  { c := if load then none else rRaw (if q then 4 else 1), d := if load then .main (if q then 4 else 1) else .unused,
    xfMask := if tile then 0x1FF else 0x1FB, extra := !q || k % 4 == 0 }

/-- R280: op 3 is reserved; SAT is honoured for integer ADD only. -/
def ruleCpyred (o : LaneOp) : LaneRule :=
  { a := rRaw 2, b := rRaw 1, fmts := [.f32, .f16, .b16, .i32, .i64, .n32, .n64], xfMask := 3,
    sat := !Fmt.isFloat o.fmt && LaneOp.xfield o 0 2 == 0,
    extra := isSnap o.a && isSnap o.b && LaneOp.xfield o 0 2 != 3 }

/-- R282. -/
def ruleCpynet (o : LaneOp) : LaneRule := { a := rRaw 2, b := rRaw 2, extra := isSnap o.a && isSnap o.b }

/-- R284: `shade` is DELIV = 1. -/
def ruleRtrace (shade : Bool) (o : LaneOp) : LaneRule :=
  { a := rRaw 2, b := rRaw 2, c := if shade then rInt 1 else none, xfMask := if shade then 0x1FFF else 3,
    extra := isSnap o.b && LaneOp.xfield o 0 2 == (if shade then 1 else 0) }

/-- R287. -/
def ruleReplay (o : LaneOp) : LaneRule := { a := rRaw 2, extra := isSnap o.a }

/-- R288. -/
def ruleRres : LaneRule := { d := .main 1 }

/-- R253, R252: the register forms read raw bits. -/
def setSrcOk : SetSrc → Bool
  | .reg a => srcOk (rRaw 1) a
  | .imm _ _ => true

def incSrcOk : IncSrc → Bool
  | .reg a => srcOk (rRaw 1) a
  | .imm _ => true

/-! ### Scalar fields -/

/-- R181: with W = 0, U = 1 is accepted only by ADD, SUB, MUL, MULH, DIV, REM, MIN, MAX and SLT. -/
def intFOk (unsigned : Bool) (f : IntF) : Bool := !f.u || f.w || unsigned

/-- R157: mask codes 41 and 42 are no destinations. -/
def maskDstOk : MaskOp → Bool
  | .xm | .flm => false
  | _ => true

/-- R60: the level registers are crd2-crd7. -/
def sregOk : SpecialReg → Bool
  | .crd l => 2 ≤ l.toNat
  | _ => true

/-- R200: CAS names an even D. -/
def atomOk (op : AtomOp) (d : SReg) : Bool := op != .cas || d.toNat % 2 == 0

/-- R209. -/
def schunkOk (d : SReg) : Bool := d.toNat % 2 == 0 && 2 ≤ d.toNat

/-- R332: a target pair names an even A. -/
def pairOk (a : SReg) : Bool := a.toNat % 2 == 0

end Sys2Proof.Machine
end

