-- ==== Sys2Proof/WellFormed.lean ====
section
/-! DEFINITION. Well-formed instructions: what a word may hold in its fields (R155, R160, R164, R181, R217, R218 and the
tables of each instruction, read in Machine/Rules.lean). A word outside its row raises ENC_RESERVED. The steps that are
no words carry no such limit. -/

namespace Sys2Proof

/-- R411: the codes of the service commands. -/
def commandCode (c : Nat) : Bool := (1 ≤ c && c ≤ 0x0E) || (0x10 ≤ c && c ≤ 0x1D)

open Sys2Proof.Machine in
/-- An instruction whose fields obey its row of the spec. -/
def Instr.wf : Instr → Bool
  | .pfx _ _ _ => true
  | .nop => true
  | .trap _ => true
  | .brk _ => true
  | .add f _ _ _ => intFOk true f
  | .sub f _ _ _ => intFOk true f
  | .mul f _ _ _ => intFOk true f
  | .mulh f _ _ _ => intFOk true f
  | .div f _ _ _ => intFOk true f
  | .rem f _ _ _ => intFOk true f
  | .min f _ _ _ => intFOk true f
  | .max f _ _ _ => intFOk true f
  | .slt f _ _ _ => intFOk true f
  | .seq f _ _ _ => intFOk false f
  | .and f _ _ _ => intFOk false f
  | .or f _ _ _ => intFOk false f
  | .xor f _ _ _ => intFOk false f
  | .shl f _ _ _ => intFOk false f
  | .shr f _ _ _ => intFOk false f
  | .sar f _ _ _ => intFOk false f
  | .mov _ _ => true
  | .addi _ _ _ => true
  | .andi _ _ _ => true
  | .ori _ _ _ => true
  | .xori _ _ _ => true
  | .shli _ _ _ => true
  | .shri _ _ _ => true
  | .sari _ _ _ => true
  | .slti _ _ _ => true
  | .movl _ _ => true
  | .movh _ _ => true
  | .addl f _ _ _ => intFOk false f
  | .fadd _ _ _ _ => true
  | .fsub _ _ _ _ => true
  | .fmul _ _ _ _ => true
  | .fma _ _ _ _ => true
  | .fdiv _ _ _ _ => true
  | .fsqrt _ _ _ => true
  | .fmin _ _ _ _ => true
  | .fmax _ _ _ _ => true
  | .fcmp _ _ _ _ _ => true
  | .fcvt _ _ _ => true
  | .br _ => true
  | .brc _ _ _ => true
  | .brm _ _ _ => true
  | .call _ => true
  | .callr _ => true
  | .ret => true
  | .exit => true
  | .lrun _ _ _ => true
  | .mmov d _ => maskDstOk d
  | .mand d _ _ => maskDstOk d
  | .mor d _ _ => maskDstOk d
  | .mxor d _ _ => maskDstOk d
  | .mandn d _ _ => maskDstOk d
  | .mcnt _ _ => true
  | .join _ => true
  | .region _ => true
  | .ld sz sx _ _ _ _ => !(sx && sz == .b64)
  | .st _ _ _ _ _ => true
  | .atom op _ _ d _ _ => atomOk op d
  | .srd _ n => sregOk n
  | .swr n _ => sregOk n
  | .bara level _ => barLevelOk level
  | .barw _ level _ => barLevelOk level
  | .bar _ level _ => barLevelOk level
  | .efence => true
  | .mfence _ _ _ => true
  | .arm _ _ _ => true
  | .waitm => true
  | .yield _ => true
  | .schunk d _ _ => schunkOk d
  | .ringp _ => true
  | .ringg _ => true
  | .qcfg _ _ _ => true
  | .stcfg _ _ => true
  | .sgrow b => growOk b
  | .sshrink b => growOk b
  | .sysrd _ _ => true
  | .syswr _ _ => true
  | .eret => true
  | .l1inv all a => !all || a == 0
  | .park _ a => pairOk a
  | .unpark _ a => pairOk a
  | .halt _ a => pairOk a
  | .resume _ a => pairOk a
  | .ctxsv _ a _ => pairOk a
  | .ctxld _ a _ => pairOk a
  | .preempt _ _ _ => true
  | .semacq _ _ _ => true
  | .semrel _ _ => true
  | .svc _ => true
  | .tlbiv _ _ => true
  | .tlbia all a => !all || a == 0
  | .vadd o => LaneRule.ok (ruleInt2 intFmts true o) o
  | .vsub o => LaneRule.ok (ruleInt2 intFmts true o) o
  | .vmul o => LaneRule.ok (ruleInt2 narrowIntFmts true o) o
  | .vmulh o => LaneRule.ok (ruleInt2 [.i16, .i32, .n16, .n32] false o) o
  | .vmad o => LaneRule.ok (ruleInt3 o) o
  | .vmin o => LaneRule.ok (ruleInt2 intFmts false o) o
  | .vmax o => LaneRule.ok (ruleInt2 intFmts false o) o
  | .vshl o => LaneRule.ok (ruleInt2 [.n8, .n16, .n32, .n64] false o) o
  | .vshr o => LaneRule.ok (ruleInt2 [.n8, .n16, .n32, .n64] false o) o
  | .vsar o => LaneRule.ok (ruleInt2 [.i8, .i16, .i32, .i64] false o) o
  | .vand o => LaneRule.ok (ruleLogic2) o
  | .vor o => LaneRule.ok (ruleLogic2) o
  | .vxor o => LaneRule.ok (ruleLogic2) o
  | .vlop3 o => LaneRule.ok (ruleLop3) o
  | .vbfe o => LaneRule.ok (ruleBfe o) o
  | .vbfi o => LaneRule.ok (ruleBfi o) o
  | .vpopc o => LaneRule.ok (ruleLogic1) o
  | .vclz o => LaneRule.ok (ruleLogic1) o
  | .vsel o => LaneRule.ok (ruleSel) o
  | .vmov o => LaneRule.ok (ruleMov o) o
  | .vmovi _ d _ => dstOk (.any 1) d
  | .vcmp o => LaneRule.ok (ruleCmp false o) o
  | .vfadd o => LaneRule.ok (ruleFlt 2 true) o
  | .vfsub o => LaneRule.ok (ruleFlt 2 true) o
  | .vfmul o => LaneRule.ok (ruleFlt 2 true) o
  | .vfma o => LaneRule.ok (ruleFlt 3 true) o
  | .vfmin o => LaneRule.ok (ruleFlt 2 false) o
  | .vfmax o => LaneRule.ok (ruleFlt 2 false) o
  | .vfcmp o => LaneRule.ok (ruleCmp true o) o
  | .vfclass o => LaneRule.ok (ruleFlt 1 false) o
  | .vrcp o => LaneRule.ok (ruleSfu) o
  | .vrsq o => LaneRule.ok (ruleSfu) o
  | .vsqrt o => LaneRule.ok (ruleSfu) o
  | .vexp2 o => LaneRule.ok (ruleSfu) o
  | .vlog2 o => LaneRule.ok (ruleSfu) o
  | .vsin o => LaneRule.ok (ruleSfu) o
  | .vcos o => LaneRule.ok (ruleSfu) o
  | .vcvt o => LaneRule.ok (ruleCvt o) o
  | .vpack o => LaneRule.ok (rulePack o) o
  | .vunpk o => LaneRule.ok (ruleUnpk o) o
  | .vqntScl o => LaneRule.ok (ruleQntScl o) o
  | .vqnt o => LaneRule.ok (ruleQnt o) o
  | .vdqnt o => LaneRule.ok (ruleDqnt o) o
  | .vdot4 o => LaneRule.ok (ruleDot4 o) o
  | .vdot8 o => LaneRule.ok (ruleDot8 o) o
  | .vshfl o => LaneRule.ok (ruleShfl o) o
  | .vbcst o => LaneRule.ok (ruleBcst) o
  | .vred o => LaneRule.ok (ruleRed o) o
  | .vscan o => LaneRule.ok (ruleScan o) o
  | .vbalt o => LaneRule.ok (ruleBalt) o
  | .vtos o => LaneRule.ok (ruleTos o) o
  | .vlsr o => LaneRule.ok (ruleLsr o) o
  | .vld o => LaneRule.ok (ruleVld o) o
  | .vst o => LaneRule.ok (ruleVst o) o
  | .vlds o => LaneRule.ok (ruleVlds o) o
  | .vsts o => LaneRule.ok (ruleVsts o) o
  | .vldlk o => LaneRule.ok (ruleVldlk o) o
  | .vstul o => LaneRule.ok (ruleVstul o) o
  | .vatom o => LaneRule.ok (ruleVatom [2, 3] 10 o) o
  | .vfatom o => LaneRule.ok (ruleVatom [2] 3 o) o
  | .vldu o => LaneRule.ok (ruleVldu o) o
  | .vpref o => LaneRule.ok (ruleVpref o) o
  | .vseti _ _ v => setSrcOk v
  | .vinci _ _ v => incSrcOk v
  | .vdraw o => LaneRule.ok (ruleDraw o) o
  | .voutcome o => LaneRule.ok (ruleOutcome) o
  | .vcall o => LaneRule.ok (ruleCall true o) o
  | .vret o => LaneRule.ok (ruleCall false o) o
  | .vordb o => LaneRule.ok (ruleBare) o
  | .vorde o => LaneRule.ok (ruleBare) o
  | .vmcnt o => LaneRule.ok (ruleMesh 0) o
  | .vmvtx o => LaneRule.ok (ruleMesh 0x3F) o
  | .vmprim o => LaneRule.ok (ruleMesh 0) o
  | .vexit o => LaneRule.ok (ruleBare) o
  | .tld o => LaneRule.ok (ruleTld o) o
  | .tst o => LaneRule.ok (ruleTld o) o
  | .tzero o => LaneRule.ok (ruleTzero o) o
  | .tmma o => LaneRule.ok (ruleTmma o) o
  | .tmmas o => LaneRule.ok (ruleTmma o) o
  | .ttov o => LaneRule.ok (ruleTmov true true o) o
  | .vtot o => LaneRule.ok (ruleTmov true false o) o
  | .atov o => LaneRule.ok (ruleTmov false true o) o
  | .vtoa o => LaneRule.ok (ruleTmov false false o) o
  | .stage o => LaneRule.ok (ruleBare) o
  | .cpyred o => LaneRule.ok (ruleCpyred o) o
  | .cpynet o => LaneRule.ok (ruleCpynet o) o
  | .rtrace o => LaneRule.ok (ruleRtrace false o) o
  | .rtraceShade o => LaneRule.ok (ruleRtrace true o) o
  | .replay o => LaneRule.ok (ruleReplay o) o
  | .rres o => LaneRule.ok (ruleRres) o
  | .traversalStep _ _ => true
  | .rayResume _ _ => true
  | .callbackResume _ => true
  | .rayCount _ => true
  | .hitDelivery _ => true
  | .issue _ _ => true
  | .promotion _ => true
  | .storePerformed _ _ => true
  | .longLatencyWrite _ _ => true
  | .atomicRequest _ _ => true
  | .orderGate _ _ => true
  | .vldlkRetry _ => true
  | .monitorFire _ => true
  | .swageHoldExpiry _ _ => true
  | .swageGroupFormation _ _ => true
  | .registerGrant _ => true
  | .sgrowDeadlockPreempt _ => true
  | .quarantineRelease _ _ => true
  | .anvilCommandComplete _ => true
  | .gatedCommandStart _ => true
  | .barrierArrival _ => true
  | .barrierNotice _ => true
  | .copyComplete _ _ => true
  | .copyFault _ _ _ => true
  | .reductionApply _ _ => true
  | .cpynetTransmit _ _ => true
  | .cpynetConfirm _ _ => true
  | .cpynetFail _ _ => true
  | .rmaWriteReceive _ _ _ => true
  | .duskRelaunch _ => true
  | .resultWord _ _ => true
  | .quench _ => true
  | .queueDispatch _ _ => true
  | .teamPlacement _ _ => true
  | .launchComplete _ => true
  | .pageWalk _ _ => true
  | .faultRecord _ => true
  | .handlerEntry _ => true
  | .orderStall _ => true
  | .meshOutputClassify _ _ => true
  | .fragmentQuadEmit _ _ => true
  | .pixelTeamForm _ _ => true
  | .sample _ _ => true
  | .teamStop _ => true
  | .relockComplete _ _ => true
  | .leaseExpired _ => true
  | .ptpEventMessage _ _ _ => true
  | .poolError _ _ _ _ => true
  | .linkDown _ => true
  | .corrected _ _ _ => true
  | .hearthPatrolScrub _ => true
  | .power _ _ _ => true
  | .thermalTrip _ => true
  | .boot => true
  | .ring q => q.cmd == 0x01
  | .resolve q => q.cmd == 0x02
  | .unparkCmd q => q.cmd == 0x03
  | .killteam q => q.cmd == 0x04
  | .killlaunch q => q.cmd == 0x05
  | .switch q => q.cmd == 0x06
  | .preemptvf q => q.cmd == 0x07
  | .haltsvc q => q.cmd == 0x08
  | .resumesvc q => q.cmd == 0x09
  | .trace q => q.cmd == 0x0A
  | .rrset q => q.cmd == 0x0B
  | .profopen q => q.cmd == 0x0C
  | .profread q => q.cmd == 0x0D
  | .profclose q => q.cmd == 0x0E
  | .clkset q => q.cmd == 0x10
  | .partcfg q => q.cmd == 0x11
  | .hearthcfg q => q.cmd == 0x12
  | .poolcfg q => q.cmd == 0x13
  | .peerset q => q.cmd == 0x14
  | .netadmit q => q.cmd == 0x15
  | .asidset q => q.cmd == 0x16
  | .ctxcreate q => q.cmd == 0x17
  | .featneg q => q.cmd == 0x18
  | .attest q => q.cmd == 0x19
  | .imgstage q => q.cmd == 0x1A
  | .powercap q => q.cmd == 0x1B
  | .lease q => q.cmd == 0x1C
  | .unlease q => q.cmd == 0x1D
  | .unknownServiceCommand q => !commandCode q.cmd.toNat
  | .ringHeadAdvance _ _ => true
  | .linkStateChange _ _ _ => true

end Sys2Proof
end

