-- ==== Sys2Proof/Decode.lean ====
section
/-! DEFINITION. The decoder and the encoder: scalar words of 32 or 64 bits (R154-R161, R174, R175), lane words of 96 bits
(R165-R170, R176), total on any bits and refusing by name; the encoder is written from the same tables. -/

namespace Sys2Proof

open Sys2Proof.Machine

/-- Why bits are no instruction. Every case raises ENC_RESERVED (R154, R160, R164, R165, R174-R176), but that a bad
length selector or opcode after a prefix raises ORPHAN_PREFIX at the prefix (R161). -/
inductive DecodeError
  /-- The length selector is 0b11 (R154). -/
  | lengthSelector
  /-- A prefix's own fields (R160). -/
  | prefixField
  /-- No row of the opcode map (R174-R176), or a length that is not its opcode's. -/
  | opcode
  /-- A reserved field value, or a non-zero field the instruction does not use (R164). -/
  | field
  /-- VER is 2 or 3 (R165). -/
  | version
  /-- The bytes end inside an instruction. -/
  | short
  deriving DecidableEq, Repr

/-- A decoder's answer. -/
abbrev Decoded := Except DecodeError Instr

/-- An instruction if its field checks hold. -/
def req (c : Bool) (i : Instr) : Decoded := if c then .ok i else .error .field

/-- An instruction over a field that may be reserved. -/
def opt {α : Type} (x : Option α) (f : α → Instr) : Decoded :=
  match x with
  | some a => .ok (f a)
  | none => .error .field

/-- The fields of a 32-bit scalar word (R155). -/
structure SFields where
  f : BitVec 4
  b : BitVec 6
  a : BitVec 6
  d : BitVec 6
  op : Byte
  len : BitVec 2
  deriving DecidableEq, Repr

/-- R155: the fields of formats R, I, J and L lie on the same cuts. -/
def unpackS (w : Word) : SFields :=
  ⟨w.extractLsb' 28 4, w.extractLsb' 22 6, w.extractLsb' 16 6, w.extractLsb' 10 6, w.extractLsb' 2 8, w.extractLsb' 0 2⟩

/-- Format R, and N with zero fields. -/
def packR (f : BitVec 4) (b a d : BitVec 6) (op : Byte) (len : BitVec 2) : Word := f ++ b ++ a ++ d ++ op ++ len

/-- Format I, and the first word of format L. -/
def packI (imm : BitVec 10) (a d : BitVec 6) (op : Byte) (len : BitVec 2) : Word := imm ++ a ++ d ++ op ++ len

/-- Format J. -/
def packJ (off : BitVec 22) (op : Byte) (len : BitVec 2) : Word := off ++ op ++ len

/-- IMM10 and F10, bits [31:22]. -/
def SFields.imm10 (x : SFields) : BitVec 10 := x.f ++ x.b
def SFields.f10 (x : SFields) : BitVec 10 := x.f ++ x.b
/-- OFF22, bits [31:10]. -/
def SFields.top (x : SFields) : BitVec 22 := x.f ++ x.b ++ x.a ++ x.d
/-- F[3:2]. -/
def SFields.fHi (x : SFields) : BitVec 2 := x.f.extractLsb' 2 2
/-- R181. -/
def SFields.intF (x : SFields) : IntF := ⟨x.f.getLsbD 1, x.f.getLsbD 0⟩

/-! ### Field codes, both ways -/

/-- R181. -/
def intFCode (f : IntF) : BitVec 4 := (0 : BitVec 2) ++ BitVec.ofBool f.u ++ BitVec.ofBool f.w

/-- R186. -/
def sfmtOf (c : BitVec 2) : Option SFmt :=
  match c.toNat with | 0 => some .f32 | 1 => some .f16 | 2 => some .b16 | _ => none
def sfmtCode : SFmt → BitVec 2 | .f32 => 0 | .f16 => 1 | .b16 => 2
def fmtCode (f : SFmt) (hi : BitVec 2) : BitVec 4 := hi ++ sfmtCode f

/-- R68. -/
def rndOf : Nat → Option Rnd
  | 0 => some .rne | 1 => some .rtz | 2 => some .rup | 3 => some .rdn | 4 => some .rna | _ => none
def rndCode : Rnd → BitVec 3 | .rne => 0 | .rtz => 1 | .rup => 2 | .rdn => 3 | .rna => 4

/-- R188. -/
def fcondOf (c : BitVec 2) : FCond :=
  match c.toNat with | 0 => .eq | 1 => .lt | 2 => .le | _ => .un
def fcondCode : FCond → BitVec 2 | .eq => 0 | .lt => 1 | .le => 2 | .un => 3

/-- R189. -/
def cvtOfCode : Nat → Option CvtKind
  | 0 => some .f32F16 | 1 => some .f32B16 | 2 => some .f16F32 | 3 => some .b16F32 | 4 => some .f32I32 | 5 => some .f32N32
  | 6 => some .f32I64 | 7 => some .f32N64 | 8 => some .i32F32 | 9 => some .n32F32 | 10 => some .i64F32
  | 11 => some .n64F32 | _ => none
def cvtCode : CvtKind → BitVec 4
  | .f32F16 => 0 | .f32B16 => 1 | .f16F32 => 2 | .b16F32 => 3 | .f32I32 => 4 | .f32N32 => 5 | .f32I64 => 6
  | .f32N64 => 7 | .i32F32 => 8 | .n32F32 => 9 | .i64F32 => 10 | .n64F32 => 11

/-- R158, BRC. -/
def scondOf : Nat → Option SCond
  | 0 => some .eq | 1 => some .ne | 2 => some .lt | 3 => some .ge | 4 => some .gt | 5 => some .le | _ => none
def scondCode : SCond → BitVec 10 | .eq => 0 | .ne => 1 | .lt => 2 | .ge => 3 | .gt => 4 | .le => 5

/-- R158, BRM. -/
def mcondOf (c : BitVec 2) : MCond :=
  match c.toNat with | 0 => .none | 1 => .any | 2 => .all | _ => .nall
def mcondCode : MCond → BitVec 10 | .none => 0 | .any => 1 | .all => 2 | .nall => 3

/-- R157. -/
def maskOfCode (c : BitVec 6) : Option MaskOp :=
  if c.toNat < 32 then some (.s (c.extractLsb' 0 5))
  else if c.toNat < 40 then some (.p (c.extractLsb' 0 3))
  else match c.toNat with | 40 => some .em | 41 => some .xm | 42 => some .flm | _ => none
def maskCode : MaskOp → BitVec 6
  | .s n => (0 : BitVec 1) ++ n | .p n => (4 : BitVec 3) ++ n | .em => 40 | .xm => 41 | .flm => 42

/-- R198. -/
def sizeOf (c : BitVec 2) : MemSize :=
  match c.toNat with | 0 => .b8 | 1 => .b16 | 2 => .b32 | _ => .b64
def sizeCode : MemSize → BitVec 2 | .b8 => 0 | .b16 => 1 | .b32 => 2 | .b64 => 3
def ldF (sz : MemSize) (sx sp : Bool) : BitVec 10 :=
  (0 : BitVec 6) ++ BitVec.ofBool sp ++ BitVec.ofBool sx ++ sizeCode sz

/-- R200 and R249. -/
def atomOfCode : Nat → Option AtomOp
  | 0 => some .add | 1 => some .min | 2 => some .max | 3 => some .umin | 4 => some .umax | 5 => some .and | 6 => some .or
  | 7 => some .xor | 8 => some .xchg | 9 => some .cas | _ => none
def atomCode : AtomOp → BitVec 4
  | .add => 0 | .min => 1 | .max => 2 | .umin => 3 | .umax => 4 | .and => 5 | .or => 6 | .xor => 7 | .xchg => 8 | .cas => 9
def atomF (op : AtomOp) (wide sp : Bool) : BitVec 10 :=
  (0 : BitVec 2) ++ atomCode op ++ BitVec.ofBool sp ++ (0 : BitVec 1) ++ (1 : BitVec 1) ++ BitVec.ofBool wide

/-- R60. -/
def sregOfCode : Nat → Option SpecialReg
  | 0x00 => some .teamidx | 0x01 => some .grpidx | 0x02 => some .grpcnt | 0x03 => some .coreid | 0x04 => some .launchid
  | 0x05 => some .launchseq | 0x08 => some (.crd 2) | 0x09 => some (.crd 3) | 0x0A => some (.crd 4)
  | 0x0B => some (.crd 5) | 0x0C => some (.crd 6) | 0x0D => some (.crd 7) | 0x10 => some .cyc | 0x11 => some .cycn
  | 0x12 => some .time | 0x18 => some .seed | 0x19 => some .drawmode | 0x1A => some .replayiter | 0x20 => some .em
  | 0x21 => some .flm | 0x22 => some .xm | 0x23 => some .valloc | 0x24 => some .flags | 0x25 => some .reentry
  | 0x26 => some .regen | _ => none
def sregCode : SpecialReg → BitVec 10
  | .teamidx => 0x00 | .grpidx => 0x01 | .grpcnt => 0x02 | .coreid => 0x03 | .launchid => 0x04 | .launchseq => 0x05
  | .crd l => 6 + l.zeroExtend 10 | .cyc => 0x10 | .cycn => 0x11 | .time => 0x12 | .seed => 0x18 | .drawmode => 0x19
  | .replayiter => 0x1A | .em => 0x20 | .flm => 0x21 | .xm => 0x22 | .valloc => 0x23 | .flags => 0x24 | .reentry => 0x25
  | .regen => 0x26

/-- R329. -/
def sysOfCode : Nat → Option SysReg
  | 0x000 => some .sstat | 0x001 => some .epc | 0x002 => some .ecause | 0x003 => some .einfo | 0x004 => some .svec
  | 0x005 => some .escr | 0x008 => some .sthread | 0x009 => some .evpend | 0x010 => some .semstate | _ => none
def sysCode : SysReg → BitVec 10
  | .sstat => 0 | .epc => 1 | .ecause => 2 | .einfo => 3 | .svec => 4 | .escr => 5 | .sthread => 8 | .evpend => 9
  | .semstate => 0x10

/-- R96. -/
def pathOf : Nat → Option PathClass
  | 0 => some .ls | 1 => some .cp | 2 => some .cr | 3 => some .mx | 4 => some .tr | 5 => some .rp | _ => none
def pathCode : PathClass → BitVec 6 | .ls => 0 | .cp => 1 | .cr => 2 | .mx => 3 | .tr => 4 | .rp => 5

/-- R111. -/
def scopeOf : Nat → Option Scope
  | 0 => some .grp | 1 => some .team | 2 => some .quad | 3 => some .die | 4 => some .pkg | 5 => some .sys | _ => none
def scopeCode : Scope → BitVec 4 | .grp => 0 | .team => 1 | .quad => 2 | .die => 3 | .pkg => 4 | .sys => 5

/-- R202: IMM10 of the barriers. -/
def barCode (level : BitVec 3) (n : BitVec 4) : BitVec 10 := (0 : BitVec 3) ++ level ++ n

/-- One flag bit in F[0]. -/
def bit4 (b : Bool) : BitVec 4 := (0 : BitVec 3) ++ BitVec.ofBool b

/-- R192: D, A and F10 of LRUN. -/
def lrunD (e : Bool) : LrunCount → BitVec 6
  | .imm _ => (0 : BitVec 5) ++ BitVec.ofBool e
  | .reg _ => (0 : BitVec 4) ++ (1 : BitVec 1) ++ BitVec.ofBool e
def lrunA : LrunCount → BitVec 6 | .imm _ => 0 | .reg a => a
def lrunF : LrunCount → BitVec 10 | .imm n => n | .reg _ => 0
def lrunOf (x : SFields) (k : Word) : Decoded :=
  if x.d.extractLsb' 2 4 != 0 then .error .field
  else if x.d.getLsbD 1 then req (x.f10 == 0) (.lrun (x.d.getLsbD 0) (.reg x.a) k)
  else req (x.a == 0) (.lrun (x.d.getLsbD 0) (.imm x.f10) k)

/-- R186: the F32, F16 and B16 instructions. -/
def withFmt (x : SFields) (c : Bool) (k : SFmt → Instr) : Decoded :=
  opt (if c then sfmtOf (x.f.extractLsb' 0 2) else none) k

/-- R193: destination and one source. -/
def mask2 (x : SFields) (c : Bool) (k : MaskOp → MaskOp → Instr) : Decoded :=
  match maskOfCode x.d, maskOfCode x.a with
  | some d, some a => req (c && maskDstOk d) (k d a)
  | _, _ => .error .field

/-- R193: destination and two sources. -/
def mask3 (x : SFields) (k : MaskOp → MaskOp → MaskOp → Instr) : Decoded :=
  match maskOfCode x.d, maskOfCode x.a, maskOfCode x.b with
  | some d, some a, some b => req (x.f == 0 && maskDstOk d) (k d a b)
  | _, _, _ => .error .field

/-- R206. -/
def mfenceOf (x : SFields) : Option (PathClass × PathClass × Scope) :=
  match pathOf x.a.toNat, pathOf x.b.toNat, scopeOf x.f.toNat with
  | some p, some q, some s => if x.d == 0 then some (p, q, s) else none
  | _, _, _ => none

/-! ### Scalar words -/

/-- R159: a prefix word. -/
def packPfx (cap sat : Bool) (rnd : Rnd) : Word :=
  (0 : BitVec 17) ++ BitVec.ofBool cap ++ BitVec.ofBool sat ++ rndCode rnd ++ (0 : Byte) ++ (2 : BitVec 2)

/-- R160: PK, bits [31:15] and RND of a prefix. -/
def decodePfx (w : Word) : Decoded :=
  match rndOf (w.extractLsb' 10 3).toNat with
  | some r =>
    if w.extractLsb' 2 8 == 0 && w.extractLsb' 15 17 == 0 then .ok (.pfx (w.getLsbD 14) (w.getLsbD 13) r)
    else .error .prefixField
  | none => .error .prefixField

/-- The 32-bit rows of R174 and R175. -/
def decode32 (x : SFields) : Decoded :=
  match x.op.toNat with
  | 0x01 => req (x.top == 0) (.nop)
  | 0x02 => req (x.d == 0 && x.a == 0) (.trap x.imm10)
  | 0x03 => req (x.d == 0 && x.a == 0) (.brk x.imm10)
  | 0x04 => req (x.fHi == 0) (.add x.intF x.d x.a x.b)
  | 0x05 => req (x.fHi == 0) (.sub x.intF x.d x.a x.b)
  | 0x06 => req (x.fHi == 0) (.mul x.intF x.d x.a x.b)
  | 0x07 => req (x.fHi == 0) (.mulh x.intF x.d x.a x.b)
  | 0x08 => req (x.fHi == 0) (.div x.intF x.d x.a x.b)
  | 0x09 => req (x.fHi == 0) (.rem x.intF x.d x.a x.b)
  | 0x0A => req (x.fHi == 0) (.min x.intF x.d x.a x.b)
  | 0x0B => req (x.fHi == 0) (.max x.intF x.d x.a x.b)
  | 0x0C => req (x.fHi == 0) (.slt x.intF x.d x.a x.b)
  | 0x0D => req (x.fHi == 0) (.seq x.intF x.d x.a x.b)
  | 0x0E => req (x.fHi == 0) (.and x.intF x.d x.a x.b)
  | 0x0F => req (x.fHi == 0) (.or x.intF x.d x.a x.b)
  | 0x10 => req (x.fHi == 0) (.xor x.intF x.d x.a x.b)
  | 0x11 => req (x.fHi == 0) (.shl x.intF x.d x.a x.b)
  | 0x12 => req (x.fHi == 0) (.shr x.intF x.d x.a x.b)
  | 0x13 => req (x.fHi == 0) (.sar x.intF x.d x.a x.b)
  | 0x14 => req (x.f == 0 && x.b == 0) (.mov x.d x.a)
  | 0x18 => req (true) (.addi x.d x.a x.imm10)
  | 0x19 => req (true) (.andi x.d x.a x.imm10)
  | 0x1A => req (true) (.ori x.d x.a x.imm10)
  | 0x1B => req (true) (.xori x.d x.a x.imm10)
  | 0x1C => req (x.f == 0) (.shli x.d x.a x.b)
  | 0x1D => req (x.f == 0) (.shri x.d x.a x.b)
  | 0x1E => req (x.f == 0) (.sari x.d x.a x.b)
  | 0x1F => req (true) (.slti x.d x.a x.imm10)
  | 0x28 => withFmt x (x.fHi == 0) fun f => .fadd f x.d x.a x.b
  | 0x29 => withFmt x (x.fHi == 0) fun f => .fsub f x.d x.a x.b
  | 0x2A => withFmt x (x.fHi == 0) fun f => .fmul f x.d x.a x.b
  | 0x2B => withFmt x (x.fHi == 0) fun f => .fma f x.d x.a x.b
  | 0x2C => withFmt x (x.fHi == 0) fun f => .fdiv f x.d x.a x.b
  | 0x2D => withFmt x (x.fHi == 0 && x.b == 0) fun f => .fsqrt f x.d x.a
  | 0x2E => withFmt x (x.fHi == 0) fun f => .fmin f x.d x.a x.b
  | 0x2F => withFmt x (x.fHi == 0) fun f => .fmax f x.d x.a x.b
  | 0x30 => withFmt x true fun f => .fcmp (fcondOf x.fHi) f x.d x.a x.b
  | 0x31 => opt (if x.b == 0 then cvtOfCode x.f.toNat else none) fun k => .fcvt k x.d x.a
  | 0x38 => req (true) (.br x.top)
  | 0x3B => req (true) (.call x.top)
  | 0x3C => req (x.f == 0 && x.b == 0 && x.d == 0) (.callr x.a)
  | 0x3D => req (x.top == 0) (.ret)
  | 0x3E => req (x.top == 0) (.exit)
  | 0x40 => mask2 x (x.f == 0 && x.b == 0) fun d a => .mmov d a
  | 0x41 => mask3 x fun d a b => .mand d a b
  | 0x42 => mask3 x fun d a b => .mor d a b
  | 0x43 => mask3 x fun d a b => .mxor d a b
  | 0x44 => mask3 x fun d a b => .mandn d a b
  | 0x45 => opt (if x.f == 0 && x.b == 0 && !x.d.getLsbD 5 then maskOfCode x.a else none) fun a => .mcnt (x.d.extractLsb' 0 5) a
  | 0x46 => opt (if x.f == 0 && x.b == 0 && x.d == 0 then maskOfCode x.a else none) fun a => .join a
  | 0x58 => opt (if x.a == 0 then sregOfCode x.imm10.toNat else none) fun n => .srd x.d n
  | 0x59 => opt (if x.d == 0 then sregOfCode x.imm10.toNat else none) fun n => .swr n x.a
  | 0x60 => req (x.imm10.extractLsb' 7 3 == 0 && x.a == 0 && x.d == 0) (.bara (x.imm10.extractLsb' 4 3) (x.imm10.extractLsb' 0 4))
  | 0x61 => req (x.imm10.extractLsb' 7 3 == 0 && x.a == 0) (.barw x.d (x.imm10.extractLsb' 4 3) (x.imm10.extractLsb' 0 4))
  | 0x62 => req (x.imm10.extractLsb' 7 3 == 0 && x.a == 0) (.bar x.d (x.imm10.extractLsb' 4 3) (x.imm10.extractLsb' 0 4))
  | 0x68 => req (x.top == 0) (.efence)
  | 0x69 => opt (mfenceOf x) fun m => .mfence m.1 m.2.1 m.2.2
  | 0x70 => req (x.f.extractLsb' 1 3 == 0 && x.d == 0) (.arm (x.f.getLsbD 0) x.a x.b)
  | 0x71 => req (x.top == 0) (.waitm)
  | 0x72 => req (true) (.yield x.top)
  | 0x79 => req (x.d == 0 && x.a == 0 && x.imm10.extractLsb' 3 7 == 0) (.ringp (x.imm10.extractLsb' 0 3))
  | 0x7A => req (x.d == 0 && x.a == 0 && x.imm10.extractLsb' 3 7 == 0) (.ringg (x.imm10.extractLsb' 0 3))
  | 0x81 => req (x.f == 0 && x.b == 0 && x.d.extractLsb' 3 3 == 0) (.stcfg (x.d.extractLsb' 0 3) x.a)
  | 0x88 => req (x.d == 0 && x.a == 0) (.sgrow x.imm10)
  | 0x89 => req (x.d == 0 && x.a == 0) (.sshrink x.imm10)
  | 0xE0 => opt (if x.a == 0 then sysOfCode x.imm10.toNat else none) fun n => .sysrd x.d n
  | 0xE1 => opt (if x.d == 0 then sysOfCode x.imm10.toNat else none) fun n => .syswr n x.a
  | 0xE2 => req (x.top == 0) (.eret)
  | 0xE3 => req (x.f.extractLsb' 1 3 == 0 && x.b == 0 && x.d == 0) (.l1inv (x.f.getLsbD 0) x.a)
  | 0xEF => req (x.f.extractLsb' 1 3 == 0 && x.b == 0 && x.d == 0) (.tlbia (x.f.getLsbD 0) x.a)
  | 0xE4 => req (x.f == 0 && x.b == 0) (.park x.d x.a)
  | 0xE5 => req (x.f == 0 && x.b == 0) (.unpark x.d x.a)
  | 0xE6 => req (x.f == 0 && x.b == 0) (.halt x.d x.a)
  | 0xE7 => req (x.f == 0 && x.b == 0) (.resume x.d x.a)
  | 0xE8 => req (x.f == 0) (.ctxsv x.d x.a x.b)
  | 0xE9 => req (x.f == 0) (.ctxld x.d x.a x.b)
  | 0xEA => req (x.f == 0) (.preempt x.d x.a x.b)
  | 0xEB => req (x.f == 0) (.semacq x.d x.a x.b)
  | 0xEC => req (x.f == 0 && x.b == 0) (.semrel x.d x.a)
  | 0xED => req (x.d == 0 && x.a == 0) (.svc x.imm10)
  | 0xEE => req (x.f == 0 && x.d == 0) (.tlbiv x.a x.b)
  | _ => .error .opcode

/-- The 64-bit rows of R174. -/
def decode64 (x : SFields) (w : Word) : Decoded :=
  match x.op.toNat with
  | 0x20 => req (x.f10 == 0 && x.a == 0) (.movl x.d w)
  | 0x21 => req (x.f10 == 0 && x.a == 0) (.movh x.d w)
  | 0x22 => req (x.f10.extractLsb' 2 8 == 0) (.addl ⟨x.f10.getLsbD 1, x.f10.getLsbD 0⟩ x.d x.a w)
  | 0x39 => opt (if x.d == 0 then scondOf x.f10.toNat else none) fun c => .brc c x.a w
  | 0x3A => opt (if x.d == 0 && x.f10.extractLsb' 2 8 == 0 then maskOfCode x.a else none) fun m => .brm (mcondOf (x.f10.extractLsb' 0 2)) m w
  | 0x3F => lrunOf x w
  | 0x48 => req (x.f10 == 0 && x.d == 0 && x.a == 0) (.region w)
  | 0x50 => req (x.f10.extractLsb' 4 6 == 0) (.ld (sizeOf (x.f10.extractLsb' 0 2)) (x.f10.getLsbD 2) (x.f10.getLsbD 3) x.d x.a w)
  | 0x51 => req (x.f10.extractLsb' 4 6 == 0 && !x.f10.getLsbD 2) (.st (sizeOf (x.f10.extractLsb' 0 2)) (x.f10.getLsbD 3) x.d x.a w)
  | 0x52 => opt (if x.f10.extractLsb' 8 2 == 0 && x.f10.getLsbD 1 && !x.f10.getLsbD 2 then atomOfCode (x.f10.extractLsb' 4 4).toNat else none) fun op => .atom op (x.f10.getLsbD 0) (x.f10.getLsbD 3) x.d x.a w
  | 0x78 => req (x.f10 == 0) (.schunk x.d x.a w)
  | 0x80 => req (x.f10 == 0 && x.d.extractLsb' 3 3 == 0) (.qcfg (x.d.extractLsb' 0 3) x.a w)
  | _ => .error .opcode

/-- R163, steps 3 and 4: the fields of an instruction that its row does not allow. -/
def checkWf (r : Decoded) : Decoded :=
  match r with
  | .ok i => if i.wf then .ok i else .error .field
  | .error e => .error e

/-- R154: whether the word at pcs takes a second word. -/
def twoWords (w : Word) : Bool := w.extractLsb' 0 2 == 1

/-- R154: the instruction at pcs; `w1` is the payload of a 64-bit instruction. -/
def decodeScalar (w0 w1 : Word) : Decoded :=
  match (w0.extractLsb' 0 2).toNat with
  | 0 => checkWf (decode32 (unpackS w0))
  | 1 => checkWf (decode64 (unpackS w0) w1)
  | 2 => decodePfx w0
  | _ => .error .lengthSelector

/-! ### Lane words -/

/-- The fields of a lane word (R165). -/
structure LaneRaw where
  xf : BitVec 13
  sat : BitVec 1
  rnd : BitVec 3
  fmt : BitVec 5
  pinv : BitVec 1
  pidx : BitVec 3
  sc : BitVec 13
  sb : BitVec 13
  sa : BitVec 13
  dst : BitVec 10
  scb : BitVec 10
  ver : BitVec 2
  opc : BitVec 9
  deriving DecidableEq, Repr

/-- R165. -/
def unpackL (w : BitVec 96) : LaneRaw :=
  ⟨w.extractLsb' 83 13, w.extractLsb' 82 1, w.extractLsb' 79 3, w.extractLsb' 74 5, w.extractLsb' 73 1,
   w.extractLsb' 70 3, w.extractLsb' 57 13, w.extractLsb' 44 13, w.extractLsb' 31 13, w.extractLsb' 21 10,
   w.extractLsb' 11 10, w.extractLsb' 9 2, w.extractLsb' 0 9⟩

def packL (r : LaneRaw) : BitVec 96 :=
  r.xf ++ r.sat ++ r.rnd ++ r.fmt ++ r.pinv ++ r.pidx ++ r.sc ++ r.sb ++ r.sa ++ r.dst ++ r.scb ++ r.ver ++ r.opc

/-- A 13-bit source field from its parts (R166). -/
def srcField (cls : BitVec 2) (idx : Byte) (fe : Bool) (m : BitVec 2) : BitVec 13 := cls ++ idx ++ BitVec.ofBool fe ++ m

/-- R167, R168: a source field. -/
def decodeSrc (x : BitVec 13) : Option Src :=
  let idx := x.extractLsb' 3 8
  let n := idx.toNat
  let fe := x.getLsbD 2
  let reg : Option SrcReg :=
    match (x.extractLsb' 11 2).toNat with
    | 0 => if n < 240 then some (.v idx fe)
           else if fe then none
           else if n < 248 then some (.q (idx.extractLsb' 0 3))
           else if n < 252 then some (.i (idx.extractLsb' 0 2)) else none
    | 1 => if n < 16 && !fe then some (.w (idx.extractLsb' 0 4)) else none
    | 2 => if n < 4 && !fe then some (.z (idx.extractLsb' 0 2))
           else if 64 ≤ n && n < 128 then some (.s (idx.extractLsb' 0 6) fe) else none
    | _ => some (.vi (idx.extractLsb' 6 2) (idx.extractLsb' 0 6) fe)
  reg.map fun r => ⟨r, x.extractLsb' 0 2⟩

def encodeSrc (s : Src) : BitVec 13 :=
  match s.reg with
  | .v i fe => srcField 0 i fe s.mod
  | .q n => srcField 0 ((0x1E : BitVec 5) ++ n) false s.mod
  | .i n => srcField 0 ((0x3E : BitVec 6) ++ n) false s.mod
  | .w n => srcField 1 ((0 : BitVec 4) ++ n) false s.mod
  | .z n => srcField 2 ((0 : BitVec 6) ++ n) false s.mod
  | .s n fe => srcField 2 ((1 : BitVec 2) ++ n) fe s.mod
  | .vi n k fe => srcField 3 (n ++ k) fe s.mod

/-- R167: a destination field, DCLS above DIDX. -/
def decodeDst (x : BitVec 10) : Option Dst :=
  let idx := x.extractLsb' 0 8
  let n := idx.toNat
  match (x.extractLsb' 8 2).toNat with
  | 0 => if n < 240 then some (.v idx) else if n < 248 then some (.q (idx.extractLsb' 0 3)) else none
  | 1 => if n < 16 then some (.w (idx.extractLsb' 0 4)) else none
  | 2 => none
  | _ => some (.vi (idx.extractLsb' 6 2) (idx.extractLsb' 0 6))

def encodeDst : Dst → BitVec 10
  | .v i => (0 : BitVec 2) ++ i
  | .q n => (0 : BitVec 2) ++ (0x1E : BitVec 5) ++ n
  | .w n => (1 : BitVec 2) ++ (0 : BitVec 4) ++ n
  | .vi n k => (3 : BitVec 2) ++ n ++ k

/-- R72. -/
def fmtCode5 : Fmt → BitVec 5
  | .f32 => 0 | .f16 => 1 | .b16 => 2 | .e4m3 => 3 | .e5m2 => 4 | .e2m1 => 5 | .i8 => 6 | .i16 => 7 | .i32 => 8 | .i64 => 9
  | .n8 => 10 | .n16 => 11 | .n32 => 12 | .n64 => 13 | .x8a => 14 | .x8b => 15 | .x4 => 16

/-- R170: the fields every lane word carries. -/
def laneHdr (r : LaneRaw) : LaneHdr := ⟨r.ver == 1, r.scb, r.pidx, r.pinv == 1⟩

/-- R164-R168: the typed operands of a lane word, none where a field is reserved. -/
def laneOpOf (r : LaneRaw) : Option LaneOp :=
  match decodeDst r.dst, decodeSrc r.sa, decodeSrc r.sb, decodeSrc r.sc, fmtOfCode r.fmt.toNat, rndOf r.rnd.toNat with
  | some d, some a, some b, some c, some f, some m => some ⟨laneHdr r, d, a, b, c, f, m, r.sat == 1, r.xf⟩
  | _, _, _, _, _, _ => none

/-- The raw fields of a header with everything else zero. -/
def rawHdr (opc : BitVec 9) (h : LaneHdr) : LaneRaw :=
  ⟨0, 0, 0, 0, BitVec.ofBool h.pinv, h.pidx, 0, 0, 0, 0, h.scb, if h.current then 1 else 0, opc⟩

/-- A lane word of LaneOp operands. -/
def packLane (opc : BitVec 9) (o : LaneOp) : BitVec 96 :=
  packL
    { rawHdr opc o.h with
      xf := o.xf, sat := BitVec.ofBool o.sat, rnd := rndCode o.rnd, fmt := fmtCode5 o.fmt
      sc := encodeSrc o.c, sb := encodeSrc o.b, sa := encodeSrc o.a, dst := encodeDst o.d }

/-- R223: VMOVI spreads imm32 over SB, SC and XF[5:0]. -/
def packMovi (h : LaneHdr) (d : Dst) (imm : Word) : BitVec 96 :=
  packL
    { rawHdr 0x01A h with
      xf := (0 : BitVec 7) ++ imm.extractLsb' 26 6, sc := imm.extractLsb' 13 13
      sb := imm.extractLsb' 0 13, dst := encodeDst d }

/-- R252. -/
def packSeti (h : LaneHdr) (n : BitVec 2) : SetSrc → BitVec 96
  | .reg a => packL { rawHdr 0x090 h with xf := (0 : BitVec 11) ++ n, sa := encodeSrc a }
  | .imm base len => packL { rawHdr 0x090 h with xf := base ++ (1 : BitVec 3) ++ n, sb := (0 : BitVec 5) ++ len }

/-- R253. -/
def packInci (h : LaneHdr) (n : BitVec 2) : IncSrc → BitVec 96
  | .reg a => packL { rawHdr 0x091 h with xf := (0 : BitVec 11) ++ n, sa := encodeSrc a }
  | .imm v => packL { rawHdr 0x091 h with xf := v ++ (1 : BitVec 3) ++ n }

/-- R223. -/
def decodeMovi (r : LaneRaw) : Decoded :=
  opt (if r.sa == 0 && r.fmt == 0 && r.rnd == 0 && r.sat == 0 && r.xf.extractLsb' 6 7 == 0 then decodeDst r.dst else none)
    fun d => .vmovi (laneHdr r) d (r.xf.extractLsb' 0 6 ++ r.sc ++ r.sb)

/-- R252, R253: whether the fields that VSETI and VINCI leave unused are zero. -/
def idxBare (r : LaneRaw) : Bool :=
  r.sc == 0 && r.dst == 0 && r.fmt == 0 && r.rnd == 0 && r.sat == 0 && r.xf.extractLsb' 3 2 == 0

/-- R252. -/
def decodeSeti (r : LaneRaw) : Decoded :=
  if r.xf.getLsbD 2 then
    req (idxBare r && r.sa == 0 && r.sb.extractLsb' 8 5 == 0)
      (.vseti (laneHdr r) (r.xf.extractLsb' 0 2) (.imm (r.xf.extractLsb' 5 8) (r.sb.extractLsb' 0 8)))
  else opt (if idxBare r && r.sb == 0 && r.xf.extractLsb' 5 8 == 0 then decodeSrc r.sa else none)
    fun a => .vseti (laneHdr r) (r.xf.extractLsb' 0 2) (.reg a)

/-- R253. -/
def decodeInci (r : LaneRaw) : Decoded :=
  if r.xf.getLsbD 2 then
    req (idxBare r && r.sa == 0 && r.sb == 0) (.vinci (laneHdr r) (r.xf.extractLsb' 0 2) (.imm (r.xf.extractLsb' 5 8)))
  else opt (if idxBare r && r.sb == 0 && r.xf.extractLsb' 5 8 == 0 then decodeSrc r.sa else none)
    fun a => .vinci (laneHdr r) (r.xf.extractLsb' 0 2) (.reg a)

/-- The rows of R176 whose operands are LaneOp. -/
def laneCtor : Nat → Option (LaneOp → Instr)
  | 0x001 => some .vadd
  | 0x002 => some .vsub
  | 0x003 => some .vmul
  | 0x004 => some .vmulh
  | 0x005 => some .vmad
  | 0x006 => some .vmin
  | 0x007 => some .vmax
  | 0x008 => some .vshl
  | 0x009 => some .vshr
  | 0x00A => some .vsar
  | 0x010 => some .vand
  | 0x011 => some .vor
  | 0x012 => some .vxor
  | 0x013 => some .vlop3
  | 0x014 => some .vbfe
  | 0x015 => some .vbfi
  | 0x016 => some .vpopc
  | 0x017 => some .vclz
  | 0x018 => some .vsel
  | 0x019 => some .vmov
  | 0x01B => some .vcmp
  | 0x020 => some .vfadd
  | 0x021 => some .vfsub
  | 0x022 => some .vfmul
  | 0x023 => some .vfma
  | 0x024 => some .vfmin
  | 0x025 => some .vfmax
  | 0x026 => some .vfcmp
  | 0x027 => some .vfclass
  | 0x030 => some .vrcp
  | 0x031 => some .vrsq
  | 0x032 => some .vsqrt
  | 0x033 => some .vexp2
  | 0x034 => some .vlog2
  | 0x035 => some .vsin
  | 0x036 => some .vcos
  | 0x040 => some .vcvt
  | 0x041 => some .vpack
  | 0x042 => some .vunpk
  | 0x043 => some fun o => if LaneOp.xbit o 3 then .vqntScl o else .vqnt o
  | 0x044 => some .vdqnt
  | 0x048 => some .vdot4
  | 0x049 => some .vdot8
  | 0x050 => some .vshfl
  | 0x051 => some .vbcst
  | 0x052 => some .vred
  | 0x053 => some .vscan
  | 0x054 => some .vbalt
  | 0x055 => some .vtos
  | 0x056 => some .vlsr
  | 0x080 => some .vld
  | 0x081 => some .vst
  | 0x082 => some .vlds
  | 0x083 => some .vsts
  | 0x084 => some .vldlk
  | 0x085 => some .vstul
  | 0x086 => some .vatom
  | 0x087 => some .vfatom
  | 0x088 => some .vldu
  | 0x089 => some .vpref
  | 0x098 => some .vdraw
  | 0x099 => some .voutcome
  | 0x0A0 => some .vcall
  | 0x0A1 => some .vret
  | 0x0A8 => some .vordb
  | 0x0A9 => some .vorde
  | 0x0B0 => some .vmcnt
  | 0x0B1 => some .vmvtx
  | 0x0B2 => some .vmprim
  | 0x0B8 => some .vexit
  | 0x100 => some .tld
  | 0x101 => some .tst
  | 0x102 => some .tzero
  | 0x103 => some .tmma
  | 0x104 => some .tmmas
  | 0x108 => some .ttov
  | 0x109 => some .vtot
  | 0x10A => some .atov
  | 0x10B => some .vtoa
  | 0x110 => some .stage
  | 0x111 => some .cpyred
  | 0x112 => some .cpynet
  | 0x118 => some fun o => if LaneOp.xfield o 0 2 == 1 then .rtraceShade o else .rtrace o
  | 0x120 => some .replay
  | 0x121 => some .rres
  | _ => none

/-- A lane word: VER, then OPC, then its fields (R163). -/
def decodeLane (w : BitVec 96) : Decoded :=
  let r := unpackL w
  if 2 ≤ r.ver.toNat then .error .version
  else match r.opc.toNat with
    | 0x01A => checkWf (decodeMovi r)
    | 0x090 => checkWf (decodeSeti r)
    | 0x091 => checkWf (decodeInci r)
    | n =>
      match laneCtor n with
      | none => .error .opcode
      | some k => checkWf (opt (laneOpOf r) k)

/-! ### Encoding -/

/-- The words of an instruction. -/
inductive Code
  | one (w : Word)
  | two (w0 w1 : Word)
  | lane (w : BitVec 96)
  deriving DecidableEq, Repr

/-- The words of an instruction; none for the steps of the other agents, which have no encoding. -/
def encode : Instr → Option Code
  | .pfx cap sat rnd => some (.one (packPfx cap sat rnd))
  | .nop => some (.one (packJ 0 0x01 0))
  | .trap code => some (.one (packI code 0 0 0x02 0))
  | .brk code => some (.one (packI code 0 0 0x03 0))
  | .add f d a b => some (.one (packR (intFCode f) b a d 0x04 0))
  | .sub f d a b => some (.one (packR (intFCode f) b a d 0x05 0))
  | .mul f d a b => some (.one (packR (intFCode f) b a d 0x06 0))
  | .mulh f d a b => some (.one (packR (intFCode f) b a d 0x07 0))
  | .div f d a b => some (.one (packR (intFCode f) b a d 0x08 0))
  | .rem f d a b => some (.one (packR (intFCode f) b a d 0x09 0))
  | .min f d a b => some (.one (packR (intFCode f) b a d 0x0A 0))
  | .max f d a b => some (.one (packR (intFCode f) b a d 0x0B 0))
  | .slt f d a b => some (.one (packR (intFCode f) b a d 0x0C 0))
  | .seq f d a b => some (.one (packR (intFCode f) b a d 0x0D 0))
  | .and f d a b => some (.one (packR (intFCode f) b a d 0x0E 0))
  | .or f d a b => some (.one (packR (intFCode f) b a d 0x0F 0))
  | .xor f d a b => some (.one (packR (intFCode f) b a d 0x10 0))
  | .shl f d a b => some (.one (packR (intFCode f) b a d 0x11 0))
  | .shr f d a b => some (.one (packR (intFCode f) b a d 0x12 0))
  | .sar f d a b => some (.one (packR (intFCode f) b a d 0x13 0))
  | .mov d a => some (.one (packR 0 0 a d 0x14 0))
  | .addi d a imm => some (.one (packI imm a d 0x18 0))
  | .andi d a imm => some (.one (packI imm a d 0x19 0))
  | .ori d a imm => some (.one (packI imm a d 0x1A 0))
  | .xori d a imm => some (.one (packI imm a d 0x1B 0))
  | .shli d a n => some (.one (packR 0 n a d 0x1C 0))
  | .shri d a n => some (.one (packR 0 n a d 0x1D 0))
  | .sari d a n => some (.one (packR 0 n a d 0x1E 0))
  | .slti d a imm => some (.one (packI imm a d 0x1F 0))
  | .movl d imm => some (.two (packI 0 0 d 0x20 1) imm)
  | .movh d imm => some (.two (packI 0 0 d 0x21 1) imm)
  | .addl f d a imm => some (.two (packI ((intFCode f).zeroExtend 10) a d 0x22 1) imm)
  | .fadd f d a b => some (.one (packR (fmtCode f 0) b a d 0x28 0))
  | .fsub f d a b => some (.one (packR (fmtCode f 0) b a d 0x29 0))
  | .fmul f d a b => some (.one (packR (fmtCode f 0) b a d 0x2A 0))
  | .fma f d a b => some (.one (packR (fmtCode f 0) b a d 0x2B 0))
  | .fdiv f d a b => some (.one (packR (fmtCode f 0) b a d 0x2C 0))
  | .fsqrt f d a => some (.one (packR (fmtCode f 0) 0 a d 0x2D 0))
  | .fmin f d a b => some (.one (packR (fmtCode f 0) b a d 0x2E 0))
  | .fmax f d a b => some (.one (packR (fmtCode f 0) b a d 0x2F 0))
  | .fcmp c f d a b => some (.one (packR (fmtCode f (fcondCode c)) b a d 0x30 0))
  | .fcvt k d a => some (.one (packR (cvtCode k) 0 a d 0x31 0))
  | .br off => some (.one (packJ off 0x38 0))
  | .brc c a off => some (.two (packI (scondCode c) a 0 0x39 1) off)
  | .brm c m off => some (.two (packI (mcondCode c) (maskCode m) 0 0x3A 1) off)
  | .call off => some (.one (packJ off 0x3B 0))
  | .callr a => some (.one (packR 0 0 a 0 0x3C 0))
  | .ret => some (.one (packJ 0 0x3D 0))
  | .exit => some (.one (packJ 0 0x3E 0))
  | .lrun e n k => some (.two (packI (lrunF n) (lrunA n) (lrunD e n) 0x3F 1) k)
  | .mmov d a => some (.one (packR 0 0 (maskCode a) (maskCode d) 0x40 0))
  | .mand d a b => some (.one (packR 0 (maskCode b) (maskCode a) (maskCode d) 0x41 0))
  | .mor d a b => some (.one (packR 0 (maskCode b) (maskCode a) (maskCode d) 0x42 0))
  | .mxor d a b => some (.one (packR 0 (maskCode b) (maskCode a) (maskCode d) 0x43 0))
  | .mandn d a b => some (.one (packR 0 (maskCode b) (maskCode a) (maskCode d) 0x44 0))
  | .mcnt d a => some (.one (packR 0 0 (maskCode a) (d.zeroExtend 6) 0x45 0))
  | .join a => some (.one (packR 0 0 (maskCode a) 0 0x46 0))
  | .region idx => some (.two (packI 0 0 0 0x48 1) idx)
  | .ld sz sx sp d a off => some (.two (packI (ldF sz sx sp) a d 0x50 1) off)
  | .st sz sp d a off => some (.two (packI (ldF sz false sp) a d 0x51 1) off)
  | .atom op wide sp d a off => some (.two (packI (atomF op wide sp) a d 0x52 1) off)
  | .srd d n => some (.one (packI (sregCode n) 0 d 0x58 0))
  | .swr n a => some (.one (packI (sregCode n) a 0 0x59 0))
  | .bara level n => some (.one (packI (barCode level n) 0 0 0x60 0))
  | .barw d level n => some (.one (packI (barCode level n) 0 d 0x61 0))
  | .bar d level n => some (.one (packI (barCode level n) 0 d 0x62 0))
  | .efence => some (.one (packJ 0 0x68 0))
  | .mfence x y sc => some (.one (packR (scopeCode sc) (pathCode y) (pathCode x) 0 0x69 0))
  | .arm sp a b => some (.one (packR (bit4 sp) b a 0 0x70 0))
  | .waitm => some (.one (packJ 0 0x71 0))
  | .yield off => some (.one (packJ off 0x72 0))
  | .schunk d a minc => some (.two (packI 0 a d 0x78 1) minc)
  | .ringp k => some (.one (packI (k.zeroExtend 10) 0 0 0x79 0))
  | .ringg k => some (.one (packI (k.zeroExtend 10) 0 0 0x7A 0))
  | .qcfg q a cap => some (.two (packI 0 a (q.zeroExtend 6) 0x80 1) cap)
  | .stcfg n a => some (.one (packR 0 0 a (n.zeroExtend 6) 0x81 0))
  | .sgrow b => some (.one (packI b 0 0 0x88 0))
  | .sshrink b => some (.one (packI b 0 0 0x89 0))
  | .sysrd d n => some (.one (packI (sysCode n) 0 d 0xE0 0))
  | .syswr n a => some (.one (packI (sysCode n) a 0 0xE1 0))
  | .eret => some (.one (packJ 0 0xE2 0))
  | .l1inv all a => some (.one (packR (bit4 all) 0 a 0 0xE3 0))
  | .park d a => some (.one (packR 0 0 a d 0xE4 0))
  | .unpark d a => some (.one (packR 0 0 a d 0xE5 0))
  | .halt d a => some (.one (packR 0 0 a d 0xE6 0))
  | .resume d a => some (.one (packR 0 0 a d 0xE7 0))
  | .ctxsv d a b => some (.one (packR 0 b a d 0xE8 0))
  | .ctxld d a b => some (.one (packR 0 b a d 0xE9 0))
  | .preempt d a b => some (.one (packR 0 b a d 0xEA 0))
  | .semacq d a b => some (.one (packR 0 b a d 0xEB 0))
  | .semrel d a => some (.one (packR 0 0 a d 0xEC 0))
  | .svc code => some (.one (packI code 0 0 0xED 0))
  | .tlbiv a b => some (.one (packR 0 b a 0 0xEE 0))
  | .tlbia all a => some (.one (packR (bit4 all) 0 a 0 0xEF 0))
  | .vadd o => some (.lane (packLane 0x001 o))
  | .vsub o => some (.lane (packLane 0x002 o))
  | .vmul o => some (.lane (packLane 0x003 o))
  | .vmulh o => some (.lane (packLane 0x004 o))
  | .vmad o => some (.lane (packLane 0x005 o))
  | .vmin o => some (.lane (packLane 0x006 o))
  | .vmax o => some (.lane (packLane 0x007 o))
  | .vshl o => some (.lane (packLane 0x008 o))
  | .vshr o => some (.lane (packLane 0x009 o))
  | .vsar o => some (.lane (packLane 0x00A o))
  | .vand o => some (.lane (packLane 0x010 o))
  | .vor o => some (.lane (packLane 0x011 o))
  | .vxor o => some (.lane (packLane 0x012 o))
  | .vlop3 o => some (.lane (packLane 0x013 o))
  | .vbfe o => some (.lane (packLane 0x014 o))
  | .vbfi o => some (.lane (packLane 0x015 o))
  | .vpopc o => some (.lane (packLane 0x016 o))
  | .vclz o => some (.lane (packLane 0x017 o))
  | .vsel o => some (.lane (packLane 0x018 o))
  | .vmov o => some (.lane (packLane 0x019 o))
  | .vmovi h d imm => some (.lane (packMovi h d imm))
  | .vcmp o => some (.lane (packLane 0x01B o))
  | .vfadd o => some (.lane (packLane 0x020 o))
  | .vfsub o => some (.lane (packLane 0x021 o))
  | .vfmul o => some (.lane (packLane 0x022 o))
  | .vfma o => some (.lane (packLane 0x023 o))
  | .vfmin o => some (.lane (packLane 0x024 o))
  | .vfmax o => some (.lane (packLane 0x025 o))
  | .vfcmp o => some (.lane (packLane 0x026 o))
  | .vfclass o => some (.lane (packLane 0x027 o))
  | .vrcp o => some (.lane (packLane 0x030 o))
  | .vrsq o => some (.lane (packLane 0x031 o))
  | .vsqrt o => some (.lane (packLane 0x032 o))
  | .vexp2 o => some (.lane (packLane 0x033 o))
  | .vlog2 o => some (.lane (packLane 0x034 o))
  | .vsin o => some (.lane (packLane 0x035 o))
  | .vcos o => some (.lane (packLane 0x036 o))
  | .vcvt o => some (.lane (packLane 0x040 o))
  | .vpack o => some (.lane (packLane 0x041 o))
  | .vunpk o => some (.lane (packLane 0x042 o))
  | .vqntScl o => some (.lane (packLane 0x043 o))
  | .vqnt o => some (.lane (packLane 0x043 o))
  | .vdqnt o => some (.lane (packLane 0x044 o))
  | .vdot4 o => some (.lane (packLane 0x048 o))
  | .vdot8 o => some (.lane (packLane 0x049 o))
  | .vshfl o => some (.lane (packLane 0x050 o))
  | .vbcst o => some (.lane (packLane 0x051 o))
  | .vred o => some (.lane (packLane 0x052 o))
  | .vscan o => some (.lane (packLane 0x053 o))
  | .vbalt o => some (.lane (packLane 0x054 o))
  | .vtos o => some (.lane (packLane 0x055 o))
  | .vlsr o => some (.lane (packLane 0x056 o))
  | .vld o => some (.lane (packLane 0x080 o))
  | .vst o => some (.lane (packLane 0x081 o))
  | .vlds o => some (.lane (packLane 0x082 o))
  | .vsts o => some (.lane (packLane 0x083 o))
  | .vldlk o => some (.lane (packLane 0x084 o))
  | .vstul o => some (.lane (packLane 0x085 o))
  | .vatom o => some (.lane (packLane 0x086 o))
  | .vfatom o => some (.lane (packLane 0x087 o))
  | .vldu o => some (.lane (packLane 0x088 o))
  | .vpref o => some (.lane (packLane 0x089 o))
  | .vseti h n v => some (.lane (packSeti h n v))
  | .vinci h n v => some (.lane (packInci h n v))
  | .vdraw o => some (.lane (packLane 0x098 o))
  | .voutcome o => some (.lane (packLane 0x099 o))
  | .vcall o => some (.lane (packLane 0x0A0 o))
  | .vret o => some (.lane (packLane 0x0A1 o))
  | .vordb o => some (.lane (packLane 0x0A8 o))
  | .vorde o => some (.lane (packLane 0x0A9 o))
  | .vmcnt o => some (.lane (packLane 0x0B0 o))
  | .vmvtx o => some (.lane (packLane 0x0B1 o))
  | .vmprim o => some (.lane (packLane 0x0B2 o))
  | .vexit o => some (.lane (packLane 0x0B8 o))
  | .tld o => some (.lane (packLane 0x100 o))
  | .tst o => some (.lane (packLane 0x101 o))
  | .tzero o => some (.lane (packLane 0x102 o))
  | .tmma o => some (.lane (packLane 0x103 o))
  | .tmmas o => some (.lane (packLane 0x104 o))
  | .ttov o => some (.lane (packLane 0x108 o))
  | .vtot o => some (.lane (packLane 0x109 o))
  | .atov o => some (.lane (packLane 0x10A o))
  | .vtoa o => some (.lane (packLane 0x10B o))
  | .stage o => some (.lane (packLane 0x110 o))
  | .cpyred o => some (.lane (packLane 0x111 o))
  | .cpynet o => some (.lane (packLane 0x112 o))
  | .rtrace o => some (.lane (packLane 0x118 o))
  | .rtraceShade o => some (.lane (packLane 0x118 o))
  | .replay o => some (.lane (packLane 0x120 o))
  | .rres o => some (.lane (packLane 0x121 o))
  | .traversalStep _ _ => none
  | .rayResume _ _ => none
  | .callbackResume _ => none
  | .rayCount _ => none
  | .hitDelivery _ => none
  | .issue _ _ => none
  | .promotion _ => none
  | .storePerformed _ _ => none
  | .longLatencyWrite _ _ => none
  | .atomicRequest _ _ => none
  | .orderGate _ _ => none
  | .vldlkRetry _ => none
  | .monitorFire _ => none
  | .swageHoldExpiry _ _ => none
  | .swageGroupFormation _ _ => none
  | .registerGrant _ => none
  | .sgrowDeadlockPreempt _ => none
  | .quarantineRelease _ _ => none
  | .anvilCommandComplete _ => none
  | .gatedCommandStart _ => none
  | .barrierArrival _ => none
  | .barrierNotice _ => none
  | .copyComplete _ _ => none
  | .copyFault _ _ _ => none
  | .reductionApply _ _ => none
  | .cpynetTransmit _ _ => none
  | .cpynetConfirm _ _ => none
  | .cpynetFail _ _ => none
  | .rmaWriteReceive _ _ _ => none
  | .duskRelaunch _ => none
  | .resultWord _ _ => none
  | .quench _ => none
  | .queueDispatch _ _ => none
  | .teamPlacement _ _ => none
  | .launchComplete _ => none
  | .pageWalk _ _ => none
  | .faultRecord _ => none
  | .handlerEntry _ => none
  | .orderStall _ => none
  | .meshOutputClassify _ _ => none
  | .fragmentQuadEmit _ _ => none
  | .pixelTeamForm _ _ => none
  | .sample _ _ => none
  | .teamStop _ => none
  | .relockComplete _ _ => none
  | .leaseExpired _ => none
  | .ptpEventMessage _ _ _ => none
  | .poolError _ _ _ _ => none
  | .linkDown _ => none
  | .corrected _ _ _ => none
  | .hearthPatrolScrub _ => none
  | .power _ _ _ => none
  | .thermalTrip _ => none
  | .boot => none
  | .ring _ => none
  | .resolve _ => none
  | .unparkCmd _ => none
  | .killteam _ => none
  | .killlaunch _ => none
  | .switch _ => none
  | .preemptvf _ => none
  | .haltsvc _ => none
  | .resumesvc _ => none
  | .trace _ => none
  | .rrset _ => none
  | .profopen _ => none
  | .profread _ => none
  | .profclose _ => none
  | .clkset _ => none
  | .partcfg _ => none
  | .hearthcfg _ => none
  | .poolcfg _ => none
  | .peerset _ => none
  | .netadmit _ => none
  | .asidset _ => none
  | .ctxcreate _ => none
  | .featneg _ => none
  | .attest _ => none
  | .imgstage _ => none
  | .powercap _ => none
  | .lease _ => none
  | .unlease _ => none
  | .unknownServiceCommand _ => none
  | .ringHeadAdvance _ _ => none
  | .linkStateChange _ _ _ => none

/-- The decoder of each word family. -/
def decode : Code → Decoded
  | .one w => decodeScalar w 0
  | .two w0 w1 => decodeScalar w0 w1
  | .lane w => decodeLane w

/-! ### Bytes (R3: little-endian) -/

/-- The bytes of a number, `n` of them, lowest first. -/
def leBytes : Nat → Nat → List Byte
  | 0, _ => []
  | n + 1, x => BitVec.ofNat 8 x :: leBytes n (x / 256)

/-- The number that bytes hold, lowest first. -/
def ofLeBytes : List Byte → Nat
  | [] => 0
  | b :: bs => b.toNat + 256 * ofLeBytes bs

/-- The scalar instruction at the head of a byte sequence, with the bytes after it. -/
def decodeScalarBytes (bs : List Byte) : Except DecodeError (Instr × List Byte) :=
  if bs.length < 4 then .error .short
  else
    let w0 : Word := BitVec.ofNat 32 (ofLeBytes (bs.take 4))
    if twoWords w0 then
      if bs.length < 8 then .error .short
      else (decodeScalar w0 (BitVec.ofNat 32 (ofLeBytes ((bs.drop 4).take 4)))).map fun i => (i, bs.drop 8)
    else (decodeScalar w0 0).map fun i => (i, bs.drop 4)

/-- The lane instruction at the head of a byte sequence, with the bytes after it. -/
def decodeLaneBytes (bs : List Byte) : Except DecodeError (Instr × List Byte) :=
  if bs.length < 12 then .error .short
  else (decodeLane (BitVec.ofNat 96 (ofLeBytes (bs.take 12)))).map fun i => (i, bs.drop 12)

/-- The instruction whose bits are `w`, numbered as the opcode table numbers them: a lane word where the table gives
96 bits, otherwise a scalar word whose missing payload is zero. -/
def decodeTableWord (nbits w : Nat) : Option Instr :=
  match (if nbits = 96 then decodeLaneBytes (leBytes 12 w) else decodeScalarBytes (leBytes 8 (w % 2 ^ nbits))) with
  | .ok (i, _) => some i
  | .error _ => none

end Sys2Proof
end

