-- ==== Sys2Proof/Machine/Tab.lean ====
section
/-! DEFINITION. Sparse tables: lists of (key, value) in rising key order. A table with a default lists no entry equal to
the default, so that equal tables are equal data; a table of records lists every record that exists. -/

namespace Sys2Proof.Machine

/-- A table from numbers to values. -/
abbrev Tab (α : Type) := List (Nat × α)

/-- The entry of a key, if listed. -/
def Tab.look {α : Type} : Tab α → Nat → Option α
  | [], _ => none
  | (k, v) :: t, n => if k = n then some v else Tab.look t n

/-- What a key reads as, `d` being what an unlisted key reads as. -/
def Tab.get {α : Type} (d : α) (t : Tab α) (n : Nat) : α := (Tab.look t n).getD d

/-- A table without a key. -/
def Tab.del {α : Type} : Tab α → Nat → Tab α
  | [], _ => []
  | (k, v) :: t, n => if k = n then Tab.del t n else (k, v) :: Tab.del t n

/-- Insert an entry before the first larger key. -/
def Tab.ins {α : Type} (n : Nat) (x : α) : Tab α → Tab α
  | [] => [(n, x)]
  | (k, v) :: t => if n < k then (n, x) :: (k, v) :: t else (k, v) :: Tab.ins n x t

/-- List an entry, replacing what its key held. -/
def Tab.put {α : Type} (t : Tab α) (n : Nat) (x : α) : Tab α := Tab.ins n x (Tab.del t n)

/-- Write a key of a table whose unlisted keys read as `d`. -/
def Tab.set {α : Type} [DecidableEq α] (d : α) (t : Tab α) (n : Nat) (x : α) : Tab α :=
  if x = d then Tab.del t n else Tab.put t n x

/-- Change a listed entry. -/
def Tab.upd {α : Type} (t : Tab α) (n : Nat) (f : α → α) : Tab α :=
  match Tab.look t n with
  | some x => Tab.put t n (f x)
  | none => t

/-- The canonical form: keys strictly rising, no entry equal to the default. -/
def Tab.wf {α : Type} [DecidableEq α] (d : α) : Tab α → Bool
  | [] => true
  | [(_, v)] => v != d
  | (k, v) :: (k', v') :: t => k < k' && v != d && Tab.wf d ((k', v') :: t)

/-- A key no entry uses, above all listed keys. -/
def Tab.fresh {α : Type} : Tab α → Nat
  | [] => 0
  | (k, _) :: t => max (k + 1) (Tab.fresh t)

/-- Write many keys, first to last. -/
def Tab.setAll {α : Type} [DecidableEq α] (d : α) : Tab α → List (Nat × α) → Tab α
  | t, [] => t
  | t, (k, v) :: ws => Tab.setAll d (Tab.set d t k v) ws

end Sys2Proof.Machine
end

