-- ==== Sys2Proof/Machine/State.lean ====
section
/-! DEFINITION. The state of the KG7-4D20: every register, memory, queue, table and pending event the spec gives the
machine, as plain data. Tables (`Tab`) list only what differs from the value named beside each field; dies, cores and the
rest of the package are keyed by their index. -/

namespace Sys2Proof.Machine

/-! ### Causes -/

/-- The causes of R362. -/
inductive Cause
  | encReserved | orphanPrefix | branchAlign | privileged | roleViolation | lrunCount | laneRange | execDenied
  | regionTable | regUnalloc | indexBound | feEmpty | sregReadonly
  | addrRange | misaligned | spadBound | pathDenied | atomicPlacement | lockNotHeld | queueConfig | tileConfig
  | formatInvalid | formatDiverge | sparseHeader | detWindow | detReturn
  | callTarget | callTable | callDepth | retEmpty | tracePlacement | orderContext | meshBound | barrierLevel
  | barrierPoisoned
  | storeBufferFull | drawLimit | drawBufferFull
  | pageFault | poison
  | latePoison | cxlWbError
  | userTrap | break_
  | hardError
  | copyPage | copyPath | copyWindow | copyMemory | copyCxl | reduceWindow | reduceSeq | reduceDesc | netDesc
  | regionLivelock | orderStall | launchInvalid | microReserved | spillLost | rayLost | netFail | replayBlock
  | queueInvalid
  deriving DecidableEq, Repr

/-- Kinds of a page fault (R356, R364). -/
inductive PfKind | notPresent | malformed | write
  deriving DecidableEq, Repr

/-! ### Threads -/

/-- A prefix held for the word after it (R159). -/
structure Pfx where
  cap : Bool
  sat : Bool
  rnd : Rnd
  deriving DecidableEq, Repr

/-- What a scalar stream reads and writes; a group and a service thread each have one (R9, R327). -/
structure Thread where
  /-- pcs. -/
  pcs : DWord
  /-- s1-s63, zero where unlisted; s0 is never listed (R43). -/
  sregs : Tab DWord
  /-- Bit n = 1: sn is empty (R44, R53). -/
  sempty : BitVec 64
  em : Word
  /-- p1-p7, zero where unlisted (R58). -/
  preds : Tab Word
  /-- The committed flags register (R61). -/
  flags : Word
  pfx : Option Pfx
  deriving DecidableEq, Repr

/-- A monitor (R99). -/
structure Monitor where
  armed : Bool
  fired : Bool
  spad : Bool
  addr : DWord
  /-- The physical address of a global location. -/
  pa : Nat
  thr : DWord
  deriving DecidableEq, Repr

/-- A lane's draw state (R122, R126, R135). -/
structure Draw where
  cursor : Nat
  /-- The used mask m. -/
  used : Nat
  count : Nat
  fresh : Nat
  outcome : Word
  oset : Bool
  /-- Occurrences drawn, by site. -/
  occ : Tab Nat
  /-- The draw buffer: output entries of the open region, oldest first (R125). -/
  buf : List DWord
  deriving DecidableEq, Repr

def Draw.zero : Draw := ⟨0, 0, 0, 0, 0, false, [], []⟩

/-- A pixel lane's fragment identity (R142, R145, R263). -/
structure Frag where
  px : Nat
  py : Nat
  prim : Word
  inst : Word
  helper : Bool
  /-- Position in emission order. -/
  seq : Nat
  /-- The lane holds its pixel's order token. -/
  token : Bool
  /-- The lane has released it. -/
  done : Bool
  deriving DecidableEq, Repr

/-- A lane's own state besides its registers (R9, R27, R259). -/
structure Lane where
  glid : Word
  draw : Draw
  /-- Continuation stack, top first: function index and call record (R259). -/
  stack : List (Nat × Option Nat)
  frag : Option Frag
  /-- ENTRYPC of its thread record (R127). -/
  entry : DWord
  /-- Call records of lanes that a VRET of this lane left waiting: depth of its stack after that VRET, and record (R24, R261;
  log entry 94). -/
  owed : List (Nat × Nat)
  deriving DecidableEq, Repr

def Lane.zero : Lane := ⟨0, Draw.zero, [], none, 0, []⟩

/-! ### Stores, commands and atomics -/

/-- Bytes written at one place: scratchpad offset or virtual address, with the physical address of a global write; the lane
that writes them, 32 where no lane does. -/
structure Wr where
  spad : Bool
  va : DWord
  pa : Nat
  lane : Nat
  data : List Byte
  deriving DecidableEq, Repr

/-- The operation of an atomic request (R98). -/
inductive ReqOp
  | int (op : AtomOp)
  /-- VFATOM: 0 ADD, 1 MIN, 2 MAX (R250). -/
  | flt (op : Nat)
  /-- A redirected VFATOM.ADD into the team's slot (R251). -/
  | det
  | schunk (minc : Word)
  deriving DecidableEq, Repr

/-- One lane's operation of an atomic request; `lane` 32 is a scalar instruction. -/
structure AtLane where
  lane : Nat
  va : DWord
  pa : Nat
  opnd : DWord
  swap : DWord
  deriving DecidableEq, Repr

/-- An atomic request of one group (R388). -/
structure AtReq where
  g : Nat
  launch : Nat
  team : Nat
  req : Nat
  op : ReqOp
  wide : Bool
  /-- A page of it has SC = 1 (R93). -/
  sc : Bool
  lanes : List AtLane
  /-- Destination: a scalar register. -/
  sdst : Option Nat
  /-- Destination: main-file registers, (lane, first register). -/
  vdst : List (Nat × Nat)
  deriving DecidableEq, Repr

/-- Engine commands held until commit (R106). -/
inductive Cmd
  | stage
  | cpyred (op : Nat) (fmt : Fmt) (sat : Bool) (desc : DWord) (n : Word)
  | cpynet (desc v : DWord)
  /-- RTRACE with DELIV = 0: global lane ids with their record slots, and the counter (R284). -/
  | rtrace (lanes : List (Word × DWord)) (counter : DWord)
  /-- RTRACE.SHADE: the rays that its checks have made (R286). -/
  | shade (rays : List Nat)
  | replay (blk : DWord)
  deriving DecidableEq, Repr

/-- What a region holds for its commit, in program order (R28, R29, R106, R112). -/
inductive Held
  /-- A store of class LS or MX; `locks` are freed when it has performed (VSTUL); `slot`: it took a store-buffer entry;
  `hash`: it enters the store hash of R390; `sc`: its page has SC = 1. A commit hands it over cut into its indivisible words
  (R97), and its lock bits behind them. -/
  | store (path : PathClass) (ws : List Wr) (locks : List Nat) (slot hash sc : Bool)
  /-- A TST's entry whose rows the command has not yet taken (R271): the command's number. -/
  | tst (id : Nat)
  | fence (x y : PathClass) (sc : Scope)
  | cmd (c : Cmd)
  | atom (r : AtReq)
  /-- An arrival at a barrier: level × 16 + number (R115). -/
  | arrive (key : Nat)
  /-- Order tokens of lanes to release (R145). -/
  | token (lanes : Word)
  /-- Lock bits of a VSTUL, freed when its words have performed (R91). -/
  | unlock (locks : List Nat)
  /-- A push onto a queue, held until its commit, and behind a fence until the fence is past (R57, R112). -/
  | push (q : Nat)
  /-- A configuration of a queue: number, base, capacity (R211). -/
  | qcfg (q base cap : Nat)
  /-- A word that a scratchpad atomic has written, and that every other agent still reads as it was: offset, old bytes (R92,
  R112, R117). -/
  | shown (off : Nat) (old : List Byte)
  /-- Writes of a store that a later scratchpad atomic of its region has overwritten in the buffer: they only enter the store
  hash (R390; log entry 97). -/
  | over (ws : List Wr)
  deriving DecidableEq, Repr

/-! ### Regions -/

/-- Where a landing value goes, and what it is (R53). -/
structure Pending where
  id : Nat
  /-- Region generation of the instruction that issued it, and its reporting point. -/
  gen : Word
  pc : DWord
  sdst : Option (Nat × DWord)
  /-- (register × 32 + lane, value). -/
  vdst : List (Nat × Word)
  /-- A scratchpad return's z3 values, or a tile move's z1 values: (z register × 32 + lane, value). -/
  zdst : List (Nat × Word)
  /-- Address of the access, its first lane's (0 for a value of another kind). -/
  va : DWord
  /-- Stall reason while it is out: 16 a load or atomic, 17 an engine (R383). -/
  reason : Nat
  /-- The lanes whose data is on its way with an uncorrectable error, with their addresses; lane 32 is the scalar. -/
  bad : List (Nat × DWord)
  /-- An RRES's value is decided when it lands: the replays it covers (R288). -/
  rres : Option (List Nat)
  deriving DecidableEq, Repr

/-- The tiles, accumulators and tile controls of a group (R54, R59). -/
structure Tiles where
  /-- Bytes of t0-t7: tile × 4096 + offset, zero where unlisted. -/
  t : Tab Byte
  /-- Words of a0-a3: accumulator × 1024 + row × 32 + column. -/
  a : Tab Word
  tempty : BitVec 8
  aempty : BitVec 4
  tc : Tab Word
  deriving DecidableEq, Repr

def Tiles.zero : Tiles := ⟨[], [], 0, 0, []⟩

/-- The open region of a group, its checkpoint and what its commit will do (R28-R32, R135, R196, R215, R266). -/
structure Region where
  /-- False while the group stands between regions at a wait (R197). -/
  opened : Bool
  /-- The re-entry point. -/
  entry : DWord
  /-- The re-entry point is a REGION word. -/
  explicit : Bool
  held : List Held
  /-- The region has issued its global atomic (R30), and the registers it will write. -/
  atom : Bool
  /-- register × 32 + lane of the main file, 8192 + n for sn. -/
  atomDst : List Nat
  /-- Flags captured, and flags to clear (R61, R201). -/
  fset : Word
  fclr : Word
  /-- Tentative pops, by queue (R57), and pushes held, oldest first. -/
  pops : Tab Nat
  pushes : List (Nat × Word)
  /-- Lock bits the region acquired. -/
  locks : List Nat
  /-- Scratchpad words to restore, newest first (R92): offset and old bytes. -/
  undo : List (Nat × List Byte)
  /-- QCFG: queue, base, capacity (R211). -/
  qcfg : List (Nat × Nat × Nat)
  /-- SSHRINK (R213). -/
  shrink : Option Nat
  /-- Lanes that executed VEXIT, and lanes whose token VORDE releases. -/
  exited : Word
  orde : Word
  /-- Mesh writes: attribute words (vertex × 64 + k, data) and primitives (index, word). -/
  meshV : List (Nat × Word)
  meshP : List (Nat × Word)
  /-- The region declared the team's mesh counts. -/
  meshDecl : Bool
  /-- The divergences that no JOIN has ended, oldest first: em before each, and the effects held when it began, none where that
  was in an earlier region (R18, R108). -/
  divFrom : List (Word × Option Nat)
  /-- Its REGION waits to deliver this working set (R49, R196). -/
  waiting : Option (List Nat)
  ckLanes : Tab Lane
  ckTiles : Tiles
  deriving DecidableEq, Repr

def Region.zero : Region :=
  ⟨false, 0, false, [], false, [], 0, 0, [], [], [], [], [], none, 0, 0, [], [], false, [], none, [], Tiles.zero⟩

/-! ### Groups -/

/-- A running lane block (R14, R192). -/
structure Block where
  /-- Index of the next lane word, and words left. -/
  k : Nat
  n : Nat
  /-- The block ends its region. -/
  ends : Bool
  snap : Tab DWord
  snapEmpty : BitVec 64
  /-- Address of the LRUN. -/
  lrun : DWord
  deriving DecidableEq, Repr

/-- A producer that wrote a z register and may not have completed (R51, R171). -/
structure ZProd where
  age : Nat
  vals : List (Nat × Word)
  deriving DecidableEq, Repr

/-- What a group waits for (R34, R197, R383). -/
inductive Wait
  /-- The instruction at the program counter is tried again; the stall reason of R383. -/
  | retry (reason : Nat)
  /-- BARW and BAR after their commit: destination, level, number (R202). -/
  | barrier (d level n : Nat)
  /-- RINGP and RINGG after their commit (R22). -/
  | ring (producer : Bool) (k : Nat)
  | waitm
  | yield (target : DWord)
  | sgrow (b : Nat)
  | efence
  | exit
  deriving DecidableEq, Repr

/-- How a parked group resumes (R361). -/
inductive Resume | here | after | region | exit
  deriving DecidableEq, Repr

/-- A command in the group's Anvil queue (R268). Operands are those read at issue. -/
structure AnvilCmd where
  id : Nat
  word : Instr
  gen : Word
  /-- Its region has committed. -/
  committed : Bool
  act : Word
  /-- Rows of a transfer: virtual address or offset, and physical pieces (address, bytes), lowest first. -/
  rows : List (DWord × List (Nat × Nat))
  /-- The product's K. -/
  kdim : Nat
  /-- The format word, or the control word of the tile. -/
  fw : Word
  /-- Per-lane operands: (lane, words); the first destination register of a move to lanes. -/
  la : List (Nat × List Word)
  lb : List (Nat × List Word)
  /-- Lines a sparse TLD has read (R272). -/
  lines : List Byte
  /-- Destination registers of a move to lanes: register × 32 + lane. -/
  dst : List Nat
  /-- The barrier and phase a gated command waits on (R277). -/
  gate : Option (Nat × Nat)
  /-- A gated command may start. -/
  started : Bool
  /-- The operands it reads that were empty with no command before it to fill them (R268): it starts once they have been
  written; t0-t7 are 0-7 and a0-a3 are 8-11. -/
  wants : List Nat
  /-- Operands it reads that a later command has already overwritten, with their contents before that (log entry 55). -/
  kept : List (Nat × Tiles)
  /-- The words of its rows that a TLD has read. -/
  got : Tab Word
  deriving DecidableEq, Repr

/-- The register files of a group's lanes. -/
structure Files where
  /-- Main file: register × 32 + lane, zero where unlisted. -/
  v : Tab Word
  /-- Empty bits of the main file, false where unlisted. -/
  vempty : Tab Bool
  w : Tab Word
  /-- z0-z3: settled values, and producers that may be early (R51). -/
  z : Tab Word
  zp : Tab (List ZProd)
  /-- i0-i3: register × 32 + lane. -/
  i : Tab Word
  deriving DecidableEq, Repr

def Files.zero : Files := ⟨[], [], [], [], [], []⟩

/-- Scheduling and stop state of a group (R34, R334, R351, R361). -/
structure Sched where
  parked : Bool
  halted : Bool
  resume : Resume
  cause : Option Cause
  wait : Option Wait
  /-- Die cycle of residency, and consecutive ready cycles without issue. -/
  since : Nat
  ready : Nat
  /-- When it was promoted. -/
  promoted : Option Nat
  /-- Lane words may issue from this die cycle on (R171). -/
  notBefore : Nat
  /-- Die cycle of the next lock retry (R91). -/
  retryAt : Nat
  /-- Die cycle at which a VORDB wait began (R147). -/
  orderFrom : Option Nat
  /-- A discard came since its last issue (R381). -/
  again : Bool
  /-- The VORDB wait has raised its ORDER_STALL (R147). -/
  stalled : Bool
  /-- The instruction at hand has read a register word whose residue code does not match (R55): class [9:8], index [7:0]. -/
  upset : Option Word
  deriving DecidableEq, Repr

/-- A group (R9). -/
structure Group where
  team : Nat
  gidx : Nat
  thr : Thread
  flm : Word
  xm : Word
  /-- Blocks of the main file it holds (R45). -/
  blocks : Nat
  f : Files
  lanes : Tab Lane
  tl : Tiles
  anvil : List AnvilCmd
  regen : Word
  /-- The re-entry counters (R32). -/
  soft : Nat
  fault : Nat
  reg : Region
  blk : Option Block
  mon : Monitor
  pend : List Pending
  /-- Handed over by commits and not yet performed or released, oldest first (R109). -/
  inflight : List Held
  /-- Pending barrier arrivals: level × 16 + number → phase (R203). -/
  arrivals : Tab Nat
  /-- The latest arrival at each barrier with its phase, newest first (R203, R277, R381). -/
  lastArr : List (Nat × Nat)
  /-- Imprecise errors held: cause and address of the first, and further ones (R366). -/
  impr : Option (Cause × DWord × Nat)
  /-- Translation failures the walkers have reported: page, cause and kind. -/
  walks : List (Nat × Cause × Option PfKind)
  /-- The core's L1 is discarded before the group's next LS load (R112, R114). -/
  l1drop : Bool
  sch : Sched
  /-- Atomic requests, reducing copies and network copies it has released and that have not completed. -/
  outAt : Nat
  outCmd : Nat
  /-- It has ended or dissolved, and only what it handed over is still on its way (R48, R109, R262). -/
  gone : Bool
  /-- Register words whose residue code does not match their value (R55, R82): (class × 256 + index) × 32 + lane, with R167's
  classes; of s0-s63, indices 64 on of class 2, the lower half is lane 0 and the upper half lane 1. -/
  upset : List Nat
  deriving DecidableEq, Repr

def Thread.zero : Thread := ⟨0, [], 0, 0, [], 0, none⟩
def Monitor.zero : Monitor := ⟨false, false, false, 0, 0, 0⟩
def Sched.zero : Sched := ⟨false, false, .here, none, none, 0, 0, none, 0, 0, none, false, false, none⟩
def Group.zero : Group :=
  ⟨0, 0, Thread.zero, 0, 0, 0, Files.zero, [], Tiles.zero, [], 0, 0, 0, Region.zero, none, Monitor.zero, [], [], [], [],
   none, [], false, Sched.zero, 0, 0, false, []⟩

/-! ### Teams -/

/-- A stage ring (R22). -/
structure Ring where
  slots : Nat
  prod : Nat
  cons : Nat
  /-- Full slots: slot → phase. -/
  full : Tab Nat
  pcur : Nat
  pphase : Nat
  ccur : Nat
  cphase : Nat
  deriving DecidableEq, Repr

/-- A queue of a team (R56, R57, R211): ring base and capacity, committed head (an element count) and committed
elements; room reserved by pushes not yet visible; the group that holds tentative pops, and how many; pushes committed, in
commit order, and not yet visible: group, value, and whether its fences are past (R57, R112). -/
structure QueueReg where
  base : Nat
  cap : Nat
  head : Nat
  count : Nat
  reserved : Nat
  popper : Option Nat
  tent : Nat
  coming : List (Nat × Word × Bool)
  deriving DecidableEq, Repr

def QueueReg.off : QueueReg := ⟨0, 0, 0, 0, 0, none, 0, []⟩

/-- A barrier of a team or of a cross-team unit (R203, R370): phase count, arrivals (groups by index, or teams by
index), last arriver of the latest completed phase, and poison. A team keeps one for each cross-team barrier too: the phase
that a notice has brought, its groups' arrivals in the phase at hand, and whether its own arrival has been sent for it. -/
structure Barrier where
  phase : Nat
  arrived : List Nat
  last : Nat
  poisoned : Bool
  sent : Bool
  deriving DecidableEq, Repr

def Barrier.zero : Barrier := ⟨0, [], 0, false, false⟩

/-- A lane in Swage: key and what it carries (R24, R27). -/
structure SwLane where
  key : Nat
  lane : Lane
  regs : List (Nat × Word)
  /-- The lane covers its pixel (R142). -/
  cover : Bool
  deriving DecidableEq, Repr

/-- A bin of Swage (R24, R25), keyed by (ENTRY × 16 + BLOCKS) × 2^64 + SARGS: target, budget, argument block, lanes in sorted order, the die cycle of its last
arrival, and the die cycle in which it became ready. -/
structure Bin where
  entry : DWord
  blocks : Nat
  sargs : DWord
  lanes : List SwLane
  lastAt : Nat
  ready : Option Nat
  deriving DecidableEq, Repr

/-- A call record (R259, R260): lanes outstanding, and the lanes that wait, with the functions they continue at. -/
structure CallRec where
  count : Nat
  waiting : List (Nat × SwLane)
  deriving DecidableEq, Repr

/-- An entry of a schedule, parsed (R100). -/
structure SEntry where
  saddr : DWord
  daddr : DWord
  stampa : DWord
  tstride : DWord
  isaddr : DWord
  idaddr : DWord
  srow : DWord
  drow : DWord
  rowbytes : Nat
  rows : Nat
  stage : Nat
  sspad : Bool
  dspad : Bool
  stspad : Bool
  deriving DecidableEq, Repr

/-- A descriptor of CPYNET, parsed (R282). -/
structure NetDesc where
  src : DWord
  lstamp : DWord
  rstamp : DWord
  relt : Nat
  bytes : Nat
  peer : Nat
  tc : Nat
  sspad : Bool
  lspad : Bool
  ok : Bool
  /-- Its place in the order of release (R406). -/
  rel : Nat
  deriving DecidableEq, Repr

/-- A copy of a team's Bellows (R101, R283). -/
inductive Copy
  /-- An entry of the static schedule as it was released: entry index, counter value, iteration, and the payload words not yet
  moved, none before the first moves. -/
  | sched (e c j : Nat) (x : SEntry) (left : Option (List Nat))
  /-- CPYNET: issuing group, descriptor address, V, descriptor as it was read at release; transmitted, late bit. -/
  | net (g : Nat) (desc v : DWord) (d : NetDesc) (sent late : Bool)
  deriving DecidableEq, Repr

/-- States of a team (R371). -/
inductive TeamState | queued | running | vacating | saved | exported | ended | terminated
  deriving DecidableEq, Repr

/-- A team (R10). -/
structure Team where
  launch : Nat
  idx : Nat
  core : Nat
  st : TeamState
  cls : Nat
  /-- Its groups by index. -/
  groups : Tab Nat
  /-- Base of its window in the core's scratchpad, and size in bytes (R88, R89). -/
  base : Nat
  size : Nat
  /-- Window contents, zero where unlisted. -/
  spad : List Host.Cell
  stage : Nat
  rings : Tab Ring
  bars : Tab Barrier
  queues : Tab QueueReg
  recs : Tab CallRec
  bins : Tab Bin
  /-- Copies released and not completed, by number (R101), and copies waiting for one of the 16 places. -/
  copies : Tab Copy
  copyq : List Copy
  /-- Lock bits that saved groups hold (R374): bit → group index. -/
  locks : Tab Nat
  /-- Mesh counts V and P, attribute words and primitives (R138, R264). -/
  mesh : Option (Nat × Nat)
  meshV : Tab Word
  meshP : Tab Word
  /-- The team of a draw's stage (R137): 1 task, 2 mesh, 3 software raster, 4 pixel; 0 for a compute team. -/
  stage2 : Nat
  /-- A team stop is in progress (R384), with the groups that executed BRK. -/
  stop : Option (List Nat)
  /-- Save-area address of its image (R372). -/
  image : Option Nat
  /-- First-lane marks of members that ended, and the group count at the start. -/
  started : Bool
  /-- Window offsets of queue elements whose residue code does not match (R55, R82). -/
  upset : List Nat
  deriving DecidableEq, Repr

def Team.zero : Team :=
  ⟨0, 0, 0, .queued, 0, [], 0, 0, [], 0, [], [], [], [], [], [], [], [], none, [], [], 0, none, none, false, []⟩

/-! ### Launches -/

/-- A launch record (R336), parsed. -/
structure LRec where
  id : Word
  flags : Word
  seed : DWord
  sbase : DWord
  slen : Nat
  llen : Nat
  lbase : DWord
  entry : DWord
  teams : Nat
  tgrps : Nat
  blocks : Nat
  spad : Nat
  nlev : Nat
  levels : List Word
  roles : Word
  rings : List (Nat × Nat)
  args : DWord
  stack : DWord
  stackSz : Nat
  rtCount : Nat
  rtBase : DWord
  ftBase : DWord
  ftCount : Nat
  csCount : Nat
  csBase : DWord
  sched : DWord
  rwBase : DWord
  rwCount : Nat
  cap : Nat
  ivBase : DWord
  ovBase : DWord
  recBase : DWord
  detBase : DWord
  detWords : Nat
  present : Word
  psBase : DWord
  splitBase : DWord
  drawExt : DWord
  deriving DecidableEq, Repr

def LRec.zero : LRec :=
  ⟨0, 0, 0, 0, 0, 0, 0, 0, 1, 1, 1, 0, 2, [], 0, [], 0, 0, 0, 0, 0, 0, 0, 0, 0, 0, 0, 0, 0, 0, 0, 0, 0, 0, 0, 0, 0, 0⟩

/-- A draw extension (R340), parsed, with clsf_area (R140). -/
structure DExt where
  taskE : DWord
  meshE : DWord
  rastE : DWord
  psTab : DWord
  maxV : Nat
  maxP : Nat
  attrW : Nat
  cull : Nat
  area : Nat
  visBase : DWord
  deriving DecidableEq, Repr

/-- A reducing copy held by a region's controller (R102, R281). -/
structure Reduction where
  g : Nat
  team : Nat
  region : Nat
  n : Nat
  op : Nat
  fmt : Fmt
  sat : Bool
  src : DWord
  dst : DWord
  bytes : Nat
  stamp : DWord
  /-- The address of its descriptor. -/
  desc : DWord
  /-- The elements not yet updated, none before the first is. -/
  left : Option (List Nat)
  deriving DecidableEq, Repr

/-- The order log or gate of one atomic unit in one launch (R388, R389): chunks written, last requester and run, stopped or open;
of a gate, whether it has read its segment, the chunks that remain, and how often the head chunk has been used (R391). -/
structure RrLog where
  n : Nat
  last : Nat
  run : Nat
  stopped : Bool
  loaded : Bool
  chunks : List DWord
  deriving DecidableEq, Repr

def RrLog.zero : RrLog := ⟨0, 0, 0, false, false, []⟩

/-- A record-replay descriptor in force (R387). -/
structure RrDesc where
  mode : Nat
  logBase : DWord
  segSize : Nat
  hcap : Nat
  hashBase : DWord
  divBase : DWord
  /-- Divergence records written. -/
  divs : Nat
  deriving DecidableEq, Repr

def RrDesc.off : RrDesc := ⟨0, 0, 0, 0, 0, 0, 0⟩

/-- A launch that has been submitted (R341, R344). -/
structure Launch where
  ctx : Nat
  queue : Nat
  lr : LRec
  ext : Option DExt
  /-- Relaunch of Dusk: replay number and iteration (R131). -/
  replay : Option (Nat × Nat)
  /-- The fields of its queue entry (R343): completion stamp, deadline, estimate slot, level, T. -/
  doneA : DWord
  doneV : DWord
  deadline : DWord
  eslot : Nat
  level : Nat
  t0 : Nat
  rejected : Bool
  /-- Teams not yet placed start here; teams requeued go first (R372). -/
  nextTeam : Nat
  requeued : List Nat
  /-- Teams ended or terminated. -/
  finished : Nat
  failed : Bool
  /-- Team indices whose Quench slots are omitted (R369). -/
  omitted : List Nat
  quenched : Bool
  xbars : Tab Barrier
  /-- Expected sequence number of each reduction region (R102). -/
  rexp : Tab Nat
  reds : Tab Reduction
  rr : RrDesc
  logs : Tab RrLog
  /-- Store hashes by requester: h and j (R390). -/
  hash : Tab (DWord × Nat)
  /-- Pixel lanes emitted, and primitives routed to the fixed and the software path (R139, R142). -/
  frags : Nat
  fixed : List Nat
  soft : List Nat
  /-- Cores that pre-emption has taken from the launch (R39, R348; log entry 62). -/
  barred : List Nat
  /-- Cores that own the draw's screen tiles: (y / 32) × 2^32 + x / 32 → core (R142). -/
  tiles : Tab Nat
  /-- Mesh teams that the ended task teams of a draw have asked for (R137; log entry 30). -/
  meshes : Nat
  done : Bool
  deriving DecidableEq, Repr

def Launch.zero : Launch :=
  ⟨0, 0, LRec.zero, none, none, 0, 0, 0, 0, 0, 0, false, 0, [], 0, false, [], false, [], [], [], RrDesc.off, [], [], 0, [], [],
   [], [], 0, false⟩

/-! ### Engines -/

/-- What a ray is at, beside its STATUS (R150): held behind what its group handed over before it (R106, R286), queued for an
engine, running on one, suspended by CALLB, waiting for service, ended and to be counted or delivered. A ray that has finished is
no longer listed. -/
inductive RayState | held | queued | running | callback | waiting | counting | delivering
  deriving DecidableEq, Repr

/-- A stack entry of a ray (R149). -/
structure RayEntry where
  node : DWord
  dist : Word
  data : Word
  deriving DecidableEq, Repr

/-- A ray (R148-R153). `words` is the ray-state record's fields as words, 32 of them, lowest address first. -/
structure Ray where
  launch : Nat
  team : Nat
  /-- The group that issued it. -/
  g : Nat
  slot : DWord
  counter : DWord
  /-- DELIV = 1: shader table, and the lane that waits for the ray. -/
  shade : Option (DWord × SwLane)
  st : RayState
  core : Nat
  words : List Word
  stack : List RayEntry
  /-- The ray has not yet had its first step. -/
  first : Bool
  /-- The words of its node that the FETCH at hand has read. -/
  got : Tab Word := []
  deriving DecidableEq, Repr

/-- A thread of a REPLAY (R131, R132): its record, output vector and descriptor as Dusk has read them, its global lane id
and entry point, a fault code found before it could run, and whether its lane is in its team and its result word is
written. -/
structure RThread where
  orig : List Byte
  vec : List DWord
  desc : List Byte
  glid : Word
  entry : DWord
  fault : Nat
  placed : Bool
  done : Bool
  /-- Its result word, performed for the RP path and not yet for the others (R110, R118). -/
  word : List Byte
  deriving DecidableEq, Repr

/-- A REPLAY handed to Dusk (R287, R288): its block's address and bytes, the relaunch, its threads, and the result words
with ACC = 1. -/
structure Replay where
  g : Nat
  launch : Nat
  blk : DWord
  /-- The fences of its commit no longer hold it back. -/
  released : Bool
  /-- Dusk has read its block. -/
  started : Bool
  bytes : List Byte
  relaunch : Option Nat
  /-- The original launch's seed (R134). -/
  seed : DWord
  threads : List RThread
  acc : Nat
  /-- The block could not be read or breaks its layout. -/
  failed : Bool
  /-- An RRES covers it: in the open region of this generation, or for good. -/
  cover : Option Word
  covered : Bool
  deriving DecidableEq, Repr

/-! ### Cores, quads, dies -/

/-- States of a scratchpad lock bit (R90). -/
inductive Lock
  | free
  | tentative (g : Nat) (n : Word)
  | held (g : Nat)
  | atomic (g : Nat) (n : Word)
  deriving DecidableEq, Repr

/-- A TLB entry (R357). -/
structure TlbEntry where
  asid : Nat
  part : Nat
  /-- First page number (VA[57:14]) and pages covered. -/
  vpn : Nat
  pages : Nat
  pte : DWord
  deriving DecidableEq, Repr

/-- A request of the register arbiter that is kept with it: a group's SGROW to `b` blocks, and the die cycle in which it
reached the arbiter (R46). A ready bin and a team to be placed are requests too; they stand with their team and their launch. -/
inductive RegReq
  | sgrow (g b cyc : Nat)
  deriving DecidableEq, Repr

/-- A line of an L1 data cache: its virtual tag with its ASID, its physical tag, and its bytes (R359). -/
structure L1Line where
  asid : Nat
  /-- VA[57:7] and the physical address's bits from 7 on. -/
  vl : Nat
  pl : Nat
  data : List Byte
  deriving DecidableEq, Repr

/-- A core. Everything zero, empty or free where unlisted. -/
structure Core where
  /-- Clean lines of the L1 data cache (R95, R359). -/
  l1 : List L1Line
  tlb : List TlbEntry
  /-- Lock bits: bank × 8 + bit. -/
  locks : Tab Lock
  /-- Main-file blocks granted. -/
  used : Nat
  /-- Quarantined blocks with the number of writes outstanding into them (R48). -/
  quar : List (Nat × Nat)
  arb : List RegReq
  /-- Scratchpad windows taken: (base, size). -/
  wins : List (Nat × Nat)
  /-- Trace unit: traced group, records written and dropped (R379-R383). -/
  traced : Option Nat
  /-- The die cycle from which a group may be traced (R380). -/
  retrace : Nat
  written : Nat
  dropped : Nat
  /-- By scheduler: group sampled last, and the cycle; group that issued last, the cycle, and whether it was promoted. -/
  lastSlot : Tab (Nat × Nat)
  lastIssue : Tab (Nat × Nat × Bool)
  deriving DecidableEq, Repr

def Core.zero : Core := ⟨[], [], [], 0, [], [], [], none, 0, 0, 0, [], []⟩

/-- A walk in a die's queue (R358). -/
structure Walk where
  asid : Nat
  part : Nat
  vpn : Nat
  /-- Groups whose accesses share it: group, core. -/
  who : List (Nat × Nat)
  deriving DecidableEq, Repr

/-- A pointer entry of a die's walk cache (R357): the level of the table it was read from, the virtual address bits above that
level's page, and the table it points to. -/
structure WalkPtr where
  asid : Nat
  part : Nat
  level : Nat
  pre : Nat
  table : Nat
  deriving DecidableEq, Repr

/-- What a pending barrier message says (R400): launch, level, unit, number; an arrival of a team, or a notice of a
phase to a core. -/
structure BarMsg where
  launch : Nat
  level : Nat
  unit : Nat
  n : Nat
  team : Nat
  phase : Nat
  deriving DecidableEq, Repr

/-- What has reached the core channel of a die and waits to enter its core domain (R399): a value for a group, a barrier notice, a
ray for Swage. -/
inductive Flit
  | value (g id : Nat)
  | notice (m : BarMsg)
  | hit (ray : Nat)
  deriving DecidableEq, Repr

/-- A die (R394-R398). -/
structure Die where
  mhz : Nat
  cyc : Nat
  /-- The CYCN accumulator A. -/
  acc : Nat
  /-- TIME in ns, and its fraction in units of 1 / (mhz × 10^6) ns. -/
  time : Nat
  frac : Nat
  /-- Rate correction in ppm (R398). -/
  ppm : Int
  /-- The core clock is stopped by a relock that began at this TIME, or by a thermal trip. -/
  relock : Option Nat
  tripped : Bool
  /-- Clock steps accepted and not finished: (new frequency), oldest first. -/
  steps : List Nat
  walks : List Walk
  /-- The walk cache (R357). -/
  ptrs : List WalkPtr
  /-- Issue units that have issued, or had nothing to issue, in the cycle at hand: 4 × core + scheduler, service cores from 1152
  on (R34). -/
  busy : List Nat
  /-- The clock-crossing FIFOs of its core channel in the order of arrival, what its links' ports withhold behind them (R399,
  R401; log entry 107). -/
  fifo : List Flit
  deriving DecidableEq, Repr

/-- A die at reset: no frequency is given, so the 1,400 MHz of the normalised cycle (log entry 10). -/
def Die.zero : Die := ⟨1400, 0, 0, 0, 0, 0, none, false, [], [], [], [], []⟩

/-! ### Service threads -/

/-- A service thread (R327, R329). -/
structure Svc where
  thr : Thread
  sstat : DWord
  epc : DWord
  ecause : DWord
  einfo : DWord
  svec : DWord
  escr : DWord
  /-- Record addresses of pending events, oldest first. -/
  evs : List DWord
  /-- Not running: never started, or stopped by a trap with IE = 0 (R330). -/
  stopped : Bool
  halted : Bool
  inHandler : Bool
  mon : Monitor
  /-- A wait: WAITM or YIELD. -/
  wait : Option Wait
  /-- PREEMPTs whose images are not all written: the register that is empty meanwhile, its status, and the teams they vacate, none
  while it waits behind a SWITCH (R333, R334, R377). -/
  jobs : List (Nat × Nat × Option (List Nat))
  /-- The stop record of its halt (R368): whether it was in its handler, ecause, and the address of its next instruction. -/
  stop : Option (Bool × DWord × DWord)
  deriving DecidableEq, Repr

/-- R329: PPL and PL are 1 at reset. -/
def Svc.zero : Svc :=
  ⟨Thread.zero, 0x30, 0, 0, 0, 0, 0, [], true, false, false, Monitor.zero, none, [], none⟩

/-- A semaphore slot: holder endpoint (false A) and expiry (R335). -/
structure Sem where
  holder : Bool
  expiry : Nat
  /-- LEASE_EXPIRED has been written for this lease (R415). -/
  told : Bool
  deriving DecidableEq, Repr

/-! ### Contexts, virtual functions, partitions -/

/-- Who waits for the RESOLVE of a served record (R365). -/
inductive Waiter | group (g : Nat) | ray (r : Nat)
  deriving DecidableEq, Repr

/-- A fault record before it is written (R364). -/
structure FaultRec where
  ctx : Nat
  cause : Cause
  kind : Nat
  path : Nat
  seq : Nat
  source : Nat
  launch : Word
  team : Word
  group : Nat
  pfkind : Nat
  asid : Nat
  flm : Word
  aux32 : Word
  pc : DWord
  addr : DWord
  time : Nat
  aux64 : DWord
  /-- The agent that waits for RESOLVE, where the resident service serves the record. -/
  waiter : Option Waiter
  deriving DecidableEq, Repr

/-- A record that waits for RESOLVE (R365). -/
structure Outstanding where
  seq : Nat
  source : Nat
  asid : Nat
  page : Nat
  cause : Cause
  pfkind : Nat
  groups : List Nat
  rays : List Nat
  deriving DecidableEq, Repr

/-- An event record (R414). -/
structure EventRec where
  source : Nat
  seq : Nat
  ty : Nat
  time : Nat
  data : DWord
  deriving DecidableEq, Repr

/-- A peer of R405. -/
structure Peer where
  faddr : List Byte
  job : Nat
  ports : Nat
  admission : Nat
  deriving DecidableEq, Repr

/-- A profiling session (R385): block address, selectors, the counter words it found, counts. -/
structure Prof where
  addr : DWord
  sel : List Nat
  base : List Nat
  cnt : Tab Nat
  deriving DecidableEq, Repr

/-- A queue of a context as the device holds it (R341, R344, R350). -/
structure Queue where
  base : DWord
  size : Nat
  cls : Nat
  render : Bool
  frame : Bool
  wdog : Nat
  head : Nat
  tail : Nat
  /-- The launch dispatched last, until every team of it has been placed. -/
  last : Option Nat
  /-- Kept durations: slot × 4 + level → newest last. -/
  est : Tab (List Nat)
  valid : Bool
  /-- clsf_area (R140). -/
  area : Nat
  /-- The location at WAITA of the entry at HEAD has been seen at WAITV or above (R344). -/
  reached : Bool
  deriving DecidableEq, Repr

def Queue.zero : Queue := ⟨0, 0, 0, false, false, 20, 0, 0, none, [], false, 0x200, false⟩

/-- A context (R376). -/
structure Ctx where
  vf : Nat
  /-- Its rings and queue table were named by physical addresses (a host request, R412). -/
  phys : Bool
  asid : Nat
  job : Nat
  frBase : DWord
  frSize : Nat
  frHead : Nat
  frTail : Nat
  evBase : DWord
  evSize : Nat
  evHead : Nat
  evTail : Nat
  qtBase : DWord
  qCount : Nat
  queues : Tab Queue
  peers : Tab Peer
  rr : RrDesc
  profs : List Prof
  out : List Outstanding
  /-- Events held while the ring is full (R414). -/
  evHeld : List EventRec
  deriving DecidableEq, Repr

def Ctx.zero : Ctx := ⟨0, false, 0, 0, 0, 0, 0, 0, 0, 0, 0, 0, 0, 0, [], [], RrDesc.off, [], [], []⟩

/-- A virtual function (R376). -/
structure Vf where
  part : Nat
  /-- Core quota, 0 for none. -/
  quota : Nat
  active : Option Nat
  ctxs : List Nat
  /-- The outside is between steps 1 and 4 of SWITCH (R377): the context to activate. -/
  switching : Option Nat
  deriving DecidableEq, Repr

def Vf.zero : Vf := ⟨0, 0, none, [], none⟩

/-- A trace descriptor in force (R379). -/
structure Trace where
  bufBase : Nat
  segKib : Nat
  sper : Nat
  mode : Nat
  cqueue : Nat
  claunch : Word
  cteam : Word
  cgroup : Nat
  deriving DecidableEq, Repr

/-- A partition (R375). -/
structure Part where
  quads : List Nat
  saveBase : Nat
  saveMib : Nat
  vfs : List Nat
  trace : Option Trace
  deriving DecidableEq, Repr

def Part.zero : Part := ⟨[], 0, 0, [], none⟩

/-- A decoder of a CXL port (R408). -/
structure Decoder where
  part : Nat
  base : Nat
  size : Nat
  dpa : Nat
  dev : Nat
  deriving DecidableEq, Repr

/-- A frame admission (R406). -/
structure Admit where
  ports : Nat
  hops : Nat
  part : Nat
  rate : Nat
  maxMsg : Nat
  bound : Nat
  deriving DecidableEq, Repr

/-- An image slot of the boot flash, as its bytes are laid out (R416). -/
structure Image where
  version : Nat
  svn : Nat
  length : Nat
  rest : List Byte
  key : List Byte
  sig : List Byte
  body : List Byte
  deriving DecidableEq, Repr

/-- A response to a service request (R410). -/
structure Resp where
  endpointB : Bool
  seq : Word
  cmd : BitVec 16
  status : Nat
  result : List Byte
  deriving DecidableEq, Repr

/-- What waits behind a SWITCH of a virtual function (R377): a request, accepted or not yet looked at; or a service thread's PREEMPT
of a launch, with its register and number of cores. -/
inductive Queued
  | req (q : Req) (accepted : Bool)
  | preempt (t d l n : Nat)
  deriving DecidableEq, Repr

/-- An endpoint's event ring (R414): the records written, oldest first, whose number is TAIL; HEAD; and the records held. -/
structure EvRing where
  recs : List EventRec
  head : Nat
  held : List EventRec
  deriving DecidableEq, Repr

def EvRing.zero : EvRing := ⟨[], 0, []⟩

/-- Identity, boot and control (R410-R418). -/
structure Control where
  bootPending : Bool
  bootFailed : Bool
  /-- Fuses: key hash, rollback counter, ML-DSA-44 seed. -/
  keyHash : List Byte
  rollback : Nat
  fuseSeed : List Byte
  flash : Tab Image
  activeSlot : Nat
  /-- The slot that runs, and the body that service threads fetch from (log entry 12). -/
  running : Option Nat
  image : List Byte
  /-- The accepted feature word, once negotiated (R413). -/
  feature : Option (BitVec 256)
  capW : Nat
  /-- Responses written, oldest first. -/
  resps : List Resp
  /-- The event rings of endpoints A and B. -/
  evA : EvRing
  evB : EvRing
  /-- Commands that wait behind a SWITCH of their virtual function, in their order of arrival (R377). -/
  waiting : List Queued
  /-- Unit, by its SOURCE → the second of TIME in which it last sent CORRECTED (R419). -/
  corrected : Tab Nat
  /-- The service thread that issued last on each service core. -/
  svcTurn : Tab Nat
  deriving DecidableEq, Repr

/-- The state of the device. -/
structure State where
  /-- Physical memory, zero where unlisted (log entry 8). -/
  mem : List Host.Cell
  /-- Physical lines that hold an uncorrectable error. -/
  bad : List Nat
  dies : Tab Die
  cores : Tab Core
  /-- The quads' L2 TLBs (R357). -/
  quadTlb : Tab (List TlbEntry)
  /-- The model's own: entries that TLBs have dropped and no maintenance has removed; accesses translated through them may still be
  held (R360). -/
  evicted : List TlbEntry
  groups : Tab Group
  teams : Tab Team
  /-- Launches by launch sequence number, and the next number (R341). -/
  launches : Tab Launch
  nextSeq : Nat
  rays : Tab Ray
  replays : Tab Replay
  /-- The atomic units' queues, by unit 64d + s (R98, R387). -/
  units : Tab (List AtReq)
  arrivals : List BarMsg
  notices : List BarMsg
  svcs : Tab Svc
  sems : Tab Sem
  /-- The ASID table (R353). -/
  asids : Tab DWord
  /-- Hearth steps: die × 8 + step → partition and RESIDENT (R355). -/
  hearth : Tab (Nat × Bool)
  ctxs : Tab Ctx
  vfs : Tab Vf
  parts : Tab Part
  /-- CXL decoders: port × 8 + decoder. -/
  decoders : Tab Decoder
  /-- Link states and their die's TIME when they began: CXL ports 0-15, network ports at 16 + port; up where unlisted. -/
  links : Tab (LinkState × Nat)
  admits : Tab Admit
  ctl : Control
  /-- Fault records not yet written, oldest first (R363), and sequence counts by source. -/
  faults : List FaultRec
  seqs : Tab Nat
  evSeqs : Tab Nat
  /-- The thread that runs scalar words in the step at hand. -/
  cur : Agent
  /-- The outside's choice of coming steps; empty lets the machine choose (log entry 9). -/
  agenda : List Instr
  /-- Where the machine's own choice of an issue begins; where its choice of a pending event begins; whether an issue comes next
  (R35; log entry 9). -/
  turn : Nat
  evTurn : Nat
  issueNext : Bool
  /-- Issue class → queues that the distributor has served, least recently first, each as 65536 ctx + queue (R344). -/
  served : Tab (List Nat)
  /-- Counts the free values taken (log entry 3). -/
  free : Nat
  deriving DecidableEq, Repr

/-- Why the machine stops. -/
inductive Fault
  /-- A scalar or lane instruction is executed with no thread to execute it: `exec` called on a state between issues,
  which `step` never does. Safe. -/
  | noIssuer
  deriving DecidableEq, Repr

/-- Why an instruction is refused. -/
inductive Refusal
  /-- An arm that has no meaning yet; raised by `exec` alone. Safe. -/
  | notModelled (mnemonic : String)
  deriving DecidableEq, Repr

/-- The outcome of a step. -/
abbrev Out := Host.Outcome State Fault Refusal

/-- Boot and control at reset (R416, R413): the ROM has not run; fuses and flash hold what the outside gave them, here
nothing (log entry 11). -/
def Control.reset : Control :=
  ⟨true, false, [], 0, [], [], 0, none, [], none, 2000, [], EvRing.zero, EvRing.zero, [], [], []⟩

/-- The machine right after reset. -/
def State.reset : State :=
  ⟨[], [], [], [], [], [], [], [], [], 1, [], [], [], [], [], [], [], [], [], [], [], [], [], [], [], Control.reset, [], [], [],
   .none, [], 0, 0, false, [], 0⟩

end Sys2Proof.Machine
end

