-- ==== Sys2Proof/Machine/Num.lean ====
section
/-! DEFINITION. Number formats and exact arithmetic (R63-R74, R80-R85): values as exact rationals, one rounding, one
saturation. Encodings are natural numbers below 2^w. -/

namespace Sys2Proof.Machine

/-! ### Flags (R61) -/

def fNV : Word := 4
def fDZ : Word := 8
def fOF : Word := 16
def fUF : Word := 32
def fNX : Word := 64
def fSAT : Word := 128

/-! ### Values -/

/-- An exact value with its class (R69, R85): a signed rational `n / d`, signed zero and infinity, NaN. -/
inductive Val
  | num (neg : Bool) (n d : Nat)
  | inf (neg : Bool)
  | nan (signalling : Bool)
  deriving DecidableEq, Repr

/-- Fraction width and bias of a floating-point format (R63). -/
def fracBits : Fmt → Nat
  | .f32 => 23 | .f16 => 10 | .b16 => 7 | .e4m3 => 3 | .e5m2 => 2 | .e2m1 => 1 | _ => 0
def bias : Fmt → Nat
  | .f32 => 127 | .f16 => 15 | .b16 => 127 | .e4m3 => 7 | .e5m2 => 15 | .e2m1 => 1 | _ => 0

/-- Encoding of the largest finite value (R63). -/
def maxEnc : Fmt → Nat
  | .f32 => 0x7F7FFFFF | .f16 => 0x7BFF | .b16 => 0x7F7F | .e4m3 => 0x7E | .e5m2 => 0x7B | .e2m1 => 0x7 | _ => 0

/-- Whether a format has infinities (R63). -/
def hasInf : Fmt → Bool
  | .e4m3 | .e2m1 => false
  | _ => true

/-- The canonical NaN of a format (R65); E2M1 has none and takes +0. -/
def canonNan : Fmt → Nat
  | .f32 => 0x7FC00000 | .f16 => 0x7E00 | .b16 => 0x7FC0 | .e4m3 => 0x7F | .e5m2 => 0x7E | _ => 0

/-- Encoding of +∞ where a format has one. -/
def infEnc (f : Fmt) : Nat := maxEnc f + 1

/-- 2^e of an integer exponent, as numerator and denominator. -/
def pow2 (e : Int) : Nat × Nat := if 0 ≤ e then (2 ^ e.toNat, 1) else (1, 2 ^ (-e).toNat)

/-- The sign bit of an encoding. -/
def signBit (f : Fmt) : Nat := 2 ^ (Fmt.width f - 1)

/-- `to_real` of a floating-point encoding (R63, R85). -/
def toVal (f : Fmt) (bits : Nat) : Val :=
  let neg := decide (signBit f ≤ bits)
  let mag := bits % signBit f
  let mb := fracBits f
  if maxEnc f < mag then
    if hasInf f && mag == infEnc f then .inf neg
    else .nan (f != .e4m3 && mag % 2 ^ mb < 2 ^ (mb - 1))
  else
    let e := mag / 2 ^ mb
    let fr := mag % 2 ^ mb
    let (sig, ex) : Nat × Int := if e = 0 then (fr, 1 - (bias f : Int)) else (2 ^ mb + fr, (e : Int) - bias f)
    let (p, q) := pow2 (ex - mb)
    .num neg (sig * p) q

/-- The value of an integer encoding of width `w`. -/
def intOf (signed : Bool) (w bits : Nat) : Int :=
  let b := bits % 2 ^ w
  if signed && decide (2 ^ (w - 1) ≤ b) then (b : Int) - 2 ^ w else b

/-- An integer as a value. -/
def ofInt (i : Int) : Val := .num (decide (i < 0)) i.natAbs 1

/-! ### Rounding -/

/-- Whether a magnitude between two neighbours is rounded away from zero (R68): `r` the lower neighbour, `rem / den` the
rest. -/
def roundsUp (m : Rnd) (neg : Bool) (r rem den : Nat) : Bool :=
  match m with
  | .rne => den < 2 * rem || (2 * rem == den && r % 2 == 1)
  | .rtz => false
  | .rup => !neg && rem != 0
  | .rdn => neg && rem != 0
  | .rna => den ≤ 2 * rem

/-- `n / d` rounded to an integer magnitude. -/
def roundNat (m : Rnd) (neg : Bool) (n d : Nat) : Nat :=
  n / d + if roundsUp m neg (n / d) (n % d) d then 1 else 0

/-- The exponent of a positive rational: the greatest e with 2^e ≤ n / d. -/
def ilog2 (n d : Nat) : Int :=
  let k : Int := (Nat.log2 n : Int) - Nat.log2 d
  let (p, q) := pow2 k
  if p * d ≤ n * q then k else k - 1

/-- A nonzero rational in units of 2^q, rounded: the rounded count, and whether it is exact. -/
def roundAt (m : Rnd) (neg : Bool) (n d : Nat) (q : Int) : Nat × Bool :=
  let (a, b) := pow2 q
  let n' := n * b
  let d' := d * a
  (roundNat m neg n' d', n' % d' == 0)

/-- Step 5 of R69, and the clamp of R71 under saturation. -/
def overflow (f : Fmt) (m : Rnd) (sat neg : Bool) : Nat × Word :=
  let toInf := match m with
    | .rne | .rna => true
    | .rtz => false
    | .rup => !neg
    | .rdn => neg
  let s := if neg then signBit f else 0
  if sat then (s + maxEnc f, fSAT)
  else if !toInf then (s + maxEnc f, 0)
  else if f == .e4m3 then (canonNan f, fNV)
  else if f == .e2m1 then (s + maxEnc f, 0)
  else (s + infEnc f, 0)

/-- `round_to` of a floating-point format, with `saturate` where it is requested (R69-R71). -/
def roundTo (f : Fmt) (m : Rnd) (sat : Bool) (x : Val) : Nat × Word :=
  match x with
  | .nan _ => (canonNan f, if f == .e2m1 then fNV else 0)
  | .inf neg =>
    if hasInf f && !sat then ((if neg then signBit f else 0) + infEnc f, 0)
    else overflow f m sat neg
  | .num neg n d =>
    let s := if neg then signBit f else 0
    if n = 0 then (s, 0)
    else
      let mb := fracBits f
      let emin : Int := 1 - (bias f : Int)
      let e := ilog2 n d
      let e' := max e emin
      let (r, exact) := roundAt m neg n d (e' - mb)
      let enc := (e' - emin).toNat * 2 ^ mb + r
      if maxEnc f < enc then
        let (b, fl) := overflow f m sat neg
        (b, fl ||| fOF ||| fNX)
      else
        let tiny := decide (e < emin) && !(decide (e + 1 = emin) && (roundAt m neg n d (e - mb)).1 == 2 ^ (mb + 1))
        (s + enc, (if exact then 0 else fNX) ||| (if tiny && !exact then fUF else 0))

/-- Limits of an integer format. -/
def intMin (signed : Bool) (w : Nat) : Int := if signed then -(2 ^ (w - 1) : Int) else 0
def intMax (signed : Bool) (w : Nat) : Int := if signed then 2 ^ (w - 1) - 1 else 2 ^ w - 1

/-- The pattern of an integer in `w` bits. -/
def patOf (w : Nat) (i : Int) : Nat := (i % (2 ^ w : Int)).toNat

/-- `saturate` of an integer format (R71): the pattern and SATF. -/
def satInt (signed : Bool) (w : Nat) (i : Int) : Nat × Word :=
  if i < intMin signed w then (patOf w (intMin signed w), fSAT)
  else if intMax signed w < i then (patOf w (intMax signed w), fSAT)
  else (patOf w i, 0)

/-- An exact integer delivered in `w` bits: wrapped, or saturated on request (R67). -/
def putInt (signed : Bool) (w : Nat) (sat : Bool) (i : Int) : Nat × Word :=
  if sat then satInt signed w i else (patOf w i, 0)

/-- `round_to` of an integer format (R69): out of range saturates with NV, and with SATF where saturation is requested (R71); NaN
gives 0 with NV. -/
def roundToInt (signed : Bool) (w : Nat) (m : Rnd) (sat : Bool) (x : Val) : Nat × Word :=
  match x with
  | .nan _ => (0, fNV)
  | .inf neg => (patOf w (if neg then intMin signed w else intMax signed w), fNV ||| if sat then fSAT else 0)
  | .num neg n d =>
    let r := roundNat m neg n d
    let i : Int := if neg then -(r : Int) else r
    let (b, fl) := satInt signed w i
    if fl = 0 then (b, if n % d = 0 then 0 else fNX) else (b, fNV ||| if sat then fSAT else 0)

/-! ### Operations on exact values. Each answers a value and the flags of its operands. -/

/-- NV where an operand is a signalling NaN (R65). -/
def nvOf (x : Val) : Word := if x == .nan true then fNV else 0

def Val.isNan : Val → Bool | .nan _ => true | _ => false
def Val.isZero : Val → Bool | .num _ 0 _ => true | _ => false
def Val.neg? : Val → Bool | .num b _ _ => b | .inf b => b | .nan _ => false
def Val.negate : Val → Val | .num b n d => .num (!b) n d | .inf b => .inf (!b) | x => x

/-- Exact comparison of two rationals: signed numerators over a common denominator. -/
def cmpNum (x y : Val) : Int × Int :=
  match x, y with
  | .num s n d, .num s' n' d' =>
    ((if s then -(n * d' : Nat) else (n * d' : Nat) : Int), (if s' then -(n' * d : Nat) else (n' * d : Nat) : Int))
  | _, _ => (0, 0)

/-- x < y for values that are no NaN; -0 = +0. -/
def valLt (x y : Val) : Bool :=
  match x, y with
  | .inf true, .inf true => false
  | .inf true, _ => true
  | _, .inf true => false
  | .inf false, _ => false
  | _, .inf false => true
  | x, y => decide ((cmpNum x y).1 < (cmpNum x y).2)

def valEq (x y : Val) : Bool := !valLt x y && !valLt y x

/-- Exact sum, zero-signed as IEEE 754 (R225). -/
def addVal (m : Rnd) (x y : Val) : Val × Word :=
  if x.isNan || y.isNan then (.nan false, nvOf x ||| nvOf y)
  else match x, y with
    | .inf a, .inf b => if a == b then (.inf a, 0) else (.nan false, fNV)
    | .inf a, _ => (.inf a, 0)
    | _, .inf b => (.inf b, 0)
    | .num a n d, .num b n' d' =>
      let i : Int := (if a then -(n * d' : Nat) else (n * d' : Nat) : Int) + (if b then -(n' * d : Nat) else (n' * d : Nat) : Int)
      if i = 0 then
        if n = 0 && n' = 0 && a == b then (.num a 0 1, 0) else (.num (m == .rdn) 0 1, 0)
      else (.num (decide (i < 0)) i.natAbs (d * d'), 0)
    | _, _ => (.nan false, 0)

/-- Exact product. -/
def mulVal (x y : Val) : Val × Word :=
  if x.isNan || y.isNan then (.nan false, nvOf x ||| nvOf y)
  else
    let s := x.neg? != y.neg?
    match x, y with
    | .num _ n d, .num _ n' d' => (.num s (n * n') (d * d'), 0)
    | x, y => if x.isZero || y.isZero then (.nan false, fNV) else (.inf s, 0)

/-- x × y + z, exact before its one rounding. An invalid product sets NV whatever z is (R65). -/
def fmaVal (m : Rnd) (x y z : Val) : Val × Word :=
  let (p, f) := mulVal x y
  let (r, f') := addVal m p z
  (r, f ||| f')

/-- Exact quotient (R187). -/
def divVal (x y : Val) : Val × Word :=
  if x.isNan || y.isNan then (.nan false, nvOf x ||| nvOf y)
  else
    let s := x.neg? != y.neg?
    match x, y with
    | .inf _, .inf _ => (.nan false, fNV)
    | .inf _, _ => (.inf s, 0)
    | _, .inf _ => (.num s 0 1, 0)
    | .num _ n d, .num _ n' d' =>
      if n' = 0 then if n = 0 then (.nan false, fNV) else (.inf s, fDZ)
      else (.num s (n * d') (d * n'), 0)
    | _, _ => (.nan false, 0)

/-- The integer square root, bit by bit. -/
def isqrtFrom (n : Nat) : Nat → Nat → Nat
  | 0, r => r
  | k + 1, r => if (r + 2 ^ k) * (r + 2 ^ k) ≤ n then isqrtFrom n k (r + 2 ^ k) else isqrtFrom n k r
def isqrt (n : Nat) : Nat := isqrtFrom n (Nat.log2 n / 2 + 1) 0

/-- √(n / d) with `k` bits after the point: exact where it is a multiple of 2^-k, otherwise the midpoint of the cell that
holds it, which rounds as the irrational does at every precision coarser than 2^-k. -/
def sqrtRat (k n d : Nat) : Nat × Nat :=
  let a := n * 4 ^ k * d
  let r := isqrt a / d
  if r * r * d == n * 4 ^ k then (r, 2 ^ k) else (2 * r + 1, 2 ^ (k + 1))

/-- √x (R187): bits after the point beyond the operand's exponent suffice for F32. -/
def sqrtVal (x : Val) : Val × Word :=
  match x with
  | .nan s => (.nan false, if s then fNV else 0)
  | .inf false => (.inf false, 0)
  | .inf true => (.nan false, fNV)
  | .num neg n d =>
    if n = 0 then (.num neg 0 1, 0)
    else if neg then (.nan false, fNV)
    else
      let (a, b) := sqrtRat (Nat.log2 d + 64) n d
      (.num false a b, 0)

/-! ### The exact real functions of R227: intervals in fixed point, refined until both ends round alike -/

/-- Σ (1/k)^(2i+1) / (2i+1), `alt` alternating: atanh or atan of 1/k, in units of 2^-p. -/
def arcSeries (alt : Bool) (p k : Nat) : Nat → Nat → Nat → Int
  | 0, _, _ => 0
  | fuel + 1, i, t =>
    let term : Int := (t / (2 * i + 1) : Nat)
    (if alt && i % 2 == 1 then -term else term) + arcSeries alt p k fuel (i + 1) (t / (k * k))

/-- ln 2 = 2 atanh(1/3), and π = 16 atan(1/5) - 4 atan(1/239), in units of 2^-p. -/
def ln2Fix (p : Nat) : Nat := (2 * arcSeries false p 3 (p / 3 + 2) 0 (2 ^ p / 3)).toNat
def piFix (p : Nat) : Nat :=
  (16 * arcSeries true p 5 (p / 4 + 2) 0 (2 ^ p / 5) - 4 * arcSeries true p 239 (p / 15 + 2) 0 (2 ^ p / 239)).toNat

/-- e^y = Σ y^i / i!, `y` in units of 2^-p. -/
def expSeries (p y : Nat) : Nat → Nat → Nat → Nat
  | 0, _, _ => 0
  | fuel + 1, i, t => t + expSeries p y fuel (i + 1) (t * y / 2 ^ p / (i + 1))

/-- Σ z^(2i+1) / (2i+1): atanh z, `z` in units of 2^-p; `t` the power at hand. -/
def atanhSeries (p z2 : Nat) : Nat → Nat → Nat → Nat
  | 0, _, _ => 0
  | fuel + 1, i, t => t / (2 * i + 1) + atanhSeries p z2 fuel (i + 1) (t * z2 / 2 ^ p)

/-- Σ (-1)^i y^(k+2i) / (k+2i)!, `t` the term at hand: sin (k = 1) and cos (k = 0). -/
def trigSeries (p y2 : Nat) : Nat → Nat → Nat → Bool → Int
  | 0, _, _, _ => 0
  | fuel + 1, k, t, neg =>
    (if neg then -(t : Int) else t) + trigSeries p y2 fuel (k + 2) (t * y2 / 2 ^ p / ((k + 1) * (k + 2))) (!neg)

/-- An approximation: a signed count of units of 2^-p. Every one below lies within 2^16 units of the real. -/
structure Fix where
  v : Int
  p : Nat
  deriving DecidableEq, Repr

/-- 2^a for a rational `n / d` in units of 2^-p of the result's own magnitude 2^i: the answer is (units, i). -/
def exp2Fix (p : Nat) (neg : Bool) (n d : Nat) : Nat × Int :=
  let i : Int := if neg then -((n + d - 1) / d : Nat) else (n / d : Nat)
  let fr := if neg then (d - n % d) % d else n % d
  let f := fr * 2 ^ p / d
  let y := f * ln2Fix p / 2 ^ p
  (expSeries p y (p / 2 + 8) 0 (2 ^ p), i)

/-- log2 of a positive rational, in units of 2^-p. -/
def log2Fix (p n d : Nat) : Int :=
  let e := ilog2 n d
  let (a, b) := pow2 e
  let m := n * b
  let q := d * a
  let z := (m - q) * 2 ^ p / (m + q)
  let l := 2 * atanhSeries p (z * z / 2 ^ p) (p / 3 + 2) 0 z
  e * 2 ^ p + (l * 2 ^ p / ln2Fix p : Nat)

/-- sin(π r) and cos(π r) for 0 ≤ r = n / d ≤ 1/2, in units of 2^-p. -/
def trigFix (p : Nat) (sine : Bool) (n d : Nat) : Int :=
  let y := piFix p * n / d
  let y2 := y * y / 2 ^ p
  if sine then trigSeries p y2 (p / 4 + 8) 1 y false else trigSeries p y2 (p / 4 + 8) 0 (2 ^ p) false

/-- The value of an approximation. -/
def fixVal (v : Int) (p : Nat) (e : Int) : Val :=
  let (a, b) := pow2 e
  .num (decide (v < 0)) (v.natAbs * a) (2 ^ p * b)

/-- Round an irrational to F32: `approx p` within 2^16 units of 2^-p (times 2^e) of it, at growing precision, until both
ends of the interval round alike. -/
def roundReal (m : Rnd) (sat : Bool) (approx : Nat → Int × Int) (p0 : Nat) : Nat → Nat × Word
  | 0 =>
    let (v, e) := approx p0
    roundTo .f32 m sat (fixVal v p0 e)
  | fuel + 1 =>
    let (v, e) := approx p0
    let lo := roundTo .f32 m sat (fixVal (v - 2 ^ 16) p0 e)
    let hi := roundTo .f32 m sat (fixVal (v + 2 ^ 16) p0 e)
    if lo == hi then hi else roundReal m sat approx (p0 + 96) fuel

/-- The functions of R227. -/
inductive Sfu | rcp | rsq | sqrt | exp2 | log2 | sin | cos
  deriving DecidableEq, Repr

/-- A half-turn argument reduced: `n / d` modulo 2, as quarter 0-3 and rest below 1/2. -/
def quarter (n d : Nat) : Nat × Nat :=
  let r := n % (2 * d)
  (2 * r / d, 2 * r % d)

/-- R227: the special functions on F32, correctly rounded. -/
def sfu (k : Sfu) (m : Rnd) (sat : Bool) (x : Val) : Nat × Word :=
  let fin (y : Val) (f : Word) : Nat × Word := let (b, g) := roundTo .f32 m sat y; (b, f ||| g)
  match x with
  | .nan s => fin (.nan false) (if s then fNV else 0)
  | x =>
    match k with
    | .rcp => let (y, f) := divVal (.num false 1 1) x; fin y f
    | .rsq =>
      match x with
      | .inf false => fin (.num false 0 1) 0
      | .inf true => fin (.nan false) fNV
      | .num neg n d =>
        if n = 0 then fin (.inf neg) fDZ
        else if neg then fin (.nan false) fNV
        else let (a, b) := sqrtRat (Nat.log2 n + 64) d n; fin (.num false a b) 0
      | _ => fin (.nan false) 0
    | .sqrt => let (y, f) := sqrtVal x; fin y f
    | .exp2 =>
      match x with
      | .inf true => fin (.num false 0 1) 0
      | .inf false => fin (.inf false) 0
      | .num neg n d =>
        if n % d = 0 then
          let i : Int := if neg then -(min (n / d) 400 : Nat) else (min (n / d) 400 : Nat)
          let (a, b) := pow2 i
          fin (.num false a b) 0
        else if 400 * d ≤ n then let (a, b) := pow2 (if neg then -400 else 400); fin (.num false a b) 0
        else roundReal m sat (fun p => let (v, i) := exp2Fix p neg n d; ((v : Int), i)) 96 4
      | _ => fin (.nan false) 0
    | .log2 =>
      match x with
      | .inf false => fin (.inf false) 0
      | .inf true => fin (.nan false) fNV
      | .num neg n d =>
        if n = 0 then fin (.inf true) fDZ
        else if neg then fin (.nan false) fNV
        else
          let e := ilog2 n d
          let (a, b) := pow2 e
          if n * b = d * a then fin (ofInt e) 0
          else roundReal m sat (fun p => (log2Fix p n d, 0)) 96 4
      | _ => fin (.nan false) 0
    | .sin | .cos =>
      match x with
      | .num neg n d =>
        let sine := k == .sin
        let (q, r) := quarter n d
        -- sin over the quarters: sin, cos, -sin, -cos; cos: cos, -sin, -cos, sin, of the rest
        let useSin := if q % 2 = 0 then sine else !sine
        let flip := if sine then 2 ≤ q else q == 1 || q == 2
        let s := flip != (neg && sine)
        if r = 0 then
          if useSin then fin (.num (neg && sine) 0 1) 0 else fin (.num s 1 1) 0
        else
          let extra := if useSin then (Nat.log2 (2 * d) - Nat.log2 r) + 2 else 0
          roundReal m sat (fun p => let v := trigFix p useSin r (2 * d); (if s then -v else v, 0)) (96 + extra) 4
      | _ => fin (.nan false) fNV

/-! ### Comparison, minimum and maximum (R188), classes (R226) -/

/-- FCMP and VFCMP on encodings. -/
def fcmp (f : Fmt) (c : FCond) (a b : Nat) : Bool :=
  let x := toVal f a
  let y := toVal f b
  let un := x.isNan || y.isNan
  match c with
  | .eq => !un && valEq x y
  | .lt => !un && valLt x y
  | .le => !un && !valLt y x
  | .un => un

/-- FMIN and FMAX on encodings. -/
def fminmax (f : Fmt) (isMax : Bool) (a b : Nat) : Nat :=
  let x := toVal f a
  let y := toVal f b
  if x == .nan true || y == .nan true then canonNan f
  else if x.isNan then (if y.isNan then canonNan f else b)
  else if y.isNan then a
  else
    let less := valLt x y || (valEq x y && x.neg? && !y.neg?)
    if less == isMax then b else a

/-- R226: the class mask of an element. -/
def fclass (f : Fmt) (a : Nat) : Nat :=
  match toVal f a with
  | .nan true => 2 ^ 8
  | .nan false => 2 ^ 9
  | .inf neg => if neg then 1 else 2 ^ 7
  | .num neg n _ =>
    if n = 0 then (if neg then 2 ^ 3 else 2 ^ 4)
    else if a % signBit f < 2 ^ fracBits f then (if neg then 2 ^ 2 else 2 ^ 5)
    else (if neg then 2 ^ 1 else 2 ^ 6)

/-! ### Block scales (R73, R231) -/

/-- `scale_e8m4`. -/
def scaleE8m4 (bits : Nat) : Val :=
  let e := bits / 16 % 256
  let k := bits % 16
  if e = 255 then .nan false
  else if e = 0 then .num false k (2 ^ 130)
  else let (a, b) := pow2 ((e : Int) - 131); .num false ((16 + k) * a) b

/-- The least scale code at or above `lo` (of `n` codes) whose value is at least `x`, by halving. -/
def scaleCode (x : Val) : Nat → Nat → Nat → Nat
  | 0, lo, _ => lo
  | fuel + 1, lo, hi =>
    if hi ≤ lo then lo
    else
      let mid := (lo + hi) / 2
      if valLt (scaleE8m4 mid) x then scaleCode x fuel (mid + 1) hi else scaleCode x fuel lo mid

/-! ### The fixed order of summation (R80, R81) -/

/-- The exact sum of products of rationals. -/
def dotNum : List (Val × Val) → Int × Nat
  | [] => (0, 1)
  | (x, y) :: ps =>
    let (i, q) := dotNum ps
    match mulVal x y with
    | (.num s n d, _) => ((if s then -(n * q : Nat) else (n * q : Nat) : Int) + i * d, q * d)
    | _ => (i, q)

/-- `block_sum`: the F32 encoding and its flags. -/
def blockSum (ps : List (Val × Val)) (sa sb : Val) : Nat × Word :=
  let cn := canonNan .f32
  let anyNan := ps.any fun p => p.1.isNan || p.2.isNan
  let snan : Word := ps.foldl (fun f p => f ||| nvOf p.1 ||| nvOf p.2) 0
  let prods := ps.map fun p => (mulVal p.1 p.2).1
  let (ss, _) := mulVal sa sb
  if anyNan || sa.isNan || sb.isNan then (cn, snan)
  else if prods.any Val.isNan then (cn, fNV)
  else if prods.contains (.inf true) && prods.contains (.inf false) then (cn, fNV)
  else if prods.contains (.inf true) || prods.contains (.inf false) then
    if ss.isZero then (cn, fNV)
    else if prods.contains (.inf true) then (0xFF800000, 0) else (0x7F800000, 0)
  else
    let (i, q) := dotNum ps
    if i = 0 then (if prods.all Val.neg? then 0x80000000 else 0, 0)
    else if ss.isZero then (if 0 < i then 0 else 0x80000000, 0)
    else roundTo .f32 .rne false (mulVal (.num (decide (i < 0)) i.natAbs q) ss).1

/-- acc + x, rounded once to F32. -/
def accAdd (acc x : Nat) : Nat × Word :=
  let (v, f) := addVal .rne (toVal .f32 acc) (toVal .f32 x)
  let (b, g) := roundTo .f32 .rne false v
  (b, f ||| g)

/-- `accumulate`: blocks in ascending order, each with its scales. -/
def accumulate (acc : Nat) : List (List (Val × Val) × Val × Val) → Nat × Word
  | [] => (acc, 0)
  | (ps, sa, sb) :: bs =>
    let (x, f) := blockSum ps sa sb
    let (a, g) := accAdd acc x
    let (r, h) := accumulate a bs
    (r, f ||| g ||| h)

/-- R81: integer block sums, added in ascending order, wrapped or saturated at each addition. -/
def accumulateInt (sat : Bool) (acc : Nat) : List (List (Int × Int)) → Nat × Word
  | [] => (acc, 0)
  | ps :: bs =>
    let s : Int := ps.foldl (fun t p => t + p.1 * p.2) 0
    let (a, f) := putInt true 32 sat (intOf true 32 acc + s)
    let (r, g) := accumulateInt sat a bs
    (r, f ||| g)

/-! ### Ember (R83, R84) -/

def emberMul : DWord := 0xD6E8FEB86659FD93
def emberInc : DWord := 0x8BB84B93962EACC9

/-- The rounds of Ember. -/
def emberRounds : Nat → DWord → DWord → DWord
  | 0, a, _ => a
  | n + 1, a, k =>
    let b := (a ^^^ k) * emberMul
    emberRounds n (b ^^^ (b >>> 31)) (k + emberInc)

/-- `ember(K, C)`. -/
def ember (k c : DWord) : DWord := emberRounds 6 c k

/-- `hi32`. -/
def hi32 (x : DWord) : Word := x.extractLsb' 32 32

/-- R82: residue7. -/
def residue7 (w : Word) : Nat := w.toNat % 7

end Sys2Proof.Machine
end

