-- ==== Sys2Proof/Machine/Memory.lean ====
section
/-! DEFINITION. Memory: physical bytes, scratchpad windows, translation and TLBs (R86-R95, R352-R359), the L1 data cache
(R95) and monitors (R99). Byte order is decided here, once (R3: little-endian). -/

namespace Sys2Proof.Machine

/-! ### Records by key -/

def State.die (s : State) (d : Nat) : Die := Tab.get Die.zero s.dies d
def State.core (s : State) (k : Nat) : Core := Tab.get Core.zero s.cores k
def State.group (s : State) (g : Nat) : Group := Tab.get Group.zero s.groups g
def State.team (s : State) (t : Nat) : Team := Tab.get Team.zero s.teams t
def State.launch (s : State) (l : Nat) : Launch := Tab.get Launch.zero s.launches l
def State.svc (s : State) (t : Nat) : Svc := Tab.get Svc.zero s.svcs t
def State.ctx (s : State) (c : Nat) : Ctx := Tab.get Ctx.zero s.ctxs c
def State.part (s : State) (p : Nat) : Part := Tab.get Part.zero s.parts p
def State.vf (s : State) (v : Nat) : Vf := Tab.get Vf.zero s.vfs v

def State.setDie (s : State) (d : Nat) (x : Die) : State := { s with dies := Tab.put s.dies d x }
def State.setCore (s : State) (k : Nat) (x : Core) : State := { s with cores := Tab.put s.cores k x }
def State.setGroup (s : State) (g : Nat) (x : Group) : State := { s with groups := Tab.put s.groups g x }
def State.setTeam (s : State) (t : Nat) (x : Team) : State := { s with teams := Tab.put s.teams t x }
def State.setLaunch (s : State) (l : Nat) (x : Launch) : State := { s with launches := Tab.put s.launches l x }
def State.setSvc (s : State) (t : Nat) (x : Svc) : State := { s with svcs := Tab.put s.svcs t x }
def State.setCtx (s : State) (c : Nat) (x : Ctx) : State := { s with ctxs := Tab.put s.ctxs c x }
def State.setPart (s : State) (p : Nat) (x : Part) : State := { s with parts := Tab.put s.parts p x }
def State.setVf (s : State) (v : Nat) (x : Vf) : State := { s with vfs := Tab.put s.vfs v x }

def State.modGroup (s : State) (g : Nat) (f : Group → Group) : State := s.setGroup g (f (s.group g))
/-- A change to a group that may have ended meanwhile: one that has is not there to change. -/
def State.modLive (s : State) (g : Nat) (f : Group → Group) : State := if (Tab.look s.groups g).isSome then s.modGroup g f else s
def State.modTeam (s : State) (t : Nat) (f : Team → Team) : State := s.setTeam t (f (s.team t))
def State.modCore (s : State) (k : Nat) (f : Core → Core) : State := s.setCore k (f (s.core k))
def State.modLaunch (s : State) (l : Nat) (f : Launch → Launch) : State := s.setLaunch l (f (s.launch l))

/-- Core index k = die × 72 + quad × 4 + core (R143, R379). -/
def dieOf (k : Nat) : Nat := k / 72
def quadOf (k : Nat) : Nat := k / 4
/-- coreid as R60 lays it out. -/
def coreidOf (k : Nat) : Nat := k % 4 + 4 * (k % 72 / 4) + 128 * (k / 72)
/-- The core index of a coreid; 288 where no core has it. -/
def coreOfId (c : Nat) : Nat :=
  if c < 512 && c / 4 % 32 < 18 then c / 128 * 72 + c / 4 % 32 * 4 + c % 4 else 288

/-- The core, launch and record of a group. -/
def State.coreOf (s : State) (g : Nat) : Nat := (s.team (s.group g).team).core
def State.launchOf (s : State) (g : Nat) : Nat := (s.team (s.group g).team).launch
def State.recOf (s : State) (g : Nat) : LRec := (s.launch (s.launchOf g)).lr
def State.asidOf (s : State) (g : Nat) : Nat := (s.ctx (s.launch (s.launchOf g)).ctx).asid

/-! ### The core domain of a die (R394, R395, R399) -/

/-- The core clock of a die is stopped. -/
def Die.stopped (d : Die) : Bool := d.relock.isSome || d.tripped
def State.still (s : State) (core : Nat) : Bool := (s.die (dieOf core)).stopped

/-- What the core domain of a core's die does, it does while its clock runs (R394). -/
def State.ticking (s : State) (core : Nat) (k : State → Out) : Out := if s.still core then .next s else k s

/-- Whether what a flit brings is still on its way to a die. -/
def State.flitLive (s : State) (d : Nat) : Flit → Bool
  | .value g id => dieOf (s.coreOf g) == d && (s.group g).pend.any fun p => p.id == id
  | .notice m => s.notices.contains m
  | .hit r => match Tab.look s.rays r with | some x => x.st == .delivering | none => false

/-- A flit reaches the core domain of die `d`: it enters, or waits behind the restart and behind what came before it (R399, R401). -/
def State.cross (s : State) (d : Nat) (f : Flit) (k : State → Out) : Out :=
  let x := s.die d
  let q := x.fifo.filter (s.flitLive d)
  let with_ (q : List Flit) : State := s.setDie d { x with fifo := q }
  let wait : Out := .next (if q.contains f then s else with_ (q ++ [f]))
  if x.stopped then wait
  else match q with
    | [] => k (if x.fifo.isEmpty then s else with_ [])
    | h :: r => if h = f then k (with_ r) else wait

/-- R353: fields of an ASID entry. -/
def State.asidEntry (s : State) (a : Nat) : DWord := Tab.get 0 s.asids a
def State.partOfAsid (s : State) (a : Nat) : Nat := (s.asidEntry a).toNat % 16

/-! ### Bytes -/

/-- One byte of physical memory. -/
def State.rdByte (s : State) (pa : Nat) : Byte := Tab.get 0 s.mem pa

/-- `n` bytes from `pa` on. -/
def State.rdBytes (s : State) (pa : Nat) : Nat → List Byte
  | 0 => []
  | n + 1 => s.rdByte pa :: State.rdBytes s (pa + 1) n

/-- Write bytes from `a` on into a table of bytes. -/
def putBytes (m : List Host.Cell) (a : Nat) : List Byte → List Host.Cell
  | [] => m
  | b :: bs => putBytes (Tab.set 0 m a b) (a + 1) bs

/-- `n` bytes from `a` on of a table of bytes. -/
def takeBytes (m : List Host.Cell) (a : Nat) : Nat → List Byte
  | 0 => []
  | n + 1 => Tab.get 0 m a :: takeBytes m (a + 1) n

/-- The canonical form of memory: addresses rising, no zero byte listed. -/
def Memory.wf (m : List Host.Cell) : Bool := Tab.wf 0 m

/-- A number of `n` bytes at a physical address. -/
def State.rdLe (s : State) (pa n : Nat) : Nat := ofLeBytes (s.rdBytes pa n)

/-- R355: the CXL port behind which a pool address lies. -/
def cxlPort (pa : Nat) : Nat := pa / 2 ^ 14 % 16

/-- State of a link: CXL ports 0-15, network ports at 16 + port. -/
def State.link (s : State) (k : Nat) : LinkState := ((Tab.look s.links k).map Prod.fst).getD .up

/-- Whether a physical address lies in the pool behind a link in a state. -/
def State.behind (s : State) (st : LinkState) (pa : Nat) : Bool := pa / 2 ^ 51 % 2 == 0 && s.link (cxlPort pa) == st

/-- Whether a range lies behind a link that retrains, which holds its accesses (R409). -/
def State.linkHolds (s : State) (pa n : Nat) : Bool := s.behind .retraining pa || s.behind .retraining (pa + n - 1)

/-- Whether a range lies behind a link that is down (R409). -/
def State.cutOff (s : State) (pa n : Nat) : Bool := s.behind .down pa || s.behind .down (pa + n - 1)

/-- Whether a physical range meets a line with an uncorrectable error, or a link that is down (R104, R409). -/
def State.isBad (s : State) (pa n : Nat) : Bool := (s.bad.any fun l => pa / 128 ≤ l && l ≤ (pa + n - 1) / 128) || s.cutOff pa n

/-- Overlay bytes written by a store onto bytes read from `a` on. -/
def overlay (a : Nat) (bs : List Byte) (w : Nat) (d : List Byte) : List Byte :=
  bs.zipIdx.map fun (b, i) => if w ≤ a + i && a + i < w + d.length then d.getD (a + i - w) b else b

/-- The words of a group's scratchpad atomics that no other agent sees yet, latest first, with their bytes before it: those of
its open region, and those that stand behind its fences (R92, R112, R117). -/
def Group.unseen (x : Group) : List (Nat × List Byte) :=
  x.reg.undo ++ (x.inflight.filterMap fun h => match h with | .shown a d => some (a, d) | _ => none).reverse

/-- R32, R92, R117: what an agent reads in a window: a word that another group's scratchpad atomic has changed, in its open
region or behind a fence, still reads as before the atomic. `g` is the reading group, where a group reads. -/
def State.spadView (s : State) (g : Option Nat) (t off n : Nat) : List Byte :=
  s.groups.foldl (fun bs (k, x) =>
    if x.team == t && g != some k then x.unseen.foldl (fun bs (a, d) => overlay off bs a d) bs else bs)
    (takeBytes (s.team t).spad off n)

/-! ### Monitors (R99) -/

/-- The N64 a monitor watches; `g` is its group, where a group has it. -/
def State.watched (s : State) (g : Option Nat) (team : Nat) (m : Monitor) : Nat :=
  if m.spad then ofLeBytes (s.spadView g team m.addr.toNat 8) else s.rdLe m.pa 8

/-- fired := 1 if the N64 is at least the threshold. -/
def Monitor.eval (m : Monitor) (v : Nat) : Monitor :=
  if m.armed && decide (m.thr.toNat ≤ v) then { m with fired := true } else m

/-- A monitor restored with its group: fired is evaluated again, either way (R99). -/
def Monitor.restore (m : Monitor) (v : Nat) : Monitor := if m.armed then { m with fired := decide (m.thr.toNat ≤ v) } else m

/-- Whether two byte ranges meet. -/
def meets (a n b k : Nat) : Bool := a < b + k && b < a + n

/-- Fire the monitors of groups and service threads that watch a written range; `team` the window written, if it is one. -/
def State.fireMonitors (s : State) (team : Option Nat) (a n : Nat) : State :=
  { s with
    groups := s.groups.map fun (k, g) =>
      let hit := g.mon.armed && (match team with
        | some t => g.mon.spad && g.team == t && meets a n g.mon.addr.toNat 8
        | none => !g.mon.spad && meets a n g.mon.pa 8)
      (k, if hit then { g with mon := Monitor.eval g.mon (s.watched (some k) g.team g.mon) } else g)
    svcs := s.svcs.map fun (k, v) =>
      let hit := v.mon.armed && team.isNone && meets a n v.mon.pa 8
      (k, if hit then { v with mon := Monitor.eval v.mon (s.watched none 0 v.mon) } else v) }

/-- Write physical memory. -/
def State.wrBytes (s : State) (pa : Nat) (bs : List Byte) : State :=
  ({ s with mem := putBytes s.mem pa bs }).fireMonitors none pa bs.length

/-- Bytes of a team's window take new values. -/
def State.putSpad (s : State) (t off : Nat) (bs : List Byte) : State :=
  (s.modTeam t fun x => { x with spad := putBytes x.spad off bs }).fireMonitors (some t) off bs.length

/-- A write reaches a word behind an open scratchpad atomic too: the atomic's undo does not take it back (R92, R109). -/
def State.passUndo (s : State) (t off : Nat) (bs : List Byte) : State :=
  if s.groups.any fun (_, x) => x.team == t && x.reg.undo.any fun (a, d) => meets off bs.length a d.length then
    { s with groups := s.groups.map fun (k, x) =>
        (k, if x.team == t then { x with reg := { x.reg with undo := x.reg.undo.map fun (a, d) => (a, overlay a d off bs) } } else x) }
  else s

/-- Write a team's scratchpad window. -/
def State.wrSpad (s : State) (t off : Nat) (bs : List Byte) : State := (s.passUndo t off bs).putSpad t off bs

/-- Write a number of `n` bytes. -/
def State.wrLe (s : State) (pa n v : Nat) : State := s.wrBytes pa (leBytes n v)

/-! ### Physical layout and page-table entries (R353-R356) -/

/-- A bit of an entry, and its frame address. -/
def pteBit (e : DWord) (k : Nat) : Bool := e.getLsbD k
def ptePa (e : DWord) : Nat := e.toNat / 2 ^ 14 % 2 ^ 38 * 2 ^ 14

/-- R355, R408: whether a port's decoders of a partition cover a range of the pool. -/
def State.portCovers (s : State) (p port lo hi : Nat) : Nat → Bool
  | 0 => decide (hi ≤ lo)
  | fuel + 1 =>
    if hi ≤ lo then true
    else match s.decoders.find? fun (k, d) => k / 8 == port && d.part == p && d.base ≤ lo && lo < d.base + d.size with
      | some (_, d) => State.portCovers s p port (d.base + d.size) hi fuel
      | none => false

/-- R355: whether a page of the range `lo` to `hi` lies behind a port. -/
def portMeets (port lo hi : Nat) : Bool := decide ((port + 16 - cxlPort lo) % 16 < (hi - lo + 2 ^ 14 - 1) / 2 ^ 14)

/-- R355: whether every page of a range of the pool is covered by the partition's decoders of the port behind which it lies. -/
def State.poolCovers (s : State) (p lo hi : Nat) : Bool :=
  (List.range 16).all fun k => !portMeets k lo hi || s.portCovers p k lo hi s.decoders.length

/-- R355: whether every step of a die's range is RESIDENT for the partition. -/
def State.hearthCovers (s : State) (p die off n : Nat) : Bool :=
  off + n ≤ 2 ^ 29 && (List.range 8).all fun k =>
    !meets off n (k * 2 ^ 26) (2 ^ 26) || Tab.look s.hearth (die * 8 + k) == some (p, true)

/-- R355: whether a physical range is well formed and belongs to the partition; `hr` must match where it is given. -/
def State.ownsPa (s : State) (p pa n : Nat) (hr : Option Bool) : Bool :=
  if pa / 2 ^ 51 % 2 = 1 then
    hr != some false && pa / 2 ^ 32 % 2 ^ 19 == 0 && pa / 2 ^ 29 % 2 == 0 &&
      s.hearthCovers p (pa / 2 ^ 30 % 4) (pa % 2 ^ 29) n
  else hr != some true && pa / 2 ^ 44 % 128 == 0 && s.poolCovers p pa (pa + n)

/-- Pages of 16 KiB that a leaf at a level maps (R352). -/
def leafPages : Nat → Nat
  | 0 => 1
  | 1 => 2048
  | _ => 2048 * 2048

/-- R352, R354, R355: a malformed entry at a level; the lowest holds leaves alone. In a pointer every field but V, LEAF and PFN is zero, SW too. -/
def State.malformed (s : State) (p level : Nat) (e : DWord) : Bool :=
  if pteBit e 1 then
    e.extractLsb' 52 2 == 3 || level == 3 || (level == 2 && pteBit e 6) ||
      ptePa e / 2 ^ 14 % leafPages level != 0 || !s.ownsPa p (ptePa e) (leafPages level * 2 ^ 14) (some (pteBit e 6))
  else
    level == 0 || e.extractLsb' 2 12 != 0 || e.extractLsb' 52 12 != 0 || !s.ownsPa p (ptePa e) (2 ^ 14) none

/-- What a translation ends in. -/
inductive Tr
  | ok (pa : Nat) (pte : DWord)
  | miss
  | fail (c : Cause) (k : Option PfKind)
  deriving DecidableEq, Repr

/-- The walk below a table: the leaf and its level, or the outcome (R352, R356). -/
def State.walkFrom (s : State) (p va : Nat) (table : Nat) : Nat → Except (Cause × Option PfKind) (DWord × Nat)
  | 0 => .error (.pageFault, some .malformed)
  | level + 1 =>
    let at_ := table + 8 * (va / 2 ^ (14 + 11 * level) % 2048)
    let e : DWord := BitVec.ofNat 64 (s.rdLe at_ 8)
    if !pteBit e 0 then .error (.pageFault, some .notPresent)
    else if s.malformed p level e then .error (.pageFault, some .malformed)
    else if s.isBad at_ 8 then .error (.poison, none)
    else if pteBit e 1 then .ok (e, level)
    else State.walkFrom s p va (ptePa e) level

/-- The pointer entries that a walk below a table passes: level and next table (R357). -/
def State.walkPtrs (s : State) (p va : Nat) (table : Nat) : Nat → List (Nat × Nat)
  | 0 => []
  | level + 1 =>
    let at_ := table + 8 * (va / 2 ^ (14 + 11 * level) % 2048)
    let e : DWord := BitVec.ofNat 64 (s.rdLe at_ 8)
    if !pteBit e 0 || s.malformed p level e || s.isBad at_ 8 || pteBit e 1 then []
    else (level, ptePa e) :: State.walkPtrs s p va (ptePa e) level

/-- The walk of an ASID's space. An ASID that is not live has no page (log entry 14). -/
def State.walk (s : State) (asid va : Nat) : Except (Cause × Option PfKind) (DWord × Nat) :=
  let a := s.asidEntry asid
  if !pteBit a 4 then .error (.pageFault, some .notPresent)
  else s.walkFrom (a.toNat % 16) va (ptePa a) 4

/-- A pointer entry that a die's walk cache holds for an address: the lowest of an address space (R357). -/
def State.walkPtr (s : State) (d asid va : Nat) : Option WalkPtr :=
  let p := s.partOfAsid asid
  let hs := (s.die d).ptrs.filter fun w => w.asid == asid && w.part == p && w.pre == va / 2 ^ (14 + 11 * w.level)
  [1, 2, 3].findSome? fun l => hs.find? fun w => w.level == l

/-- The walk of a die's walkers: from the lowest pointer entry held, or from the root (R352, R357, R358). -/
def State.walkOn (s : State) (d asid va : Nat) : Except (Cause × Option PfKind) (DWord × Nat) :=
  match s.walkPtr d asid va with
  | some w => s.walkFrom w.part va w.table w.level
  | none => s.walk asid va

/-- The pointer entries that a walk has read stay in the die's walk cache (R357). -/
def State.walkKeep (s : State) (d asid va : Nat) : State :=
  let p := s.partOfAsid asid
  let ps := match s.walkPtr d asid va with
    | some w => s.walkPtrs p va w.table w.level
    | none => if pteBit (s.asidEntry asid) 4 then s.walkPtrs p va (ptePa (s.asidEntry asid)) 4 else []
  let ws : List WalkPtr := ps.map fun (l, t) => ⟨asid, p, l, va / 2 ^ (14 + 11 * l), t⟩
  if ws.isEmpty then s else s.setDie d { s.die d with ptrs := ws ++ (s.die d).ptrs.filter fun w => !ws.contains w }

/-- What an access is checked for (R356): write, scalar or lane fetch, path class. -/
structure Acc where
  write : Bool := false
  xs : Bool := false
  xl : Bool := false
  path : Option Nat := none
  deriving DecidableEq, Repr

/-- The code of a path class (R96). -/
def PathClass.code : PathClass → Nat
  | .ls => 0 | .cp => 1 | .cr => 2 | .mx => 3 | .tr => 4 | .rp => 5

/-- The checks of R356 on a leaf, in order. -/
def leafCheck (acc : Acc) (e : DWord) : Option (Cause × Option PfKind) :=
  if acc.write && !pteBit e 2 then some (.pageFault, some .write)
  else if acc.xs && !pteBit e 3 then some (.execDenied, none)
  else if acc.xl && !pteBit e 4 then some (.execDenied, none)
  else match acc.path with
    | some k => if !pteBit e (8 + k) then some (.pathDenied, none) else none
    | none => none

/-- The physical address of a virtual one in a leaf's page. -/
def leafPa (e : DWord) (level va : Nat) : Nat := ptePa e + va % (leafPages level * 2 ^ 14)

/-- A leaf's translation of an address, with its checks. -/
def leafTr (acc : Acc) (va : Nat) : Except (Cause × Option PfKind) (DWord × Nat) → Tr
  | .error (c, k) => .fail c k
  | .ok (e, level) =>
    match leafCheck acc e with
    | some (c, k) => .fail c k
    | none => .ok (leafPa e level va) e

/-- A translation with its checks, walking the tables afresh: service threads, Dusk and the device (log entry 15). R352: bits
[63:58] are looked at before translation. -/
def State.translate (s : State) (asid va : Nat) (acc : Acc) : Tr :=
  if va / 2 ^ 58 != 0 then .fail .addrRange none else leafTr acc va (s.walk asid va)

/-! ### TLBs (R357) -/

/-- Whether an entry serves a page of an address space. -/
def TlbEntry.hits (e : TlbEntry) (asid part vpn : Nat) : Bool :=
  e.part == part && (e.asid == asid || pteBit e.pte 7) && e.vpn ≤ vpn && vpn < e.vpn + e.pages

/-- The entry that serves a page from a core: its L1 TLB, then its quad's. -/
def State.tlbLook (s : State) (core asid vpn : Nat) : Option TlbEntry :=
  let p := s.partOfAsid asid
  match (s.core core).tlb.find? fun e => e.hits asid p vpn with
  | some e => some e
  | none => (Tab.get [] s.quadTlb (quadOf core)).find? fun e => e.hits asid p vpn

/-- A TLB with one more entry: the newest first. -/
def tlbWith (e : TlbEntry) (es : List TlbEntry) : List TlbEntry := e :: es.filter (· != e)

/-- Hold a translation in a core's L1 TLB and its quad's, dropping the oldest entries beyond their sizes. -/
def State.tlbFill (s : State) (core : Nat) (e : TlbEntry) : State :=
  let q := quadOf core
  let es := tlbWith e (s.core core).tlb
  let qs := tlbWith e (Tab.get [] s.quadTlb q)
  { s.modCore core fun c => { c with tlb := es.take Config.nL1Tlb } with
    quadTlb := Tab.put s.quadTlb q (qs.take Config.nL2Tlb)
    evicted := es.drop Config.nL1Tlb ++ qs.drop Config.nL2Tlb ++ s.evicted }

/-- A TLB entry's translation of an address, with its checks. -/
def TlbEntry.tr (e : TlbEntry) (acc : Acc) (va : Nat) : Tr :=
  match leafCheck acc e.pte with
  | some (c, k) => .fail c k
  | none => .ok (ptePa e.pte + (va - e.vpn * 2 ^ 14)) e.pte

/-- A translation by an engine of a core (R357, R358): a TLB entry, or a walk that its die's walkers make at once (log entry
15). -/
def State.translateC (s : State) (core asid va : Nat) (acc : Acc) : Tr :=
  if va / 2 ^ 58 != 0 then .fail .addrRange none
  else match s.tlbLook core asid (va / 2 ^ 14) with
    | some e => e.tr acc va
    | none => leafTr acc va (s.walkOn (dieOf core) asid va)

/-- The physical addresses of the entries that a walk below a table reads. -/
def State.walkAts (s : State) (p va : Nat) (table : Nat) : Nat → List Nat
  | 0 => []
  | level + 1 =>
    let at_ := table + 8 * (va / 2 ^ (14 + 11 * level) % 2048)
    let e : DWord := BitVec.ofNat 64 (s.rdLe at_ 8)
    at_ :: if !pteBit e 0 || s.malformed p level e || s.isBad at_ 8 || pteBit e 1 then [] else State.walkAts s p va (ptePa e) level

/-- Whether the walk of a die's walkers meets a link that retrains, which holds its reads (R409). -/
def State.walkHeld (s : State) (d asid va : Nat) : Bool :=
  (match s.walkPtr d asid va with
    | some w => s.walkAts w.part va w.table w.level
    | none => if pteBit (s.asidEntry asid) 4 then s.walkAts (s.partOfAsid asid) va (ptePa (s.asidEntry asid)) 4 else []).any fun a => s.linkHolds a 8

/-- The TLB entry of a leaf at a level for a page. -/
def leafEntry (asid part vpn : Nat) (e : DWord) (level : Nat) : TlbEntry :=
  ⟨asid, part, vpn / leafPages level * leafPages level, leafPages level, e⟩

/-- An engine of a core has translated an address: where the core's TLBs missed, they hold the leaf, and its die's walk cache the
pointer entries that the walk read (R357). -/
def State.keepTr (s : State) (core asid : Nat) (va : DWord) : State :=
  if va.toNat / 2 ^ 58 != 0 || (s.tlbLook core asid (va.toNat / 2 ^ 14)).isSome then s
  else match s.walkOn (dieOf core) asid va.toNat with
    | .error _ => s
    | .ok (e, level) =>
      (s.walkKeep (dieOf core) asid va.toNat).tlbFill core (leafEntry asid (s.partOfAsid asid) (va.toNat / 2 ^ 14) e level)

/-- A translation by a group's core: a TLB entry; a failure its walk has reported, as long as the tables still say so (R360); or a
miss. R352: bits [63:58] are looked at before translation. -/
def State.translateG (s : State) (g asid va : Nat) (acc : Acc) : Tr :=
  let vpn := va / 2 ^ 14
  if va / 2 ^ 58 != 0 then .fail .addrRange none
  else match s.tlbLook (s.coreOf g) asid vpn with
  | some e => e.tr acc va
  | none =>
    match (s.group g).walks.find? fun w => w.1 == vpn with
    | some (_, c, k) => match s.walkOn (dieOf (s.coreOf g)) asid va with | .error _ => .fail c k | .ok _ => .miss
    | none => .miss

/-- Ask the core's die for a walk; a miss on a page already asked for joins it (R358). -/
def State.askWalk (s : State) (g asid vpn : Nat) : State :=
  let core := s.coreOf g
  let d := dieOf core
  let die := s.die d
  let p := s.partOfAsid asid
  if die.walks.any fun w => w.asid == asid && w.part == p && w.vpn == vpn then
    s.setDie d { die with walks := die.walks.map fun w =>
      if w.asid == asid && w.part == p && w.vpn == vpn && !w.who.contains (g, core) then { w with who := w.who ++ [(g, core)] } else w }
  else s.setDie d { die with walks := die.walks ++ [⟨asid, p, vpn, [(g, core)]⟩] }

/-! ### The L1 data cache and loads of the LS path (R29, R93, R95) -/

/-- The writes of a held entry. -/
def Held.wrs : Held → List Wr
  | .store _ ws _ _ _ _ => ws
  | _ => []

/-- Where a write goes. -/
def Wr.at_ (w : Wr) : Nat := if w.spad then w.va.toNat else w.pa

/-- Overlay writes to one space, oldest first. -/
def overlayWrs (spad : Bool) (a : Nat) (bs : List Byte) (ws : List Wr) : List Byte :=
  ws.foldl (fun bs w => if w.spad == spad then overlay a bs w.at_ w.data else bs) bs

/-- The writes of a group that a load of a lane reads through: those its commits have handed over, then its region's buffer.
R108: within a divergence, a store that a lane of an earlier path has made since the divergence began, and that no lane of the
path at hand has made, may not be there yet: `old` says that it is not (log entry 95). -/
def Group.ownWrs (x : Group) (old : Bool) : List Wr :=
  let here (w : Wr) : Bool := decide (32 ≤ w.lane) || x.thr.em.getLsbD w.lane
  let held := match x.reg.divFrom.head? with
    | some (_, k) => if old then (x.reg.held.take (k.getD 0)).flatMap Held.wrs ++ ((x.reg.held.drop (k.getD 0)).flatMap Held.wrs).filter here
      else x.reg.held.flatMap Held.wrs
    | none => x.reg.held.flatMap Held.wrs
  x.inflight.flatMap Held.wrs ++ held

/-- FREE CHOICE of R108, for each aligned word of a load by itself: bit j says that the load meets the old value of its word j,
where an earlier path has stored to it. -/
def State.pickOld (s : State) (g : Nat) : Nat := if (s.group g).reg.divFrom.isEmpty then 0 else Config.freeNat s.free

/-- The bytes of a load from address `a` on, each of its words new, or old where `old` has its bit (R108). -/
def mixOld (old a : Nat) (new before : List Byte) : List Byte :=
  if old = 0 then new
  else (new.zip before).zipIdx.map fun ((x, y), j) => if old / 2 ^ ((a + j) / 4 - a / 4) % 2 = 1 then y else x

/-- R93, R95, R245, R354: whether the L1 may hold a line of the page. -/
def l1able (pte : DWord) : Bool := pte.extractLsb' 52 2 == 0 && !pteBit pte 5

/-- The line a core's L1 holds of an address, by its virtual tag and its physical tag (R359). -/
def State.l1Line (s : State) (core asid va pa : Nat) : Option L1Line :=
  (s.core core).l1.find? fun x => x.asid == asid && x.vl == va / 128 && x.pl == pa / 128

/-- The bytes a core reads on the LS path: its L1 copy where it holds one, otherwise memory. -/
def State.coreBytes (s : State) (core asid va pa n : Nat) : List Byte :=
  match s.l1Line core asid va pa with
  | some x => (x.data.drop (pa % 128)).take n
  | none => s.rdBytes pa n

/-- Keep the line of a load (R95, R359); a full L1 takes no new line (log entry 16). -/
def State.l1Fill (s : State) (core asid va pa : Nat) (keep : Bool) : State :=
  let c := s.core core
  if keep && (s.l1Line core asid va pa).isNone && decide (c.l1.length < Config.nL1Lines) then
    s.setCore core { c with l1 := c.l1 ++ [⟨asid, va / 128, pa / 128, s.rdBytes (pa / 128 * 128) 128⟩] }
  else s

/-- Discard a core's clean L1 copies. -/
def State.l1Drop (s : State) (core : Nat) : State := s.modCore core fun c => { c with l1 := [] }

/-- Discard the L1 copies a group's fence left stale, before its next LS load (R112, R114). -/
def State.l1Sync (s : State) (g : Nat) : State :=
  if (s.group g).l1drop then (s.l1Drop (s.coreOf g)).modGroup g fun x => { x with l1drop := false } else s

/-- The value of a global LS load of a group: memory or L1, then the group's own writes (R29; log entry 17). -/
def State.loadG (s : State) (g va pa n : Nat) (old : Nat) : List Byte :=
  let bs (b : Bool) := overlayWrs false pa (s.coreBytes (s.coreOf g) (s.asidOf g) va pa n) ((s.group g).ownWrs b)
  mixOld old pa (bs false) (bs true)

/-- The value of a scratchpad load of a group. -/
def State.loadS (s : State) (g off n : Nat) (old : Nat) : List Byte :=
  let bs (b : Bool) := overlayWrs true off (s.spadView (some g) (s.group g).team off n) ((s.group g).ownWrs b)
  mixOld old off (bs false) (bs true)

/-- A lane's load within a divergence has taken its free choice (R108). -/
def State.loaded (s : State) (g : Nat) : State :=
  if (s.group g).reg.divFrom.isEmpty then s else { s with free := s.free + 1 }

/-- A store of the LS path updates every L1 copy of its physical lines on its core (R95, R359). -/
def State.l1Update (s : State) (core pa : Nat) (bs : List Byte) : State :=
  let c := s.core core
  if c.l1.any fun x => meets (x.pl * 128) 128 pa bs.length then
    s.setCore core { c with l1 := c.l1.map fun x => { x with data := overlay (x.pl * 128) x.data pa bs } }
  else s

end Sys2Proof.Machine
end

