-- ==== Sys2Proof/Machine/Ops.lean ====
section
/-! DEFINITION. The named operations over threads, registers and regions, and TAKING AN EXCEPTION: one operation for
groups (R36, R162, R179, R361) and service threads (R330), with the return beside it (R331). -/

namespace Sys2Proof.Machine

/-! ### The thread at hand -/

/-- The scalar stream of the thread that the step runs. -/
def State.thr (s : State) : Thread :=
  match s.cur with
  | .none => Thread.zero
  | .group g => (s.group g).thr
  | .svc t => (s.svc t).thr

def State.setThr (s : State) (x : Thread) : State :=
  match s.cur with
  | .none => s
  | .group g => s.modGroup g fun y => { y with thr := x }
  | .svc t => s.setSvc t { s.svc t with thr := x }

def State.modThr (s : State) (f : Thread → Thread) : State := s.setThr (f s.thr)

/-- The group at hand; a service thread is none. -/
def State.gid (s : State) : Option Nat := match s.cur with | .group g => some g | _ => none

/-- The die of the thread at hand: service threads run on D0 (R328). -/
def State.curDie (s : State) : Nat := match s.cur with | .group g => dieOf (s.coreOf g) | _ => 0

/-! ### Scalar registers (R43, R44, R178) -/

/-- s0 reads as zero. -/
def Thread.rd (t : Thread) (n : Nat) : DWord := if n = 0 then 0 else Tab.get 0 t.sregs n

/-- s0 is always full. -/
def Thread.full (t : Thread) (n : Nat) : Bool := n == 0 || !t.sempty.getLsbD n

/-- A write fills its register; a write to s0 is discarded. -/
def Thread.wr (t : Thread) (n : Nat) (v : DWord) : Thread :=
  if n = 0 then t else { t with sregs := Tab.set 0 t.sregs n v, sempty := t.sempty &&& ~~~(BitVec.ofNat 64 (2 ^ n)) }

/-- Mark a register empty (R44). -/
def Thread.mkEmpty (t : Thread) (n : Nat) : Thread :=
  if n = 0 then t else { t with sempty := t.sempty ||| BitVec.ofNat 64 (2 ^ n) }

/-- R58: p0 reads as all ones and discards writes. -/
def Thread.pred (t : Thread) (n : Nat) : Word := if n = 0 then 0xFFFFFFFF else Tab.get 0 t.preds n
def Thread.setPred (t : Thread) (n : Nat) (v : Word) : Thread :=
  if n = 0 then t else { t with preds := Tab.set 0 t.preds n v }

/-- R159: the address of the instruction's own word, past a prefix. -/
def Thread.wordAt (t : Thread) : DWord := if t.pfx.isSome then t.pcs + 4 else t.pcs

/-- The instruction has completed: pcs passes it and its prefix. -/
def Thread.next (t : Thread) (len : DWord) : Thread := { t with pcs := t.wordAt + len, pfx := none }

/-- The instruction transfers control. -/
def Thread.jump (t : Thread) (target : DWord) : Thread := { t with pcs := target, pfx := none }

/-- The prefix's options, or those of an instruction without one (R68, R159). -/
def Thread.opts (t : Thread) : Pfx := t.pfx.getD ⟨false, false, .rne⟩

/-- Flags captured by the instruction at hand: a group's take effect at its commit, a service thread's at once (R61). -/
def State.capture (s : State) (f : Word) : State :=
  match s.cur with
  | .none => s
  | .group g => s.modGroup g fun x => { x with reg := { x.reg with fset := x.reg.fset ||| f } }
  | .svc _ => s.modThr fun t => { t with flags := t.flags ||| f }

/-- R17: a write to em leaves exited lanes clear. -/
def State.setEm (s : State) (v : Word) : State :=
  let xm : Word := match s.cur with | .group g => (s.group g).xm | _ => 0
  s.modThr fun t => { t with em := v &&& ~~~xm }

/-- A write to em that is no JOIN and changes it begins a divergence, of the lanes that em held (R18, R108; log entry 95). -/
def State.splitEm (s : State) (v : Word) : State :=
  let t := s.setEm v
  match s.cur with
  | .group g =>
    let r := (s.group g).reg
    let e := s.thr.em
    if t.thr.em != e && !r.divFrom.any fun d => d.1 == e then
      t.modGroup g fun x => { x with reg := { x.reg with divFrom := r.divFrom ++ [(e, some r.held.length)] } }
    else t
  | _ => t

/-- JOIN's write to em ends the divergences of the lanes that it restores (R18): an inner JOIN leaves the outer one. -/
def State.joinEm (s : State) (v : Word) : State :=
  match s.cur with
  | .group g => (s.setEm v).modGroup g fun x =>
    { x with reg := { x.reg with divFrom := x.reg.divFrom.filter fun d => d.1 &&& ~~~v != 0 } }
  | _ => s.setEm v

/-! ### Events and fault records -/

/-- The code of a cause (R362). -/
def Cause.code : Cause → Nat
  | .encReserved => 0x01 | .orphanPrefix => 0x02 | .branchAlign => 0x03 | .privileged => 0x04 | .roleViolation => 0x05
  | .lrunCount => 0x06 | .laneRange => 0x07 | .execDenied => 0x08 | .regionTable => 0x09 | .regUnalloc => 0x0A
  | .indexBound => 0x0B | .feEmpty => 0x0C | .sregReadonly => 0x0D
  | .addrRange => 0x10 | .misaligned => 0x11 | .spadBound => 0x12 | .pathDenied => 0x13 | .atomicPlacement => 0x14
  | .lockNotHeld => 0x15 | .queueConfig => 0x16 | .tileConfig => 0x17 | .formatInvalid => 0x18 | .formatDiverge => 0x19
  | .sparseHeader => 0x1A | .detWindow => 0x1B | .detReturn => 0x1C
  | .callTarget => 0x20 | .callTable => 0x21 | .callDepth => 0x22 | .retEmpty => 0x23 | .tracePlacement => 0x24
  | .orderContext => 0x25 | .meshBound => 0x26 | .barrierLevel => 0x27 | .barrierPoisoned => 0x28
  | .storeBufferFull => 0x30 | .drawLimit => 0x31 | .drawBufferFull => 0x32
  | .pageFault => 0x40 | .poison => 0x41 | .latePoison => 0x48 | .cxlWbError => 0x49 | .userTrap => 0x50 | .break_ => 0x51
  | .hardError => 0x58
  | .copyPage => 0x60 | .copyPath => 0x61 | .copyWindow => 0x62 | .copyMemory => 0x63 | .copyCxl => 0x64
  | .reduceWindow => 0x65 | .reduceSeq => 0x66 | .reduceDesc => 0x67 | .netDesc => 0x68
  | .regionLivelock => 0x70 | .orderStall => 0x71 | .launchInvalid => 0x72 | .microReserved => 0x73 | .spillLost => 0x74
  | .rayLost => 0x75 | .netFail => 0x76 | .replayBlock => 0x77 | .queueInvalid => 0x78

/-- The kind of a cause: S 0, E 1, Q 2, I 3, T 4, C 5 (R361, R362). -/
def Cause.kind (c : Cause) : Nat :=
  let n := c.code
  if n < 0x40 then 1 else if n < 0x48 then 0 else if n < 0x50 then 3 else if n < 0x58 then 2 else if n < 0x70 then 4 else 5

def PfKind.code : PfKind → Nat | .notPresent => 0 | .malformed => 1 | .write => 2

/-- SOURCE of records and events: unit and type (R364). -/
def sourceOf (ty unit : Nat) : Nat := ty * 2 ^ 16 + unit

/-- A die's TIME. -/
def State.time (s : State) (d : Nat) : Nat := (s.die d).time

/-- Whether an endpoint's ring has no room; the spec gives it no size (log entry 18). -/
def EvRing.full (x : EvRing) : Bool := decide (max 16 Config.endpointRing ≤ x.recs.length - x.head)

/-- A record comes to an endpoint's ring: it is written, or held behind a full ring, behind a held record of its source, or for now
(`late`): records of different sources may enter two rings in different orders (R414). -/
def EvRing.add (x : EvRing) (r : EventRec) (late : Bool) : EvRing :=
  if late || x.full || x.held.any fun (h : EventRec) => h.source == r.source then { x with held := x.held ++ [r] }
  else { x with recs := x.recs ++ [r] }

/-- Held records enter the ring while it has room, those of one source in their order, sources by free choices from `f` on. -/
def EvRing.pour (x : EvRing) (f : Nat) : Nat → EvRing
  | 0 => x
  | n + 1 =>
    if x.full then x
    else match x.held[Config.freeNat f % max 1 x.held.length]? with
      | none => x
      | some h =>
        let r := (x.held.find? fun (q : EventRec) => q.source == h.source).getD h
        EvRing.pour { x with recs := x.recs ++ [r], held := x.held.erase r } (f + 1) n

/-- An event of the host's: a record for both endpoint rings (R414), pending for service thread 0 as well (log entry 18). -/
def State.event (s : State) (source ty die : Nat) (data : DWord) : State :=
  let n := Tab.get 0 s.evSeqs source
  let r : EventRec := ⟨source, n, ty, s.time die, data⟩
  let a : DWord := BitVec.ofNat 64 (32 * (s.ctl.evA.recs.length + s.ctl.evA.held.length))
  let late := Config.freeNat s.free
  let s := { s with ctl := { s.ctl with evA := s.ctl.evA.add r (late % 2 == 1), evB := s.ctl.evB.add r (late / 2 % 2 == 1) },
                    evSeqs := Tab.set 0 s.evSeqs source (n + 1), free := s.free + 1 }
  if (s.svc 0).stopped then s else s.setSvc 0 { s.svc 0 with evs := (s.svc 0).evs ++ [a] }

/-- Each access that meets a link that is down raises POOL_ERROR, kind 2; the device address is a free value (R409, R415; log
entry 92). -/
def State.poolErrors (s : State) (pas : List Nat) : State :=
  (pas.filter fun pa => s.behind .down pa).foldl (fun s pa =>
    { s with free := s.free + 1 }.event (sourceOf 10 (cxlPort pa)) 3 (cxlPort pa / 4)
      (BitVec.ofNat 64 (cxlPort pa + 2 ^ 4 * 2 + 2 ^ 8 * (Config.freeNat s.free % 2 ^ 56)))) s

/-- Hand a fault record to its context; it is numbered as it enters the ring (R363, R364). -/
def State.record (s : State) (r : FaultRec) : State := { s with faults := s.faults ++ [r] }

/-- The byte address of the word a group is at: pcs, or its lane word (R364). -/
def State.pcOf (s : State) (g : Nat) : DWord :=
  match (s.group g).blk with
  | some b => (s.recOf g).lbase + BitVec.ofNat 64 (12 * b.k)
  | none => (s.group g).thr.pcs

/-- The details of a trap: lanes, address, page-fault kind, AUX32 and path. -/
structure TrapInfo where
  flm : Word := 0
  addr : DWord := 0
  pf : Option PfKind := none
  aux : Word := 0
  path : Nat := 0xFF
  /-- The reporting point, where it is not the group's next instruction. -/
  pc : Option DWord := none
  deriving DecidableEq, Repr

/-- The record of a group's trap. -/
def State.groupRec (s : State) (g : Nat) (c : Cause) (i : TrapInfo) : FaultRec :=
  let x := s.group g
  let l := s.launch (s.launchOf g)
  let k := s.coreOf g
  { ctx := l.ctx, cause := c, kind := c.kind, path := i.path, seq := 0, source := sourceOf 0 (coreidOf k),
    launch := l.lr.id, team := BitVec.ofNat 32 (s.team x.team).idx, group := x.gidx,
    pfkind := (i.pf.map PfKind.code).getD 0xFF, asid := s.asidOf g, flm := i.flm, aux32 := i.aux, pc := i.pc.getD (s.pcOf g),
    addr := i.addr, time := s.time (dieOf k), aux64 := 0, waiter := if c.kind = 0 then some (.group g) else none }

/-! ### Profiling (R385) -/

/-- Event `e` is counted `n` times in a context's profiling sessions. -/
def State.bumpBy (s : State) (c e n : Nat) : State :=
  if (s.ctx c).profs.isEmpty || n == 0 then s
  else s.setCtx c { s.ctx c with profs := (s.ctx c).profs.map fun p => { p with cnt := Tab.put p.cnt e (Tab.get 0 p.cnt e + n) } }

def State.bump (s : State) (c e : Nat) : State := s.bumpBy c e 1

/-- The context of a group. -/
def State.ctxOf (s : State) (g : Nat) : Nat := (s.launch (s.launchOf g)).ctx

/-! ### Regions: start and discard (R32, R196, R197) -/

/-- A region starts at `entry`: the generation advances, the operand file and the last results are zero, and the draw
state and the tiles are the checkpoint. -/
def Group.begin (x : Group) (entry : DWord) (explicit : Bool) : Group :=
  { x with
    regen := x.regen + 1
    f := { x.f with w := [], z := [], zp := [] }
    upset := x.upset.filter fun k => k / 8192 != 1 && decide (k / 32 < 512 ∨ 516 ≤ k / 32)
    reg := { Region.zero with opened := true, entry := entry, explicit := explicit, divFrom := x.reg.divFrom, ckLanes := x.lanes, ckTiles := x.tl } }

/-- Mark a pending value's destinations full, as a dropped load leaves them (R32). -/
def Group.fillDst (x : Group) (p : Pending) : Group :=
  { x with
    thr := match p.sdst with
      | some (n, _) => { x.thr with sempty := x.thr.sempty &&& ~~~(BitVec.ofNat 64 (2 ^ n)) }
      | none => x.thr
    f := { x.f with vempty := Tab.setAll false x.f.vempty (p.vdst.map fun (k, _) => (k, false)) } }

/-- Whether a discard of generation `gen` drops a pending value: VTOS and the counters of SRD land (R240). -/
def Pending.dropped (p : Pending) (gen : Word) : Bool := p.gen == gen && p.reason != 27

/-- The atomic destinations a region left empty are full again (R266). -/
def Group.fillAtom (x : Group) : Group :=
  x.reg.atomDst.foldl (fun x n =>
    if 8192 ≤ n then { x with thr := { x.thr with sempty := x.thr.sempty &&& ~~~(BitVec.ofNat 64 (2 ^ (n - 8192))) } }
    else { x with f := { x.f with vempty := Tab.set false x.f.vempty n false } }) x

/-- Free the lock bits that a group's open region took (R32, R91, R92). -/
def freeLocks (locks : Tab Lock) (bits : List Nat) : Tab Lock :=
  bits.foldl (fun l b => Tab.set Lock.free l b .free) locks

/-- Return the tentative pops and the reserved room of a region (R32, R57). -/
def Team.unpop (t : Team) (g : Nat) (pushes : List (Nat × Word)) : Team :=
  { t with queues := t.queues.map fun (k, q) =>
      let r := (pushes.filter fun p => p.1 == k).length
      let q := { q with reserved := q.reserved - r }
      (k, if q.popper == some g then { q with popper := none, tent := 0 } else q) }

/-- The group's own part of a discard. -/
def Group.dropRegion (x : Group) : Group :=
  let gen := x.regen
  let x := (x.pend.filter fun p => p.dropped gen).foldl Group.fillDst x
  let x := Group.fillAtom x
  let lost := (x.anvil.filter fun c => !c.committed).flatMap AnvilCmd.dst
  let x := { x with f := { x.f with vempty := Tab.setAll false x.f.vempty (lost.map fun k => (k, false)) } }
  { x with
    pend := x.pend.filter fun p => !p.dropped gen
    lanes := x.lanes.map fun (k, l) => (k, { l with draw := (Tab.get Lane.zero x.reg.ckLanes k).draw })
    thr := { x.thr with em := x.thr.em ||| x.reg.exited, pcs := x.reg.entry, pfx := none }
    xm := x.xm &&& ~~~x.reg.exited
    tl := x.reg.ckTiles
    anvil := x.anvil.filter fun c => c.committed
    blk := none
    walks := []
    sch := { x.sch with wait := none, again := true, orderFrom := none, stalled := false }
    reg := { Region.zero with entry := x.reg.entry, explicit := x.reg.explicit, divFrom := x.reg.divFrom.filter fun d => d.2.isNone } }

/-- Discard a group's open region (R32). An implicit region starts again at its start (R197). -/
def State.discard (s : State) (g : Nat) : State :=
  let x := s.group g
  if !x.reg.opened then s
  else
    let s := x.reg.undo.foldl (fun s (off, bs) => s.putSpad x.team off bs) s
    let s := s.modCore (s.coreOf g) fun c => { c with locks := freeLocks c.locks x.reg.locks }
    let s := { s with replays := s.replays.map fun (k, (r : Replay)) => (k, if r.g == g && r.cover == some x.regen then { r with cover := none } else r) }
    let s := s.modTeam x.team fun t =>
      let t := Team.unpop t g x.reg.pushes
      if x.reg.meshDecl then { t with mesh := none } else t
    let s := s.modGroup g fun y =>
      let y := Group.dropRegion y
      if y.reg.explicit then y else Group.begin y y.reg.entry false
    s.bump (s.ctxOf g) 2

/-! ### Taking an exception -/

/-- How a group parked by a cause of a kind resumes (R361). -/
def resumeOf (c : Cause) : Resume := if c.kind == 0 then .region else if c.kind == 2 then .after else .here

/-- Park a group for a cause (R37). -/
def Group.park (x : Group) (c : Cause) (flm : Word) (r : Resume) : Group :=
  { x with flm := flm, thr := { x.thr with pfx := none }, walks := [],
           sch := { x.sch with parked := true, cause := some c, resume := r, wait := none, ready := 0, promoted := none } }

/-- A GROUP TAKES A TRAP (R36, R162, R179, R361): it is parked at the reporting point, flm names the lanes, and a record
goes to its context. A serviceable trap discards the region first and counts (R32); at the 8th discard in a row
REGION_LIVELOCK takes the place of the fault's record. -/
def State.trapGroup (s : State) (g : Nat) (c : Cause) (i : TrapInfo) : State :=
  let r := s.groupRec g c i
  if c.kind == 0 then
    let n := (s.group g).fault + 1
    let s := (s.discard g).modGroup g fun x => { Group.park x c i.flm .region with fault := n }
    if 8 ≤ n then
      (s.record { r with cause := .regionLivelock, kind := 5, waiter := none, pfkind := 0xFF }).modGroup g fun x =>
        { x with sch := { x.sch with cause := some .regionLivelock } }
    else s.record r
  else (s.record r).modGroup g fun x => Group.park x c i.flm (resumeOf c)

/-- Fields of sstat (R329). -/
def sstatIe (v : DWord) : Bool := v.getLsbD 0
def sstatHost (v : DWord) : Bool := v.getLsbD 4

/-- A SERVICE THREAD ENTERS ITS HANDLER (R330): epc, ecause and einfo, PIE := IE, IE := 0, PPL := PL, PL := HOST,
pcs := svec. -/
def Svc.enter (v : Svc) (epc cause einfo : DWord) : Svc :=
  let st := v.sstat
  let st' := (st &&& ~~~(0x33 : DWord)) ||| (if sstatIe st then 2 else 0) ||| (if sstatHost st then 0x20 else 0) ||| 0x10
  { v with thr := { v.thr with pcs := v.svec, pfx := none }, sstat := st', epc := epc, ecause := cause, einfo := einfo,
           inHandler := true, wait := none }

/-- A service thread's unit number: [2:0] thread, [4:3] service core (R364). -/
def svcUnit (t : Nat) : Nat := sourceOf 4 t

/-- A trap or SVC of a service thread. With IE = 0 it stops the thread and a HARD_ERROR event names it (R330). -/
def State.trapSvc (s : State) (t : Nat) (epc cause einfo : DWord) : State :=
  let v := s.svc t
  if sstatIe v.sstat then s.setSvc t (Svc.enter v epc cause einfo)
  else (s.setSvc t { v with stopped := true, thr := { v.thr with pfx := none } }).event (svcUnit t) 1 0 0xFFFFFFFF

/-- TAKING AN EXCEPTION: the thread at hand takes trap `c` at its reporting point. -/
def State.raise (s : State) (c : Cause) (i : TrapInfo) : State :=
  match s.cur with
  | .none => s
  | .group g => s.trapGroup g c i
  | .svc t => s.trapSvc t (s.svc t).thr.pcs (BitVec.ofNat 64 c.code) i.addr

/-- ERET at HOST (R331): pcs := epc, IE := PIE, PL := PPL. -/
def Svc.eret (v : Svc) : Svc :=
  let st := v.sstat
  let st' := (st &&& ~~~(0x11 : DWord)) ||| (if st.getLsbD 1 then 1 else 0) ||| (if st.getLsbD 5 then 0x10 else 0)
  { v with thr := { v.thr with pcs := v.epc, pfx := none }, sstat := st', inHandler := false }

/-! ### Waiting (R34, R383) -/

/-- The thread at hand waits and tries its instruction again when something has changed; the reason is R383's code. -/
def State.waitFor (s : State) (reason : Nat) : State :=
  match s.cur with
  | .none => s
  | .group g => s.modGroup g fun x => { x with thr := { x.thr with pfx := none }, sch := { x.sch with wait := some (.retry reason), ready := 0, promoted := none } }
  | .svc t => s.setSvc t { s.svc t with thr := { (s.svc t).thr with pfx := none }, wait := some (.retry reason) }

/-- The group at hand waits on `w` (R197). -/
def State.park? (s : State) (g : Nat) (w : Wait) : State :=
  s.modGroup g fun x => { x with sch := { x.sch with wait := some w, ready := 0, promoted := none } }

/-- Whether a wait is one that tries its instruction again; a wait for lock bits has its own retry (R91). -/
def Wait.retries : Wait → Bool
  | .retry r => r != 14
  | _ => false

/-- A thread with its tried-again wait over. -/
def State.awake (s : State) (a : Agent) : State :=
  match a with
  | .none => s
  | .group g => s.modGroup g fun x => { x with sch := { x.sch with wait := none } }
  | .svc t => s.setSvc t { s.svc t with wait := none }

/-- A free value is taken: the counter advances (log entry 3). -/
def State.takeFree (s : State) : State := { s with free := s.free + 1 }

/-- What every instruction of a scalar or lane word asks first: a thread to run it. -/
def State.running (s : State) (k : State → Out) : Out := if s.cur = .none then .fault .noIssuer else k s

/-- An instruction of a group alone: a service thread raises ENC_RESERVED (R328). -/
def State.groupOnly (s : State) (k : Nat → Out) : Out :=
  match s.cur with
  | .none => .fault .noIssuer
  | .group g => k g
  | .svc _ => .next (s.raise .encReserved {})

/-- R30: a scalar instruction reads a register that the open region's global atomic will write. -/
def State.readsAtomDst (s : State) (regs : List Nat) : Bool :=
  match s.cur with
  | .group g => regs.any fun n => n != 0 && (s.group g).reg.atomDst.contains (8192 + n)
  | _ => false

/-! ### Residue codes (R55, R82) -/

/-- The words of sn among a group's upset words. -/
def sWords (n : Nat) : List Nat := [(576 + n) * 32, (576 + n) * 32 + 1]

/-- The register of an upset word, as R369 gives it. -/
def upsetReg (k : Nat) : Word := BitVec.ofNat 32 (k / 32)

/-- Written words carry the codes of their new values. -/
def Group.recode (x : Group) (ks : List Nat) : Group :=
  if x.upset.isEmpty then x else { x with upset := x.upset.filter fun k => !ks.contains k }

/-- The first word among those read whose code does not match its value. -/
def Group.mismatch (x : Group) (ks : List Nat) : Option Word := (x.upset.find? ks.contains).map upsetReg

/-- The words of main-file registers of some lanes, as a group's `upset` numbers them. -/
def liveKeys (regs : List Nat) (ls : Word) : List Nat := regs.flatMap fun r => ((List.range 32).filter fun l => ls.getLsbD l).map fun l => r * 32 + l

/-- Every register word of the thread at hand carries the code of its value. -/
def State.sound (s : State) : Prop := ∀ g, s.cur = .group g → (s.group g).upset = []

/-- The instruction at hand has read a mismatch: its step ends in the soft error of R55. -/
def State.meetUpset (s : State) (g : Nat) (r : Word) : State := s.modGroup g fun x => { x with sch := { x.sch with upset := some r } }

/-- Scalar registers read: the first mismatch among them, of a group. -/
def State.sMismatch (s : State) (regs : List Nat) : Option Word :=
  match s.cur with
  | .group g => (s.group g).mismatch (regs.flatMap sWords)
  | _ => none

/-- Scalar registers are written: their words carry new codes. -/
def State.sRecode (s : State) (regs : List Nat) : State :=
  match s.cur with
  | .group g => if (s.group g).upset.isEmpty then s else s.modGroup g fun x => x.recode (regs.flatMap sWords)
  | _ => s

/-- What a scalar instruction asks of its registers (R30, R55, R178): those it reads are no pending atomic's, they and those
it writes are full, and the residue codes of those it reads match; otherwise it traps, waits or meets a soft error. -/
def State.withRegs (s : State) (reads writes : List Nat) (k : State → Out) : Out :=
  s.running fun s =>
    if s.readsAtomDst reads then .next (s.raise .atomicPlacement {})
    else if (reads ++ writes).all s.thr.full then
      match s.sMismatch reads, s.gid with
      | some r, some g => .next (s.meetUpset g r)
      | _, _ => k (s.sRecode writes)
    else .next (s.waitFor 18)

/-- A scalar instruction of `len` bytes that writes one register: value and flags from the thread (R61, R178). -/
def State.scalarOp (s : State) (len : DWord) (reads : List Nat) (d : Nat) (f : Thread → DWord × Word) : Out :=
  s.withRegs reads [d] fun s =>
    let r := f s.thr
    let s := if s.thr.opts.cap then s.capture r.2 else s
    .next (s.modThr fun t => (t.wr d r.1).next len)

end Sys2Proof.Machine
end

