-- ==== Sys2Proof/Machine/Regions.lean ====
section
/-! DEFINITION. The commit of a region (R28, R57, R61, R91, R106, R125-R127, R146, R196, R211, R213, R264, R265, R390): its
held effects are handed over in program order; and lanes that end. -/

namespace Sys2Proof.Machine

/-! ### Record and replay: the store hash (R390) -/

def rotl (x : DWord) (n : Nat) : DWord := x <<< n ||| x >>> (64 - n)

/-- One word of a store. -/
def hashWord (h : DWord) (a d : DWord) : DWord := rotl ((h ^^^ a ^^^ d) * emberMul) 19

/-- The bytes of a write cut at aligned words: (address, bytes). -/
def cutWords (a : Nat) (bs : List Byte) : Nat → List (Nat × List Byte)
  | 0 => []
  | fuel + 1 =>
    if bs.isEmpty then []
    else let n := 4 - a % 4; (a, bs.take n) :: cutWords (a + n) (bs.drop n) fuel

/-- The hash after a write. -/
def hashWr (h : DWord) (w : Wr) : DWord :=
  (cutWords w.va.toNat w.data w.data.length).foldl (fun h (a, bs) =>
    hashWord h (BitVec.ofNat 64 a ||| (if w.spad then 0x8000000000000000 else 0)) (BitVec.ofNat 64 (ofLeBytes bs))) h

/-- REQ of a group (R387). -/
def State.reqOf (s : State) (g : Nat) : Nat := (s.team (s.group g).team).idx * 16 + (s.group g).gidx

/-- The stores of a committing region enter its requester's hash, in a recorded or replayed launch. -/
def State.hashHeld (s : State) (g : Nat) (hs : List Held) : State :=
  let l := s.launchOf g
  if (s.launch l).rr.mode = 0 then s
  else
    let q := s.reqOf g
    let (h, j) := Tab.get (0, 0) (s.launch l).hash q
    let h' := hs.foldl (fun h x => match x with | .store _ ws _ _ true _ | .over ws => ws.foldl hashWr h | _ => h) h
    s.modLaunch l fun y => { y with hash := Tab.put y.hash q (h', j) }

/-! ### Queues (R56, R57) -/

/-- Scratchpad offset of a queue's element, counting from the committed head. -/
def QueueReg.at_ (q : QueueReg) (k : Nat) : Nat := q.base + 4 * ((q.head + k) % max q.cap 1)

/-- The tentative pops of a group become final. -/
def popsFinal (qs : Tab QueueReg) (g : Nat) : Tab QueueReg :=
  qs.map fun (k, q) =>
    (k, if q.popper == some g then
      { q with head := (q.head + q.tent) % max q.cap 1, count := q.count - q.tent, popper := none, tent := 0 } else q)

/-- A committed push of group `g` joins its queue's elements to come, in commit order (R57). -/
def State.pushOne (s : State) (t g : Nat) (p : Nat × Word) : State :=
  s.modTeam t fun x =>
    let q := Tab.get QueueReg.off x.queues p.1
    { x with queues := Tab.put x.queues p.1 { q with coming := q.coming ++ [(g, p.2, false)] } }

/-- The first push of a group that its fences still hold is released. -/
def releaseFirst (g : Nat) : List (Nat × Word × Bool) → List (Nat × Word × Bool)
  | [] => []
  | (h, v, b) :: ps => if h = g && !b then (h, v, true) :: ps else (h, v, b) :: releaseFirst g ps

/-- Released pushes become elements, up to the first in commit order that is not released (R57). -/
def State.landPushes (s : State) (t q : Nat) : List (Nat × Word × Bool) → State
  | (_, v, true) :: ps =>
    let r := Tab.get QueueReg.off (s.team t).queues q
    let s := s.wrSpad t (r.at_ r.count) (leBytes 4 v.toNat)
    State.landPushes (s.modTeam t fun x =>
      { x with
        queues := Tab.put x.queues q { r with count := r.count + 1, reserved := r.reserved - 1, coming := ps }
        upset := x.upset.filter (· != r.at_ r.count) }) t q ps
  | _ => s

/-- One push of a group is past the fences before it: it and those it held back become elements. -/
def State.releasePush (s : State) (t g q : Nat) : State :=
  let ps := releaseFirst g (Tab.get QueueReg.off (s.team t).queues q).coming
  (s.modTeam t fun x => { x with queues := Tab.put x.queues q { Tab.get QueueReg.off x.queues q with coming := ps } }).landPushes t q ps

/-- Whether another group holds tentative pops or held pushes on a queue, or committed pushes are still to land: its
configuration waits (R211; log entry 88). -/
def State.queueBusy (s : State) (t g q : Nat) : Bool :=
  let r := Tab.get QueueReg.off (s.team t).queues q
  (match r.popper with | some h => h != g | none => false) || !r.coming.isEmpty ||
    s.groups.any fun (k, x) => k != g && x.team == t && x.reg.pushes.any fun p => p.1 == q

/-- A queue of a team takes a configuration: it is empty, with its heads at the base (R211). -/
def State.layQueue (s : State) (t q base cap : Nat) : State :=
  s.modTeam t fun x => { x with queues := Tab.put x.queues q { QueueReg.off with base := base, cap := cap } }

/-- A group whose commit still waits to configure a queue: it goes no further (R211; log entry 88). -/
def Group.configuring (x : Group) : Bool := x.inflight.any fun h => match h with | .qcfg _ _ _ => true | _ => false

/-- Whether a group has pushes that stand behind its fences. -/
def Group.pushing (x : Group) : Bool := x.inflight.any fun h => match h with | .push _ => true | _ => false

/-- The configurations of a commit, after its pushes: each takes effect, or waits for its queue (R211). -/
def State.configure (s : State) (g : Nat) : List (Nat × Nat × Nat) → State
  | [] => s
  | (q, b, c) :: qs =>
    let x := s.group g
    (if x.pushing || x.configuring || s.queueBusy x.team g q then s.modGroup g fun y => { y with inflight := y.inflight ++ [.qcfg q b c] }
      else s.layQueue x.team q b c).configure g qs

/-! ### Lanes that end (R123, R127, R146, R261) -/

/-- Address of a lane's slot of a vector area (R120). -/
def slotAt (base : DWord) (cap : Nat) (glid : Word) : DWord := base + BitVec.ofNat 64 (glid.toNat * (8 + 8 * cap))

/-- A lane's store of the LS path to a virtual address that takes no store-buffer entry; one whose page cannot be written at
its commit is dropped (log entry 19). -/
def State.plainStore (s : State) (g lane : Nat) (va : DWord) (bs : List Byte) : List Held :=
  match s.translateC (s.coreOf g) (s.asidOf g) va.toNat { write := true, path := some 0 } with
  | .ok pa e => [.store .ls [⟨false, va, pa, lane, bs⟩] [] false false (pteBit e 5)]
  | _ => []

/-- Stores of 8 bytes each, which lie in one page each. -/
def State.plainWords (s : State) (g lane : Nat) (va : DWord) : List DWord → List Held
  | [] => []
  | w :: ws => s.plainStore g lane va (leBytes 8 w.toNat) ++ State.plainWords s g lane (va + 8) ws

/-- A lane's input length n (R120), as its slot's header stands in memory at the lane's end; 0 where the header's page does
not translate. R123 does not say when n is read for the unused count (DESIGN CHOICE; log entry 96). -/
def State.inputLen (s : State) (g : Nat) (glid : Word) : Nat :=
  let r := s.recOf g
  if r.ivBase = 0 then 0
  else match s.translateC (s.coreOf g) (s.asidOf g) (slotAt r.ivBase r.cap glid).toNat { path := some 0 } with
    | .ok pa _ => min (s.rdLe pa 4) r.cap
    | _ => 0

/-- Number of ones of an 8-bit mask. -/
def popcount (w n : Nat) : Nat := ((List.range w).filter fun k => n / 2 ^ k % 2 == 1).length

/-- The draw mode of a launch (R336). -/
def LRec.drawMode (r : LRec) : Nat := r.flags.toNat / 16 % 4

/-- R123: the unused count. -/
def State.unused (s : State) (g : Nat) (l : Lane) : Nat :=
  let n := s.inputLen g l.glid
  match (s.recOf g).drawMode with
  | 0 => 0
  | 1 => n - l.draw.count
  | _ => n - l.draw.cursor - popcount 8 l.draw.used

/-- A helper lane's output writes have no effect (R142). -/
def Lane.helper (l : Lane) : Bool := match l.frag with | some f => f.helper | none => false

/-- R127: the output slot header and the thread record of lane `k` that ends. -/
def State.endRecord (s : State) (g k : Nat) (l : Lane) : List Held :=
  let r := s.recOf g
  if r.cap = 0 || l.helper then []
  else
    let iter := match (s.launch (s.launchOf g)).replay with | some (_, i) => i | none => 0
    let ov := slotAt r.ovBase r.cap l.glid
    let d := l.draw
    let w2 := d.count % 2 ^ 16 + 2 ^ 16 * (d.fresh % 2 ^ 16) + 2 ^ 32 * (s.unused g l % 2 ^ 16) +
      2 ^ 48 * ((if d.oset then 1 else 0) + 2 * r.drawMode)
    s.plainStore g k ov (leBytes 8 (d.count % 2 ^ 32)) ++
      s.plainWords g k (r.recBase + BitVec.ofNat 64 (48 * l.glid.toNat))
        [BitVec.ofNat 64 (r.id.toNat + 2 ^ 32 * l.glid.toNat), l.entry, ov, BitVec.ofNat 64 w2,
         BitVec.ofNat 64 (d.outcome.toNat + 2 ^ 32 * iter), 0]

/-- Insert a lane in its bin's order: key, then global lane id (R24). -/
def insSwLane (x : SwLane) : List SwLane → List SwLane
  | [] => [x]
  | y :: ys =>
    if x.key < y.key || (x.key == y.key && x.lane.glid.toNat < y.lane.glid.toNat) then x :: y :: ys else y :: insSwLane x ys

/-- The key of a bin: target, budget and argument block (DESIGN CHOICE; log entry 108). -/
def binKey (entry : DWord) (blocks : Nat) (sargs : DWord) : Nat := (entry.toNat * 16 + blocks) * 2 ^ 64 + sargs.toNat

/-- Die cycles a bin waits for another lane (R25). -/
def holdCycles : Nat := 512

/-- Whether a bin's hold has expired at a die cycle, and it is not yet marked ready. -/
def Bin.holdOver (b : Bin) (now : Nat) : Bool := b.ready.isNone && !b.lanes.isEmpty && decide (b.lastAt + holdCycles ≤ now)

/-- A bin whose hold has expired is ready since then (R25). -/
def Bin.expire (b : Bin) (now : Nat) : Bin := if b.holdOver now then { b with ready := some (b.lastAt + holdCycles) } else b

/-- A lane enters a bin of its team at a die cycle; the 32nd lane makes the bin ready, and a bin whose hold has expired stays so
(R24, R25). -/
def Team.enter (t : Team) (now : Nat) (entry : DWord) (blocks : Nat) (sargs : DWord) (x : SwLane) : Team :=
  let k := binKey entry blocks sargs
  let b := ((Tab.look t.bins k).getD ⟨entry, blocks, sargs, [], now, none⟩).expire now
  let ls := insSwLane x b.lanes
  { t with bins := Tab.put t.bins k { b with lanes := ls, lastAt := now, ready := if b.ready.isNone && decide (32 ≤ ls.length) then some now else b.ready } }

/-- Read `n` bytes of a launch's tables on the LS path; none where they cannot be read. -/
def State.tableBytes (s : State) (asid : Nat) (va : DWord) (n : Nat) : Option (List Byte) :=
  match s.translate asid va.toNat { path := some 0 } with
  | .ok pa _ => if s.isBad pa n then none else some (s.rdBytes pa n)
  | _ => none

/-- A field of a byte string: `n` bytes from `off` on. -/
def field (bs : List Byte) (off n : Nat) : Nat := ofLeBytes ((bs.drop off).take n)

/-- A function table entry: ENTRY, BLOCKS and SARGS (R256); none where no valid entry has the index. -/
def State.function (s : State) (l : Nat) (f : Nat) : Option (DWord × Nat × DWord) :=
  let r := (s.launch l).lr
  if r.ftCount ≤ f || r.ftBase == 0 then none
  else match s.tableBytes (s.ctx (s.launch l).ctx).asid (r.ftBase + BitVec.ofNat 64 (32 * f)) 32 with
    | some bs =>
      let e := field bs 0 8
      let b := field bs 8 1
      if e % 8 != 0 || b = 0 || 15 < b || field bs 9 7 != 0 || field bs 24 8 != 0 then none
      else some (BitVec.ofNat 64 e, b, BitVec.ofNat 64 (field bs 16 8))
    | none => none

/-- The lanes waiting on a call record enter the bins of their continuations (R260). -/
def State.releaseRec (s : State) (t : Nat) (ws : List (Nat × SwLane)) : State :=
  let now := (s.die (dieOf (s.team t).core)).cyc
  ws.foldl (fun s (c, x) =>
    match s.function (s.team t).launch c with
    | some (e, b, a) => s.modTeam t fun y => y.enter now e b a x
    | none => s) s

/-- One lane fewer is outstanding on a call record; at 0 its lanes enter their bins and the record is free (R260). -/
def State.decRec (s : State) (t : Nat) (r : Nat) : State :=
  match Tab.look (s.team t).recs r with
  | none => s
  | some c =>
    if c.count ≤ 1 then (s.modTeam t fun y => { y with recs := Tab.del y.recs r }).releaseRec t c.waiting
    else s.modTeam t fun y => { y with recs := Tab.put y.recs r { c with count := c.count - 1 } }

/-- Every record a lane's stack names is reduced (R261), and so is every record of lanes that a VRET of it left waiting (log
entry 94). -/
def State.dropStack (s : State) (t : Nat) (l : Lane) : State :=
  let s := l.stack.foldl (fun s (_, r) => match r with | some k => s.decRec t k | none => s) s
  l.owed.foldl (fun s (_, r) => s.decRec t r) s

/-- Lanes of a mask, ascending. -/
def lanesOf (m : Word) : List Nat := (List.range 32).filter fun k => m.getLsbD k

/-- The bytes of a write cut at aligned words (R97): a scalar access is indivisible whole. -/
def Wr.cut (w : Wr) : List Wr :=
  if w.lane = 32 then [w]
  else (cutWords w.at_ w.data w.data.length).map fun (a, bs) =>
    { w with va := w.va + BitVec.ofNat 64 (a - w.at_), pa := w.pa + (a - w.at_), data := bs }

/-- A held effect as its commit hands it over: a store as its indivisible words, each of which performs by itself (R97, R110,
R118), the last of them marked as the store's, and the lock bits it frees behind them (R91). -/
def Held.cut : Held → List Held
  | .store p ws locks _ hash sc =>
    let n := (ws.flatMap Wr.cut).length
    ((ws.flatMap Wr.cut).zipIdx.map fun (w, j) => .store p [w] [] (j + 1 == n) hash sc) ++ (if locks.isEmpty then [] else [.unlock locks])
  | .over _ => []
  | h => [h]

/-- ORDLEAK (R61, R146): set by a commit over what its region clears, and at once between regions. -/
def Group.leak (x : Group) : Group :=
  if x.reg.opened then { x with reg := { x.reg with fset := x.reg.fset ||| 1 } }
  else { x with thr := { x.thr with flags := x.thr.flags ||| 1 } }

/-- R127: the output headers and thread records of the lanes of `m`, which end: they go with the commit of their ending region. -/
def State.endRecords (s : State) (g : Nat) (m : Word) : List Held :=
  (lanesOf m).flatMap fun k => (s.endRecord g k (Tab.get Lane.zero (s.group g).lanes k)).flatMap Held.cut

/-- A lane has left its ordered section by a VORDE: its token is on its way, in the open region or with what commits have handed
over (R145). -/
def Group.leaving (x : Group) (k : Nat) : Bool :=
  x.reg.orde.getLsbD k || x.inflight.any fun h => match h with | .token m => m.getLsbD k | _ => false

/-- R146, R261, R265: the lanes of `m` end: tokens released with ORDLEAK, call records reduced. A lane that ends behind a VORDE
has left its section: its token goes the way of R145. -/
def State.endLanes (s : State) (g : Nat) (m : Word) : State :=
  (lanesOf m).foldl (fun s k =>
    let x := s.group g
    let l := Tab.get Lane.zero x.lanes k
    let left := x.leaving k
    let leak := !left && match l.frag with | some f => f.token | none => false
    let s := s.modGroup g fun x =>
      let x := { x with
        lanes := Tab.put x.lanes k
          { l with stack := [], owed := [], frag := if left then l.frag else l.frag.map fun f => { f with token := false, done := true } } }
      if leak then x.leak else x
    s.dropStack x.team l) s

/-! ### The commit -/

/-- The draw entries of a committing region (R125). -/
def State.drawStores (s : State) (g : Nat) : List Held :=
  let r := s.recOf g
  ((s.group g).lanes.map fun (k, l) =>
    let first := l.draw.count - l.draw.buf.length
    if l.helper then [] else s.plainWords g k (slotAt r.ovBase r.cap l.glid + 8 + BitVec.ofNat 64 (8 * first)) l.draw.buf).flatten

/-- The latest pending arrival of a group: barrier and phase (R203, R277). -/
def Group.latest (x : Group) : Option (Nat × Nat) := x.lastArr.find? fun a => Tab.look x.arrivals a.1 == some a.2

/-- The arrival a gated command waits on (R277): the last one still being handed over, or the latest pending one. While it is
being handed over its phase is not known: the number above 2^64 says how many arrivals at its barrier go before it. -/
def Group.gateOf (x : Group) : Option (Nat × Nat) :=
  let going := x.inflight.filterMap fun h => match h with | .arrive k => some k | _ => none
  match going.getLast? with
  | some k => some (k, 2 ^ 64 + ((going.filter (· == k)).length - 1))
  | none => x.latest

/-- Whether an Anvil word is gated (XF[10] of TMMA and TMMAS, R274). -/
def gatedWord : Instr → Bool
  | .tmma o => LaneOp.xbit o 10
  | .tmmas o => LaneOp.xbit o 10
  | _ => false

/-- The group's own part of a commit, after its held effects have been appended. -/
def Group.closeRegion (x : Group) : Group :=
  let gate := Group.gateOf x
  { x with
    thr := { x.thr with flags := (x.thr.flags &&& ~~~x.reg.fclr) ||| x.reg.fset }
    lanes := x.lanes.map fun (k, l) => (k, { l with draw := { l.draw with buf := [] } })
    anvil := x.anvil.map fun c => if c.committed then c else { c with committed := true, gate := if gatedWord c.word then gate else none }
    soft := 0
    fault := 0
    reg := { Region.zero with entry := x.reg.entry, explicit := x.reg.explicit, divFrom := x.reg.divFrom.map fun d => (d.1, none) } }

/-- Lock bits at a commit (R91): TENTATIVE becomes HELD, ATOMIC becomes FREE. -/
def commitLocks (locks : Tab Lock) (g : Nat) (bits : List Nat) : Tab Lock :=
  bits.foldl (fun l b => match Tab.get Lock.free l b with
    | .tentative _ _ => Tab.put l b (.held g)
    | .atomic _ _ => Tab.set Lock.free l b .free
    | _ => l) locks

/-- The requests of a group's global atomics that have not returned: handed over, or at their units. -/
def State.atomsOut (s : State) (g : Nat) : List AtReq :=
  ((s.group g).inflight.filterMap fun h => match h with | .atom r => some r | _ => none) ++
    s.units.flatMap fun (_, q) => q.filter fun r => r.g == g

/-- Blocks of a group that outstanding writes still target, above `b` (R48). -/
def State.quarOf (s : State) (g b : Nat) : List (Nat × Nat) :=
  let x := s.group g
  let as_ := s.atomsOut g
  (List.range x.blocks).filterMap fun k =>
    let n := (x.pend.map fun p => (p.vdst.filter fun (r, _) => r / 512 == k).length).sum +
      (x.anvil.map fun c => (c.dst.filter fun r => r / 512 == k).length).sum +
      (as_.map fun r => (if r.wide then 2 else 1) * (r.vdst.filter fun (_, q) => q / 16 == k).length).sum
    if b ≤ k && n != 0 then some (k, n) else none

/-- A request's old values reach no register from block `b` on: what lands in a quarantined block nobody observes (R48). -/
def AtReq.below (r : AtReq) (g b : Nat) : AtReq :=
  if r.g = g then { r with vdst := r.vdst.filter fun (_, q) => q / 16 < b } else r

/-- A team that holds its core: it runs, or is being vacated (R371). -/
def Team.onCore (t : Team) : Bool := t.st == .running || t.st == .vacating

/-- Release the blocks above `b`: free, or into quarantine while writes to them are outstanding (R48, R213). A saved team's
groups hold no block of a core. -/
def State.releaseBlocks (s : State) (g b : Nat) : State :=
  let x := s.group g
  let q := s.quarOf g b
  let s := if (s.team x.team).onCore then
      s.modCore (s.coreOf g) fun c => { c with used := c.used - (x.blocks - b - q.length), quar := c.quar ++ q }
    else s
  let s := { s with units := s.units.map fun e : Nat × List AtReq => (e.1, e.2.map fun (r : AtReq) => r.below g b) }
  s.modGroup g fun y =>
    { y with
      blocks := min y.blocks b
      inflight := y.inflight.map fun h => match h with | .atom r => .atom (r.below g b) | h => h
      f := { y.f with v := y.f.v.filter fun (k, _) => k / 512 < b, vempty := y.f.vempty.filter fun (k, _) => k / 512 < b }
      pend := y.pend.map fun p => { p with vdst := p.vdst.filter fun (r, _) => r / 512 < b }
      anvil := y.anvil.map fun c => { c with dst := c.dst.filter fun r => r / 512 < b } }

/-- The replays of a committing region: those it hands over stand with Dusk's list (R288), and those its RRES covers stay
covered. -/
def State.commitReplays (s : State) (g : Nat) (hs : List Held) : State :=
  let gen := (s.group g).regen
  let old := s.replays.map fun (k, (r : Replay)) => (k, if r.g == g && r.cover == some gen then { r with cover := none, covered := true } else r)
  { s with replays := hs.foldl (fun t h => match h with
      | .cmd (.replay b) => Tab.put t (Tab.fresh t) ⟨g, s.launchOf g, b, false, false, [], none, 0, [], 0, false, none, false⟩
      | _ => t) old }

/-- An entry that a commit releases at once where no fence stands before it: a push, and a word of a scratchpad atomic. -/
def Held.atOnce : Held → Bool | .push _ => true | .shown _ _ => true | _ => false

/-- Those entries that stand behind no fence among what a group has handed over (R57, R112, R117). -/
def freeOfFence : List Held → List Held
  | [] => []
  | .fence _ _ _ :: _ => []
  | h :: hs => if h.atOnce then h :: freeOfFence hs else freeOfFence hs

/-- What is left when they are gone. -/
def dropFree : List Held → List Held
  | [] => []
  | .fence a b c :: hs => .fence a b c :: hs
  | h :: hs => if h.atOnce then dropFree hs else h :: dropFree hs

/-- A push becomes visible, or a word that a scratchpad atomic has written. -/
def State.release (s : State) (g : Nat) : Held → State
  | .push q => s.releasePush (s.group g).team g q
  | .shown off bs => s.fireMonitors (some (s.group g).team) off bs.length
  | _ => s

/-- Step 3 of a commit: the pushes behind no fence are released, and what its scratchpad atomics wrote is there for every agent. -/
def State.freeAtOnce (s : State) (g : Nat) : State :=
  let hs := (s.group g).inflight
  if (freeOfFence hs).isEmpty then s
  else (freeOfFence hs).foldl (fun s h => s.release g h) (s.modGroup g fun x => { x with inflight := dropFree hs })

/-- THE COMMIT OF A GROUP'S REGION (R28). Between regions it does nothing. -/
def State.commit (s : State) (g : Nat) : State :=
  let x := s.group g
  if !x.reg.opened then s
  else
    let r := x.reg
    let s := (s.hashHeld g r.held).commitReplays g r.held
    -- steps 1 and 4: the draw entries and the records of lanes that end, then what the region holds, in program order; the
    -- atomic waits for the pushes before it
    let hs := (s.drawStores g).flatMap Held.cut ++ s.endRecords g r.exited ++ r.held.flatMap Held.cut
    let s := s.endLanes g r.exited
    let s := s.modGroup g fun y => { y with inflight := y.inflight ++ hs ++ (if r.orde = 0 then [] else [.token r.orde]) }
    let s := s.modGroup g Group.closeRegion
    -- steps 2 and 3: pops final, pushes in commit order, those behind no fence released; then the configurations
    let s := s.modTeam x.team fun t => { t with queues := popsFinal t.queues g }
    let s := ((r.pushes.foldl (fun s p => s.pushOne x.team g p) s).freeAtOnce g).configure g r.qcfg
    let s := s.modTeam x.team fun t =>
      { t with
        meshV := Tab.setAll 0 t.meshV r.meshV
        meshP := r.meshP.foldl (fun m (k, v) => Tab.put m k v) t.meshP }
    let s := s.modCore (s.coreOf g) fun c => { c with locks := commitLocks c.locks g r.locks }
    let s := match r.shrink with | some b => s.releaseBlocks g b | none => s
    s.bump (s.launch (s.launchOf g)).ctx 1

/-- An implicit region starts at pcs where code begins outside a REGION word (R197). -/
def State.openImplicit (s : State) (g : Nat) : State :=
  s.modGroup g fun x => if x.reg.opened then x else Group.begin x x.thr.pcs false

end Sys2Proof.Machine
end

