-- ==== Sys2Proof/Machine/Operands.lean ====
section
/-! DEFINITION. Lane operands: active lanes, registers and their full/empty bits, index registers, queues, snapshots, last
results, modifiers (R14-R17, R45, R50-R53, R56, R57, R166-R171, R216-R218); what a lane word waits for or traps on before it
acts; its results; and its end. -/

namespace Sys2Proof.Machine

/-! ### Active lanes and roles -/

/-- The lanes a word acts for: em AND the predicate that PRED selects (R16, R58). -/
def Thread.active (t : Thread) (h : LaneHdr) : Word :=
  t.em &&& (if h.pinv then ~~~(t.pred h.pidx.toNat) else t.pred h.pidx.toNat)

/-- What R20 and R21 tell apart. -/
inductive LaneClass
  /-- Permitted to MATRIX (R21). -/
  | basic
  | other
  | anvil
  | bellows
  /-- Permitted to NONE alone (R258, R286). -/
  | call
  deriving DecidableEq, Repr

/-- The role of a group index: 0 NONE, 1 COPY, 2 MATRIX, 3 VECTOR, by the ranges of ROLES (R336). -/
def roleAt (roles : Word) (gidx : Nat) : Nat :=
  let c := roles.toNat % 256
  let m := c + roles.toNat / 256 % 256
  let v := m + roles.toNat / 65536 % 256
  if gidx < c then 1 else if gidx < m then 2 else if gidx < v then 3 else 0

/-- The role of a group. -/
def State.roleOf (s : State) (g : Nat) : Nat := roleAt (s.recOf g).roles (s.group g).gidx

/-- R20, R21. -/
def roleOk (role : Nat) : LaneClass → Bool
  | .basic => role != 1
  | .other => role == 0 || role == 3
  | .anvil => role == 0 || role == 2
  | .bellows => role == 0 || role == 1
  | .call => role == 0

/-! ### Sources -/

/-- A source that a word uses: its field, how it is read, the element width its modifier acts on, its words, and the
lanes whose registers are read. -/
structure Use where
  src : Src
  kind : ReadKind
  ew : Nat
  n : Nat
  lanes : Word
  deriving DecidableEq, Repr

/-- Key of a register of a lane in a file. -/
def vkey (r lane : Nat) : Nat := r * 32 + lane

/-- R52: the register v[iN + k] resolves to, or none where INDEX_BOUND holds (R169 for pairs, R242 for quads). -/
def Group.resolve (x : Group) (N k n lane : Nat) : Option Nat :=
  let w := (Tab.get 0 x.f.i (vkey N lane)).toNat
  let e := w % 256 + k
  let m := w / 256 % 256 + e
  if w / 65536 % 256 ≤ e || min 240 (16 * x.blocks) < m + n || m % n != 0 then none else some m

/-- The first main-file register a source reads in a lane; none for other classes. -/
def Group.mainOf (x : Group) (r : SrcReg) (n lane : Nat) : Option Nat :=
  match r with
  | .v i _ => some i.toNat
  | .vi N k _ => x.resolve N.toNat k.toNat n lane
  | _ => none

/-- The FE bit of a source. -/
def SrcReg.fe : SrcReg → Bool
  | .v _ b => b | .s _ b => b | .vi _ _ b => b | _ => false

/-- Whether the register of a lane (and its pair) is full. -/
def Group.vfull (x : Group) (m n lane : Nat) : Bool :=
  (List.range n).all fun j => !Tab.get false x.f.vempty (vkey (m + j) lane)

/-- The value of a snapshot register: captured by LRUN, or the register's own where the snapshot is empty (R15). -/
def Group.snapOf (x : Group) (n : Nat) : Option DWord :=
  match x.blk with
  | some b =>
    if !b.snapEmpty.getLsbD n then some (if n = 0 then 0 else Tab.get 0 b.snap n)
    else if x.thr.full n then some (x.thr.rd n) else none
  | none => if x.thr.full n then some (x.thr.rd n) else none

/-- Whether the snapshot of a register is empty (R15). -/
def Group.snapEmpty (x : Group) (n : Nat) : Bool :=
  match x.blk with | some b => b.snapEmpty.getLsbD n | none => !x.thr.full n

/-- Lanes of a mask that satisfy a test. -/
def maskWhere (m : Word) (p : Nat → Bool) : Word :=
  (lanesOf m).foldl (fun w k => if p k then w ||| BitVec.ofNat 32 (2 ^ k) else w) 0

/-- R45: a source names a register at or above the allocation. -/
def Group.unalloc (x : Group) (u : Use) : Bool :=
  match u.src.reg with | .v i _ => decide (16 * x.blocks < i.toNat + u.n) | _ => false

/-- R52: the lanes in which a source is out of bounds. -/
def Group.outOfBound (x : Group) (u : Use) : Word :=
  match u.src.reg with
  | .vi N k _ => maskWhere u.lanes fun l => (x.resolve N.toNat k.toNat u.n l).isNone
  | _ => 0

/-- R30: the lanes in which a source is a destination of the region's global atomic. -/
def Group.readsAtom (x : Group) (u : Use) : Word :=
  match u.src.reg with
  | .s N _ => if x.snapEmpty N.toNat && x.reg.atomDst.contains (8192 + N.toNat) then u.lanes else 0
  | r => maskWhere u.lanes fun l =>
    match x.mainOf r u.n l with
    | some m => (List.range u.n).any fun j => x.reg.atomDst.contains (vkey (m + j) l)
    | none => false

/-- R15, R53: the lanes in which a source is empty. -/
def Group.emptyLanes (x : Group) (u : Use) : Word :=
  match u.src.reg with
  | .s N _ => if x.snapEmpty N.toNat then u.lanes else 0
  | r => maskWhere u.lanes fun l => match x.mainOf r u.n l with | some m => !x.vfull m u.n l | none => false

/-- Whether a source without FE must be waited for: an empty register, or an empty snapshot of a register still empty. -/
def Group.mustWait (x : Group) (u : Use) : Bool :=
  match u.src.reg with
  | .s N _ => u.lanes != 0 && (x.snapOf N.toNat).isNone
  | _ => x.emptyLanes u != 0

/-- R56, R57: queue elements the group may pop. -/
def QueueReg.avail (q : QueueReg) (g : Nat) : Nat :=
  match q.popper with | some h => if h = g then q.count - q.tent else 0 | none => q.count

/-- A queue a source names. -/
def useQueue (u : Use) : Option Nat := match u.src.reg with | .q n => some n.toNat | _ => none

/-- A queue of the group's team. -/
def State.queue (s : State) (g q : Nat) : QueueReg := Tab.get QueueReg.off (s.team (s.group g).team).queues q

/-- The number of lanes of a mask. -/
def count32 (m : Word) : Nat := (lanesOf m).length

/-! ### Destinations -/

/-- A destination that a word writes, and its words. -/
structure Put where
  dst : Dst
  n : Nat
  deriving DecidableEq, Repr

/-- The first main-file register of a destination in a lane. -/
def Group.mainDst (x : Group) (p : Put) (lane : Nat) : Option Nat :=
  match p.dst with
  | .v i => some i.toNat
  | .vi N k => x.resolve N.toNat k.toNat p.n lane
  | _ => none

/-- The room a queue has for pushes (R56, R57). The pops of the instruction at hand make no room for its own pushes
(DESIGN CHOICE; log entry 110). -/
def QueueReg.room (q : QueueReg) : Nat := q.cap - q.count - q.reserved

/-! ### Before a word acts: step 5 of R163 -/

/-- What the operand checks find. -/
inductive Check
  | ok
  | wait (reason : Nat)
  | trap (c : Cause) (flm : Word)
  deriving DecidableEq, Repr

/-- The first of two findings. -/
def Check.orElse (a b : Check) : Check := match a with | .ok => b | c => c

/-- The union of lanes over sources. -/
def orLanes (us : List Use) (f : Use → Word) : Word := us.foldl (fun w u => w ||| f u) 0

/-- REG_UNALLOC, QUEUE_CONFIG, INDEX_BOUND, ATOMIC_PLACEMENT and FE_EMPTY, in that order (R45, R211, R52, R30, R53; log
entry 21). -/
def State.operandTrap (s : State) (g : Nat) (m : Word) (us : List Use) (d : Option Put) : Check :=
  let x := s.group g
  let un := us.any x.unalloc || (match d with | some p => (match p.dst with | .v i => decide (16 * x.blocks < i.toNat + p.n) | _ => false) | none => false)
  let off (q : Nat) : Bool := (s.queue g q).cap == 0
  let qc := (us.any fun u => match useQueue u with | some q => off q | none => false) ||
    (match d with | some p => (match p.dst with | .q n => off n.toNat | _ => false) | none => false)
  let ib := orLanes us x.outOfBound ||| (match d with
    | some p => (match p.dst with | .vi _ _ => maskWhere m fun l => (x.mainDst p l).isNone | _ => 0)
    | none => 0)
  let ra := orLanes us x.readsAtom
  let fe := orLanes (us.filter fun u => SrcReg.fe u.src.reg) x.emptyLanes
  if un then .trap .regUnalloc m
  else if m != 0 && qc then .trap .queueConfig m
  else if ib != 0 then .trap .indexBound ib
  else if ra != 0 then .trap .atomicPlacement ra
  else if fe != 0 then .trap .feEmpty fe
  else .ok

/-- Why a register of a lane is empty: the code of what will fill it (R383), 16 a load or atomic, 17 an engine. -/
def Group.whyEmpty (x : Group) (keys : List Nat) : Nat :=
  if x.anvil.any fun c => c.dst.any keys.contains then 17
  else match x.pend.find? fun p => p.vdst.any fun (k, _) => keys.contains k with | some p => p.reason | none => 16

/-- The keys of the registers a source reads. -/
def Group.useKeys (x : Group) (u : Use) : List Nat :=
  ((lanesOf u.lanes).map fun l => match x.mainOf u.src.reg u.n l with
    | some r => (List.range u.n).map fun j => vkey (r + j) l
    | none => []).flatten

/-- The destination registers of each active lane, as keys: what a long-latency word leaves empty (R53). -/
def Group.putKeys (x : Group) (p : Put) (m : Word) : List Nat :=
  ((lanesOf m).map fun l => match x.mainDst p l with
    | some r => (List.range p.n).map fun j => vkey (r + j) l
    | none => []).flatten

/-- Empty registers, queue elements and queue room to wait for (R53, R56); the codes are those of R383. -/
def State.operandWait (s : State) (g : Nat) (m : Word) (us : List Use) (d : Option Put) : Check :=
  let x := s.group g
  let n := count32 m
  let dk := match d with | some p => x.putKeys p m | none => []
  let short := us.any fun u => match useQueue u with | some q => decide ((s.queue g q).avail g < n) | none => false
  let full := match d with
    | some p => (match p.dst with | .q q => decide ((s.queue g q.toNat).room < n) | _ => false)
    | none => false
  match us.find? fun u => x.mustWait u with
  | some u => .wait (match u.src.reg with | .s _ _ => 19 | _ => x.whyEmpty (x.useKeys u))
  | none =>
    if dk.any fun k => Tab.get false x.f.vempty k then .wait (x.whyEmpty dk)
    else if m != 0 && short then .wait 12
    else if m != 0 && full then .wait 13
    else .ok

/-! ### Reading -/

/-- R51, R171: settled values of a z register, with producers that have certainly completed folded in, and the values
after each later one; `lat` is the producer's latency. -/
def zFold (lat : Nat) (base : Tab Word) : List ZProd → Tab Word × List (Tab Word)
  | [] => (base, [])
  | p :: ps =>
    let b := Tab.setAll 0 base p.vals
    let (settled, later) := zFold lat b ps
    -- pipes complete in order: if a later producer has certainly completed, so has this one
    if lat ≤ p.age || (ps.any fun (q : ZProd) => decide (lat ≤ q.age)) then (settled, later) else (base, b :: later)

/-- Latency of a producer (R171). -/
def zLat (n : Nat) : Nat := if n = 0 then 4 else if n = 1 then 2 else 6

/-- What a read of a z register returns: one of the values it may hold (log entry 4). -/
def State.readZ (s : State) (g n : Nat) : State × Tab Word :=
  let f := (s.group g).f
  let base := f.z.filter fun (k, _) => k / 32 == n
  let (b, later) := zFold (zLat n) base (Tab.get [] f.zp n)
  match later with
  | [] => (s, b)
  | _ => (s.takeFree, ((b :: later).getD (Config.zPick s.free (later.length + 1) % (later.length + 1)) b))

/-- R56: the elements a queue source delivers, head first to the lowest active lane. -/
def State.popVals (s : State) (g q : Nat) (m : Word) : Tab Nat :=
  let r := s.queue g q
  let t := (s.group g).team
  (lanesOf m).zipIdx.map fun (l, j) => (l, ofLeBytes (s.spadView (some g) t (r.at_ (r.tent + j)) 4))

/-- The tentative head advances (R57). -/
def State.popped (s : State) (g q n : Nat) : State :=
  if n = 0 then s
  else s.modTeam (s.group g).team fun t =>
    let r := Tab.get QueueReg.off t.queues q
    { t with queues := Tab.put t.queues q { r with popper := some g, tent := r.tent + n } }

/-- A value of `n` words from a file. -/
def wordsAt (t : Tab Word) (r lane : Nat) : Nat → Nat
  | 0 => 0
  | n + 1 => (Tab.get 0 t (vkey r lane)).toNat + 2 ^ 32 * wordsAt t (r + 1) lane n

/-- R168: a modifier on elements of `ew` bits. -/
def modElem (kind : ReadKind) (ew m v : Nat) : Nat :=
  match kind, m with
  | .flt, 1 => if v < 2 ^ (ew - 1) then v + 2 ^ (ew - 1) else v - 2 ^ (ew - 1)
  | .flt, 2 => v % 2 ^ (ew - 1)
  | .flt, 3 => v % 2 ^ (ew - 1) + 2 ^ (ew - 1)
  | .int, 1 => 2 ^ ew - 1 - v
  | .int, 2 => (2 ^ ew - v) % 2 ^ ew
  | _, _ => v

/-- The elements of a value, lowest first (R64). -/
def elems (ew : Nat) : Nat → Nat → List Nat
  | 0, _ => []
  | n + 1, v => v % 2 ^ ew :: elems ew n (v / 2 ^ ew)

/-- Elements packed into a value. -/
def packElems (ew : Nat) : List Nat → Nat
  | [] => 0
  | e :: es => e % 2 ^ ew + 2 ^ ew * packElems ew es

def applyMod (u : Use) (v : Nat) : Nat :=
  if u.src.mod = 0 then v
  else packElems u.ew ((elems u.ew (32 * u.n / u.ew) v).map (modElem u.kind u.ew u.src.mod.toNat))

/-- One source's value in each lane read; queues are popped by the caller. -/
def State.readUse (s : State) (g : Nat) (m : Word) (u : Use) : State × Tab Nat :=
  let x := s.group g
  let (s, t) : State × Tab Nat := match u.src.reg with
    | .q q => (s, s.popVals g q.toNat m)
    | .i n => (s, (lanesOf u.lanes).map fun l => (l, (Tab.get 0 x.f.i (vkey n.toNat l)).toNat))
    | .w n => (s, (lanesOf u.lanes).map fun l => (l, wordsAt x.f.w n.toNat l u.n))
    | .z n => let (s, t) := s.readZ g n.toNat; (s, (lanesOf u.lanes).map fun l => (l, (Tab.get 0 t (vkey n.toNat l)).toNat))
    | .s n _ =>
      let v := ((x.snapOf n.toNat).getD 0).toNat
      (s, (lanesOf u.lanes).map fun l => (l, v % 2 ^ (32 * u.n)))
    | r => (s, (lanesOf u.lanes).map fun l => (l, wordsAt x.f.v ((x.mainOf r u.n l).getD 0) l u.n))
  (s, t.map fun (l, v) => (l, applyMod u v))

/-- The sources' values, in order. -/
def State.readUses (s : State) (g : Nat) (m : Word) : List Use → State × List (Tab Nat)
  | [] => (s, [])
  | u :: us =>
    let (s, t) := s.readUse g m u
    let (s, ts) := s.readUses g m us
    (s, t :: ts)

/-- The queues a word pops, each once (R56). -/
def State.popAll (s : State) (g : Nat) (m : Word) (us : List Use) : State :=
  (us.filterMap useQueue).dedup.foldl (fun s q => s.popped g q (count32 m)) s

/-! ### Writing -/

/-- A value cut into words from a register on: (key, word). -/
def cutRegs (r lane v : Nat) : Nat → List (Nat × Word)
  | 0 => []
  | n + 1 => (vkey r lane, BitVec.ofNat 32 v) :: cutRegs (r + 1) lane (v / 2 ^ 32) n

/-- A word's results reach its destination: main-file or operand-file registers, or held pushes in ascending lane order. -/
def State.writeDst (s : State) (g : Nat) (p : Put) (vals : Tab Nat) : State :=
  match p.dst with
  | .q q =>
    let n := vals.length
    if n = 0 then s
    else
      let s := s.modTeam (s.group g).team fun t =>
        let r := Tab.get QueueReg.off t.queues q.toNat
        { t with queues := Tab.put t.queues q.toNat { r with reserved := r.reserved + n } }
      s.modGroup g fun x => { x with reg := { x.reg with
        pushes := x.reg.pushes ++ vals.map fun (_, v) => (q.toNat, BitVec.ofNat 32 v)
        held := x.reg.held ++ vals.map fun _ => .push q.toNat } }
  | .w r => s.modGroup g fun x =>
    let ws := (vals.map fun (l, v) => cutRegs r.toNat l v p.n).flatten
    Group.recode { x with f := { x.f with w := Tab.setAll 0 x.f.w ws } } (ws.map fun (k, _) => 8192 + k)
  | _ => s.modGroup g fun x =>
    let ws := (vals.map fun (l, v) => cutRegs ((x.mainDst p l).getD 0) l v p.n).flatten
    Group.recode { x with f := { x.f with v := Tab.setAll 0 x.f.v ws } } (ws.map Prod.fst)

/-- R50: a completed word's results reach its producer's z register; they may be read early (R171). -/
def State.writeZ (s : State) (g z : Nat) (vals : Tab Nat) : State :=
  if vals.isEmpty then s
  else s.modGroup g fun x =>
    let ps := Tab.get [] x.f.zp z
    Group.recode
      { x with f := { x.f with zp := Tab.put x.f.zp z (ps ++ [⟨0, vals.map fun (l, v) => (vkey z l, BitVec.ofNat 32 v)⟩]) } }
      (vals.map fun (l, _) => 16384 + vkey z l)

/-- Mark registers of lanes empty. -/
def State.mkEmpty (s : State) (g : Nat) (keys : List Nat) : State :=
  s.modGroup g fun x => { x with f := { x.f with vempty := Tab.setAll false x.f.vempty (keys.map fun k => (k, true)) } }

/-- Hand a pending value over: its destinations are empty until LONG_LATENCY_WRITE lands it (R44, R53). -/
def State.addPending (s : State) (g : Nat) (p : Pending) : State :=
  s.modGroup g fun x =>
    let id := x.pend.foldl (fun n q => max n (q.id + 1)) 0
    { x with
      pend := x.pend ++ [{ p with id := id, gen := x.regen, pc := s.pcOf g }]
      thr := match p.sdst with | some (n, _) => x.thr.mkEmpty n | none => x.thr
      f := { x.f with vempty := Tab.setAll false x.f.vempty (p.vdst.map fun (k, _) => (k, true)) } }

/-! ### The end of a word -/

/-- STALL under the word's generation, and whether DUAL is 01 (R170). -/
def LaneHdr.stall (h : LaneHdr) : Nat := if h.current then h.scb.toNat % 16 else h.scb.toNat % 32
def LaneHdr.dual (h : LaneHdr) : Bool := h.current && h.scb.toNat / 256 % 4 == 1

/-- The spacing of R171 that is certain, which ages the producers. -/
def LaneHdr.minSpace (h : LaneHdr) : Nat := if LaneHdr.dual h then 0 else max 1 (LaneHdr.stall h)

/-- Producers grow older by a word's spacing; those folded for certain leave the list. -/
def Files.age (f : Files) (n : Nat) : Files :=
  { f with zp := f.zp.map fun (k, ps) => (k, ps.map fun (p : ZProd) => { p with age := p.age + n }) }

def Files.settle (f : Files) : Files :=
  let r := f.zp.map fun (k, ps) =>
    let done := ps.zipIdx.filter fun ((p : ZProd), j) => decide (zLat k ≤ p.age) || ((ps.drop j).any fun (q : ZProd) => decide (zLat k ≤ q.age))
    (k, done.map Prod.fst, ps.drop done.length)
  { f with
    z := r.foldl (fun z (_, done, _) => done.foldl (fun z (p : ZProd) => Tab.setAll 0 z p.vals) z) f.z
    zp := (r.map fun (k, _, rest) => (k, rest)).filter fun (_, rest) => !rest.isEmpty }

/-- The lane program counter moves on; the last word ends its block (R14). With DUAL = 01, where the core may issue
the next word in the same cycle, the spacing is always max(1, STALL) (R171; DESIGN CHOICE; log entry 113). -/
def Group.nextWord (x : Group) (now : Nat) (h : LaneHdr) : Group :=
  { x with
    f := (x.f.age (LaneHdr.minSpace h)).settle
    blk := match x.blk with
      | some b => if b.n ≤ 1 then none else some { b with k := b.k + 1, n := b.n - 1 }
      | none => none
    sch := { x.sch with notBefore := now + max 1 (LaneHdr.stall h) } }

/-- Whether a word is the last of a region-ending block. -/
def Group.endsRegion (x : Group) : Bool := match x.blk with | some b => b.ends && decide (b.n ≤ 1) | none => false

/-- A lane word has issued; a region-ending block's last word commits (R14, R28). -/
def State.laneDone (s : State) (g : Nat) (h : LaneHdr) : State :=
  let ends := (s.group g).endsRegion
  let s := s.modGroup g fun x => x.nextWord (s.die (dieOf (s.coreOf g))).cyc h
  if ends then s.commit g else s

/-! ### Residue codes (R55, R82) -/

/-- The words a source reads, as a group's `upset` numbers them; of queues, none: theirs stand with the team. -/
def Group.codeKeys (x : Group) (u : Use) : List Nat :=
  let file (r : Nat) : List Nat := (lanesOf u.lanes).flatMap fun l => (List.range u.n).map fun j => vkey (r + j) l
  if u.lanes = 0 then []
  else match u.src.reg with
    | .i n => file (248 + n.toNat)
    | .w n => file (256 + n.toNat)
    | .z n => file (512 + n.toNat)
    | .s n _ => sWords n.toNat
    | .q _ => []
    | .vi n _ _ => ((lanesOf u.lanes).map fun l => vkey (248 + n.toNat) l) ++ x.useKeys u
    | .v _ _ => x.useKeys u

/-- The index words that a destination v[iN + k] reads. -/
def dstKeys (m : Word) : Option Put → List Nat
  | some ⟨.vi n _, _⟩ => (lanesOf m).map fun l => vkey (248 + n.toNat) l
  | _ => []

/-- The first mismatch among the words and queue elements that sources read, and the index words of the destination. -/
def State.useMismatch (s : State) (g : Nat) (m : Word) (us : List Use) (d : Option Put) : Option Word :=
  let x := s.group g
  match x.mismatch (us.flatMap x.codeKeys ++ dstKeys m d) with
  | some r => some r
  | none => us.findSome? fun u => match useQueue u with
    | some q =>
      let r := s.queue g q
      if (List.range (count32 m)).any fun j => (s.team x.team).upset.contains (r.at_ (r.tent + j)) then some (BitVec.ofNat 32 (240 + q)) else none
    | none => none

/-! ### A lane word -/

/-- What every lane word asks first: a group, its role (R20), then its operands. -/
def State.laneWord (s : State) (h : LaneHdr) (cls : LaneClass) (us : Word → List Use) (d : Option Put)
    (k : Nat → Word → State → Out) : Out :=
  s.groupOnly fun g =>
    let x := s.group g
    let m := x.thr.active h
    if !roleOk (s.roleOf g) cls then .next (s.raise .roleViolation { flm := m })
    else match (s.operandTrap g m (us m) d).orElse (s.operandWait g m (us m) d) with
      | .trap c flm => .next (s.raise c { flm := flm })
      | .wait r => .next (s.waitFor r)
      | .ok =>
        match s.useMismatch g m (us m) d with
        | some r => .next (s.meetUpset g r)
        | none => k g m s

/-- A word that computes from its sources into its destination and its producer's z register, with flags (R216, R218):
`f` answers the active lanes' results and flags from the sources' values. -/
def State.laneAlu (s : State) (h : LaneHdr) (cls : LaneClass) (z : Nat) (us : Word → List Use) (d : Option Put)
    (f : Word → List (Tab Nat) → Tab Nat × Word) : Out :=
  s.laneWord h cls us d fun g m s =>
    let (s, vs) := s.readUses g m (us m)
    let s := s.popAll g m (us m)
    let (r, fl) := f m vs
    let s := match d with | some p => s.writeDst g p r | none => s
    let s := (s.writeZ g z r).capture fl
    .next (s.laneDone g h)

/-- Lane by lane: the result and flags of each active lane from its own operands. -/
def perLane (f : List Nat → Nat × Word) (m : Word) (vs : List (Tab Nat)) : Tab Nat × Word :=
  (lanesOf m).foldr (fun l (r, fl) =>
    let (v, g) := f (vs.map fun t => Tab.get 0 t l)
    ((l, v) :: r, g ||| fl)) ([], 0)

/-- The uses of a row's sources by the active lanes. -/
def usesOf (r : LaneRule) (ew : Nat) (o : LaneOp) (m : Word) : List Use :=
  let one (q : Option SrcRule) (s : Src) : List Use := match q with | some q => [⟨s, q.kind, ew, q.n, m⟩] | none => []
  one r.a o.a ++ one r.b o.b ++ one r.c o.c

/-- The destination of a row. -/
def putOf (r : LaneRule) (o : LaneOp) : Option Put :=
  match r.d with
  | .unused => none
  | .any n => some ⟨o.d, n⟩
  | .main n => some ⟨o.d, n⟩

/-! ### Mask operands (R157) -/

/-- The scalar register a mask operand names. -/
def MaskOp.sreg : MaskOp → List Nat
  | .s n => [n.toNat]
  | _ => []

/-- A mask operand as a source. -/
def State.readMask (s : State) (a : MaskOp) : Word :=
  match a with
  | .s n => (s.thr.rd n.toNat).setWidth 32
  | .p n => s.thr.pred n.toNat
  | .em => s.thr.em
  | .xm => match s.gid with | some g => (s.group g).xm | none => 0
  | .flm => match s.gid with | some g => (s.group g).flm | none => 0

/-- A mask operand as a destination; xm and flm are none. -/
def State.writeMask (s : State) (d : MaskOp) (v : Word) : State :=
  match d with
  | .s n => s.modThr fun t => t.wr n.toNat (v.setWidth 64)
  | .p n => s.modThr fun t => t.setPred n.toNat v
  | .em => s.splitEm v
  | .xm | .flm => s

end Sys2Proof.Machine
end

