-- ==== Sys2Proof/Machine/Flags.lean ====
section
/-! DEFINITION. Results with the flags they raise (R61, R181-R189, R217-R230): scalar integer and floating-point results,
and packed elements. Every function answers a pattern and the flags; who captures them decides the prefix or CAP. -/

namespace Sys2Proof.Machine

/-- Flags where they are captured (R61, R218). -/
def capIf (cap : Bool) (f : Word) : Word := if cap then f else 0

/-! ### Scalar integer (R181-R184) -/

/-- Width of a scalar integer operation. -/
def intW (f : IntF) : Nat := if f.w then 32 else 64

/-- An operand as I(w) or N(w). -/
def intRd (f : IntF) (v : DWord) : Int := intOf (!f.u) (intW f) v.toNat

/-- A w-bit pattern extended to 64 bits: sign-extended, or zero-extended when U = 1 (R181). -/
def intExt (f : IntF) (p : Nat) : DWord := BitVec.ofInt 64 (intOf (!f.u) (intW f) p)

/-- An exact integer result, wrapped, or saturated under a SAT prefix with SATF on a clamp (R182). -/
def intRes (f : IntF) (sat : Bool) (i : Int) : DWord × Word :=
  let (p, fl) := putInt (!f.u) (intW f) sat i
  (intExt f p, fl)

/-- a / b toward zero, and its corners (R183). -/
def divInt (f : IntF) (a b : Int) : Int := if b = 0 then (if f.u then 2 ^ intW f - 1 else -1) else Int.tdiv a b

/-- a - b × DIV(a, b) (R183). -/
def remInt (a b : Int) : Int := if b = 0 then a else Int.tmod a b

/-- A shift amount (R182). -/
def shiftN (f : IntF) (b : DWord) : Nat := b.toNat % intW f

/-! ### Scalar floating point (R186-R189) -/

def SFmt.fmt : SFmt → Fmt | .f32 => .f32 | .f16 => .f16 | .b16 => .b16

/-- The bits of an operand: the low w of its register (R186). -/
def fltRd (f : Fmt) (v : DWord) : Nat := v.toNat % 2 ^ Fmt.width f

/-- A value rounded once, with the flags of its operands (R187). -/
def fltRes (f : Fmt) (p : Pfx) (r : Val × Word) : Nat × Word :=
  let (b, fl) := roundTo f p.rnd p.sat r.1
  (b, r.2 ||| fl)

/-- A number's format conversion with its NaN rule: a signalling NaN sets NV (R65, R189). -/
def cvtFlt (src dst : Fmt) (m : Rnd) (sat : Bool) (bits : Nat) : Nat × Word :=
  let v := toVal src bits
  let (b, fl) := roundTo dst m sat v
  (b, nvOf v ||| fl)

/-! ### Elements of lane operands (R64, R217) -/

/-- An operation on corresponding elements of the operands, with the flags of all. -/
def onElems (ew n : Nat) (f : List Nat → Nat × Word) (vs : List Nat) : Nat × Word :=
  let es := vs.map (elems ew n)
  let rs := (List.range n).map fun k => f (es.map fun e => e.getD k 0)
  (packElems ew (rs.map Prod.fst), rs.foldl (fun w r => w ||| r.2) 0)

/-- The operands' exact integers (R220). -/
def ints (f : Fmt) (vs : List Nat) : List Int := vs.map (intOf (Fmt.isI f) (Fmt.width f))

/-- An integer operation element by element: exact, then wrapped or saturated once (R220). -/
def intElems (f : Fmt) (sat : Bool) (op : Int → Int → Int → Int) (vs : List Nat) : Nat × Word :=
  onElems (Fmt.width f) (Fmt.count f) (fun es =>
    let i := ints f es
    putInt (Fmt.isI f) (Fmt.width f) sat (op (i.getD 0 0) (i.getD 1 0) (i.getD 2 0))) vs

/-- A floating-point operation element by element, rounded once (R225). -/
def fltElems (f : Fmt) (m : Rnd) (sat : Bool) (op : Val → Val → Val → Val × Word) (vs : List Nat) : Nat × Word :=
  onElems (Fmt.width f) (Fmt.count f) (fun es =>
    let v (k : Nat) := toVal f (es.getD k 0)
    let r := op (v 0) (v 1) (v 2)
    let (b, fl) := roundTo f m sat r.1
    (b, r.2 ||| fl)) vs

/-- An operation on the patterns of elements, without flags. -/
def patElems (f : Fmt) (op : Nat → Nat → Nat) (vs : List Nat) : Nat × Word :=
  onElems (Fmt.width f) (Fmt.count f) (fun es => (op (es.getD 0 0) (es.getD 1 0), 0)) vs

/-- The two operands of a subtraction: b negated, but a NaN kept (R225). -/
def subVal (m : Rnd) (x y : Val) : Val × Word := addVal m x y.negate

/-! ### Conversion (R228) -/

/-- VCVT of one element: the low bits of a, placed in a word or a pair. -/
def convert (src dst : Fmt) (m : Rnd) (sat : Bool) (v : Nat) : Nat × Word :=
  let sw := Fmt.width src
  let dw := Fmt.width dst
  let b := v % 2 ^ sw
  let place (p : Nat) : Nat := if Fmt.isI dst && decide (dw < 32) then patOf 32 (intOf true dw p) else p
  if Fmt.isFloat src then
    if Fmt.isFloat dst then cvtFlt src dst m sat b
    else let (p, fl) := roundToInt (Fmt.isI dst) dw m sat (toVal src b); (place p, nvOf (toVal src b) ||| fl)
  else
    let i := intOf (Fmt.isI src) sw b
    if Fmt.isFloat dst then roundTo dst m sat (ofInt i)
    else let (p, fl) := putInt (Fmt.isI dst) dw sat i; (place p, fl)

end Sys2Proof.Machine
end

