-- ==== Sys2Proof/Machine/Access.lean ====
section
/-! DEFINITION. Accesses of programs to memory: addresses and their checks in order (R180, R242, R244, R104, R356), loads
of both spaces, stores into the region's buffer (R29), scratchpad locks and atomics (R90-R92), global atomics (R30, R98), and
accesses of service threads (R328). -/

namespace Sys2Proof.Machine

/-! ### Checks -/

/-- A check ends in a trapped or waiting state, or the access goes on. -/
abbrev Try (α : Type) := Except State α

/-- Lanes of a list as a mask; lane 32 stands for a scalar access and is in no mask (R179). -/
def maskOf (ls : List Nat) : Word := ls.foldl (fun m l => m ||| BitVec.ofNat 32 (2 ^ l)) 0

/-- R30: a memory operation after the region's global atomic. -/
def State.placement (s : State) (g : Nat) (flm : Word) : Try Unit :=
  if (s.group g).reg.atom then .error (s.raise .atomicPlacement { flm := flm }) else .ok ()

/-- Whether stores or atomics of gone groups of a team are still to perform: a formed group's LS accesses perform after those that its
lanes' earlier groups handed over, and the model's after all of them (R262; log entry 98). -/
def State.trailing (s : State) (t : Nat) : Bool :=
  s.groups.any fun (_, x) => x.gone && x.team == t && (x.outAt != 0 || x.inflight.any fun h => match h with | .store _ _ _ _ _ _ => true | .atom _ => true | _ => false)

/-- The virtual page number of an address. -/
def vpnOf (va : Nat) : Nat := va / 2 ^ 14

/-- Translations of the lanes' addresses, with their outcomes. -/
def State.translateAll (s : State) (g : Nat) (acc : Acc) (ads : List (Nat × DWord)) : List (Nat × DWord × Tr) :=
  ads.map fun (l, a) => (l, a, s.translateG g (s.asidOf g) a.toNat acc)

/-- Raise a translation outcome for every lane that meets it. -/
def State.trapLanes (s : State) (c : Cause) (path : Nat) (bad : List (Nat × DWord × Option PfKind)) : State :=
  match bad with
  | [] => s
  | (_, a, k) :: _ => s.raise c { flm := maskOf (bad.map Prod.fst), addr := a, pf := k, path := path }

/-- The lanes whose translation fails with a cause. -/
def failing (c : Cause) (ts : List (Nat × DWord × Tr)) : List (Nat × DWord × Option PfKind) :=
  ts.filterMap fun (l, a, t) => match t with | .fail c' k => if c' = c then some (l, a, k) else none | _ => none

/-- R104, R180, R244: the checks of a global access of `n` bytes a lane, in order; the first that any lane fails is raised
for every lane that fails it. A translation not held waits for its walk, and so does an access whose link retrains (R409), and behind the stores of gone groups of the team (R262). Poison is looked for where data is
read. -/
def State.globalCheck (s : State) (g : Nat) (acc : Acc) (n : Nat) (reads : Bool) (ads : List (Nat × DWord)) :
    Try (List (Nat × Nat × DWord)) :=
  let path := acc.path.getD 0xFF
  let range := ads.filter fun (_, a) => a.toNat / 2 ^ 58 != 0
  let mis := ads.filter fun (_, a) => a.toNat % n != 0
  let tag (l : List (Nat × DWord)) : List (Nat × DWord × Option PfKind) := l.map fun (k, a) => (k, a, none)
  if !range.isEmpty then .error (s.trapLanes .addrRange path (tag range))
  else if !mis.isEmpty then .error (s.trapLanes .misaligned path (tag mis))
  else
    let ts := s.translateAll g acc ads
    let pf := failing .pageFault ts
    let pd := failing .pathDenied ts
    let missing := ts.filterMap fun (_, a, t) => match t with | .miss => some a | _ => none
    let oks := ts.filterMap fun (l, _, t) => match t with | .ok pa e => some (l, pa, e) | _ => none
    let po := failing .poison ts ++ (ts.filterMap fun (l, a, t) => match t with
      | .ok pa _ => if reads && s.isBad pa n then some (l, a, none) else none
      | _ => none)
    if !missing.isEmpty then .error ((missing.foldl (fun s a => s.askWalk g (s.asidOf g) (vpnOf a.toNat)) s).waitFor 23)
    else if !pf.isEmpty then .error (s.trapLanes .pageFault path pf)
    else if !pd.isEmpty then .error (s.trapLanes .pathDenied path pd)
    else if oks.any fun (_, pa, _) => s.linkHolds pa n then .error (s.waitFor 27)
    else if !po.isEmpty then .error ((s.trapLanes .poison path po).poolErrors (oks.map fun (_, pa, _) => pa))
    else if path == 0 && s.trailing (s.group g).team then .error (s.waitFor 27)
    else .ok oks

/-- R88, R180, R242: the checks of a scratchpad access of `n` bytes a lane. -/
def State.spadCheck (s : State) (g : Nat) (n : Nat) (ads : List (Nat × Int)) : Try (List (Nat × Nat)) :=
  let size : Nat := (s.team (s.group g).team).size
  let out := ads.filter fun (_, a) => decide (a < 0) || decide ((size : Int) < a + n)
  let mis := ads.filter fun (_, a) => a % (n : Int) != 0
  let tag (l : List (Nat × Int)) : List (Nat × DWord × Option PfKind) := l.map fun (k, a) => (k, BitVec.ofInt 64 a, none)
  if !out.isEmpty then .error (s.trapLanes .spadBound 0 (tag out))
  else if !mis.isEmpty then .error (s.trapLanes .misaligned 0 (tag mis))
  else if s.trailing (s.group g).team then .error (s.waitFor 27)
  else .ok (ads.map fun (l, a) => (l, a.toNat))

/-! ### Loads -/

/-- Stores and atomics on SC pages among what a group has handed over. -/
def scStores (hs : List Held) : Bool := hs.any fun h => match h with | .store _ _ _ _ _ sc => sc | .atom r => r.sc | _ => false

/-- Atomic requests of a group on SC pages that their units have not applied. -/
def State.scOut (s : State) (g : Nat) : Bool := s.units.any fun (_, q) => q.any fun r => r.g == g && r.sc

/-- R93, R116: a load of an SC page waits until the group's earlier stores and atomics on such pages have completed at their
homes. -/
def State.scWaits (s : State) (g : Nat) : Bool := scStores (s.group g).inflight || s.scOut g

/-- Whether two ranges have an aligned word in common (R109). -/
def sameWord (a n b k : Nat) : Bool := a / 4 ≤ (b + k - 1) / 4 && b / 4 ≤ (a + n - 1) / 4

/-- Whether an atomic request has words of a range. -/
def AtReq.touches (r : AtReq) (pa n : Nat) : Bool := r.lanes.any fun a => sameWord a.pa (if r.wide then 8 else 4) pa n

/-- Whether an atomic of the group on words of a range is at its unit and not yet applied. -/
def State.atomOut (s : State) (g pa n : Nat) : Bool := s.units.any fun (_, q) => q.any fun r => r.g == g && r.touches pa n

/-- R109: a load of a word waits for the group's own atomics on it that an earlier commit has handed over: it never returns a
value older than the one the atomic reads. -/
def State.atomAhead (s : State) (g pa n : Nat) : Bool :=
  s.atomOut g pa n || (s.group g).inflight.any fun h => match h with | .atom r => r.touches pa n | _ => false

/-- The SC bit of a leaf. -/
def pteSc (e : DWord) : Bool := pteBit e 5

/-- What a load waits for at its issue: SC accesses before it (R93, R116), and its group's own atomics on its words (R109). -/
def State.loadWaits (s : State) (g n : Nat) (ps : List (Nat × Nat × DWord)) : Bool :=
  ((ps.any fun (_, _, e) => pteSc e) && s.scWaits g) || ps.any fun (_, pa, _) => s.atomAhead g pa n

/-- The lanes whose data will prove poisoned when it arrives, with their addresses (R38, R104). -/
def State.badLanes (s : State) (n : Nat) (ads : List (Nat × DWord)) (ps : List (Nat × Nat × DWord)) : List (Nat × DWord) :=
  ps.filterMap fun (l, pa, _) => if s.isBad pa n then some (l, Tab.get 0 ads l) else none

/-- A global load of each lane at issue: the state with its L1 lines, and the bytes (R29, R95); `ads` the lanes' addresses. -/
def State.loadLanes (s : State) (g n : Nat) (keep : Bool) (ads : List (Nat × DWord)) :
    List (Nat × Nat × DWord) → State × List (Nat × List Byte)
  | [] => (s, [])
  | (l, pa, e) :: ts =>
    let va := (Tab.get 0 ads l).toNat
    let bs := s.loadG g va pa n (if l < 32 then s.pickOld g else 0)
    let s := if l < 32 then s.loaded g else s
    let s := if (s.l1Line (s.coreOf g) (s.asidOf g) va pa).isNone then s.bump (s.ctxOf g) 4 else s
    let s := s.l1Fill (s.coreOf g) (s.asidOf g) va pa (keep && l1able e)
    let (s, r) := s.loadLanes g n keep ads ts
    (s, (l, bs) :: r)

/-- A scratchpad load of each lane at issue. -/
def State.loadSpads (s : State) (g n : Nat) : List (Nat × Nat) → State × List (Nat × List Byte)
  | [] => (s, [])
  | (l, a) :: ts =>
    let bs := s.loadS g a n (s.pickOld g)
    let (s, r) := (s.loaded g).loadSpads g n ts
    (s, (l, bs) :: r)

/-- A loaded value extended to 32 bits or left as its words (R245). -/
def extWord (n : Nat) (sx : Bool) (v : Nat) : Nat := if n < 4 && sx then patOf 32 (intOf true (8 * n) v) else v

/-- A loaded value extended to 64 bits (R199). -/
def extScalar (n : Nat) (sx : Bool) (v : Nat) : DWord := if sx then BitVec.ofInt 64 (intOf true (8 * n) v) else BitVec.ofNat 64 v

/-! ### Stores -/

/-- Entries a region's store buffer holds (R29). -/
def storeCount (hs : List Held) : Nat := (hs.filter fun h => match h with | .store _ _ _ slot _ _ => slot | .tst _ => true | _ => false).length

/-- A store enters the buffer of its region, or finds it full (R29, R246). -/
def State.buffer (s : State) (g : Nat) (h : Held) (flm : Word) : Try State :=
  if Config.nStoreBuf ≤ storeCount (s.group g).reg.held then .error (s.raise .storeBufferFull { flm := flm })
  else .ok (s.modGroup g fun x => { x with reg := { x.reg with held := x.reg.held ++ [h] } })

/-- Hold an effect for the commit, in program order. -/
def State.hold (s : State) (g : Nat) (h : Held) : State :=
  s.modGroup g fun x => { x with reg := { x.reg with held := x.reg.held ++ [h] } }

/-! ### Locks (R90-R92) -/

/-- The lock bit of a word offset: bank × 8 + bit. -/
def lockOf (off : Nat) : Nat :=
  let wa := off / 4
  wa % 32 * 8 + ((wa / 32) ^^^ (wa / 256) ^^^ (wa / 2048)) % 8

/-- The lock bits of an aligned access of `n` bytes: one for each of its words. R92 speaks of a word's lock bit; a 64-bit
scratchpad atomic takes the bits of both its words (DEDUCED; log entry 97). -/
def locksOf (off n : Nat) : List Nat := if n = 8 then [lockOf off, lockOf (off + 4)] else [lockOf off]

/-- Whether a bit is another group's. -/
def Lock.others (l : Lock) (g : Nat) : Bool :=
  match l with | .free => false | .tentative h _ => h != g | .held h => h != g | .atomic h _ => h != g

/-- A bit of the core of a group. -/
def State.lockBit (s : State) (g b : Nat) : Lock := Tab.get Lock.free (s.core (s.coreOf g)).locks b

/-- R91, R92: a wait for lock bits ends 8 die cycles later. -/
def State.waitLock (s : State) (g : Nat) : State :=
  let now := (s.die (dieOf (s.coreOf g))).cyc
  (s.waitFor 14).modGroup g fun x => { x with sch := { x.sch with retryAt := now + 8 } }

/-- Take bits for the open region: those `f` changes are the region's to free. -/
def State.takeLocks (s : State) (g : Nat) (bits : List Nat) (f : Lock → Option Lock) : State :=
  bits.foldl (fun s b =>
    match f (s.lockBit g b) with
    | none => s
    | some l =>
      (s.modCore (s.coreOf g) fun c => { c with locks := Tab.put c.locks b l }).modGroup g fun x =>
        { x with reg := { x.reg with locks := if x.reg.locks.contains b then x.reg.locks else x.reg.locks ++ [b] } }) s

/-! ### Atomics -/

/-- The operation of an integer atomic on w-bit patterns (R200, R249): c the operand, `swap` CAS's second. -/
def intAtom (op : AtomOp) (w old c swap : Nat) : Nat :=
  let lt (x y : Nat) : Bool := decide (intOf true w x < intOf true w y)
  match op with
  | .add => (old + c) % 2 ^ w
  | .min => if lt c old then c else old
  | .max => if lt old c then c else old
  | .umin => min old c
  | .umax => max old c
  | .and => old &&& c
  | .or => old ||| c
  | .xor => old ^^^ c
  | .xchg => c
  | .cas => if old = c then swap else old

/-- The operation of a floating-point atomic (R250): 0 ADD, 1 MIN, 2 MAX. -/
def fltAtom (op old c : Nat) : Nat :=
  match op with
  | 0 => (roundTo .f32 .rne false (addVal .rne (toVal .f32 old) (toVal .f32 c)).1).1
  | 1 => fminmax .f32 false old c
  | _ => fminmax .f32 true old c

/-- What an atomic writes over an old value. -/
def atomNew (op : ReqOp) (wide : Bool) (old c swap : Nat) : Nat :=
  let w := if wide then 64 else 32
  match op with
  | .int o => intAtom o w old (c % 2 ^ w) (swap % 2 ^ w)
  | .flt k => fltAtom k old (c % 2 ^ 32)
  | .det | .schunk _ => old

/-- A write without the bytes of a range of its space. -/
def Wr.trim (w : Wr) (spad : Bool) (a n : Nat) : List Wr :=
  if w.spad != spad || !meets w.at_ w.data.length a n then [w]
  else
    let k := a + n - w.at_
    ([{ w with data := w.data.take (a - w.at_) }] ++
      [{ w with va := w.va + BitVec.ofNat 64 k, pa := w.pa + k, data := w.data.drop k }]).filter fun w => !w.data.isEmpty

/-- A store without the bytes of a range; what it wrote there enters the store hash all the same (R390). -/
def Held.trim (spad : Bool) (a n : Nat) : Held → List Held
  | .store p ws locks slot hash sc =>
    let vs := ws.flatMap fun w => w.trim spad a n
    if hash && vs != ws then [.over ws, .store p vs locks slot false sc] else [.store p vs locks slot hash sc]
  | h => [h]

/-- R92: a scratchpad atomic at issue. One lane's word: its undo, the write, and the old value. Its region's own buffered
stores to the word come before it in the word's order (R109): it reads through them, and they have nothing left to write
there (DEDUCED; log entry 97). Other agents see the word once its region has committed and its fences are past (R112, R117). -/
def State.spadAtom1 (s : State) (g : Nat) (op : ReqOp) (wide : Bool) (a : AtLane) : State × Nat :=
  let n := if wide then 8 else 4
  let t := (s.group g).team
  let bs := takeBytes (s.team t).spad a.pa n
  let old := ofLeBytes (overlayWrs true a.pa bs ((s.group g).ownWrs false))
  let s := s.modGroup g fun x => { x with reg := { x.reg with
    undo := (a.pa, bs) :: x.reg.undo
    held := x.reg.held.flatMap (Held.trim true a.pa n) ++ [.shown a.pa bs] } }
  (s.putSpad t a.pa (leBytes n (atomNew op wide old a.opnd.toNat a.swap.toNat)), old)

/-- The lanes in ascending order, with their old values. -/
def State.spadAtoms (s : State) (g : Nat) (op : ReqOp) (wide : Bool) : List AtLane → State × List (Nat × Nat)
  | [] => (s, [])
  | a :: as_ =>
    let (s, v) := s.spadAtom1 g op wide a
    let (s, r) := s.spadAtoms g op wide as_
    (s, (a.lane, v) :: r)

/-- Whether a TST of the group that has not taken its rows covers words of a range: by its command's rows. -/
def Group.tstTouches (x : Group) (id : Nat) (spad : Bool) (a n : Nat) : Bool :=
  x.anvil.any fun c => c.id == id && (match c.word with | .tst o => LaneOp.xbit o 4 == spad | _ => false) &&
    c.rows.any fun (_, ps) => ps.any fun (p, k) => sameWord p k a n

/-- Whether an entry that a group has handed over writes words of a range. -/
def Group.writesWord (x : Group) (spad : Bool) (a n : Nat) : Held → Bool
  | .store _ ws _ _ _ _ => ws.any fun w => w.spad == spad && sameWord w.at_ w.data.length a n
  | .atom r => !spad && r.touches a n
  | .tst id => x.tstTouches id spad a n
  | _ => false

/-- Whether words of a window range are another group's that its scratchpad atomics have written and its fences still hold back
(R112, R117). -/
def State.unshown (s : State) (g off n : Nat) : Bool :=
  s.groups.any fun (k, x) => k != g && x.team == (s.group g).team &&
    x.inflight.any fun h => match h with | .shown a d => sameWord a d.length off n | _ => false

/-- R92: a scratchpad atomic waits for other groups' bits, for the group's own writes to its words that its commits have
handed over, and for those of another group's atomics that its fences hold back; then it takes its bits and performs. -/
def State.spadAtomic (s : State) (g : Nat) (op : ReqOp) (wide : Bool) (as_ : List AtLane) : Try (State × List (Nat × Nat)) :=
  let n := if wide then 8 else 4
  let bits := (as_.flatMap fun a => locksOf a.pa n).dedup
  let mine := as_.any fun a => (s.group g).inflight.any ((s.group g).writesWord true a.pa n) || s.unshown g a.pa n
  if bits.any fun b => (s.lockBit g b).others g then .error (s.waitLock g)
  else if mine then .error (s.waitFor 27)
  else
    let gen := (s.group g).regen
    let s := s.takeLocks g bits fun l => match l with | .free => some (.atomic g gen) | _ => none
    .ok (s.spadAtoms g op wide as_)

/-- R30: the region's global atomic is held for its commit; its destinations are empty until then. -/
def State.holdAtom (s : State) (g : Nat) (op : ReqOp) (wide sc : Bool) (as_ : List AtLane) (sdst : List Nat) (vkeys : List Nat)
    (vdst : List (Nat × Nat)) : State :=
  let x := s.group g
  let r : AtReq := ⟨g, s.launchOf g, x.team, s.reqOf g, op, wide, sc, as_, sdst.head?, vdst⟩
  let s := s.hold g (.atom r)
  s.modGroup g fun x =>
    { x with
      thr := sdst.foldl Thread.mkEmpty x.thr
      f := { x.f with vempty := Tab.setAll false x.f.vempty (vkeys.map fun k => (k, true)) }
      reg := { x.reg with atom := true, atomDst := vkeys ++ sdst.map (8192 + ·) } }

/-! ### Service threads (R328) -/

/-- The physical address of a service thread's access, or its trap: the tables of sstat.ASID. A PREEMPT of the thread that is
not complete holds its loads and stores back (R333). -/
def State.svcAddr (s : State) (t : Nat) (acc : Acc) (n : Nat) (spad reads : Bool) (a : DWord) : Try Nat :=
  let asid := ((s.svc t).sstat.extractLsb' 36 12).toNat
  if !acc.xs && !(s.svc t).jobs.isEmpty then .error (s.waitFor 31)
  else if spad then .error (s.raise .spadBound { addr := a, path := 0 })
  else if a.toNat / 2 ^ 58 != 0 then .error (s.raise .addrRange { addr := a, path := 0 })
  else if a.toNat % n != 0 then .error (s.raise .misaligned { addr := a, path := 0 })
  else match s.translate asid a.toNat acc with
    | .ok pa _ =>
      if s.linkHolds pa n then .error (s.waitFor 27)
      else if reads && s.isBad pa n then .error ((s.raise .poison { addr := a, path := 0 }).poolErrors [pa])
      else .ok pa
    | .fail c k => .error (s.raise c { addr := a, pf := k, path := 0 })
    | .miss => .error s

/-- A write of memory by a unit that bypasses the cores: every L1 copy stays (R95). -/
def State.put8 (s : State) (pa : Nat) (v : DWord) : State := s.wrLe pa 8 v.toNat

end Sys2Proof.Machine
end

