-- ==== Sys2Proof/Machine/ScalarMem.lean ====
section
/-! DEFINITION. Scalar memory access and what goes with it: LD, ST, ATOM (R198-R200), SCHUNK (R209), special registers
(R201), JOIN (R18, R194), ARM, WAITM and YIELD (R99, R208). -/

namespace Sys2Proof.Machine

/-- The state a failed check leaves is the outcome. -/
def ofTry (x : Try State) : Out := match x with | .ok s => .next s | .error s => .next s

/-- The thread at hand passes its instruction. -/
def State.pass (s : State) (len : DWord) : State := s.modThr fun t => t.next len

/-- Path class LS. -/
def accLs (write : Bool) : Acc := { write := write, path := some 0 }

/-- The pending value of a scalar register; s0 discards it. -/
def State.pendS (s : State) (g d : Nat) (v a : DWord) (reason : Nat) (bad : List (Nat × DWord)) : State :=
  if d = 0 && bad.isEmpty then s
  else s.addPending g ⟨0, 0, 0, if d = 0 then none else some (d, v), [], [], a, reason, bad, none⟩

/-! ### LD and ST (R199) -/

/-- A scalar load of a group. -/
def State.ldGroup (s : State) (g n : Nat) (sx sp : Bool) (d : Nat) (a : DWord) : Try State := do
  s.placement g 0
  if sp then
    let offs ← s.spadCheck g n [(32, (a.toNat : Int))]
    let v := ofLeBytes (s.loadS g ((offs.headD (0, 0)).2) n 0)
    .ok ((s.pendS g d (extScalar n sx v) a 16 []).pass 8)
  else
    let ps ← s.globalCheck g (accLs false) n false [(32, a)]
    if s.loadWaits g n ps then .error (s.waitFor 21)
    else
      let s := (s.poolErrors (ps.map fun (_, pa, _) => pa)).l1Sync g
      let (s, bs) := s.loadLanes g n true [(32, a)] ps
      .ok ((s.pendS g d (extScalar n sx (ofLeBytes ((bs.headD (0, [])).2))) a 16 (s.badLanes n [(32, a)] ps)).pass 8)

/-- `LD` (R199). -/
def execLd (sz : MemSize) (sx sp : Bool) (d a : SReg) (off : Word) (s : State) : Out :=
  s.withRegs [a.toNat] [d.toNat] fun s =>
    let addr := s.thr.rd a.toNat + off.signExtend 64
    match s.cur with
    | .svc t => match s.svcAddr t (accLs false) sz.bytes sp true addr with
      | .ok pa => .next (s.modThr fun th => (th.wr d.toNat (extScalar sz.bytes sx (s.rdLe pa sz.bytes))).next 8)
      | .error s => .next s
    | .group g => ofTry (s.ldGroup g sz.bytes sx sp d.toNat addr)
    | .none => .fault .noIssuer

/-- A scalar store of a group. -/
def State.stGroup (s : State) (g n : Nat) (sp : Bool) (a v : DWord) : Try State := do
  s.placement g 0
  if sp then
    let _ ← s.spadCheck g n [(32, (a.toNat : Int))]
    let s ← s.buffer g (.store .ls [⟨true, a, 0, 32, leBytes n v.toNat⟩] [] true true false) 0
    .ok (s.pass 8)
  else
    let ps ← s.globalCheck g (accLs true) n false [(32, a)]
    let (_, pa, e) := ps.headD (0, 0, 0)
    let s ← s.buffer g (.store .ls [⟨false, a, pa, 32, leBytes n v.toNat⟩] [] true true (pteSc e)) 0
    .ok (s.pass 8)

/-- `ST` (R199): D names the data source. -/
def execSt (sz : MemSize) (sp : Bool) (d a : SReg) (off : Word) (s : State) : Out :=
  s.withRegs [a.toNat, d.toNat] [] fun s =>
    let addr := s.thr.rd a.toNat + off.signExtend 64
    let v := s.thr.rd d.toNat
    match s.cur with
    | .svc t => match s.svcAddr t (accLs true) sz.bytes sp false addr with
      | .ok pa => .next ((s.wrLe pa sz.bytes v.toNat).pass 8)
      | .error s => .next s
    | .group g => ofTry (s.stGroup g sz.bytes sp addr v)
    | .none => .fault .noIssuer

/-! ### ATOM (R200) and SCHUNK (R209) -/

/-- A scalar atomic of a group. A scratchpad atomic is not bound by R30. -/
def State.atomGroup (s : State) (g : Nat) (op : AtomOp) (wide sp : Bool) (d : Nat) (a v w : DWord) : Try State := do
  let n := if wide then 8 else 4
  if sp then
    let offs ← s.spadCheck g n [(32, (a.toNat : Int))]
    let (s, old) ← s.spadAtomic g (.int op) wide [⟨32, a, (offs.headD (0, 0)).2, v, w⟩]
    .ok ((s.pendS g d (BitVec.ofNat 64 ((old.headD (0, 0)).2)) a 16 []).pass 8)
  else
    s.placement g 0
    let ps ← s.globalCheck g (accLs true) n false [(32, a)]
    .ok ((s.holdAtom g (.int op) wide (pteSc (ps.headD (0, 0, 0)).2.2) [⟨32, a, (ps.headD (0, 0, 0)).2.1, v, w⟩] (if d = 0 then [] else [d]) [] []).pass 8)

/-- `ATOM` (R200): CAS's swap value is s(D + 1). -/
def execAtom (op : AtomOp) (wide sp : Bool) (d a : SReg) (off : Word) (s : State) : Out :=
  let second := if op = .cas then [d.toNat + 1] else []
  s.withRegs ([a.toNat, d.toNat] ++ second) [] fun s =>
    let addr := s.thr.rd a.toNat + off.signExtend 64
    let v := s.thr.rd d.toNat
    let w := s.thr.rd (d.toNat + 1)
    let n := if wide then 8 else 4
    match s.cur with
    | .svc t => match s.svcAddr t (accLs true) n sp true addr with
      | .ok pa =>
        let old := s.rdLe pa n
        let s := s.wrLe pa n (intAtom op (8 * n) old (v.toNat % 2 ^ (8 * n)) (w.toNat % 2 ^ (8 * n)))
        .next (s.modThr fun th => (th.wr d.toNat (BitVec.ofNat 64 old)).next 8)
      | .error s => .next s
    | .group g => ofTry (s.atomGroup g op wide sp d.toNat addr v w)
    | .none => .fault .noIssuer

/-- R209: the chunk taken from a counter: NEXT, END, min and T give c. -/
def chunk (next end_ minc teams : Nat) : Nat :=
  let rem := end_ - next
  min rem (max (max minc 1) (rem / (4 * max 1 teams)))

/-- SCHUNK of a group: a global atomic whose results are sD and s(D + 1). -/
def State.schunkGroup (s : State) (g d : Nat) (a : DWord) (minc : Word) : Try State := do
  s.placement g 0
  let ps ← s.globalCheck g (accLs true) 8 false [(32, a)]
  -- the counter is 16 bytes, 8-byte aligned: its second word may lie on the next page
  let ps2 ← s.globalCheck g (accLs true) 8 false [(32, a + 8)]
  let at_ (p : List (Nat × Nat × DWord)) : Nat := (p.headD (0, 0, 0)).2.1
  .ok ((s.holdAtom g (.schunk minc) true (pteSc (ps.headD (0, 0, 0)).2.2) [⟨32, a, at_ ps, 0, 0⟩, ⟨32, a + 8, at_ ps2, 0, 0⟩] [d, d + 1] [] []).pass 8)

/-- `SCHUNK` (R209). A service thread has no launch, so T = 1 (R328). -/
def execSchunk (d a : SReg) (minc : Word) (s : State) : Out :=
  s.withRegs [a.toNat] [d.toNat, d.toNat + 1] fun s =>
    let addr := s.thr.rd a.toNat
    match s.cur with
    | .svc t => match s.svcAddr t (accLs true) 8 false true addr, s.svcAddr t (accLs true) 8 false true (addr + 8) with
      | .ok p, .ok q =>
        let n := s.rdLe p 8
        let c := chunk n (s.rdLe q 8) minc.toNat 1
        .next ((s.wrLe p 8 (n + c)).modThr fun th =>
          ((th.wr d.toNat (BitVec.ofNat 64 n)).wr (d.toNat + 1) (BitVec.ofNat 64 c)).next 8)
      | .error s, _ => .next s
      | _, .error s => .next s
    | .group g => ofTry (s.schunkGroup g d.toNat addr minc)
    | .none => .fault .noIssuer

/-! ### Special registers (R60, R201) -/

/-- CYCN of a die (R396). -/
def Die.cycn (d : Die) : Nat := d.acc / 2 ^ 16

/-- Units of Lk in teams: G(k) = F3 × … × Fk (R337). -/
def LRec.unitTeams (r : LRec) (k : Nat) : Nat := ((r.levels.take (k - 2)).map fun w => w.toNat / 256).foldl (· * ·) 1

/-- crdk of a team (R337). -/
def LRec.crd (r : LRec) (t k : Nat) : Nat :=
  let h := r.nlev - 1
  if r.nlev ≤ 3 then (if k = 2 then t else 0)
  else if h ≤ k then 0
  else
    let u := t / r.unitTeams k
    if k + 1 = h then u else u % max 1 ((r.levels.getD (k - 2) 0).toNat / 256)

/-- The value of a special register of a group. -/
def State.specialG (s : State) (g : Nat) (n : SpecialReg) : DWord :=
  let x := s.group g
  let t := s.team x.team
  let l := s.launch t.launch
  let die := s.die (dieOf t.core)
  let nat (v : Nat) : DWord := BitVec.ofNat 64 v
  match n with
  | .teamidx => nat t.idx
  | .grpidx => nat x.gidx
  | .grpcnt => nat l.lr.tgrps
  | .coreid => nat (coreidOf t.core)
  | .launchid => l.lr.id.setWidth 64
  | .launchseq => nat t.launch
  -- a pixel team's coordinates at L3 to L7 are zero (R143)
  | .crd k => nat (if t.stage2 == 4 && 3 ≤ k.toNat then 0 else l.lr.crd t.idx k.toNat)
  | .cyc => nat die.cyc
  | .cycn => nat die.cycn
  | .time => nat die.time
  | .seed => l.lr.seed
  | .drawmode => nat l.lr.drawMode
  | .replayiter => nat (match l.replay with | some (_, i) => i | none => 0)
  | .em => x.thr.em.setWidth 64
  | .flm => x.flm.setWidth 64
  | .xm => x.xm.setWidth 64
  | .valloc => nat (16 * x.blocks)
  | .flags => x.thr.flags.setWidth 64
  | .reentry => nat (x.soft % 4 + 4 * (x.fault % 16))
  | .regen => x.regen.setWidth 64

/-- R328: the special registers a service thread reads; D0's counters. -/
def State.specialS (s : State) (t : Nat) (n : SpecialReg) : DWord :=
  let d := s.die 0
  match n with
  | .cyc => BitVec.ofNat 64 d.cyc
  | .cycn => BitVec.ofNat 64 d.cycn
  | .time => BitVec.ofNat 64 d.time
  | .em => (s.svc t).thr.em.setWidth 64
  | .flags => (s.svc t).thr.flags.setWidth 64
  | _ => 0

/-- `SRD` (R201): cyc, cycn and time arrive under R44. -/
def execSrd (d : SReg) (n : SpecialReg) (s : State) : Out :=
  s.withRegs [] [d.toNat] fun s =>
    match s.cur with
    | .svc t => .next (s.modThr fun th => (th.wr d.toNat (s.specialS t n)).next 4)
    | .group g =>
      let v := s.specialG g n
      if n = .cyc || n = .cycn || n = .time then .next ((s.pendS g d.toNat v 0 27 []).pass 4)
      else .next (s.modThr fun th => (th.wr d.toNat v).next 4)
    | .none => .fault .noIssuer

/-- `SWR` (R201): em at once; flags are cleared at the commit; every other register is read-only (R60). A flag that
the region has raised before this word is cleared with those it found set (DESIGN CHOICE; log entry 114). -/
def execSwr (n : SpecialReg) (a : SReg) (s : State) : Out :=
  s.withRegs [a.toNat] [] fun s =>
    let v := (s.thr.rd a.toNat).setWidth 32
    match n with
    | .em => .next ((s.splitEm v).pass 4)
    | .flags => match s.cur with
      | .group g => .next ((s.modGroup g fun x =>
          { x with reg := { x.reg with fclr := x.reg.fclr ||| v, fset := x.reg.fset &&& ~~~v } }).pass 4)
      | _ => .next (s.modThr fun t => { t with flags := t.flags &&& ~~~v }.next 4)
    | _ => .next (s.raise .sregReadonly {})

/-! ### JOIN -/

/-- `JOIN` (R18, R194): waits for the values of earlier lane loads, then em := a. -/
def execJoin (a : MaskOp) (s : State) : Out :=
  s.withRegs (MaskOp.sreg a) [] fun s =>
    let waits := match s.cur with
      | .group g => (s.group g).pend.any fun p => p.reason == 16 && !p.vdst.isEmpty
      | _ => false
    if waits then .next (s.waitFor 20) else .next ((s.joinEm (s.readMask a)).pass 4)

/-! ### Monitors (R99) -/

/-- The monitor of the thread at hand. -/
def State.monitor (s : State) : Monitor :=
  match s.cur with | .group g => (s.group g).mon | .svc t => (s.svc t).mon | .none => Monitor.zero

def State.setMonitor (s : State) (m : Monitor) : State :=
  match s.cur with
  | .group g => s.modGroup g fun x => { x with mon := m }
  | .svc t => s.setSvc t { s.svc t with mon := m }
  | .none => s

/-- Arm on a location whose N64 is `v`. -/
def armed (sp : Bool) (a : DWord) (pa : Nat) (thr : DWord) (v : Nat) : Monitor :=
  ⟨true, decide (thr.toNat ≤ v), sp, a, pa, thr⟩

/-- ARM of a group: checked as an LS load, reading its own writes over the location's home (log entry 22). -/
def State.armGroup (s : State) (g : Nat) (sp : Bool) (a thr : DWord) : Try State := do
  if sp then
    let offs ← s.spadCheck g 8 [(32, (a.toNat : Int))]
    let off := (offs.headD (0, 0)).2
    .ok ((s.setMonitor (armed true a 0 thr (ofLeBytes (s.loadS g off 8 0)))).pass 4)
  else
    let ps ← s.globalCheck g (accLs false) 8 true [(32, a)]
    if s.loadWaits g 8 ps then .error (s.waitFor 21)
    else
      let pa := (ps.headD (0, 0, 0)).2.1
      let bs := overlayWrs false pa (s.rdBytes pa 8) ((s.group g).ownWrs false)
      .ok ((s.setMonitor (armed false a pa thr (ofLeBytes bs))).pass 4)

/-- `ARM` (R99, R208). -/
def execArm (sp : Bool) (a b : SReg) (s : State) : Out :=
  s.withRegs [a.toNat, b.toNat] [] fun s =>
    let x := s.thr.rd a.toNat
    let thr := s.thr.rd b.toNat
    match s.cur with
    | .svc t => match s.svcAddr t (accLs false) 8 sp true x with
      | .ok pa => .next ((s.setMonitor (armed false x pa thr (s.rdLe pa 8))).pass 4)
      | .error s => .next s
    | .group g => ofTry (s.armGroup g sp x thr)
    | .none => .fault .noIssuer

/-- The thread at hand leaves WAITM or YIELD: armed := 0, and later LS loads see the write that fired (R114). -/
def State.disarm (s : State) : State :=
  let fired := s.monitor.armed && s.monitor.fired
  let s := s.setMonitor { s.monitor with armed := false }
  match s.cur with
  | .group g => if fired then s.modGroup g fun x => { x with l1drop := true } else s
  | _ => s

/-- The thread at hand waits on its monitor. -/
def State.waitMonitor (s : State) (w : Wait) : State :=
  match s.cur with
  | .group g => s.park? g w
  | .svc t => s.setSvc t { s.svc t with wait := some w }
  | .none => s

/-- `WAITM` (R99): not region-ending. -/
def execWaitm (s : State) : Out :=
  s.running fun s =>
    if s.monitor.armed && !s.monitor.fired then .next (s.waitMonitor .waitm) else .next (s.disarm.pass 4)

/-- A region-ending instruction: a group's region commits (R28). -/
def State.ending (s : State) (k : State → Out) : Out :=
  match s.cur with
  | .group g => k (s.commit g)
  | _ => k s

/-- The target of a J-format transfer (R156). -/
def jTarget (word : DWord) (off : BitVec 22) : DWord := (word &&& ~~~7) + 8 * off.signExtend 64

/-- `YIELD` (R99, R208). -/
def execYield (off : BitVec 22) (s : State) : Out :=
  s.running fun s => s.ending fun s =>
    let c := jTarget s.thr.wordAt off
    if s.monitor.armed && !s.monitor.fired then .next (s.waitMonitor (.yield c))
    else .next (s.disarm.modThr fun t => t.jump c)

end Sys2Proof.Machine
end

