-- ==== Sys2Proof/Machine/Teams.lean ====
section
/-! DEFINITION. Teams: keys of teams and groups, barriers (R12, R202-R205, R370, R400), the performing of one store (R38,
R91, R95), the end of a group and of a team (R191, R262), and termination (R103, R369). -/

namespace Sys2Proof.Machine

/-! ### Keys -/

/-- The key of a team of a launch, and of a group of a team. -/
def teamKey (l idx : Nat) : Nat := l * 2 ^ 32 + idx
def groupKey (t gidx : Nat) : Nat := t * 16 + gidx

/-- The groups of a team that have not ended, by index. -/
def State.members (s : State) (t : Nat) : List (Nat × Nat) := (s.team t).groups

/-! ### Levels and units (R12, R337) -/

/-- Whether a level is declared; pixel teams take part in no cross-team barrier (R143). -/
def State.levelOk (s : State) (t level : Nat) : Bool :=
  let r := (s.launch (s.team t).launch).lr
  level == 2 || (3 ≤ level && level < r.nlev && (s.team t).idx < r.teams)

/-- The unit index of a team at a level (R337). -/
def LRec.unitOf (r : LRec) (idx level : Nat) : Nat :=
  if level + 1 = r.nlev then 0 else idx / max 1 (r.unitTeams level)

/-- The team indices of a unit. -/
def LRec.unitMembers (r : LRec) (level u : Nat) : List Nat :=
  if level + 1 = r.nlev then List.range r.teams
  else let n := max 1 (r.unitTeams level); (List.range n).map (u * n + ·)

/-- The domain code of a level: 1 QUAD, 2 DIE, 3 PKG; and its scope code (R337). -/
def LRec.domOf (r : LRec) (level : Nat) : Nat := (r.levels.getD (level - 3) 0).toNat % 4
def LRec.scopeOf (r : LRec) (level : Nat) : Nat := (r.levels.getD (level - 3) 0).toNat / 4 % 8

/-- Whether a team has ended or been terminated. -/
def Team.over? (t : Team) : Bool := t.st == .ended || t.st == .terminated

/-- The participating teams of a unit: those that have not ended. -/
def State.participants (s : State) (l level u : Nat) : List Nat :=
  ((s.launch l).lr.unitMembers level u).filter fun i =>
    match Tab.look s.teams (teamKey l i) with | some t => !t.over? | none => true

/-! ### Barriers (R202-R205) -/

/-- The key of a barrier in a team: level × 16 + number; and of a cross-team barrier in a launch. -/
def barKey (level n : Nat) : Nat := level * 16 + n
def xKey (level u n : Nat) : Nat := (level * 2 ^ 32 + u) * 16 + n

def Team.bar (t : Team) (k : Nat) : Barrier := Tab.get Barrier.zero t.bars k
def Launch.xbar (l : Launch) (k : Nat) : Barrier := Tab.get Barrier.zero l.xbars k

/-- DET of a launch (R336). -/
def LRec.det (r : LRec) : Bool := r.flags.getLsbD 0

/-- The greatest of a list of indices. -/
def maxOf (l : List Nat) : Nat := l.foldl max 0

/-- A team barrier's phase completes once every group that has not ended has arrived (R203, R204). `by_` is the group whose
arrival or withdrawal is at hand: the last arriver is the group that arrived last, or the highest index under DET. -/
def Team.settle (t : Team) (det : Bool) (k : Nat) : Team :=
  let b := t.bar k
  let ps := t.groups.map Prod.fst
  if !b.arrived.isEmpty && ps.all b.arrived.contains then
    { t with bars := Tab.put t.bars k { b with
        phase := b.phase + 1
        arrived := []
        last := if det then maxOf ps else b.arrived.getLastD 0 } }
  else t

/-- A cross-team barrier's phase completes once every participating team has arrived; the agent sends a notice to each
(R203, R400). Under DET the last arriver is then the participating group with the highest index of the last team (R204). -/
def State.settleX (s : State) (l level u n : Nat) : State :=
  let k := xKey level u n
  let b := (s.launch l).xbar k
  let ps := s.participants l level u
  if !b.arrived.isEmpty && !b.poisoned && ps.all b.arrived.contains then
    let det := (s.launch l).lr.det
    let last := if det then maxOf ps else b.arrived.getLastD 0
    let s := s.modLaunch l fun x => { x with xbars := Tab.put x.xbars k { b with phase := b.phase + 1, arrived := [], last := last } }
    let s := if det then s.modTeam (teamKey l last) fun y =>
        { y with bars := Tab.put y.bars (barKey level n) { y.bar (barKey level n) with last := maxOf (y.bar (barKey level n)).arrived } }
      else s
    { s with notices := s.notices ++ ps.map fun i => ⟨l, level, u, n, i, b.phase + 1⟩ }
  else s

/-- A team arrives at a cross-team barrier once all of its groups have, once in a phase; the arrival travels to the agent (R203,
R400). The team keeps which group completed its arrival. A group that joins it after that arrives in the same phase, and its
arrival goes with it. -/
def State.settleTeamX (s : State) (t level n : Nat) : State :=
  let x := s.team t
  let b := x.bar (barKey level n)
  let ps := x.groups.map Prod.fst
  if !b.sent && !b.arrived.isEmpty && ps.all b.arrived.contains then
    let l := s.launch x.launch
    let s := s.modTeam t fun y => { y with bars := Tab.put y.bars (barKey level n) { b with sent := true, last := b.arrived.getLastD 0 } }
    { s with arrivals := s.arrivals ++ [⟨x.launch, level, l.lr.unitOf x.idx level, n, x.idx, b.phase⟩] }
  else s

/-- A notice brings a phase to a team: its groups' arrivals in the phases before it are past (R203, R400). -/
def Barrier.notice (b : Barrier) (phase : Nat) : Barrier :=
  if b.phase < phase then { b with phase := phase, arrived := [], sent := false } else b

/-- A barrier of a group's team after an arrival or a withdrawal. -/
def State.settleBar (s : State) (t k : Nat) : State :=
  if k / 16 = 2 then s.modTeam t fun x => x.settle (s.launch x.launch).lr.det k else s.settleTeamX t (k / 16) (k % 16)

/-- The phase that is completed for a group: a team barrier's own, or the one a notice has brought (R400). -/
def State.phaseOf (s : State) (t k : Nat) : Nat := ((s.team t).bar k).phase

/-- Whether a barrier is poisoned (R205, R370). -/
def State.poisoned (s : State) (t k : Nat) : Bool :=
  let x := s.team t
  let l := s.launch x.launch
  k / 16 != 2 && (l.xbar (xKey (k / 16) (l.lr.unitOf x.idx (k / 16)) (k % 16))).poisoned

/-- The phase count of a barrier at its agent: the team's own, or a cross-team barrier's, whose notice may still be on its way
(R400). -/
def State.agentPhase (s : State) (t k : Nat) : Nat :=
  let x := s.team t
  let l := s.launch x.launch
  if k / 16 = 2 then s.phaseOf t k else max (s.phaseOf t k) (l.xbar (xKey (k / 16) (l.lr.unitOf x.idx (k / 16)) (k % 16))).phase

/-- A gate after an arrival at barrier `k` that counts at phase `p`: one that waited for it knows its phase (R277). -/
def countGate (k p : Nat) (q : Nat × Nat) : Nat × Nat :=
  if q.1 = k then (if q.2 = 2 ^ 64 then (k, p) else if 2 ^ 64 < q.2 then (k, q.2 - 1) else q) else q

/-- A gate after a BARA that found barrier `k` poisoned and had no effect (R205): the arrival before it, if one is pending,
is the latest. -/
def Group.skipGate (x : Group) (k : Nat) (q : Nat × Nat) : Option (Nat × Nat) :=
  if q.1 = k && q.2 = 2 ^ 64 then x.latest else some (countGate k 0 q)

/-- An arrival of a group is counted: it is pending from now on (R203). On a poisoned barrier it has no effect (R205). -/
def State.arrive (s : State) (g k : Nat) : State :=
  let x := s.group g
  if s.poisoned x.team k then
    s.modGroup g fun y => { y with anvil := y.anvil.map fun c => { c with gate := c.gate.bind (x.skipGate k) } }
  else
    let p := s.phaseOf x.team k
    let s := s.modGroup g fun y =>
      { y with
        arrivals := Tab.put y.arrivals k p
        lastArr := (k, p) :: y.lastArr.filter (·.1 != k)
        anvil := y.anvil.map fun c => { c with gate := c.gate.bind fun q => some (countGate k p q) } }
    let s := s.modTeam x.team fun t =>
      let b := t.bar k
      { t with bars := Tab.put t.bars k { b with arrived := b.arrived ++ [x.gidx] } }
    s.settleBar x.team k

/-- Whether a group's arrival may be counted now: no earlier one of its own waits for its phase (R203), or the barrier is
poisoned and it has no effect (R205). -/
def State.mayArrive (s : State) (g k : Nat) : Bool :=
  s.poisoned (s.group g).team k || match Tab.look (s.group g).arrivals k with
  | some p => decide (p < s.phaseOf (s.group g).team k)
  | none => true

/-- Whether a group was the last arriver of the phase it waited for (R204). -/
def State.isLast (s : State) (g k : Nat) : Bool :=
  let x := s.group g
  let t := s.team x.team
  if k / 16 = 2 then (t.bar k).last == x.gidx
  else
    let l := s.launch t.launch
    (l.xbar (xKey (k / 16) (l.lr.unitOf t.idx (k / 16)) (k % 16))).last == t.idx && (t.bar k).last == x.gidx

/-- A group that ends withdraws from every barrier of its team (R203). -/
def State.withdraw (s : State) (g : Nat) : State :=
  let x := s.group g
  let s := s.modTeam x.team fun t =>
    { t with groups := Tab.del t.groups x.gidx, bars := t.bars.map fun (k, b) => (k, { b with arrived := b.arrived.filter (· != x.gidx) }) }
  ((s.team x.team).bars.map Prod.fst).foldl (fun s k => s.settleBar x.team k) s

/-- A team that ends withdraws from every cross-team barrier it takes part in. -/
def State.withdrawTeam (s : State) (t : Nat) : State :=
  let x := s.team t
  let l := s.launch x.launch
  (l.xbars.map Prod.fst).foldl (fun s k =>
    let level := k / 16 / 2 ^ 32
    let u := k / 16 % 2 ^ 32
    if l.lr.unitOf x.idx level == u then s.settleX x.launch level u (k % 16) else s) s

/-! ### One store performs -/

/-- An imprecise error is held by its group (R366). -/
def Group.holdErr (x : Group) (c : Cause) (a : DWord) : Group :=
  { x with impr := match x.impr with | none => some (c, a, 0) | some (c', a', n) => some (c', a', n + 1) }

/-- One write performs: into the window, or at its home, with the core's L1 copies updated where it is the LS path's (R95). A line that proves poisoned
leaves LATE_POISON and no write (R38; log entry 20), and so does a link that is down, with CXL_WB_ERROR (R409). -/
def State.performWr (s : State) (g : Nat) (p : PathClass) (w : Wr) : State :=
  if w.spad then s.wrSpad (s.group g).team w.va.toNat w.data
  else if s.cutOff w.pa w.data.length then (s.modGroup g fun x => x.holdErr .cxlWbError w.va).poolErrors [w.pa]
  else if s.isBad w.pa w.data.length then s.modGroup g fun x => x.holdErr .latePoison w.va
  else if p = .ls then (s.wrBytes w.pa w.data).l1Update (s.coreOf g) w.pa w.data
  else s.wrBytes w.pa w.data

/-- Words of a store perform, the last of it counted (R385); the lock bits a VSTUL covers become FREE after it (R91). -/
def State.performStore (s : State) (g : Nat) (p : PathClass) (last : Bool) (ws : List Wr) (locks : List Nat) : State :=
  let s := ws.foldl (fun s w => s.performWr g p w) s
  let s := if last then s.bump (s.ctxOf g) 5 else s
  if locks.isEmpty then s else s.modCore (s.coreOf g) fun c =>
    { c with locks := locks.foldl (fun l b => if (Tab.get Lock.free l b).others g then l else Tab.set Lock.free l b .free) c.locks }

/-- Order tokens are released once what the group handed over before has performed (R145). -/
def State.releaseTokens (s : State) (g : Nat) (m : Word) : State :=
  s.modGroup g fun x =>
    { x with lanes := x.lanes.map fun (k, l) =>
        (k, if m.getLsbD k then { l with frag := l.frag.map fun f => if f.token then { f with token := false, done := true } else f } else l) }

/-- Every store a group has handed over performs at once; the rest of its list stays (R109). -/
def State.flushStores (s : State) (g : Nat) : State :=
  let hs := (s.group g).inflight
  let s := hs.foldl (fun s h => match h with
    | .store p ws locks last _ _ => s.performStore g p last ws locks
    | .unlock locks => s.performStore g .ls false [] locks
    | .token m => s.releaseTokens g m
    | .shown off bs => s.fireMonitors (some (s.group g).team) off bs.length
    | _ => s) s
  s.modGroup g fun x => { x with inflight := x.inflight.filter fun h =>
    match h with | .store _ _ _ _ _ _ => false | .unlock _ => false | .token _ => false | .shown _ _ => false | _ => true }

/-! ### The end of groups and teams -/

/-- HELD bits of a group become FREE (R191, R262). -/
def State.freeHeld (s : State) (g : Nat) : State :=
  s.modCore (s.coreOf g) fun c => { c with locks := c.locks.filter fun (_, l) => l != .held g }

/-- The lanes of a group that have not exited. -/
def Group.present (x : Group) : Word := ~~~x.xm

/-- Whether something that a group handed over, or an error it holds, is still to come. -/
def Group.trails (x : Group) : Bool := !x.inflight.isEmpty || x.outAt != 0 || x.outCmd != 0 || !x.pend.isEmpty || x.impr.isSome

/-- What is left of a group that has gone: its accesses and errors, no registers, no lanes to run, no arrivals. -/
def Group.trail (x : Group) : Group :=
  { x with
    gone := true, blk := none, mon := Monitor.zero, arrivals := [], anvil := [], walks := []
    reg := Region.zero
    pend := x.pend.filter fun p => !p.bad.isEmpty
    inflight := x.inflight.filter fun h => match h with | .arrive _ => false | _ => true }

/-- A group's accesses, commands and replays go on under another key: its own may be a new group's (R26). -/
def State.rekey (s : State) (g k : Nat) : State :=
  { s with
    units := s.units.map fun (u, q) => (u, q.map fun r => if r.g = g then { r with g := k } else r)
    replays := s.replays.map fun (n, (r : Replay)) => (n, if r.g = g then { r with g := k } else r)
    rays := s.rays.map fun (n, (r : Ray)) => (n, if r.g = g then { r with g := k } else r)
    launches := s.launches.map fun (l, (x : Launch)) =>
      (l, if x.reds.any fun (_, r) => r.g == g then { x with reds := x.reds.map fun (n, r) => (n, if r.g = g then { r with g := k } else r) } else x)
    teams := s.teams.map fun (t, (x : Team)) =>
      let f (c : Copy) : Copy := match c with | .net h a v d sent late => .net (if h = g then k else h) a v d sent late | c => c
      (t, { x with
        copies := x.copies.map fun (n, c) => (n, f c)
        copyq := x.copyq.map f
        queues := x.queues.map fun (n, q) => (n, { q with coming := q.coming.map fun (h, v, b) => (if h = g then k else h, v, b) }) }) }

/-- The key under which a gone group's accesses go on. -/
def State.trailKey (s : State) (g : Nat) : Nat := 2 ^ 128 * (1 + Tab.fresh s.groups / 2 ^ 128) + g

/-- A group leaves its core and its team: blocks freed or quarantined, barriers withdrawn from (R48, R191, R262). What it
has handed over goes on (R109). -/
def State.removeGroup (s : State) (g : Nat) : State :=
  let s := s.freeHeld g
  let s := s.releaseBlocks g 0
  let s := s.withdraw g
  let s := { s with replays := s.replays.map fun (k, (r : Replay)) => (k, if r.g == g then { r with covered := true } else r) }
  let x := (s.group g).trail
  let s := { s with groups := Tab.del s.groups g }
  if x.trails then let k := s.trailKey g; (s.rekey g k).setGroup k x else s


/-- Whether a team still has lanes anywhere: groups, bins, call records, or rays that will come back. -/
def State.teamBusy (s : State) (t : Nat) : Bool :=
  let x := s.team t
  !x.groups.isEmpty || x.bins.any (fun (_, b) => !b.lanes.isEmpty) || !x.recs.isEmpty ||
    (s.rays.any fun (_, r) => r.team == t && r.shade.isSome) || s.groups.any fun (_, x) => x.gone && x.team == t

/-- The window of a team is released, where the team still holds its core. -/
def State.freeWindow (s : State) (t : Nat) : State :=
  let x := s.team t
  if x.onCore then s.modCore x.core fun c => { c with wins := c.wins.filter fun w => w != (x.base, x.size) } else s

/-- The team of a stage of a new index (R137). -/
def Launch.firstStage (x : Launch) : Nat := match x.ext with | some e => if e.taskE = 0 then 2 else 1 | none => 0

/-- What follows the end of a team of a stage (R137): nothing for a compute or raster team, whose index has finished; a mesh
team of the same index for a task team that launches one (log entry 30); classification for a mesh team. -/
def Launch.stageEnd (l : Launch) (stage idx : Nat) : Launch :=
  match stage with
  | 1 => { l with requeued := l.requeued ++ [idx] }
  | 2 | 4 => l
  | _ => { l with finished := l.finished + 1 }

/-- R143: a draw's rasterisation has finished: every mesh team's output is classified and no primitive is left to the
fixed rasteriser. -/
def State.rasterDone (s : State) (l : Nat) : Bool :=
  let x := s.launch l
  x.fixed.isEmpty && (List.range x.lr.teams).all fun i => match Tab.look s.teams (teamKey l i) with
    | some (t : Team) => t.stage2 == 3 || t.st == .terminated
    | none => false

/-- The team of an index whose task stage has ended, and whose mesh stage is neither asked for nor given up. -/
def State.taskOver (s : State) (l j : Nat) : Bool :=
  match Tab.look s.teams (teamKey l j) with
  | some (t : Team) => t.stage2 == 1 && t.st == .ended
  | none => false

/-- R137: the mesh teams that a draw's task teams have asked for wait for a core, in ascending index; when no task team is left,
the other indices have no mesh team (log entry 30). -/
def State.settleTasks (s : State) (l : Nat) : State :=
  let x := s.launch l
  let s := ((List.range x.meshes).filter (s.taskOver l)).foldl (fun s j =>
    (s.modTeam (teamKey l j) fun t => { t with st := .queued, stage2 := 2, started := false }).modLaunch l fun y => y.stageEnd 1 j) s
  let js := List.range x.lr.teams
  if x.firstStage = 1 && js.all (fun j => match Tab.look s.teams (teamKey l j) with
      | some (t : Team) => t.stage2 != 1 || t.over?
      | none => false) then
    (js.filter (s.taskOver l)).foldl (fun s j =>
      ((s.modTeam (teamKey l j) fun t => { t with stage2 := 3 }).modLaunch l fun y => y.stageEnd 3 j).withdrawTeam (teamKey l j)) s
  else s

/-- A team with nothing left ends (R191); a pixel team not before its draw's rasterisation (R143). How many mesh teams a task team
asks for is a free value, within the draw's TEAMS (log entry 30). -/
def State.endOne (s : State) (t : Nat) : State :=
  if s.teamBusy t || (s.team t).over? || !(s.team t).started || ((s.team t).stage2 == 4 && !s.rasterDone (s.team t).launch) then s
  else
    let s := s.freeWindow t
    let x := s.team t
    let s := s.modTeam t fun x => { x with st := .ended }
    if x.stage2 = 1 then
      let c := Config.freeNat s.free
      (s.takeFree.modLaunch x.launch fun l => { l with meshes := l.meshes + c % (l.lr.teams - l.meshes + 1) }).settleTasks x.launch
    else
      let s := s.modLaunch x.launch fun l => l.stageEnd x.stage2 x.idx
      s.withdrawTeam t

/-- The pixel teams of a draw end with its rasterisation (R143). -/
def State.endPixels (s : State) (l : Nat) : State :=
  if (s.launch l).ext.isNone then s
  else (s.teams.filter fun (_, (t : Team)) => t.launch == l && t.stage2 == 4).foldl (fun s (k, _) => s.endOne k) s

/-- A team with nothing left ends, and with the last work of a draw's rasterisation its pixel teams. -/
def State.endTeam (s : State) (t : Nat) : State := (s.endOne t).endPixels (s.team t).launch

/-- Poison every cross-team barrier of a team's units (R370). -/
def State.poisonBars (s : State) (t : Nat) : State :=
  let x := s.team t
  let l := s.launch x.launch
  if l.lr.teams ≤ x.idx then s
  else
    let ks := ((List.range l.lr.nlev).filter (3 ≤ ·)).flatMap fun level =>
      (List.range 16).map fun n => xKey level (l.lr.unitOf x.idx level) n
    s.modLaunch x.launch fun y =>
      { y with xbars := ks.foldl (fun m k => Tab.put m k { Tab.get Barrier.zero m k with poisoned := true }) y.xbars }

/-- A group of a terminated team ends: its region is discarded, what it handed over performs, and it leaves (R103, R369). -/
def State.killGroup (s : State) (g : Nat) : State :=
  let s := (s.discard g).flushStores g
  let s := s.modGroup g fun x => { x with inflight := [], anvil := [], pend := [], outAt := 0, outCmd := 0, impr := none }
  s.removeGroup g

/-- The groups of a team that have gone: what they handed over performs. -/
def State.killTrails (s : State) (t : Nat) : State :=
  (s.groups.filter fun (_, x) => x.gone && x.team == t).foldl (fun s (g, _) =>
    let s := s.flushStores g
    { s with groups := Tab.del s.groups g }) s

/-- A word of a ray's record, and its STATUS (R150). -/
def Ray.word (r : Ray) (k : Nat) : Word := r.words.getD k 0
def Ray.status (r : Ray) : Nat := (r.word 15).toNat / 2 ^ 8 % 2 ^ 8

/-- A ray that has reached CALLB (R305): its record says CALLBACK, counted or not. -/
def Ray.suspended (r : Ray) : Bool :=
  r.st == .callback || (r.status == 6 && (r.st == .counting || r.st == .waiting))

/-- R103, R369: A TEAM IS TERMINATED. The record counts imprecise errors its groups held. -/
def State.terminate (s : State) (t : Nat) : State :=
  if (s.team t).over? then s
  else
    let s := ((s.members t).foldl (fun s (_, g) => s.killGroup g) s).killTrails t
    let s := s.modCore (s.team t).core fun c => { c with arb := c.arb.filter fun | .sgrow g _ _ => g / 16 != t }
    let s := s.freeWindow t
    let s := s.poisonBars t
    let s := s.modTeam t fun x => { x with st := .terminated, groups := [], bins := [], recs := [], copies := [], copyq := [], spad := [], locks := [], stop := none, image := none }
    let s := s.modLaunch (s.team t).launch fun l =>
      { l with finished := if (s.team t).stage2 = 4 then l.finished else l.finished + 1, failed := true, omitted := l.omitted ++ [(s.team t).idx],
               reds := l.reds.filter fun (_, r) => r.team != t }
    -- its rays run to their end; a suspended one ends, and one not released never starts (R305, R369)
    let s := { s with rays := s.rays.filter fun (_, (r : Ray)) => r.team != t || !(r.suspended || r.st == RayState.held) }
    let l := (s.team t).launch
    ((s.withdrawTeam t).settleTasks l).endPixels l

/-- Imprecise errors that a team's groups hold (R366). -/
def State.heldErrs (s : State) (t : Nat) : Nat :=
  ((s.groups.filter fun (_, x) => x.team == t).map fun (_, x) => match x.impr with | none => 0 | some (_, _, n) => n + 1).foldl (· + ·) 0

/-- A soft error beyond the limit ends the team with HARD_ERROR, a record and an event; AUX32 names the register (R369, R415). -/
def State.hardError (s : State) (g : Nat) (reg : Word) : State :=
  let r := s.groupRec g .hardError { aux := reg, flm := (s.group g).flm }
  let s := s.event r.source 1 (dieOf (s.coreOf g)) (BitVec.ofNat 64 (reg.toNat + 2 ^ 32 * r.launch.toNat))
  (s.record r).terminate (s.group g).team

/-- A soft error is detected in a group's region (R32, R33, R55). -/
def State.softError (s : State) (g : Nat) (reg : Word) : State :=
  let n := (s.group g).soft + 1
  if 3 ≤ n then s.hardError g reg
  else (s.discard g).modGroup g fun x => { x with soft := n, sch := { x.sch with upset := none } }

/-- A register of a group meets an upset (R55): one of its words, a free choice, has a code that does not match any more; a
register of an operand file or a last result is gone with its region, and `0xFFFFFFFF` is no register. -/
def State.corrupt (s : State) (g : Nat) (reg : Word) : State :=
  let r := reg.toNat
  if 1024 ≤ r || (Tab.look s.groups g).isNone || r / 256 == 1 || (512 ≤ r && r < 516) then s
  else
    let w := if r / 256 = 2 then Config.freeNat s.free % 2 else Config.freeNat s.free % 32
    s.takeFree.modGroup g fun x => { x with upset := (r * 32 + w) :: x.upset.filter (· != r * 32 + w) }

end Sys2Proof.Machine
end

