-- ==== Sys2Proof/Machine/Bellows.lean ====
section
/-! DEFINITION. Bellows, reducing copies and the network (R100-R104, R279-R283, R404-R406): release, completion, faults. -/

namespace Sys2Proof.Machine

/-! ### Address ranges -/

/-- A range cut at the ends of 16 KiB pages: (address, length); `fuel` bounds the pieces. -/
def pieces (va n : Nat) : Nat → List (Nat × Nat)
  | 0 => []
  | fuel + 1 => if n = 0 then [] else let k := min n (2 ^ 14 - va % 2 ^ 14); (va, k) :: pieces (va + k) (n - k) fuel

/-- A range of `n` bytes, in pieces of one page each. -/
def pagesOf (va n : Nat) : List (Nat × Nat) := pieces va n (n / 2 ^ 14 + 2)

/-- What stops a copy: cause, address, page-fault kind. -/
abbrev Bad := Cause × DWord × Option PfKind

/-- The cause a translation outcome has for a copy (R103). -/
def copyCause : Cause → Cause | .pathDenied => .copyPath | .poison => .copyMemory | _ => .copyPage

/-- R103: the physical pieces of a global range, or what the copy meets first: a line with an uncorrectable error stops a write
as it stops a read. -/
def State.copyRange (s : State) (core asid path : Nat) (write : Bool) (va : DWord) (n : Nat) : Except Bad (List (Nat × Nat)) :=
  if va.toNat / 2 ^ 58 != 0 || (va.toNat + n - 1) / 2 ^ 58 != 0 then .error (.copyPage, va, none)
  else (pagesOf va.toNat n).mapM fun (a, k) =>
    match s.translateC core asid a { write := write, path := some path } with
    | .ok pa _ =>
      if s.cutOff pa k then .error (.copyCxl, BitVec.ofNat 64 a, none)
      else if s.isBad pa k then .error (.copyMemory, BitVec.ofNat 64 a, none)
      else .ok (pa, k)
    | .fail c k => .error (copyCause c, BitVec.ofNat 64 a, k)
    | .miss => .error (.copyPage, BitVec.ofNat 64 a, none)

/-- Whether a global range, as an engine of a core translates it, lies behind a link that retrains, which holds its accesses
(R409). -/
def State.heldC (s : State) (core asid : Nat) (va : DWord) (n : Nat) : Bool :=
  (pagesOf va.toNat n).any fun (a, k) => match s.translateC core asid a {} with | .ok pa _ => s.linkHolds pa k | _ => false

/-- The bytes of physical pieces. -/
def State.rdPieces (s : State) (ps : List (Nat × Nat)) : List Byte := ps.flatMap fun (a, k) => s.rdBytes a k

/-- Write bytes over physical pieces. -/
def State.wrPieces (s : State) : List (Nat × Nat) → List Byte → State
  | [], _ => s
  | (a, k) :: ps, bs => (s.wrBytes a (bs.take k)).wrPieces ps (bs.drop k)

/-- A range of a copy in either space: what it reads. -/
def State.copyRead (s : State) (t path : Nat) (spad : Bool) (a : DWord) (n : Nat) : Except Bad (List Byte) :=
  let x := s.team t
  if spad then
    if x.size < a.toNat + n then .error (.copyWindow, a, none) else .ok (s.spadView none t a.toNat n)
  else (s.copyRange x.core (s.ctx (s.launch x.launch).ctx).asid path false a n).map s.rdPieces

/-- A range of a copy in either space: the state after its bytes are written. -/
def State.copyWrite (s : State) (t path : Nat) (spad : Bool) (a : DWord) (bs : List Byte) : Except Bad State :=
  let x := s.team t
  if spad then
    if x.size < a.toNat + bs.length then .error (.copyWindow, a, none) else .ok (s.wrSpad t a.toNat bs)
  else (s.copyRange x.core (s.ctx (s.launch x.launch).ctx).asid path true a bs.length).map fun ps => s.wrPieces ps bs

/-! ### Copy faults (R103) -/

/-- The record of a copy fault: source Bellows, or the reduction controller of path 2 (R364). -/
def State.copyRec (s : State) (t path : Nat) (b : Bad) (aux : Nat) (aux64 : DWord) : FaultRec :=
  let x := s.team t
  let l := s.launch x.launch
  let n := s.heldErrs t
  { ctx := l.ctx, cause := b.1, kind := b.1.kind, path := path, seq := 0,
    source := sourceOf (if path = 2 then 7 else 1) (coreidOf x.core), launch := l.lr.id,
    team := BitVec.ofNat 32 x.idx, group := 0xFF, pfkind := match b.2.2 with | some k => k.code | none => 0xFF,
    asid := (s.ctx l.ctx).asid, flm := 0, aux32 := BitVec.ofNat 32 (if n = 0 then aux else n), pc := 0, addr := b.2.1,
    time := s.time (dieOf x.core), aux64 := aux64, waiter := none }

/-- The copies and reductions of a team that has already ended are cancelled, and its launch fails (R103; log entry 86). -/
def State.cancelCopies (s : State) (t : Nat) : State :=
  (s.modTeam t fun x => { x with copies := [], copyq := [] }).modLaunch (s.team t).launch fun l =>
    { l with failed := true, reds := l.reds.filter fun (_, r) => r.team != t }

/-- Where a copy met a link that is down (R409). -/
def State.copyPas (s : State) (t : Nat) (b : Bad) : List Nat :=
  if b.1 = .copyCxl then
    match s.translateC (s.team t).core (s.ctx (s.launch (s.team t).launch).ctx).asid b.2.1.toNat {} with | .ok pa _ => [pa] | _ => []
  else []

/-- A copy that met a fault stops: a record goes to the context, and the copy's team is terminated. -/
def State.copyStop (s : State) (t path : Nat) (b : Bad) (aux : Nat) (aux64 : DWord) : State :=
  let s := s.record (s.copyRec t path b aux aux64)
  if (s.team t).over? then s.cancelCopies t else s.terminate t

/-- A COPY FAULT; a link that is down raises its event (R409). -/
def State.copyFault (s : State) (t path : Nat) (b : Bad) (aux : Nat) (aux64 : DWord) : State :=
  (s.poolErrors (s.copyPas t b)).copyStop t path b aux aux64

/-- A command of a group has completed. -/
def State.cmdDone (s : State) (g : Nat) : State :=
  if (Tab.look s.groups g).isSome then s.modGroup g fun x => { x with outCmd := x.outCmd - 1 } else s

/-! ### The static copy schedule (R100, R101) -/

/-- The 64 bytes of an entry. -/
def parseSEntry (bs : List Byte) : SEntry :=
  let d (o : Nat) : DWord := BitVec.ofNat 64 (field bs o 8)
  let sx (o : Nat) : DWord := (BitVec.ofNat 32 (field bs o 4)).signExtend 64
  let sp := field bs 61 1
  ⟨d 0, d 8, d 16, d 24, d 32, d 40, sx 48, sx 52, field bs 56 2, field bs 58 2, field bs 60 1,
    sp % 2 == 1, sp / 2 % 2 == 1, sp / 4 % 2 == 1⟩

/-- The header of a launch's schedule: COUNT and PERIOD; none where the launch has none or it cannot be read. -/
def State.schedHead (s : State) (l : Nat) : Option (Nat × Nat) :=
  let r := (s.launch l).lr
  if r.sched = 0 then none
  else (s.tableBytes (s.ctx (s.launch l).ctx).asid r.sched 8).map fun bs => (field bs 0 1, field bs 1 1)

/-- The bytes of an entry, which may straddle a page. -/
def State.schedEntry (s : State) (t e : Nat) : Option SEntry :=
  let l := s.launch (s.team t).launch
  match s.copyRange (s.team t).core (s.ctx l.ctx).asid 0 false (l.lr.sched + 8 + 64 * BitVec.ofNat 64 e) 64 with
  | .ok ps => some (parseSEntry (s.rdPieces ps))
  | .error _ => none

/-- R101: the iteration at which a counter value releases an entry. -/
def releases (period stage c : Nat) : Option Nat :=
  if period = 0 then (if c = stage then some 0 else none)
  else if stage ≤ c && (c - stage) % period == 0 then some ((c - stage) / period) else none

/-- A copy is released: it starts, or waits for one of the team's 16 places. -/
def Team.addCopy (t : Team) (c : Copy) : Team :=
  if t.copies.length < Config.nCopies then { t with copies := Tab.put t.copies (Tab.fresh t.copies) c }
  else { t with copyq := t.copyq ++ [c] }

/-- A copy leaves; the next one starts in release order. -/
def Team.dropCopy (t : Team) (n : Nat) : Team :=
  let cs := Tab.del t.copies n
  match t.copyq with
  | [] => { t with copies := cs }
  | c :: q => { t with copies := Tab.put cs (max (n + 1) (Tab.fresh t.copies)) c, copyq := q }

/-- The stage counter takes a value: Bellows reads the schedule and releases the entries it selects, in ascending index (R101). A
header or an entry that can no longer be read releases nothing (log entry 101). -/
def State.stageAt (s : State) (t c : Nat) : State :=
  match s.schedHead (s.team t).launch with
  | none => s
  | some (count, period) =>
    (List.range count).foldl (fun s e =>
      match s.schedEntry t e with
      | some x => match releases period x.stage c with
        | some j => s.modTeam t fun y => y.addCopy (.sched e c j x none)
        | none => s
      | none => s) s

/-- STAGE at its release (R279). -/
def State.stageUp (s : State) (t : Nat) : State :=
  let c := (s.team t).stage
  if 2 ^ 56 - 1 ≤ c then s else (s.modTeam t fun x => { x with stage := c + 1 }).stageAt t (c + 1)

/-- The number of a copy's payload words (R100: ROWBYTES is a multiple of 4). -/
def SEntry.count (x : SEntry) : Nat := x.rows * (x.rowbytes / 4)

/-- Source and destination of word `w` of a copy of a team, at an iteration (R101). -/
def SEntry.src (x : SEntry) (team j w : Nat) : DWord :=
  let b := x.rowbytes / 4
  x.saddr + (if x.sspad then 0 else BitVec.ofNat 64 team * x.tstride) + BitVec.ofNat 64 j * x.isaddr + BitVec.ofNat 64 (w / b) * x.srow +
    BitVec.ofNat 64 (4 * (w % b))
def SEntry.dst (x : SEntry) (team j w : Nat) : DWord :=
  let b := x.rowbytes / 4
  x.daddr + (if x.dspad then 0 else BitVec.ofNat 64 team * x.tstride) + BitVec.ofNat 64 j * x.idaddr + BitVec.ofNat 64 (w / b) * x.drow +
    BitVec.ofNat 64 (4 * (w % b))
def SEntry.stamp (x : SEntry) (team : Nat) : DWord := x.stampa + (if x.stspad then 0 else BitVec.ofNat 64 team * x.tstride)

/-- A global address that a team's copy has translated stays in the TLBs of its core (R357). -/
def State.copyKeep (s : State) (t : Nat) (spad : Bool) (a : DWord) : State :=
  if spad then s else s.keepTr (s.team t).core (s.ctx (s.launch (s.team t).launch).ctx).asid a

/-- The word that a copy moves next, a free choice among those left (R97, R101, R118); none once its stamp is due. -/
def State.copyPick (s : State) (x : SEntry) (left : Option (List Nat)) : Option Nat :=
  let ws := left.getD (List.range x.count)
  ws[Config.freeNat s.free % max 1 ws.length]?

/-- One step of a copy: a payload word, with the words left after it; or the stamp, behind every word (R101). -/
def State.copyStep (s : State) (t : Nat) (x : SEntry) (e c j : Nat) (left : Option (List Nat)) : Except Bad (State × Option (List Nat)) :=
  let k := (s.team t).idx
  match s.copyPick x left with
  | none => (s.copyWrite t 1 x.stspad (x.stamp k) (leBytes 8 ((c + 1) * 256 + e))).map fun s => (s, none)
  | some w =>
    match s.copyRead t 1 x.sspad (x.src k j w) 4 with
    | .error b => .error b
    | .ok bs => (s.takeFree.copyWrite t 1 x.dspad (x.dst k j w) bs).map fun s =>
      ((s.copyKeep t x.sspad (x.src k j w)).copyKeep t x.dspad (x.dst k j w), some ((left.getD (List.range x.count)).erase w))

/-- Whether a global range of a team's copy lies behind a link that retrains (R409). -/
def State.copyBehind (s : State) (t : Nat) (spad : Bool) (a : DWord) (n : Nat) : Bool :=
  !spad && s.heldC (s.team t).core (s.ctx (s.launch (s.team t).launch).ctx).asid a n

/-- Whether the next step of a copy waits for a link, at its source or its destination (R409). -/
def State.copyHeld (s : State) (t : Nat) (x : SEntry) (j : Nat) (left : Option (List Nat)) : Bool :=
  let k := (s.team t).idx
  match s.copyPick x left with
  | none => s.copyBehind t x.stspad (x.stamp k) 8
  | some w => s.copyBehind t x.sspad (x.src k j w) 4 || s.copyBehind t x.dspad (x.dst k j w) 4

/-- The address of a schedule entry. -/
def State.entryAddr (s : State) (t e : Nat) : DWord := (s.launch (s.team t).launch).lr.sched + 8 + 64 * BitVec.ofNat 64 e

/-- `COPY_COMPLETE` (R101): a copy in flight of a schedule moves a word, or its stamp and is done; or it meets its fault. -/
def execCopyComplete (t n : Nat) (s : State) : Out :=
  match Tab.look (s.team t).copies n with
  | some (.sched e c j x left) => s.ticking (s.team t).core fun s =>
    if s.copyHeld t x j left then .next s else match s.copyStep t x e c j left with
      | .ok (s, none) => .next (s.modTeam t fun y => y.dropCopy n)
      | .ok (s, some ws) => .next (s.modTeam t fun y => { y with copies := Tab.put y.copies n (.sched e c j x (some ws)) })
      | .error b => .next (s.copyFault t 1 b e (s.entryAddr t e))
  | _ => .next s

/-- What an error of the outside does to a copy (R103, R409). -/
def copyErrCause : CopyErr → Option Cause | .none => none | .memory => some .copyMemory | .cxl => some .copyCxl

/-- The accesses a copy has at hand, in the scratchpad or not, and where: of a schedule's copy the source and the destination of the
word it moves next, or its stamp; of a network copy its source's words until it is sent, and its local stamp from then on. -/
def State.copyAts (s : State) (t : Nat) (c : Copy) : List (Bool × DWord) :=
  let k := (s.team t).idx
  match c with
  | .sched _ _ j x left => match s.copyPick x left with
    | none => [(x.stspad, x.stamp k)]
    | some w => [(x.sspad, x.src k j w), (x.dspad, x.dst k j w)]
  | .net _ _ _ d sent _ =>
    if sent then (if d.lstamp = 0 then [] else [(d.lspad, d.lstamp)])
    else (List.range (d.bytes / 4)).map fun w => (d.sspad, d.src + BitVec.ofNat 64 (4 * w))

/-- Where an error of the outside meets a copy (R103), a free choice among the accesses at hand: the scratchpad holds no CXL error.
None where no access at hand can meet it. -/
def State.copyAddr (s : State) (t : Nat) (c : Copy) (cause : Cause) : Option DWord :=
  let as_ := ((s.copyAts t c).filter fun (sp, _) => !sp || cause != .copyCxl).map Prod.snd
  as_[Config.freeNat (s.free + 1) % max 1 as_.length]?

/-- What a copy's fault record names beside its address (R364): the entry, or the descriptor. -/
def State.copyAux (s : State) (t : Nat) : Copy → Nat × DWord
  | .sched e _ _ _ _ => (e, s.entryAddr t e)
  | .net _ a _ _ _ _ => (0, a)

/-- A copy meets an error of the outside; a command of its group is over with it. -/
def State.copyMeets (s : State) (t : Nat) (c : Copy) (cause : Cause) : State :=
  match s.copyAddr t c cause with
  | none => s
  | some a =>
    let s := match c with | .net g _ _ _ _ _ => s.cmdDone g | .sched _ _ _ _ _ => s
    s.copyStop t 1 (cause, a, none) (s.copyAux t c).1 (s.copyAux t c).2

/-- `COPY_FAULT` (R103): a copy in flight meets an error of the outside, or the fault its addresses decide. -/
def execCopyFault (t n : Nat) (e : CopyErr) (s : State) : Out :=
  match Tab.look (s.team t).copies n with
  | none => .next s
  | some c => match copyErrCause e with
    | some cause => .next (s.copyMeets t c cause)
    | none => match c with
      | .sched e' v j x left => match s.copyStep t x e' v j left with
        | .ok _ => .next s
        | .error b => .next (s.copyFault t 1 b (s.copyAux t c).1 (s.copyAux t c).2)
      | .net _ _ _ _ _ _ => .next s

/-! ### Reducing copies (R102, R280, R281) -/

/-- An element update: the old element, the source's, the operation (0 ADD, 1 MIN, 2 MAX). -/
def reduceElem (op : Nat) (f : Fmt) (sat : Bool) (e x : Nat) : Nat :=
  let w := Fmt.width f
  if Fmt.isFloat f then
    match op with
    | 0 => (roundTo f .rne false (addVal .rne (toVal f e) (toVal f x)).1).1
    | 1 => fminmax f false e x
    | _ => fminmax f true e x
  else
    let i := intOf (Fmt.isI f) w e
    let j := intOf (Fmt.isI f) w x
    match op with
    | 0 => (putInt (Fmt.isI f) w sat (i + j)).1
    | 1 => if j < i then x else e
    | _ => if i < j then x else e

/-- Element by element over two byte strings. -/
def reduceBytes (op : Nat) (f : Fmt) (sat : Bool) : Nat → List Byte → List Byte → List Byte
  | 0, _, _ => []
  | n + 1, d, x =>
    let k := Fmt.width f / 8
    leBytes k (reduceElem op f sat (ofLeBytes (d.take k)) (ofLeBytes (x.take k))) ++
      reduceBytes op f sat n (d.drop k) (x.drop k)

/-- Bytes of an element. -/
def elemBytes (f : Fmt) : Nat := Fmt.width f / 8

/-- CPYRED at its release: the descriptor is read and checked (R102, R280). A fault's AUX32 is its number n (R364; log entry 25). -/
def State.releaseRed (s : State) (g op : Nat) (f : Fmt) (sat : Bool) (desc : DWord) (n : Word) : State :=
  let x := s.group g
  let t := x.team
  let l := (s.team t).launch
  let r := (s.launch l).lr
  let fault (b : Bad) : State := s.copyFault t 2 b n.toNat desc
  if desc.toNat % 32 != 0 then fault (.reduceDesc, desc, none)
  else match s.copyRange (s.team t).core (s.asidOf g) 2 false desc 32 with
  | .error b => fault b
  | .ok ps =>
    let bs := s.rdPieces ps
    let src := BitVec.ofNat 64 (field bs 0 8)
    let dst := BitVec.ofNat 64 (field bs 8 8)
    let stamp := BitVec.ofNat 64 (field bs 16 8)
    let k := field bs 24 4
    let e := elemBytes f
    if field bs 28 4 != 0 || k == 0 || k % e != 0 || 2 ^ 20 < k || src.toNat % e != 0 || dst.toNat % e != 0 ||
        stamp.toNat % 8 != 0 then fault (.reduceDesc, desc, none)
    else
      let off := dst.toNat - r.rwBase.toNat
      if dst.toNat < r.rwBase.toNat || r.rwCount * 2 ^ 20 < off + k || off / 2 ^ 20 != (off + k - 1) / 2 ^ 20 then
        fault (.reduceWindow, dst, none)
      else if n.toNat < Tab.get 0 (s.launch l).rexp (off / 2 ^ 20) then fault (.reduceSeq, dst, none)
      else
        let s := s.modLaunch l fun y => { y with reds := Tab.put y.reds (Tab.fresh y.reds) ⟨g, t, off / 2 ^ 20, n.toNat, op, f, sat, src, dst, k, stamp, desc, none⟩ }
        s.modGroup g fun y => { y with outCmd := y.outCmd + 1 }

/-- The element a reduction updates next, a free choice among those left (R97, R118); none once its stamp is due. -/
def State.redPick (s : State) (r : Reduction) : Option Nat :=
  let ws := r.left.getD (List.range (r.bytes / elemBytes r.fmt))
  ws[Config.freeNat s.free % max 1 ws.length]?

/-- Source and destination of element `k` of a reduction. -/
def Reduction.at_ (r : Reduction) (a : DWord) (k : Nat) : DWord := a + BitVec.ofNat 64 (k * elemBytes r.fmt)

/-- One step of a reduction whose number has come up (R281): an element's update, with the elements left after it; or the stamp,
behind every element. The destination is checked as a write (R356). -/
def State.redStep (s : State) (asid : Nat) (r : Reduction) : Except Bad (State × Option (List Nat)) :=
  let c := (s.team r.team).core
  match s.redPick r with
  | none =>
    if r.stamp = 0 then .ok (s, none)
    else (s.copyRange c asid 2 true r.stamp 8).map fun ts => (s.wrPieces ts (leBytes 8 (r.n + 1)), none)
  | some k => match s.copyRange c asid 2 false (r.at_ r.src k) (elemBytes r.fmt) with
    | .error b => .error b
    | .ok ps => (s.copyRange c asid 2 true (r.at_ r.dst k) (elemBytes r.fmt)).map fun ds =>
      (s.takeFree.wrPieces ds (reduceBytes r.op r.fmt r.sat 1 (s.rdPieces ds) (s.rdPieces ps)),
        some ((r.left.getD (List.range (r.bytes / elemBytes r.fmt))).erase k))

/-- Whether the next step of a reduction waits for a link (R409). -/
def State.redHeld (s : State) (asid : Nat) (r : Reduction) : Bool :=
  let held (a : DWord) (n : Nat) : Bool := s.heldC (s.team r.team).core asid a n
  match s.redPick r with
  | none => r.stamp != 0 && held r.stamp 8
  | some k => held (r.at_ r.src k) (elemBytes r.fmt) || held (r.at_ r.dst k) (elemBytes r.fmt)

/-- Whether another reduction of the region, of the same number, is being applied. -/
def Launch.redBusy (l : Launch) (r region : Nat) : Bool := l.reds.any fun (k, y) => k != r && y.region == region && y.left.isSome

/-- A reduction leaves its region's controller. -/
def State.dropRed (s : State) (l r g : Nat) : State := (s.modLaunch l fun y => { y with reds := Tab.del y.reds r }).cmdDone g

/-- `REDUCTION_APPLY` (R102, R281): a step of a held reduction of launch `l` whose number is expected; one below it is a duplicate. -/
def execReductionApply (l r : Nat) (s : State) : Out :=
  match Tab.look (s.launch l).reds r with
  | none => .next s
  | some x =>
    let want := Tab.get 0 (s.launch l).rexp x.region
    let asid := (s.ctx (s.launch l).ctx).asid
    if x.n < want then .next ((s.dropRed l r x.g).copyFault x.team 2 (.reduceSeq, x.dst, none) x.n x.desc)
    else if want < x.n || (s.launch l).redBusy r x.region || s.redHeld asid x then .next s
    else match s.redStep asid x with
      | .error b => .next ((s.dropRed l r x.g).copyFault x.team 2 b x.n x.desc)
      | .ok (s, some ks) => .next (s.modLaunch l fun y => { y with reds := Tab.put y.reds r { x with left := some ks } })
      | .ok (s, none) => .next ((s.modLaunch l fun y => { y with rexp := Tab.set 0 y.rexp x.region ((x.n + 1) % 2 ^ 32) }).dropRed l r x.g)

/-! ### Network copies (R282, R283, R405, R406) -/

def parseNet (bs : List Byte) : NetDesc :=
  let n := field bs 40 4
  let fl := field bs 47 1
  let ls := field bs 16 8
  let rs := field bs 24 8
  ⟨BitVec.ofNat 64 (field bs 0 8), BitVec.ofNat 64 ls, BitVec.ofNat 64 rs, field bs 32 8, n, field bs 44 2, field bs 46 1,
    fl % 2 == 1, fl / 2 % 2 == 1,
    n != 0 && n % 4 == 0 && n ≤ 2 ^ 26 && ls % 8 == 0 && rs % 8 == 0 && field bs 46 1 ≤ 1 && fl / 4 == 0 && field bs 48 16 == 0, 0⟩

/-- Read and check a network descriptor (R282, R406). -/
def State.netDesc (s : State) (t : Nat) (desc : DWord) : Except Bad NetDesc :=
  let c := s.ctx (s.launch (s.team t).launch).ctx
  if desc.toNat % 64 != 0 then .error (.netDesc, desc, none)
  else match s.copyRange (s.team t).core c.asid 1 false desc 64 with
  | .error b => .error b
  | .ok ps =>
    let d := parseNet (s.rdPieces ps)
    match d.ok, Tab.look c.peers d.peer with
    | true, some p =>
      if d.tc = 0 then .ok d
      else match Tab.look s.admits p.admission with
        | some a => if a.maxMsg < d.bytes then .error (.netDesc, desc, none) else .ok d
        | none => .error (.netDesc, desc, none)
    | _, _ => .error (.netDesc, desc, none)

/-- The network copies of a team that wait to be sent. -/
def Team.unsent (x : Team) : List NetDesc :=
  (x.copies.map Prod.snd ++ x.copyq).filterMap fun c => match c with | .net _ _ _ d false _ => some d | _ => none

/-- The place of the next network copy in the order of release. -/
def State.netNext (s : State) : Nat := (s.teams.flatMap fun (_, (x : Team)) => x.unsent.map NetDesc.rel).foldl max 0 + 1

/-- A network copy's peer. -/
def State.netPeer (s : State) (t : Nat) (d : NetDesc) : Option Peer := Tab.look (s.ctx (s.launch (s.team t).launch).ctx).peers d.peer

/-- Whether a copy of class 1 waits for an earlier one of its admission, which is sent first (R406). -/
def State.netBehind (s : State) (t : Nat) (d : NetDesc) : Bool :=
  d.tc == 1 && s.teams.any fun (k, (x : Team)) => x.unsent.any fun e =>
    e.tc == 1 && decide (e.rel < d.rel) && (s.netPeer k e).map Peer.admission == (s.netPeer t d).map Peer.admission

/-- Whether a copy of class 0 waits for one of class 1 that may leave now by one of its ports (R406). -/
def State.netYields (s : State) (t : Nat) (d : NetDesc) : Bool :=
  d.tc == 0 && s.teams.any fun (k, (x : Team)) => !s.still x.core && x.copies.any fun (_, c) => match c with
    | .net _ _ _ e false _ =>
      e.tc == 1 && decide (e.relt ≤ s.time (dieOf x.core)) && !s.netBehind k e && !s.copyBehind k e.sspad e.src e.bytes &&
        match s.netPeer k e, s.netPeer t d with
        | some p, some q => p.ports &&& q.ports != 0
        | _, _ => false
    | _ => false

/-- CPYNET at its release (R282, R283): its descriptor is read and checked, it takes its place among the team's copies, and RELT
lies in the past or not. -/
def State.releaseNet (s : State) (g : Nat) (desc v : DWord) : State :=
  let t := (s.group g).team
  match s.netDesc t desc with
  | .error b => s.copyFault t 1 b 0 desc
  | .ok d =>
    let late := d.relt != 0 && d.relt < s.time (dieOf (s.team t).core)
    (s.modTeam t fun x => x.addCopy (.net g desc v { d with rel := s.netNext } false late)).modGroup g fun x => { x with outCmd := x.outCmd + 1 }

/-- `CPYNET_TRANSMIT` (R283, R406): the source is read and the first flit leaves, not before RELT, an earlier copy of its admission,
or one of the frame class. The payload's words leave the machine,
which holds none of them. -/
def execCpynetTransmit (t n : Nat) (s : State) : Out :=
  match Tab.look (s.team t).copies n with
  | some (.net g desc v d false late) => s.ticking (s.team t).core fun s =>
    if s.time (dieOf (s.team t).core) < d.relt || s.copyBehind t d.sspad d.src d.bytes || s.netBehind t d || s.netYields t d then .next s
    else match s.copyRead t 1 d.sspad d.src d.bytes with
      | .error b => .next ((s.cmdDone g).copyFault t 1 b 0 desc)
      | .ok _ => .next (s.modTeam t fun x => { x with copies := Tab.put x.copies n (.net g desc v d true late) })
  | _ => .next s

/-- The local stamp of a transmitted copy, with its late bit and, on a failure, bit 63; the copy leaves. A local stamp that cannot be
written is a local fault (R282). -/
def State.netStamp (s : State) (t n g : Nat) (desc v : DWord) (d : NetDesc) (late failed : Bool) : State :=
  let w := v ||| (if late then 0x4000000000000000 else 0) ||| (if failed then 0x8000000000000000 else 0)
  if d.lstamp = 0 then (s.modTeam t fun x => x.dropCopy n).cmdDone g
  else match s.copyWrite t 1 d.lspad d.lstamp (leBytes 8 w.toNat) with
    | .error b => (s.cmdDone g).copyFault t 1 b 0 desc
    | .ok s => (s.modTeam t fun x => x.dropCopy n).cmdDone g

/-- `CPYNET_CONFIRM` (R283 step 5). -/
def execCpynetConfirm (t n : Nat) (s : State) : Out :=
  match Tab.look (s.team t).copies n with
  | some (.net g desc v d true late) => s.ticking (s.team t).core fun s =>
    if d.lstamp != 0 && s.copyBehind t d.lspad d.lstamp 8 then .next s else .next (s.netStamp t n g desc v d late false)
  | _ => .next s

/-- `CPYNET_FAIL` (R283 step 6): a fault record goes to the context and no team is terminated. -/
def execCpynetFail (t n : Nat) (s : State) : Out :=
  match Tab.look (s.team t).copies n with
  | some (.net g desc v d true late) => s.ticking (s.team t).core fun s =>
    if d.lstamp != 0 && s.copyBehind t d.lspad d.lstamp 8 then .next s
    else .next ((s.record { s.copyRec t 1 (.netFail, 0, none) 0 desc with aux32 := 0 }).netStamp t n g desc v d late true)
  | _ => .next s

/-- `RMA_WRITE_RECEIVE` (R405): a write of a peer into the context that registered its job, translated on die 0, or a part of one:
its words arrive in any order (R118). A rejected one has no effect; one behind a link that retrains is held. -/
def execRmaWriteReceive (job : BitVec 24) (addr : DWord) (data : List Byte) (s : State) : Out :=
  match s.ctxs.find? fun (_, c) => c.job == job.toNat with
  | none => .next s
  | some (_, c) =>
    if s.heldC 0 c.asid addr data.length then .next s
    else match s.copyRange 0 c.asid 1 true addr data.length with
    | .ok ps => .next (s.wrPieces ps data)
    | .error _ => .next s

end Sys2Proof.Machine
end

