-- ==== Sys2Proof/Machine/Anvil.lean ====
section
/-! DEFINITION. Anvil: tile control words, the command queue of a group, TLD, TST, TZERO, TMMA, TMMAS and the moves (R54, R59,
R74-R81, R267-R278, R289). -/

namespace Sys2Proof.Machine

/-! ### Tile control words (R59, R272) -/

/-- SN, element width, columns and rows of a tile control word. -/
def tcSn (w : Word) : Nat := w.toNat / 2 ^ 15 % 8
def tcWidth (w : Word) : Nat := match w.toNat / 2 ^ 13 % 4 with | 0 => 4 | 1 => 8 | _ => 16
def tcCols (w : Word) : Nat := w.toNat / 2 ^ 6 % 128 + 1
def tcRows (w : Word) : Nat := w.toNat % 64 + 1

/-- Groups a sparse line holds (R78). -/
def lineGroups (w : Nat) : Nat := if w = 4 then 4 else if w = 8 then 2 else 1

/-- Groups and lines of a sparse tile. -/
def tcGroups (w : Word) : Nat := tcRows w * tcCols w / 64
def tcLines (w : Word) : Nat := (tcGroups w + lineGroups (tcWidth w) - 1) / lineGroups (tcWidth w)

/-- R272, R79: the limits of a sparse tile. -/
def sparseOk (w : Word) : Bool :=
  (tcCols w == 64 || (tcCols w == 128 && tcWidth w != 16)) && decide (8 * tcSn w ≤ (if tcWidth w = 4 then 48 else 56)) &&
    decide (tcLines w ≤ 32)

/-- A tile's control word. -/
def Tiles.ctl (t : Tiles) (n : Nat) : Word := Tab.get 0 t.tc n

/-! ### Operands of commands -/

/-- A tile or an accumulator. -/
inductive TOp | t (n : Nat) | a (n : Nat)
  deriving DecidableEq, Repr

/-- The operand that XF[3:0] names (R270). -/
def topOf (o : LaneOp) : TOp := if LaneOp.xbit o 3 then .a (LaneOp.xfield o 0 2) else .t (LaneOp.xfield o 0 3)

/-- Whether TMMAS takes a pair of B tiles (R275). -/
def pairB (sparse : Bool) (k w : Nat) : Bool := sparse && decide (512 < k * w)

/-- What a command writes, and what it reads. -/
def AnvilCmd.writes (c : AnvilCmd) : List TOp :=
  match c.word with
  | .tld o | .tzero o => [topOf o]
  | .tmma o | .tmmas o => [.a (LaneOp.xfield o 0 2)]
  | .vtot o => [.t (LaneOp.xfield o 0 3)]
  | .vtoa o => [.a (LaneOp.xfield o 0 2)]
  | _ => []

/-- The element width of a format word's A code (R76). -/
def fwWidth (w : Word) : Nat := match w.toNat % 16 with | 2 => 4 | 3 => 16 | 4 => 16 | _ => 8

def mmaTiles (o : LaneOp) (pair : Bool) : List TOp :=
  let b := LaneOp.xfield o 5 3
  [.t (LaneOp.xfield o 2 3), .t b] ++ if pair then [.t (b + 1)] else []

def AnvilCmd.reads (c : AnvilCmd) : List TOp :=
  match c.word with
  | .tst o => [topOf o]
  | .tmma o => .a (LaneOp.xfield o 0 2) :: mmaTiles o false
  | .tmmas o => .a (LaneOp.xfield o 0 2) :: mmaTiles o (pairB true c.kdim (fwWidth c.fw))
  | .ttov o | .vtot o => [.t (LaneOp.xfield o 0 3)]
  | .atov o => [.a (LaneOp.xfield o 0 2)]
  | _ => []

/-- Whether an operand is empty, and the empty bit written. -/
def Tiles.isEmpty (t : Tiles) : TOp → Bool
  | .t n => t.tempty.getLsbD n
  | .a n => t.aempty.getLsbD n

def Tiles.setEmpty (t : Tiles) (e : Bool) : TOp → Tiles
  | .t n => { t with tempty := if e then t.tempty ||| BitVec.ofNat 8 (2 ^ n) else t.tempty &&& ~~~(BitVec.ofNat 8 (2 ^ n)) }
  | .a n => { t with aempty := if e then t.aempty ||| BitVec.ofNat 4 (2 ^ n) else t.aempty &&& ~~~(BitVec.ofNat 4 (2 ^ n)) }

/-- Drop the contents of an operand. -/
def Tiles.clear (t : Tiles) : TOp → Tiles
  | .t n => { t with t := t.t.filter fun (k, _) => k / 4096 != n }
  | .a n => { t with a := t.a.filter fun (k, _) => k / 1024 != n }

/-- The number of an operand among a command's `wants` and `kept`. -/
def TOp.num : TOp → Nat | .t n => n | .a n => 8 + n

/-- The contents of one operand alone. -/
def Tiles.only (t : Tiles) : TOp → Tiles
  | .t n => { Tiles.zero with t := t.t.filter fun (k, _) => k / 4096 == n }
  | .a n => { Tiles.zero with a := t.a.filter fun (k, _) => k / 1024 == n }

/-- The contents of an operand replaced by those that `Tiles.only` took. -/
def Tiles.replace (t : Tiles) (n : Nat) (k : Tiles) : Tiles :=
  let t := t.clear (if n < 8 then .t n else .a (n - 8))
  { t with t := Tab.setAll 0 t.t k.t, a := Tab.setAll 0 t.a k.a }

/-- The tiles as a command reads them: an operand that a later command has overwritten as it was before (R268; log entry 55). -/
def AnvilCmd.view (c : AnvilCmd) (t : Tiles) : Tiles := c.kept.foldl (fun t (n, k) => t.replace n k) t

/-- Bytes of a tile from an offset on. -/
def Tiles.bytes (t : Tiles) (n off len : Nat) : List Byte := takeBytes t.t (n * 4096 + off) len

/-- A word of an accumulator. -/
def Tiles.acc (t : Tiles) (n row col : Nat) : Word := Tab.get 0 t.a (n * 1024 + row * 32 + col)

/-! ### The queue (R268, R269, R277) -/

/-- Whether a TLD has its rows still to read; a sparse one read them at its issue (R272). -/
def AnvilCmd.unread (c : AnvilCmd) : Bool := match c.word with | .tld _ => c.lines.isEmpty | _ => false

/-- Whether a TLD's rows meet pieces of a space. -/
def AnvilCmd.over (c : AnvilCmd) (sp : Bool) (ps : List (Nat × Nat)) : Bool :=
  match c.word with
  | .tld o => LaneOp.xbit o 4 == sp && c.rows.any fun (_, qs) => qs.any fun (a, n) => ps.any fun (b, m) => meets a n b m
  | _ => false

/-- Whether a command waits for an earlier one: one that writes what it reads or writes (R268), or a TLD that is to read a word
before it does (R109). A command that itself waits for an operand to be filled holds no write of that operand. -/
def AnvilCmd.holds (b c : AnvilCmd) : Bool :=
  (b.writes.any fun p => c.reads.contains p || (c.writes.contains p && !b.wants.contains p.num)) ||
    match c.word with
    | .tld o => b.unread && b.over (LaneOp.xbit o 4) (c.rows.flatMap Prod.snd)
    | _ => false

/-- The commands of a queue that nothing but a commit, or a write to an empty operand, lets start: a gated command whose region is
open, one that waits for such an operand, and those that they hold. -/
def stuckCmds (cs : List AnvilCmd) : List AnvilCmd :=
  cs.foldl (fun st c => if (gatedWord c.word && !c.committed) || !c.wants.isEmpty || st.any (fun b => b.holds c) then st ++ [c] else st) []

/-- Whether a TLD of a queue has its rows still to read, and will read them without a commit. -/
def tldAhead (cs : List AnvilCmd) : Bool := cs.any fun c => c.unread && !(stuckCmds cs).any fun b => b.id == c.id

/-- A command enters its group's queue; what it writes is empty until it completes. -/
def State.enqueue (s : State) (g : Nat) (c : AnvilCmd) : State :=
  s.modGroup g fun x =>
    let id := x.anvil.foldl (fun n q => max n (q.id + 1)) 0
    let wants := (c.reads.filter fun p => x.tl.isEmpty p && !(x.anvil.any fun q => q.writes.contains p)).map TOp.num
    { x with
      tl := c.writes.foldl (fun t p => t.setEmpty true p) x.tl
      anvil := x.anvil ++ [{ c with id := id, gen := x.regen, wants := wants }] }

/-- Number of the next command. -/
def Group.nextCmd (x : Group) : Nat := x.anvil.foldl (fun n q => max n (q.id + 1)) 0

/-- A command with nothing read yet. -/
def AnvilCmd.new (i : Instr) (act fw : Word) : AnvilCmd := ⟨0, i, 0, false, act, [], 0, fw, [], [], [], [], none, false, [], [], []⟩

/-- The full queue is waited for (R268). -/
def State.queueRoom (s : State) (g : Nat) : Try Unit :=
  if Config.nAnvilQueue ≤ (s.group g).anvil.length then .error (s.waitFor 22) else .ok ()

/-- An Anvil word by its active lanes: nothing with none (R16), else its own checks and its place in the queue. -/
def State.anvilWord (s : State) (o : LaneOp) (us : Word → List Use) (d : Option Put)
    (k : Nat → Word → List (Tab Nat) → State → Try State) : Out :=
  s.laneWord o.h .anvil us d fun g m s =>
    if m = 0 then .next (s.laneDone g o.h)
    else
      let (t, vs) := s.readUses g m (us m)
      match k g m vs t with
      | .ok s => .next ((s.popAll g m (us m)).laneDone g o.h)
      | .error s => .next s

/-! ### TLD and TST (R270-R272) -/

/-- The rows of a transfer: byte offset from the base, and bytes. -/
def xferRows (o : LaneOp) (tc : Word) (stride : Int) : List (Int × Nat) :=
  match topOf o with
  | .a _ => (List.range 32).map fun (r : Nat) => ((r : Int) * stride, 128)
  | .t _ =>
    if tcSn tc != 0 then (List.range (tcLines tc)).map fun (l : Nat) => (128 * (l : Int), 128)
    else (List.range (tcRows tc)).map fun (r : Nat) => ((r : Int) * stride, tcCols tc * tcWidth tc / 8)

/-- R271: the translations of a transfer's global pieces on the MX path, with their traps. -/
def State.xferPieces (s : State) (g : Nat) (m : Word) (write : Bool) (rows : List (DWord × Nat)) :
    Try (List (DWord × List (Nat × Nat))) :=
  let trap (c : Cause) (a : DWord) (k : Option PfKind) : Try (List (DWord × List (Nat × Nat))) :=
    .error (s.raise c { flm := m, addr := a, pf := k, path := 3 })
  let ts := rows.map fun (a, n) => (a, (pagesOf a.toNat n).map fun (v, k) =>
    (v, k, s.translateG g (s.asidOf g) v { write := write, path := some 3 }))
  let all := ts.flatMap Prod.snd
  let fails (c : Cause) := all.find? fun (_, _, t) => match t with | .fail c' _ => c == c' | _ => false
  let bad (v k : Nat) (t : Tr) : Bool := match t with | .fail .poison _ => true | .ok pa _ => !write && s.isBad pa k | _ => decide (v + k = 0)
  let missing := all.filter fun (_, _, t) => t == .miss
  if !missing.isEmpty then .error ((missing.foldl (fun s (v, _, _) => s.askWalk g (s.asidOf g) (vpnOf v)) s).waitFor 23)
  else match fails .pageFault with
    | some (v, _, t) => trap .pageFault (BitVec.ofNat 64 v) (match t with | .fail _ k => k | _ => none)
    | none => match fails .pathDenied with
      | some (v, _, _) => trap .pathDenied (BitVec.ofNat 64 v) none
      | none =>
        if all.any fun (_, k, t) => match t with | .ok pa _ => s.linkHolds pa k | _ => false then .error (s.waitFor 27)
        else match all.find? fun (v, k, t) => bad v k t with
        | some (v, _, t) =>
          .error ((s.raise .poison { flm := m, addr := BitVec.ofNat 64 v, path := 3 }).poolErrors (match t with | .ok pa _ => [pa] | _ => []))
        | none => .ok (ts.map fun (a, ps) => (a, ps.filterMap fun (_, k, t) => match t with | .ok pa _ => some (pa, k) | _ => none))

/-- R271, R272: the checks of a transfer, and its rows with where they lie. -/
def State.xferCheck (s : State) (g : Nat) (m : Word) (o : LaneOp) (tc : Word) (write : Bool) (base : DWord) (stride : Int) :
    Try (List (DWord × List (Nat × Nat))) :=
  let sp := LaneOp.xbit o 4
  let tile := !LaneOp.xbit o 3
  let sparse := tile && tcSn tc != 0
  let rows := xferRows o tc stride
  let size := (s.team (s.group g).team).size
  if sparse && !sparseOk tc then .error (s.raise .tileConfig { flm := m })
  else if tile && !sparse && tcCols tc * tcWidth tc % 32 != 0 then .error (s.raise .tileConfig { flm := m })
  else if (sparse && base.toNat % 128 != 0) || base.toNat % 4 != 0 || (!sparse && stride % 4 != 0) then
    .error (s.raise .misaligned { flm := m, addr := base, path := if sp then 0xFF else 3 })
  else if sp then
    match rows.find? fun (d, n) => decide ((base.toNat : Int) + d < 0) || decide ((size : Int) < base.toNat + d + n) with
    | some (d, _) => .error (s.raise .spadBound { flm := m, addr := BitVec.ofInt 64 (base.toNat + d) })
    | none => .ok (rows.map fun (d, n) => (BitVec.ofInt 64 (base.toNat + d), [(((base.toNat : Int) + d).toNat, n)]))
  else
    let rs := rows.map fun (d, n) => (base + BitVec.ofInt 64 d, n)
    match rs.find? fun (a, n) => decide (2 ^ 58 < a.toNat + n) with
    | some (a, _) => .error (s.raise .addrRange { flm := m, addr := a, path := 3 })
    | none => s.xferPieces g m write rs

/-- The bytes of a transfer's row, from the window or at their home. -/
def State.xferRead (s : State) (g : Nat) (sp : Bool) (ps : List (Nat × Nat)) : List Byte :=
  if sp then ps.flatMap fun (a, n) => s.spadView (some g) (s.group g).team a n else s.rdPieces ps

/-- R79: the masks of sparse lines: N bits in each group of the tile, none beyond. -/
def masksOk (tc : Word) (lines : List Byte) : Bool :=
  let G := lineGroups (tcWidth tc)
  (List.range (tcLines tc * G)).all fun k =>
    let n := popcount 64 (field lines (128 * (k / G) + 8 * (k % G)) 8)
    if k < tcGroups tc then n == 8 * tcSn tc else n == 0

/-- The snapshots of base and stride as sources. -/
def xferUses (o : LaneOp) (m : Word) : List Use := [⟨o.a, .raw, 32, 2, m⟩, ⟨o.b, .raw, 32, 1, m⟩]

/-- TLD and TST past their operands. -/
def State.xfer (s : State) (g : Nat) (m : Word) (o : LaneOp) (i : Instr) (tst : Bool) (vs : List (Tab Nat)) : Try State := do
  let x := s.group g
  let l := (lanesOf m).headD 0
  let base : DWord := BitVec.ofNat 64 (Tab.get 0 (vs.getD 0 []) l)
  let stride := intOf true 32 (Tab.get 0 (vs.getD 1 []) l)
  let tc := match topOf o with | .t n => x.tl.ctl n | .a _ => 0
  if tst && SrcReg.fe o.a.reg && x.tl.isEmpty (topOf o) then .error (s.raise .feEmpty { flm := m })
  else
    s.placement g m
    let rows ← s.xferCheck g m o tc tst base stride
    let sparse := !LaneOp.xbit o 3 && tcSn tc != 0
    -- a sparse TLD reads at its issue, after the earlier reads of the same words (R109, R272)
    let ahead := x.anvil.any fun c => c.unread && c.over (LaneOp.xbit o 4) (rows.flatMap Prod.snd) && !(stuckCmds x.anvil).any fun b => b.id == c.id
    if sparse && !tst && ahead then .error (s.waitFor 23)
    else
    let lines := if sparse && !tst then rows.flatMap fun (_, ps) => s.xferRead g (LaneOp.xbit o 4) ps else []
    if sparse && !tst && !masksOk tc lines then .error (s.raise .sparseHeader { flm := m })
    else
      s.queueRoom g
      let s ← if tst then s.buffer g (.tst x.nextCmd) m else .ok s
      .ok (s.enqueue g { AnvilCmd.new i m tc with rows := rows, lines := lines })

/-- `TLD` (R271). -/
def execTld (o : LaneOp) (s : State) : Out :=
  s.anvilWord o (xferUses o) none fun g m vs s => s.xfer g m o (.tld o) false vs
/-- `TST` (R271). -/
def execTst (o : LaneOp) (s : State) : Out :=
  s.anvilWord o (xferUses o) none fun g m vs s => s.xfer g m o (.tst o) true vs

/-- `TZERO` (R273). -/
def execTzero (o : LaneOp) (s : State) : Out :=
  s.anvilWord o (fun _ => []) none fun g m _ s => do
    s.queueRoom g
    .ok (s.enqueue g (AnvilCmd.new (.tzero o) m 0))

/-! ### TMMA and TMMAS (R274-R276) -/

/-- The element format of a code of the format word (R76). -/
def fwFmt : Nat → Fmt
  | 0 => .e4m3 | 1 => .e5m2 | 2 => .e2m1 | 3 => .f16 | 4 => .b16 | 5 => .i8 | _ => .n8

/-- R77: the word alone. -/
def fwLegal (w : Word) : Bool :=
  let n := w.toNat
  let a := n % 16
  let b := n / 16 % 16
  let acc := n / 256 % 16
  let ints (c : Nat) : Bool := decide (5 ≤ c)
  n / 2 ^ 17 == 0 && a ≤ 6 && b ≤ 6 && acc ≤ 1 && Fmt.width (fwFmt a) == Fmt.width (fwFmt b) &&
    (Fmt.width (fwFmt a) != 16 || a == b) && ints a == ints b && (acc == 1) == ints a &&
    (n / 2 ^ 15 % 2 == 0 || a ≤ 2) && (n / 2 ^ 16 % 2 == 0 || b ≤ 2) && (Fmt.width (fwFmt a) != 4 || n / 2 ^ 12 % 8 ≤ 6)

/-- SN, BSA and BSB of a format word. -/
def fwSn (w : Word) : Nat := w.toNat / 2 ^ 12 % 8
def fwBsa (w : Word) : Bool := w.toNat / 2 ^ 15 % 2 == 1
def fwBsb (w : Word) : Bool := w.toNat / 2 ^ 16 % 2 == 1

/-- R275, third check: the word against the command and its tiles. -/
def fwFits (w : Word) (o : LaneOp) (sparse : Bool) (ta tb : Word) : Bool :=
  let ew := fwWidth w
  fwLegal w && (fwSn w != 0) == sparse && (!(fwBsa w || fwBsb w) || LaneOp.xfield o 8 2 + tcCols ta / 32 - 1 ≤ 3) &&
    tcWidth ta == ew && tcWidth tb == ew && tcSn ta == fwSn w && tcSn tb == 0 && (!o.sat || w.toNat / 256 % 16 == 1)

/-- R275, fourth check: the shapes of the tiles. -/
def shapesOk (t : Tiles) (o : LaneOp) (sparse : Bool) (w : Word) : Bool :=
  let ta := t.ctl (LaneOp.xfield o 2 3)
  let nb := LaneOp.xfield o 5 3
  let tb := t.ctl nb
  let k := tcCols ta
  tcRows ta == 32 && tcRows tb == 32 && k % 32 == 0 &&
    if pairB sparse k (tcWidth ta) then
      let t2 := t.ctl (nb + 1)
      nb % 2 == 0 && tcCols tb == k / 2 && tcCols t2 == k / 2 && tcRows t2 == 32 && tcSn t2 == 0 && tcWidth t2 == fwWidth w
    else tcCols tb == k

/-- The sources of a product: the format word, and the scale registers that SB and SC name. Naming one above the allocation
traps (R45); a side without a block scale is not read (R274), so its source has no lanes. -/
def State.mmaUses (s : State) (o : LaneOp) (m : Word) : List Use :=
  let ua : Use := ⟨o.a, .raw, 32, 1, m⟩
  match s.gid with
  | none => [ua]
  | some g =>
    let x := s.group g
    let sides (a b : Bool) : List Use := [ua, ⟨o.b, .raw, 32, 2, if a then m else 0⟩, ⟨o.c, .raw, 32, 2, if b then 0xFFFFFFFF else 0⟩]
    if m = 0 || x.mustWait ua || x.outOfBound ua != 0 || x.unalloc ua then sides false false
    else
      let w : Word := BitVec.ofNat 32 (Tab.get 0 (s.readUse g m ua).2 ((lanesOf m).headD 0))
      sides (fwBsa w) (fwBsb w)

/-- A table of per-lane values as operands: the low and high words. -/
def scaleWords (t : Tab Nat) : List (Nat × List Word) := t.map fun (l, v) => (l, [BitVec.ofNat 32 v, BitVec.ofNat 32 (v / 2 ^ 32)])

/-- TMMA and TMMAS past their operands. -/
def State.mma (s : State) (g : Nat) (m : Word) (o : LaneOp) (i : Instr) (sparse : Bool) (vs : List (Tab Nat)) : Try State := do
  let x := s.group g
  let f := vs.getD 0 []
  let w : Word := BitVec.ofNat 32 (Tab.get 0 f ((lanesOf m).headD 0))
  let ta := x.tl.ctl (LaneOp.xfield o 2 3)
  let tb := x.tl.ctl (LaneOp.xfield o 5 3)
  let ops := TOp.a (LaneOp.xfield o 0 2) :: mmaTiles o (pairB sparse (tcCols ta) (tcWidth ta))
  let diverging := maskWhere m fun l => BitVec.ofNat 32 (Tab.get 0 f l) != w
  if SrcReg.fe o.a.reg && ops.any x.tl.isEmpty then .error (s.raise .feEmpty { flm := m })
  else if diverging != 0 then .error (s.raise .formatDiverge { flm := diverging })
  else if !fwFits w o sparse ta tb then .error (s.raise .formatInvalid { flm := m })
  else if !shapesOk x.tl o sparse w || (sparse && !sparseOk ta) then .error (s.raise .tileConfig { flm := m })
  else
    s.queueRoom g
    .ok (s.enqueue g { AnvilCmd.new i m w with kdim := tcCols ta, la := scaleWords (vs.getD 1 []), lb := scaleWords (vs.getD 2 []) })

/-- `TMMA` (R275, R276). -/
def execTmma (o : LaneOp) (s : State) : Out :=
  s.anvilWord o (fun m => s.mmaUses o m) none fun g m vs s => s.mma g m o (.tmma o) false vs
/-- `TMMAS` (R275, R276). -/
def execTmmas (o : LaneOp) (s : State) : Out :=
  s.anvilWord o (fun m => s.mmaUses o m) none fun g m vs s => s.mma g m o (.tmmas o) true vs

/-- A row of a dense tile, as elements. -/
def Tiles.denseRow (t : Tiles) (n row k w : Nat) : List Nat := elems w k (ofLeBytes (t.bytes n (64 * row) (k * w / 8)))

/-- The kept values spread over their positions; the others are zero (R78, R276). -/
def spread (mask : Nat) : Nat → List Nat → List Nat
  | 0, _ => []
  | n + 1, vs => if mask % 2 = 1 then vs.headD 0 :: spread (mask / 2) n vs.tail else 0 :: spread (mask / 2) n vs

/-- A row of a sparse tile, as logical elements (R78, R79). -/
def Tiles.sparseRow (t : Tiles) (n row k w N : Nat) : List Nat :=
  (List.range (k / 64)).flatMap fun c =>
    let gi := row * (k / 64) + c
    let G := lineGroups w
    let at_ := 128 * (gi / G)
    let mask := ofLeBytes (t.bytes n (at_ + 8 * (gi % G)) 8)
    spread mask 64 (elems w N (ofLeBytes (t.bytes n (at_ + 8 * G + gi % G * (N * w / 8)) (N * w / 8))))

/-- Halfword h of a lane's pair of scale registers (R75). -/
def scaleAt (t : List (Nat × List Word)) (l h : Nat) : Val :=
  let ws := (Tab.look t l).getD []
  scaleE8m4 ((ws.getD (h / 2) 0).toNat / 2 ^ (16 * (h % 2)) % 2 ^ 12)

/-- Cut into blocks of 32. -/
def blocks32 {α : Type} : Nat → List α → List (List α)
  | 0, _ => []
  | n + 1, xs => xs.take 32 :: blocks32 n (xs.drop 32)

/-- One element of the product: A row i, B row j (R276). -/
def mmaElem (c : AnvilCmd) (sel : Nat) (sat : Bool) (ra rb : List Nat) (i j acc : Nat) : Nat × Word :=
  let fa := fwFmt (c.fw.toNat % 16)
  let fb := fwFmt (c.fw.toNat / 16 % 16)
  let n := c.kdim / 32
  if Fmt.isFloat fa then
    let one : Val := .num false 1 1
    accumulate acc ((blocks32 n (List.zip (ra.map (toVal fa)) (rb.map (toVal fb)))).zipIdx.map fun (ps, b) =>
      (ps, if fwBsa c.fw then scaleAt c.la i (sel + b) else one, if fwBsb c.fw then scaleAt c.lb j (sel + b) else one))
  else accumulateInt sat acc (blocks32 n (List.zip (ra.map (intOf (Fmt.isI fa) 8)) (rb.map (intOf (Fmt.isI fb) 8))))

/-- The words of the accumulator after a product, by active rows, with the flags of all. -/
def mmaWords (t : Tiles) (c : AnvilCmd) (o : LaneOp) : List (Nat × Word) × Word :=
  let w := fwWidth c.fw
  let k := c.kdim
  let na := LaneOp.xfield o 0 2
  let nb := LaneOp.xfield o 5 3
  let sn := fwSn c.fw
  let rowB (j : Nat) : List Nat :=
    if pairB (sn != 0) k w then t.denseRow nb j (k / 2) w ++ t.denseRow (nb + 1) j (k / 2) w else t.denseRow nb j k w
  let rowA (i : Nat) : List Nat := if sn != 0 then t.sparseRow (LaneOp.xfield o 2 3) i k w (8 * sn) else t.denseRow (LaneOp.xfield o 2 3) i k w
  let bs := (List.range 32).map rowB
  let r := (lanesOf c.act).flatMap fun i =>
    let ra := rowA i
    bs.zipIdx.map fun (rb, j) =>
      let (v, f) := mmaElem c (LaneOp.xfield o 8 2) o.sat ra rb i j (t.acc na i j).toNat
      ((na * 1024 + i * 32 + j, BitVec.ofNat 32 v), f)
  (r.map Prod.fst, r.foldl (fun f x => f ||| x.2) 0)

/-! ### Moves (R278) -/

/-- Offset of word k of a dense tile's row in its storage; none outside the tile. -/
def tileWord (tc : Word) (row k : Nat) : Option Nat :=
  if row < tcRows tc && decide (4 * k + 4 ≤ tcCols tc * tcWidth tc / 8) then some (64 * row + 4 * k) else none

/-- Words that move. -/
def moveN (o : LaneOp) : Nat := if LaneOp.xbit o 8 then 4 else 1

/-- A move past its operands. `tile` layout, `load` to the lanes. -/
def State.tmove (s : State) (g : Nat) (m : Word) (o : LaneOp) (i : Instr) (tile load : Bool) (vs : List (Tab Nat)) : Try State := do
  let x := s.group g
  let tc := if tile then x.tl.ctl (LaneOp.xfield o 0 3) else 0
  if tile && tcSn tc != 0 then .error (s.raise .tileConfig { flm := m })
  else
    s.queueRoom g
    let p : Put := ⟨o.d, moveN o⟩
    let keys := if load then x.putKeys p m else []
    let la := if load then (lanesOf m).map fun l => (l, [BitVec.ofNat 32 ((x.mainDst p l).getD 0)])
      else (vs.getD 0 []).map fun (l, v) => (l, (cutRegs 0 0 v (moveN o)).map Prod.snd)
    let s := s.enqueue g { AnvilCmd.new i m tc with la := la, dst := keys }
    .ok (s.mkEmpty g keys)

/-- `TTOV` (R278). -/
def execTtov (o : LaneOp) (s : State) : Out :=
  s.anvilWord o (usesOf (ruleTmov true true o) 32 o) (putOf (ruleTmov true true o) o) fun g m vs s =>
    s.tmove g m o (.ttov o) true true vs
/-- `VTOT` (R278). -/
def execVtot (o : LaneOp) (s : State) : Out :=
  s.anvilWord o (usesOf (ruleTmov true false o) 32 o) none fun g m vs s => s.tmove g m o (.vtot o) true false vs
/-- `ATOV` (R278). -/
def execAtov (o : LaneOp) (s : State) : Out :=
  s.anvilWord o (usesOf (ruleTmov false true o) 32 o) (putOf (ruleTmov false true o) o) fun g m vs s =>
    s.tmove g m o (.atov o) false true vs
/-- `VTOA` (R278). -/
def execVtoa (o : LaneOp) (s : State) : Out :=
  s.anvilWord o (usesOf (ruleTmov false false o) 32 o) none fun g m vs s => s.tmove g m o (.vtoa o) false false vs

/-- Word q of a lane's move: its tile offset or accumulator index. -/
def movePlace (o : LaneOp) (tile : Bool) (tc : Word) (l q : Nat) : Option Nat :=
  if tile then tileWord tc (l + if LaneOp.xbit o 7 then 32 else 0) (LaneOp.xfield o 3 4 + q)
  else some (l * 32 + LaneOp.xfield o 3 5 + q)

/-- The words a move sends to its lanes. -/
def moveWords (t : Tiles) (o : LaneOp) (tile : Bool) (c : AnvilCmd) : List (Nat × List Word) :=
  (lanesOf c.act).map fun l => (l, (List.range (moveN o)).map fun q =>
    match movePlace o tile c.fw l q with
    | none => 0
    | some a => if tile then BitVec.ofNat 32 (ofLeBytes (t.bytes (LaneOp.xfield o 0 3) a 4)) else Tab.get 0 t.a (LaneOp.xfield o 0 2 * 1024 + a))

/-- The tiles after a move from its lanes. -/
def moveIn (t : Tiles) (o : LaneOp) (tile : Bool) (c : AnvilCmd) : Tiles :=
  c.la.foldl (fun t (l, ws) => ws.zipIdx.foldl (fun t (w, q) =>
    match movePlace o tile c.fw l q with
    | none => t
    | some a =>
      if tile then { t with t := putBytes t.t (LaneOp.xfield o 0 3 * 4096 + a) (leBytes 4 w.toNat) }
      else { t with a := Tab.set 0 t.a (LaneOp.xfield o 0 2 * 1024 + a) w }) t) t

/-! ### Completion -/

/-- The tiles after a TLD's rows. -/
def loadRows (t : Tiles) (p : TOp) (sparse : Bool) (rows : List (List Byte)) : Tiles :=
  let t := t.clear p
  match p with
  | .t n => { t with t := rows.zipIdx.foldl (fun m (bs, r) => putBytes m (n * 4096 + (if sparse then 128 else 64) * r) bs) t.t }
  | .a n => { t with a := rows.zipIdx.foldl (fun m (bs, r) =>
      Tab.setAll 0 m ((List.range 32).map fun j => (n * 1024 + r * 32 + j, BitVec.ofNat 32 (field bs (4 * j) 4)))) t.a }

/-- The rows of a TST: what follows the last value of a sparse line is padding and zero, in a tile's last line also the places of
groups beyond the tile's last (R78, R272). -/
def storeRow (t : Tiles) (p : TOp) (tc : Word) (r len : Nat) : List Byte :=
  match p with
  | .a n => (List.range 32).flatMap fun j => leBytes 4 (t.acc n r j).toNat
  | .t n =>
    if tcSn tc != 0 then
      let G := lineGroups (tcWidth tc)
      let used := 8 * G + min G (tcGroups tc - G * r) * tcSn tc * tcWidth tc
      (t.bytes n (128 * r) used) ++ List.replicate (128 - used) 0
    else t.bytes n (64 * r) len

/-- Bytes over the pieces of a row, as writes of the engine. -/
def rowWrites (spad : Bool) : DWord → List (Nat × Nat) → List Byte → List Wr
  | _, [], _ => []
  | va, (pa, n) :: ps, bs => ⟨spad, va, pa, 33, bs.take n⟩ :: rowWrites spad (va + BitVec.ofNat 64 n) ps (bs.drop n)

/-- The words of a transfer's rows, by their addresses. -/
def AnvilCmd.wordsAt (c : AnvilCmd) : List Nat :=
  c.rows.flatMap fun (_, ps) => ps.flatMap fun (a, n) => (List.range (n / 4)).map fun i => a + 4 * i

/-- The words that a TLD has still to read: it reads each by itself, in any order (R97, R118). A sparse one has read its lines as it
issued (R272). -/
def AnvilCmd.toRead (c : AnvilCmd) : List Nat :=
  match c.word with
  | .tld _ => if c.lines.isEmpty then (List.range c.wordsAt.length).filter fun w => (Tab.look c.got w).isNone else []
  | _ => []

/-- A TLD reads one more word, a free choice among those left; a link that retrains holds it (R409). -/
def State.tldRead (s : State) (g : Nat) (c : AnvilCmd) (ws : List Nat) : State :=
  let sp := match c.word with | .tld o => LaneOp.xbit o 4 | _ => false
  let w := ws.getD (Config.freeNat s.free % ws.length) 0
  let a := c.wordsAt.getD w 0
  if !sp && s.linkHolds a 4 then s.takeFree
  else
    let v : Word := BitVec.ofNat 32 (ofLeBytes (s.xferRead g sp [(a, 4)]))
    s.takeFree.modGroup g fun x =>
      { x with anvil := x.anvil.map fun d => if d.id = c.id then { d with got := Tab.put d.got w v } else d }

/-- Bytes cut into rows of these lengths. -/
def cutRows : List Nat → List Byte → List (List Byte)
  | [], _ => []
  | n :: ns, bs => bs.take n :: cutRows ns (bs.drop n)

/-- The rows a TLD has read. -/
def AnvilCmd.rowsRead (c : AnvilCmd) : List (List Byte) :=
  if c.lines.isEmpty then
    cutRows (c.rows.map fun (_, ps) => (ps.map Prod.snd).sum)
      ((List.range c.wordsAt.length).flatMap fun w => leBytes 4 (Tab.get 0 c.got w).toNat)
  else (List.range c.rows.length).map fun r => (c.lines.drop (128 * r)).take 128

/-- The tiles after a command that writes one. -/
def tilesAfter (c : AnvilCmd) (t : Tiles) : Tiles × Word :=
  match c.word with
  | .tld o => (loadRows t (topOf o) (!c.lines.isEmpty) c.rowsRead, 0)
  | .tzero o => (t.clear (topOf o), 0)
  | .tmma o | .tmmas o =>
    let (ws, f) := mmaWords (c.view t) c o
    ({ t with a := Tab.setAll 0 t.a ws }, capIf (LaneOp.cap o) f)
  | .vtot o => (moveIn t o true c, 0)
  | .vtoa o => (moveIn t o false c, 0)
  | _ => (t, 0)

/-- A TST's entry takes its rows, wherever it stands (R271): what a commit has handed over as indivisible words (R97). -/
def fillTst (id : Nat) (ws : List Wr) (hs : List Held) : List Held :=
  hs.map fun h => if h = .tst id then .store .mx ws [] true false false else h
def fillSent (id : Nat) (ws : List Wr) (hs : List Held) : List Held :=
  hs.flatMap fun h => if h = .tst id then (Held.store .mx ws [] true false false).cut else [h]

/-- A command that reads an operand keeps what stands in it when a later one, before it has run, overwrites it: by R268 a write
waits for earlier writers only, and each command reads what its place in the queue gives it (log entry 55). -/
def AnvilCmd.keep (d : AnvilCmd) (before : List AnvilCmd) (t : Tiles) (p : TOp) : AnvilCmd :=
  if d.reads.contains p && !d.wants.contains p.num && !(before.any fun b => b.writes.contains p) && !(d.kept.any fun e => e.1 == p.num) then
    { d with kept := d.kept ++ [(p.num, t.only p)] }
  else d

/-- The queue behind a completed command: readers before it keep what it overwrites, and who waited for its operands may run. -/
def queueAfter (t : Tiles) (c : AnvilCmd) (q : List AnvilCmd) : List AnvilCmd :=
  let before := q.takeWhile fun d => d.id != c.id
  let kept := before.zipIdx.map fun (d, i) => c.writes.foldl (fun (d : AnvilCmd) p => d.keep (before.take i) t p) d
  (kept ++ (q.dropWhile fun d => d.id != c.id).filter fun d => d.id != c.id).map fun (d : AnvilCmd) =>
    { d with wants := d.wants.filter fun n => !(c.writes.any fun p => p.num == n) }

/-- Operands of the rest of the queue decide what stays empty. -/
def Tiles.refill (t : Tiles) (ps : List TOp) (rest : List AnvilCmd) : Tiles :=
  ps.foldl (fun t p => t.setEmpty (rest.any fun c => c.writes.contains p) p) t

/-- A command completes: what it writes, its flags (R276), and its words at their lanes. -/
def State.completeCmd (s : State) (g : Nat) (c : AnvilCmd) : State :=
  let x := s.group g
  let (t, fl) := tilesAfter c x.tl
  let rest := queueAfter x.tl c x.anvil
  let t := t.refill c.writes rest
  -- a command of an earlier region also changes the checkpoint of the open one (R269)
  let ck (r : Region) : Tiles :=
    if c.committed && !c.writes.isEmpty then
      let k := (tilesAfter c r.ckTiles).1
      k.refill c.writes (rest.filter AnvilCmd.committed)
    else r.ckTiles
  let s := s.modGroup g fun x =>
    { x with
      tl := t
      anvil := rest
      thr := if c.committed then { x.thr with flags := x.thr.flags ||| fl } else x.thr
      reg := { x.reg with ckTiles := ck x.reg, fset := if c.committed then x.reg.fset else x.reg.fset ||| fl } }
  match c.word with
  | .tst o =>
    let ws := c.rows.zipIdx.flatMap fun ((va, ps), r) =>
      rowWrites (LaneOp.xbit o 4) va ps (storeRow (c.view x.tl) (topOf o) c.fw r ((ps.map Prod.snd).sum))
    s.modGroup g fun x => { x with inflight := fillSent c.id ws x.inflight, reg := { x.reg with held := fillTst c.id ws x.reg.held } }
  | .tmma _ | .tmmas _ => s.bump (s.ctxOf g) 6
  | .ttov o => deliver s o true
  | .atov o => deliver s o false
  | _ => s
where
  /-- The words of a move reach the registers that still stand, and z1. -/
  deliver (s : State) (o : LaneOp) (tile : Bool) : State :=
    let ws := moveWords (c.view (s.group g).tl) o tile c
    let vals := ws.flatMap fun (l, w) =>
      let r := (((Tab.look c.la l).getD []).headD 0).toNat
      (w.zipIdx.map fun (v, q) => (vkey (r + q) l, v)).filter fun (k, _) => c.dst.contains k
    let s := s.modGroup g fun x => Group.recode
      { x with f := { x.f with v := Tab.setAll 0 x.f.v vals, vempty := Tab.setAll false x.f.vempty (vals.map fun (k, _) => (k, false)) } }
      (vals.map Prod.fst)
    s.writeZ g 1 (ws.map fun (l, w) => (l, (w.headD 0).toNat))


/-- Whether a command may run past the ones before it: a gated one has started. -/
def AnvilCmd.canRun (c : AnvilCmd) (before : List AnvilCmd) : Bool :=
  (!gatedWord c.word || c.started) && c.wants.isEmpty && !(before.any fun b => b.holds c)

/-- The first command that may run, given those before it. -/
def pickCmd (before : List AnvilCmd) : List AnvilCmd → Option AnvilCmd
  | [] => none
  | c :: cs => if c.canRun before then some c else pickCmd (before ++ [c]) cs

/-- `ANVIL_COMMAND_COMPLETE` (R268): the first command that may run reads one more word of its rows, or completes. -/
def execAnvilCommandComplete (g : Nat) (s : State) : Out :=
  match pickCmd [] (s.group g).anvil with
  | some c => s.ticking (s.coreOf g) fun s => match c.toRead with
    | [] => .next (s.completeCmd g c)
    | ws => .next (s.tldRead g c ws)
  | none => .next s

/-- What the gate of a command says (R277): its region has committed, and the phase it waits on is complete, or poisoned. A phase
that its agent completed before the barrier was poisoned stays complete (R370). -/
inductive GateState | wait | go | poison
  deriving DecidableEq, Repr

def State.gateOf (s : State) (g : Nat) (c : AnvilCmd) : GateState :=
  let t := (s.group g).team
  if !c.committed then .wait
  else match c.gate with
    | none => .go
    | some (k, p) => if p < s.phaseOf t k then .go else if s.poisoned t k && decide (s.agentPhase t k ≤ p) then .poison else .wait

/-- A cancelled command: a move to lanes leaves its registers full, a TST hands over nothing; operands stay empty. -/
def Group.cancelCmd (x : Group) (c : AnvilCmd) : Group :=
  { x with
    anvil := x.anvil.filter fun d => d.id != c.id
    f := { x.f with vempty := Tab.setAll false x.f.vempty (c.dst.map fun k => (k, false)) }
    inflight := fillSent c.id [] x.inflight
    reg := { x.reg with held := fillTst c.id [] x.reg.held } }

/-- The first gated command that has not started. -/
def firstGated (cs : List AnvilCmd) : Option AnvilCmd := cs.find? fun c => gatedWord c.word && !c.started

/-- `GATED_COMMAND_START` (R277): it may start, or a poisoned barrier cancels it and every later command of the queue, once the
earlier commands that can run are done, so that what it would have written stays empty. One that is saved with its team waits for the
team to resume (R269). -/
def execGatedCommandStart (g : Nat) (s : State) : Out :=
  let x := s.group g
  match firstGated x.anvil with
  | none => .next s
  | some c => if !(s.team x.team).onCore || s.still (s.coreOf g) then .next s else match s.gateOf g c with
    | .wait => .next s
    | .go => .next (s.modGroup g fun x => { x with anvil := x.anvil.map fun d => if d.id = c.id then { d with started := true } else d })
    | .poison =>
      let off := x.anvil.dropWhile fun d => d.id != c.id
      if (pickCmd [] (x.anvil.takeWhile fun d => d.id != c.id)).isSome then .next s
      else .next (s.modGroup g fun x => off.foldl Group.cancelCmd x)

end Sys2Proof.Machine
end

