-- ==== Sys2Proof/Machine/Fetch.lean ====
section
/-! DEFINITION. Fetching an instruction of the thread at hand: scalar words through pcs, lane words of a running block
(R154, R161-R165, R192, R356), and the prefix (R159-R161). Instruction words are read from memory as they stand when they
issue; a service thread fetches inside its image from the verified body (log entry 12). -/

namespace Sys2Proof.Machine

/-- One 32-bit word of a group's code section at a virtual address, or the trap or wait its translation gives. -/
def State.codeWordG (s : State) (g : Nat) (acc : Acc) (flm : Word) (a : DWord) : Try Word :=
  let info (k : Option PfKind) : TrapInfo := { flm := flm, addr := a, pf := k }
  if a.toNat / 2 ^ 58 != 0 then .error (s.raise .addrRange (info none))
  else match s.translateG g (s.asidOf g) a.toNat acc with
    | .miss => .error ((s.askWalk g (s.asidOf g) (vpnOf a.toNat)).waitFor 23)
    | .fail c k => .error (s.raise c (info k))
    | .ok pa _ =>
      if s.linkHolds pa 4 then .error (s.waitFor 24)
      else if s.isBad pa 4 then .error ((s.raise .poison (info none)).poolErrors [pa])
      else .ok (BitVec.ofNat 32 (s.rdLe pa 4))

/-- One word of a service thread's code. -/
def State.codeWordS (s : State) (t : Nat) (a : DWord) : Try Word :=
  if a.toNat + 4 ≤ s.ctl.image.length then .ok (BitVec.ofNat 32 (field s.ctl.image a.toNat 4))
  else match s.svcAddr t { xs := true } 4 false true a with
    | .ok pa => .ok (BitVec.ofNat 32 (s.rdLe pa 4))
    | .error s => .error s

/-- A scalar word of the thread at hand. -/
def State.codeWord (s : State) (a : DWord) : Try Word :=
  match s.cur with
  | .group g => s.codeWordG g { xs := true } 0 a
  | .svc t => s.codeWordS t a
  | .none => .error s

/-- Whether the word at an address is the last of its section: a group's scalar section, or the image (R154). -/
def State.lastWord (s : State) (a : DWord) : Bool :=
  match s.cur with
  | .group g => let r := s.recOf g; a + 4 == r.sbase + BitVec.ofNat 64 r.slen
  | .svc _ => a.toNat + 4 == s.ctl.image.length
  | .none => false

/-- R175: a system opcode, in a word of 32 bits. -/
def systemWord (w : Word) : Bool := w.extractLsb' 0 2 == 0 && w.extractLsb' 6 4 == 0xE

/-- The thread at hand is a group's. -/
def State.isGroup (s : State) : Bool := match s.cur with | .group _ => true | _ => false

/-- R163: a scalar word decoded, with its checks in order. -/
def State.decodeAt (s : State) (a : DWord) (w : Word) : Try Instr :=
  if s.isGroup && systemWord w then .error (s.raise .privileged {})
  else if twoWords w then
    if s.lastWord a then .error (s.raise .encReserved {})
    else match s.codeWord (a + 4) with
      | .error s => .error s
      | .ok w1 => match decodeScalar w w1 with
        | .ok i => .ok i
        | .error _ => .error (s.raise .encReserved {})
  else match decodeScalar w 0 with
    | .ok i => .ok i
    | .error _ => .error (s.raise .encReserved {})

/-- R197: code that begins outside a REGION word starts an implicit region. -/
def State.openFor (s : State) (i : Instr) : State :=
  match s.cur, i with
  | .group _, .region _ => s
  | .group g, _ => s.openImplicit g
  | _, _ => s

/-- A scalar instruction of the thread at hand. -/
def State.fetchScalar (s : State) : Try (Instr × State) :=
  let a := s.thr.wordAt
  match s.codeWord a with
  | .error s => .error s
  | .ok w => match s.decodeAt a w with
    | .error s => .error s
    | .ok i => .ok (i, s.openFor i)

/-- A lane word of a group's block (R165): its three words may lie on two pages. -/
def State.fetchLane (s : State) (g : Nat) : Try (Instr × State) :=
  let a := s.pcOf g
  let em := s.thr.em
  let rd (k : Nat) : Try Word := s.codeWordG g { xl := true } em (a + BitVec.ofNat 64 (4 * k))
  match rd 0, rd 1, rd 2 with
  | .ok w0, .ok w1, .ok w2 => match decodeLane (w2 ++ w1 ++ w0) with
    | .ok i => .ok (i, s)
    | .error _ => .error (s.raise .encReserved { flm := em })
  | .error s, _, _ => .error s
  | _, .error s, _ => .error s
  | _, _, .error s => .error s

/-- THE NEXT INSTRUCTION OF THE THREAD AT HAND, with the state in which it executes; or the state that its trap or wait
leaves. -/
def State.fetch (s : State) : Try (Instr × State) :=
  match s.cur with
  | .none => .error s
  | .group g => if (s.group g).blk.isSome then s.fetchLane g else s.fetchScalar
  | .svc _ => s.fetchScalar

/-! ### The prefix (R159-R161) -/

/-- Prefix classes of the scalar opcode map (R174): Y takes every field, I no rounding, N none. -/
inductive PfxClass | y | i | n
  deriving DecidableEq, Repr

/-- The class of a word, by its length selector and opcode (R174). -/
def pfxClassOf (w : Word) : PfxClass :=
  let op := (w.extractLsb' 2 8).toNat
  match (w.extractLsb' 0 2).toNat with
  | 0 => if op = 0x04 || op = 0x05 || op = 0x06 || op = 0x18 then .i
    else if (0x28 ≤ op && op ≤ 0x2D) || op = 0x31 then .y else .n
  | 1 => if op = 0x22 then .i else .n
  | _ => .n

/-- `PFX` (R159-R161): the prefix checks itself and the word after it, and is held for it. A rounding other than RNE
before an I instruction is a reserved encoding OF THE PREFIX, so it is found before R161's cases (R161, R163), and only
a prefix that it could concern reads the next word at a place where R161 stops it anyway. -/
def execPfx (cap sat : Bool) (rnd : Rnd) (s : State) : Out :=
  s.running fun s =>
    let a := s.thr.pcs
    let orphan := s.thr.pfx.isSome || a.getLsbD 2
    if s.lastWord a || (orphan && rnd = .rne) then .next (s.raise .orphanPrefix {})
    else match s.codeWord (a + 4) with
      | .error s => .next s
      | .ok w =>
        if pfxClassOf w = .i && rnd ≠ .rne then .next (s.raise .encReserved {})
        else if orphan || pfxClassOf w = .n then .next (s.raise .orphanPrefix {})
        else .next (s.modThr fun t => { t with pfx := some ⟨cap, sat, rnd⟩ })

end Sys2Proof.Machine
end

