-- ==== Sys2Proof/Machine/Rings.lean ====
section
/-! DEFINITION. Rings of contexts and endpoints: fault records and event records in memory, head, tail and hold (R363,
R364, R414). -/

namespace Sys2Proof.Machine

/-- The physical address of a context's ring, queue table or block: physical where a host request named it, otherwise
through the context's tables (R412). -/
def State.ctxPa (s : State) (c : Nat) (va : DWord) (write : Bool) : Option Nat :=
  if (s.ctx c).phys then some va.toNat
  else match s.translate (s.ctx c).asid va.toNat { write := write } with
    | .ok pa _ => some pa
    | _ => none

/-- Whether a ring of `size` records has room: HEAD and TAIL count records modulo 2^32. -/
def ringRoom (head tail size : Nat) : Bool := decide ((tail + 2 ^ 32 - head) % 2 ^ 32 < size)

/-- The address of the record at TAIL. -/
def ringAt (base : DWord) (tail size len : Nat) : DWord := base + BitVec.ofNat 64 (len * (tail % max size 1))

/-- The bytes of an event record (R414). -/
def EventRec.bytes (r : EventRec) : List Byte :=
  leBytes 4 r.source ++ leBytes 4 r.seq ++ leBytes 2 r.ty ++ leBytes 6 0 ++ leBytes 8 r.time ++ leBytes 8 r.data.toNat

/-- The bytes of a fault record (R364). -/
def FaultRec.bytes (r : FaultRec) : List Byte :=
  leBytes 2 r.cause.code ++ leBytes 1 r.kind ++ leBytes 1 r.path ++ leBytes 4 r.seq ++ leBytes 4 r.source ++
    leBytes 4 r.launch.toNat ++ leBytes 4 r.team.toNat ++ leBytes 1 r.group ++ leBytes 1 r.pfkind ++ leBytes 2 r.asid ++
    leBytes 4 r.flm.toNat ++ leBytes 4 r.aux32.toNat ++ leBytes 8 r.pc.toNat ++ leBytes 8 r.addr.toNat ++ leBytes 8 r.time ++
    leBytes 8 r.aux64.toNat

/-- Write a record at TAIL and advance it; none where the ring is full or its page cannot be written. -/
def State.pushFault (s : State) (c : Nat) (r : FaultRec) : Option State :=
  let x := s.ctx c
  if !ringRoom x.frHead x.frTail x.frSize then none
  else match s.ctxPa c (ringAt x.frBase x.frTail x.frSize 64) true with
    | none => none
    | some pa => some ((s.wrBytes pa r.bytes).setCtx c { x with frTail := (x.frTail + 1) % 2 ^ 32 })

def State.pushEvent (s : State) (c : Nat) (r : EventRec) : Option State :=
  let x := s.ctx c
  if !ringRoom x.evHead x.evTail x.evSize then none
  else match s.ctxPa c (ringAt x.evBase x.evTail x.evSize 32) true with
    | none => none
    | some pa => some ((s.wrBytes pa r.bytes).setCtx c { x with evTail := (x.evTail + 1) % 2 ^ 32 })

/-- Held events enter the ring while it has room. -/
def State.drainEvents (s : State) (c : Nat) : Nat → State
  | 0 => s
  | n + 1 =>
    match (s.ctx c).evHeld with
    | [] => s
    | r :: rs => match s.pushEvent c r with
      | none => s
      | some s => State.drainEvents (s.setCtx c { s.ctx c with evHeld := rs }) c n

/-- An event of a context: numbered by its source, written to its ring or held while it is full (R414). -/
def State.ctxEvent (s : State) (c source ty die : Nat) (data : DWord) : State :=
  let n := Tab.get 0 s.evSeqs source
  let s := { s with evSeqs := Tab.set 0 s.evSeqs source (n + 1) }
  let s := s.setCtx c { s.ctx c with evHeld := (s.ctx c).evHeld ++ [⟨source, n, ty, s.time die, data⟩] }
  s.drainEvents c (s.ctx c).evHeld.length

/-- A record of kind C of a unit about a launch: no group, no service (R361). -/
def State.launchRec (s : State) (l : Nat) (c : Cause) (source path : Nat) (addr : DWord) : FaultRec :=
  let x := s.launch l
  { ctx := x.ctx, cause := c, kind := c.kind, path := path, seq := 0, source := source, launch := x.lr.id, team := 0,
    group := 0xFF, pfkind := 0xFF, asid := (s.ctx x.ctx).asid, flm := 0, aux32 := 0, pc := 0, addr := addr, time := s.time 0,
    aux64 := 0, waiter := none }

end Sys2Proof.Machine
end

