-- ==== Sys2Proof/Machine/Record.lean ====
section
/-! DEFINITION. Record and replay: the logs of atomic requests, the order gate, the hash checkpoints and the divergence
records (R387-R391). -/

namespace Sys2Proof.Machine

/-- The ASID of a launch. -/
def State.asidL (s : State) (l : Nat) : Nat := (s.ctx (s.launch l).ctx).asid

/-- SOURCE of a REPLAY_BLOCK record of a log access: the distributor (log entry 28). -/
def distSource : Nat := sourceOf 5 0

/-- A log access that its page does not allow is dropped, with a record of cause REPLAY_BLOCK (R391). -/
def State.rrWrite (s : State) (l : Nat) (va : DWord) (bs : List Byte) : State :=
  match s.translate (s.asidL l) va.toNat { write := true, path := some 0 } with
  | .ok pa _ => s.wrBytes pa bs
  | _ => s.record (s.launchRec l .replayBlock distSource 0 va)

/-- A logged N64; none where the page does not allow the read. -/
def State.rrRead (s : State) (l : Nat) (va : DWord) : Option DWord :=
  match s.translate (s.asidL l) va.toNat { path := some 0 } with
  | .ok pa _ => if s.isBad pa 8 then none else some (BitVec.ofNat 64 (s.rdLe pa 8))
  | _ => none

/-- A divergence record, in the order of writing over the launch, and its event (R390, R391, R415). -/
def State.diverge (s : State) (l kind req wher : Nat) (logged found : DWord) (source die : Nat) : State :=
  let rr := (s.launch l).rr
  let n := rr.divs
  let s := s.modLaunch l fun x => { x with rr := { x.rr with divs := n + 1 } }
  let s := if rr.divBase = 0 then s
    else s.rrWrite l (rr.divBase + BitVec.ofNat 64 (32 * n))
      (leBytes 4 kind ++ leBytes 4 req ++ leBytes 8 wher ++ leBytes 8 logged.toNat ++ leBytes 8 found.toNat)
  s.ctxEvent (s.launch l).ctx source 8 die (BitVec.ofNat 64 (n % 2 ^ 32 + kind * 2 ^ 32))

/-- R390: EFENCE and EXIT are checkpoints of the requester's hash. -/
def State.hashCheckpoint (s : State) (g : Nat) : State :=
  let l := s.launchOf g
  let rr := (s.launch l).rr
  if rr.mode = 0 then s
  else
    let q := s.reqOf g
    let (h, j) := Tab.get (0, 0) (s.launch l).hash q
    let s := s.modLaunch l fun x => { x with hash := Tab.put x.hash q (h, j + 1) }
    let a := rr.hashBase + BitVec.ofNat 64 ((q * rr.hcap + j) * 8)
    if rr.hcap ≤ j then s
    else if rr.mode = 1 then s.rrWrite l a (leBytes 8 h.toNat)
    else match s.rrRead l a with
      | some w => if w = h then s else s.diverge l 2 q j w h (sourceOf 0 (coreidOf (s.coreOf g))) (dieOf (s.coreOf g))
      | none => s.record (s.launchRec l .replayBlock distSource 0 a)

/-! ### The order log (R388) and the order gate (R389) -/

/-- The segment of unit u. -/
def RrDesc.segment (d : RrDesc) (u : Nat) : DWord := d.logBase + BitVec.ofNat 64 (u * d.segSize)

/-- Chunk slots of a segment. -/
def RrDesc.slots (d : RrDesc) : Nat := d.segSize / 8 - 1

/-- RECORD: a request is logged as it is applied. -/
def State.logRequest (s : State) (l u req : Nat) : State :=
  let rr := (s.launch l).rr
  let g := Tab.get RrLog.zero (s.launch l).logs u
  if g.stopped then s
  else
    let put (s : State) (g : RrLog) : State := s.modLaunch l fun x => { x with logs := Tab.put x.logs u g }
    let at_ (k : Nat) : DWord := rr.segment u + 8 + BitVec.ofNat 64 (8 * k)
    let chunk (run : Nat) : List Byte := leBytes 8 (req * 2 ^ 32 + run)
    if g.n != 0 && g.last == req && decide (g.run < 65535) then
      put (s.rrWrite l (at_ (g.n - 1)) (chunk (g.run + 1))) { g with run := g.run + 1 }
    else if rr.slots ≤ g.n then put s { g with stopped := true }
    else put (s.rrWrite l (at_ g.n) (chunk 1)) { g with n := g.n + 1, last := req, run := 1 }

/-- The counts of the segments, of every unit, are written when a recorded launch completes (R388). -/
def State.logCounts (s : State) (l : Nat) : State :=
  let x := s.launch l
  if x.rr.mode = 1 then
    (List.range 256).foldl (fun s u =>
      let g := Tab.get RrLog.zero x.logs u
      s.rrWrite l (x.rr.segment u) (leBytes 8 (g.n + if g.stopped then 2 ^ 63 else 0))) s
  else s

/-- The chunks of a unit's segment; or the address that cannot be read. -/
def State.rrChunks (s : State) (l u : Nat) : Except DWord (List DWord) :=
  let rr := (s.launch l).rr
  let rd (a : DWord) : Except DWord DWord := match s.rrRead l a with | some w => .ok w | none => .error a
  match rd (rr.segment u) with
  | .error a => .error a
  | .ok c => (List.range (min rr.slots (c.toNat % 2 ^ 32))).mapM fun k => rd (rr.segment u + 8 + BitVec.ofNat 64 (8 * k))

/-- At a replayed launch's first request to it, a unit reads its segment; one that it cannot read holds no chunk for it (R391). -/
def State.loadGate (s : State) (l u : Nat) : State :=
  let g := Tab.get RrLog.zero (s.launch l).logs u
  if (s.launch l).rr.mode != 2 || g.loaded then s
  else
    let put (s : State) (cs : List DWord) : State := s.modLaunch l fun x => { x with logs := Tab.put x.logs u { g with loaded := true, chunks := cs } }
    match s.rrChunks l u with
    | .ok cs => put s cs
    | .error a => (put s []).record (s.launchRec l .replayBlock distSource 0 a)

/-- R389: no group can take a requester's id again: its team has ended or been terminated. -/
def State.reqEnded (s : State) (l req : Nat) : Bool :=
  s.teams.any fun (_, t) => t.launch == l && t.idx == req / 16 && (t.st == .ended || t.st == .terminated)

/-- What the gate does with a request: it passes, waits, or finds the gate opening with the head chunk as LOGGED. -/
inductive Gate
  | pass
  | hold
  | opens (logged : DWord)
  deriving DecidableEq, Repr

def State.gate (s : State) (l u req : Nat) : Gate :=
  let g := Tab.get RrLog.zero (s.launch l).logs u
  if (s.launch l).rr.mode != 2 || g.stopped then .pass
  else match g.chunks with
    | [] => .opens 0
    | w :: _ =>
      let q := w.toNat / 2 ^ 32
      if w.toNat % 2 ^ 16 = 0 then .opens w
      else if q = req then .pass
      else if s.reqEnded l q then .opens w
      else .hold

/-- The gate opens for the rest of the launch, with its divergence record (R389, R391). -/
def State.openGate (s : State) (l u req : Nat) (logged : DWord) : State :=
  let g := Tab.get RrLog.zero (s.launch l).logs u
  let s := s.modLaunch l fun x => { x with logs := Tab.put x.logs u { g with stopped := true } }
  s.diverge l 1 req u logged 0 (sourceOf 13 u) (u / 64)

/-- A request has passed a closed gate: RUN falls, and at 0 the next chunk becomes the head. A request that stands at the gate when
the last chunk is spent opens it at that moment (R391). -/
def State.spendChunk (s : State) (l u : Nat) : State :=
  let g := Tab.get RrLog.zero (s.launch l).logs u
  if (s.launch l).rr.mode != 2 || g.stopped then s
  else match g.chunks with
    | [] => s
    | w :: ws =>
      let last := decide (w.toNat % 2 ^ 16 ≤ g.run + 1)
      let g' := if last then { g with chunks := ws, run := 0 } else { g with run := g.run + 1 }
      let s := s.modLaunch l fun x => { x with logs := Tab.put x.logs u g' }
      match if last && ws.isEmpty then (Tab.get [] s.units u).find? fun r => r.launch == l else none with
      | some r => s.openGate l u r.req 0
      | none => s

end Sys2Proof.Machine
end

