-- ==== Sys2Proof/Machine/Ends.lean ====
section
/-! DEFINITION. EFENCE and EXIT: what they wait for, the imprecise errors they report, and the end of a group (R113, R191,
R366). -/

namespace Sys2Proof.Machine

/-- Whether an Anvil command accesses memory. -/
def movesTile : Instr → Bool | .tld _ => true | .tst _ => true | _ => false

/-- R113: every access a group has issued has performed, and the commands it issued count as complete. The value of an RRES,
which waits for result words, is none of them. -/
def State.quiet (s : State) (g : Nat) : Bool :=
  let x := s.group g
  x.inflight.isEmpty && x.outAt == 0 && x.outCmd == 0 && (x.anvil.all fun c => !movesTile c.word) &&
    x.pend.all fun p => p.reason != 16 && (p.reason != 17 || p.rres.isSome)

/-- A group reports the imprecise errors it holds in one record and parks (R366). -/
def State.reportHeld (s : State) (g : Nat) (r : Resume) : Option State :=
  match (s.group g).impr with
  | none => none
  | some (c, a, n) =>
    let rec_ := s.groupRec g c { addr := a, flm := (s.group g).flm, aux := BitVec.ofNat 32 (min n (2 ^ 32 - 1)) }
    some ((s.record rec_).modGroup g fun x => { Group.park x c x.flm r with impr := none })

/-- The end of an EFENCE: imprecise errors first, then the L1 copies go, and the group passes it (R113). -/
def State.fenceDone (s : State) (g : Nat) : State :=
  let s := s.l1Drop (s.coreOf g)
  match s.reportHeld g .after with
  | some s => s
  | none => s.modGroup g fun x => { x with thr := x.thr.next 4, sch := { x.sch with wait := none } }

/-- THE END OF A GROUP (R191): lanes end, lock bits and blocks are free, and it withdraws from its barriers. -/
def State.exitDone (s : State) (g : Nat) : State :=
  let s := s.l1Drop (s.coreOf g)
  match s.reportHeld g .exit with
  | some s => s
  | none =>
    let x := s.group g
    ((s.endLanes g x.present).removeGroup g).endTeam x.team

/-- A gone group of which nothing is left to come: an error found after it went is reported in a record of kind I (R38; log
entry 98), and its team may end. -/
def State.layTrail (s : State) (g : Nat) : State :=
  let x := s.group g
  let s := match s.reportHeld g .here with | some s => s | none => s
  ({ s with groups := Tab.del s.groups g }).endTeam x.team

/-- Every gone group of which nothing is left to come. -/
def State.layTrails (s : State) : State :=
  (s.groups.filter fun (_, x) => x.gone && x.inflight.isEmpty && x.outAt == 0 && x.outCmd == 0 && x.pend.isEmpty).foldl (fun s (g, _) => s.layTrail g) s

/-- Whether a group may leave its core: its accesses have performed and its Anvil queue is empty. -/
def State.mayLeave (s : State) (g : Nat) : Bool := s.quiet g && (s.group g).anvil.isEmpty

/-- A group goes for its EXIT: its region commits, with the output headers and thread records of its lanes (R127), and it ends
once nothing is outstanding. -/
def State.startExit (s : State) (g : Nat) : State :=
  let s := ((s.commit g).hashCheckpoint g).modGroup g fun x => { x with blk := none }
  let hs := s.endRecords g (s.group g).present
  let s := s.modGroup g fun x => { x with inflight := x.inflight ++ hs }
  if s.mayLeave g then s.exitDone g else s.park? g .exit

end Sys2Proof.Machine
end

