-- ==== Sys2Proof/Machine/Sync.lean ====
section
/-! DEFINITION. MFENCE (R112, R206), barriers, stage rings, queues, tile control and register allocation in the scalar stream (R22, R23, R45-R48,
R202-R205, R210-R213), and the barrier messages between dies (R400). -/

namespace Sys2Proof.Machine

/-! ### MFENCE (R112) -/

/-- Whether a list holds stores of a path class. -/
def heldOf (p : PathClass) (hs : List Held) : Bool := hs.any fun h => match h with | .store q _ _ _ _ _ => q == p | .tst _ => p == .mx | _ => false

/-- Whether a fence's group waits at it (R112, third row): class X of an earlier commit performs before later accesses of class
Y; a TLD it has issued has read its rows; the result words of its REPLAYs that are decided are there for every path. LS.LS at GRP
asks nothing of a group's own loads, which read its own stores (log entry 24). -/
def State.fenceWaits (s : State) (g : Nat) (x y : PathClass) (sc : Scope) : Bool :=
  !(x == .ls && y == .ls && sc == .grp) && (heldOf x (s.group g).inflight || (x == .mx && tldAhead (s.group g).anvil) ||
    (x == .rp && s.replays.any fun (_, (r : Replay)) => r.g == g && r.threads.any fun (t : RThread) => !t.word.isEmpty))

/-- `MFENCE` (R111, R112): stores of class X that earlier commits handed over perform before later loads, so the fence waits for
them; the marker orders what the region holds; and the L1 copies go where Y is LS. A service thread's accesses are complete
(R328). -/
def execMfence (x y : PathClass) (sc : Scope) (s : State) : Out :=
  s.running fun s =>
    match s.cur with
    | .group g =>
      if s.fenceWaits g x y sc then .next (s.waitFor 31)
      else
        let drop := y == .ls && (x != .ls || !(sc == .grp || sc == .team))
        let s := s.hold g (.fence x y sc)
        .next ((s.modGroup g fun z => { z with l1drop := z.l1drop || drop }).pass 4)
    | _ => .next (s.pass 4)

/-! ### Barriers -/

/-- Whether the scope of a barrier is QUAD or wider (R115). -/
def wideBar (k : Nat) : Bool := k / 16 != 2

/-- Whether a waiting group meets poison: a phase that completed before the barrier was poisoned stays complete (R205, R370). -/
def State.barPoison (s : State) (g k : Nat) : Bool :=
  let x := s.group g
  s.poisoned x.team k && match Tab.look x.arrivals k with | none => true | some p => decide (s.agentPhase x.team k ≤ p)

/-- Whether a group waiting at a barrier may leave: its arrivals have been counted, and the phase of the latest has
completed or is poisoned (R202, R205). -/
def State.barOver (s : State) (g k : Nat) : Bool :=
  let x := s.group g
  let going := x.inflight.any fun h => match h with | .arrive j => j == k | _ => false
  s.barPoison g k ||
    (!going && match Tab.look x.arrivals k with
      | none => true
      | some p => decide (p < s.phaseOf x.team k))

/-- Whether a group leaves BARW or BAR: it may, and the register that takes LAST is full, where no trap comes in its place (R53,
R202: the word writes sD last). -/
def State.barFree (s : State) (g d k : Nat) : Bool := s.barPoison g k || (s.barOver g k && (s.group g).thr.full d)

/-- A group leaves BARW or BAR: LAST, or BARRIER_POISONED (R202, R204, R205, R115). -/
def State.barDone (s : State) (g d k : Nat) : State :=
  let x := s.group g
  if s.barPoison g k then s.trapGroup g .barrierPoisoned {}
  else
    let last := (Tab.look x.arrivals k).isSome && s.isLast g k
    s.modGroup g fun x =>
      { x.recode (sWords d) with
        thr := (x.thr.wr d (if last then 1 else 0)).next 4
        arrivals := Tab.del x.arrivals k
        l1drop := x.l1drop || wideBar k
        sch := { x.sch with wait := none } }

/-- A barrier word of a group: its level is declared (R202). -/
def State.barWord (s : State) (level : Nat) (k : Nat → State → Out) : Out :=
  s.groupOnly fun g => if s.levelOk (s.group g).team level then k g s else .next (s.raise .barrierLevel {})

/-- `BARA` (R202, R205): a group whose earlier arrival is pending waits for its phase first (R203). -/
def execBara (level : BitVec 3) (n : BitVec 4) (s : State) : Out :=
  s.barWord level.toNat fun g s =>
    let k := barKey level.toNat n.toNat
    if s.mayArrive g k then .next ((s.hold g (.arrive k)).pass 4) else .next (s.waitFor 6)

/-- BARW and BAR past their checks: the region commits, and the group waits unless it may leave at once. -/
def State.barWait (s : State) (g d level n : Nat) : Out :=
  let s := s.commit g
  let k := barKey level n
  if s.barFree g d k then .next (s.barDone g d k) else .next (s.park? g (.barrier d level n))

/-- `BARW` (R202). -/
def execBarw (d : SReg) (level : BitVec 3) (n : BitVec 4) (s : State) : Out :=
  s.barWord level.toNat fun g s =>
    if s.poisoned (s.group g).team (barKey level.toNat n.toNat) then .next (s.raise .barrierPoisoned {})
    else s.barWait g d.toNat level.toNat n.toNat

/-- `BAR` (R202): it arrives at its commit; an earlier arrival of the group that is pending holds its own back there (R203). -/
def execBar (d : SReg) (level : BitVec 3) (n : BitVec 4) (s : State) : Out :=
  s.barWord level.toNat fun g s =>
    let k := barKey level.toNat n.toNat
    if s.poisoned (s.group g).team k then .next (s.raise .barrierPoisoned {})
    else (s.hold g (.arrive k)).barWait g d.toNat level.toNat n.toNat

/-- `BARRIER_ARRIVAL` (R400): the agent counts a team's arrival. -/
def execBarrierArrival (n : Nat) (s : State) : Out :=
  match s.arrivals[n]? with
  | none => .next s
  | some m =>
    let s := { s with arrivals := s.arrivals.eraseIdx n }
    let k := xKey m.level m.unit m.n
    let t := s.team (teamKey m.launch m.team)
    let b := (s.launch m.launch).xbar k
    if t.over? || b.poisoned then .next s
    else .next ((s.modLaunch m.launch fun x => { x with xbars := Tab.put x.xbars k { b with arrived := b.arrived ++ [m.team] } }).settleX m.launch m.level m.unit m.n)

/-- `BARRIER_NOTICE` (R400): a core learns of a completed phase, on the core channel of its die (R399). -/
def execBarrierNotice (n : Nat) (s : State) : Out :=
  match s.notices[n]? with
  | none => .next s
  | some m =>
    let t := teamKey m.launch m.team
    let learn (s : State) : Out := .next ({ s with notices := s.notices.eraseIdx n }.modTeam t fun x =>
      let k := barKey m.level m.n
      { x with bars := Tab.put x.bars k ((x.bar k).notice m.phase) })
    if (s.team t).onCore then s.cross (dieOf (s.team t).core) (.notice m) learn else learn s

/-! ### Stage rings (R22, R115, R210) -/

/-- A ring of a group's team. -/
def State.ringOf (s : State) (g k : Nat) : Option Ring := Tab.look (s.team (s.group g).team).rings k

/-- What RINGP waits for besides its slot: the group's writes of classes LS and MX have performed, and its loads have their
values (R115). -/
def Group.published (x : Group) : Bool :=
  x.outAt == 0 && (x.pend.all fun p => p.reason != 16) && !tldAhead x.anvil &&
    x.inflight.all fun h => match h with | .store _ _ _ _ _ _ | .tst _ | .atom _ | .push _ | .shown _ _ => false | _ => true

/-- Whether a ring accepts a group's request. -/
def State.ringOver (s : State) (g : Nat) (producer : Bool) (k : Nat) : Bool :=
  match s.ringOf g k with
  | none => false
  | some r =>
    if producer then (Tab.look r.full r.pcur).isNone && (s.group g).published
    else Tab.look r.full r.ccur == some r.cphase

/-- The ring after an accepted RINGP or RINGG: the cursor's slot, and the cursor with its phase. -/
def Ring.advance (r : Ring) (producer : Bool) : Ring :=
  if producer then
    let e := r.slots ≤ r.pcur + 1
    { r with full := Tab.put r.full r.pcur r.pphase, pcur := if e then 0 else r.pcur + 1, pphase := if e then 1 - r.pphase else r.pphase }
  else
    let e := r.slots ≤ r.ccur + 1
    { r with full := Tab.del r.full r.ccur, ccur := if e then 0 else r.ccur + 1, cphase := if e then 1 - r.cphase else r.cphase }

/-- The ring has accepted the group, which goes on. What a producer's Anvil has written is there for the LS path too: its core's
copies go (R95, R115). -/
def State.ringDone (s : State) (g : Nat) (producer : Bool) (k : Nat) : State :=
  match s.ringOf g k with
  | none => s
  | some r =>
    let s := if producer then s.l1Drop (s.coreOf g) else s
    (s.modTeam (s.group g).team fun t => { t with rings := Tab.put t.rings k (r.advance producer) }).modGroup g fun x =>
      { x with thr := x.thr.next 4, sch := { x.sch with wait := none } }

/-- RINGP and RINGG: the role (R210), the commit, then the ring. -/
def State.ringWord (s : State) (producer : Bool) (k : Nat) : Out :=
  s.groupOnly fun g =>
    match s.ringOf g k with
    | none => .next (s.raise .roleViolation {})
    | some r =>
      if s.roleOf g != (if producer then r.prod else r.cons) then .next (s.raise .roleViolation {})
      else
        let s := s.commit g
        if s.ringOver g producer k then .next (s.ringDone g producer k) else .next (s.park? g (.ring producer k))

/-- `RINGP` (R22). -/
def execRingp (k : BitVec 3) (s : State) : Out := s.ringWord true k.toNat
/-- `RINGG` (R22). -/
def execRingg (k : BitVec 3) (s : State) : Out := s.ringWord false k.toNat

/-! ### Queues (R211) -/

/-- The queues a region will find configured: base and capacity, its own earlier QCFG words included. -/
def State.queueLayout (s : State) (g q : Nat) : Nat × Nat :=
  let r := s.queue g q
  match ((s.group g).reg.qcfg.filter fun (k, _, _) => k == q).getLast? with
  | some (_, b, c) => (b, c)
  | none => (r.base, r.cap)

/-- The checks of R211 on a configuration. -/
def State.qcfgOk (s : State) (g q base cap : Nat) : Bool :=
  base % 4 == 0 && decide (cap ≤ 131072) &&
    (cap == 0 || (decide (base + 4 * cap ≤ (s.team (s.group g).team).size) &&
      (List.range 8).all fun k => k == q || let (b, c) := s.queueLayout g k; c == 0 || !meets base (4 * cap) b (4 * c)))

/-- `QCFG` (R211): held for the commit. -/
def execQcfg (q : BitVec 3) (a : SReg) (cap : Word) (s : State) : Out :=
  s.groupOnly fun g => s.withRegs [a.toNat] [] fun s =>
    let base := (s.thr.rd a.toNat).toNat
    if !s.qcfgOk g q.toNat base cap.toNat then .next (s.raise .queueConfig {})
    else .next ((s.modGroup g fun x => { x with reg := { x.reg with qcfg := x.reg.qcfg ++ [(q.toNat, base, cap.toNat)] } }).pass 8)

/-! ### Tile control (R59, R212) -/

/-- R59: the configurations that STCFG refuses. -/
def tcBad (v : Word) : Bool := v.toNat / 2 ^ 13 % 4 == 3 || (v.toNat / 2 ^ 15 % 8 == 0 && decide (512 < tcCols v * tcWidth v))

/-- `STCFG` (R212): it waits until the tile is full and takes effect at once. -/
def execStcfg (n : BitVec 3) (a : SReg) (s : State) : Out :=
  s.groupOnly fun g => s.withRegs [a.toNat] [] fun s =>
    let v := (s.thr.rd a.toNat).setWidth 32 &&& 0x3FFFF
    if tcBad v then .next (s.raise .tileConfig {})
    else if (s.group g).tl.tempty.getLsbD n.toNat then .next (s.waitFor 31)
    else .next ((s.modGroup g fun x => { x with tl := { x.tl with tc := Tab.set 0 x.tl.tc n.toNat v } }).pass 4)

/-! ### Register allocation (R45-R48, R213) -/

/-- A request joins the arbiter's in the order of R46: cycle, scheduler, group index. -/
def insReq (g b cyc : Nat) : List RegReq → List RegReq
  | [] => [.sgrow g b cyc]
  | .sgrow h c k :: rs =>
    if cyc = k && (g % 4 < h % 4 || (g % 4 == h % 4 && g % 16 < h % 16)) then .sgrow g b cyc :: .sgrow h c k :: rs
    else .sgrow h c k :: insReq g b cyc rs

/-- `SGROW` (R213): a request to the arbiter; the group waits for the grant. -/
def execSgrow (b : BitVec 10) (s : State) : Out :=
  s.groupOnly fun g =>
    if b.toNat ≤ (s.group g).blocks then .next (s.pass 4)
    else
      let s := s.modCore (s.coreOf g) fun c =>
        { c with arb := insReq g b.toNat (s.die (dieOf (s.coreOf g))).cyc (c.arb.filter fun | .sgrow h _ _ => h != g) }
      .next (s.park? g (.sgrow b.toNat))

/-- `SSHRINK` (R213): the release is held for the commit. -/
def execSshrink (b : BitVec 10) (s : State) : Out :=
  s.groupOnly fun g =>
    if (s.group g).blocks ≤ b.toNat then .next (s.pass 4)
    else .next ((s.modGroup g fun x =>
      { x with reg := { x.reg with shrink := some (min b.toNat (x.reg.shrink.getD b.toNat)) } }).pass 4)

/-- `QUARANTINE_RELEASE` (R48): one write into a quarantined block lands; the last frees it. -/
def execQuarantineRelease (core n : Nat) (s : State) : Out :=
  match (s.core core).quar[n]? with
  | none => .next s
  | some (b, w) => s.ticking core fun s =>
    .next (s.modCore core fun c =>
      if w ≤ 1 then { c with quar := c.quar.eraseIdx n, used := c.used - 1 }
      else { c with quar := c.quar.set n (b, w - 1) })

end Sys2Proof.Machine
end

