-- ==== Sys2Proof/Machine/Control.lean ====
section
/-! DEFINITION. Control transfer, traps and stops, EXIT, lane blocks and regions in the scalar stream (R156, R158,
R190-R197, R207, R214, R384), and what a group does when the wait it is in is over (R34, R197). -/

namespace Sys2Proof.Machine

/-! ### Control transfer (R156, R158, R190) -/

/-- `NOP` (R190). -/
def execNop (s : State) : Out := s.running fun s => .next (s.pass 4)

/-- `BR` (R190). -/
def execBr (off : BitVec 22) (s : State) : Out :=
  s.running fun s => .next (s.modThr fun t => t.jump (jTarget t.wordAt off))

/-- The condition of BRC on a register (R158). -/
def SCond.holds (c : SCond) (v : DWord) : Bool :=
  match c with
  | .eq => v.toInt == 0
  | .ne => v.toInt != 0
  | .lt => decide (v.toInt < 0)
  | .ge => decide (0 ≤ v.toInt)
  | .gt => decide (0 < v.toInt)
  | .le => decide (v.toInt ≤ 0)

/-- The condition of BRM on m = mask AND em (R158). -/
def MCond.holds (c : MCond) (m em : Word) : Bool :=
  match c with
  | .none => m == 0
  | .any => m != 0
  | .all => m == em
  | .nall => m != em

/-- The target of an L-format branch (R156). -/
def lTarget (word : DWord) (off : Word) : DWord := (word &&& ~~~7) + 8 * off.signExtend 64

/-- `BRC` (R190). -/
def execBrc (c : SCond) (a : SReg) (off : Word) (s : State) : Out :=
  s.withRegs [a.toNat] [] fun s => .next (s.modThr fun t =>
    if SCond.holds c (t.rd a.toNat) then t.jump (lTarget t.wordAt off) else t.next 8)

/-- `BRM` (R190). -/
def execBrm (c : MCond) (m : MaskOp) (off : Word) (s : State) : Out :=
  s.withRegs (MaskOp.sreg m) [] fun s =>
    let v := s.readMask m &&& s.thr.em
    .next (s.modThr fun t => if MCond.holds c v t.em then t.jump (lTarget t.wordAt off) else t.next 8)

/-- The return address: the next 8-byte unit (R156). -/
def linkOf (word : DWord) : DWord := (word &&& ~~~7) + 8

/-- `CALL` (R190): lk is s63. -/
def execCall (off : BitVec 22) (s : State) : Out :=
  s.withRegs [] [63] fun s => .next (s.modThr fun t => (t.wr 63 (linkOf t.wordAt)).jump (jTarget t.wordAt off))

/-- A transfer to a register's value, which must be 8-byte aligned (R156). -/
def State.toReg (s : State) (target : DWord) (f : Thread → Thread) : Out :=
  if target.toNat % 8 != 0 then .next (s.raise .branchAlign {}) else .next (s.modThr fun t => (f t).jump target)

/-- `CALLR` (R190). -/
def execCallr (a : SReg) (s : State) : Out :=
  s.withRegs [a.toNat] [63] fun s => s.toReg (s.thr.rd a.toNat) fun t => t.wr 63 (linkOf t.wordAt)

/-- `RET` (R190). -/
def execRet (s : State) : Out := s.withRegs [63] [] fun s => s.toReg (s.thr.rd 63) id

/-! ### Traps and breakpoints (R214, R384) -/

/-- `TRAP` (R214). -/
def execTrap (code : BitVec 10) (s : State) : Out :=
  s.running fun s => .next (s.raise .userTrap { aux := code.setWidth 32 })

/-- A group is halted: every point between steps is an instruction boundary (R334). -/
def Group.halt (x : Group) : Group := { x with sch := { x.sch with halted := true } }

/-- Every group of a stopping team, but those that have parked at BRK, halts. -/
def State.haltTeam (s : State) (t : Nat) : State :=
  (s.members t).foldl (fun s (_, g) => if ((s.team t).stop.getD []).contains g then s else s.modGroup g Group.halt) s

/-- R384: a team stop begins, or another of its groups has executed BRK. The other groups of a BRK's team halt as the cycle ends, so
that one of them may execute BRK in the same cycle. -/
def State.beginStop (s : State) (t : Nat) (brk : Option Nat) : State :=
  let s := s.modTeam t fun x => { x with stop := some (x.stop.getD [] ++ brk.toList) }
  if brk.isSome then s else s.haltTeam t

/-- `BRK` (R214): the group parks, and its team stops. -/
def execBrk (code : BitVec 10) (s : State) : Out :=
  s.running fun s =>
    let s' := s.raise .break_ { aux := code.setWidth 32 }
    match s.cur with
    | .group g => .next (s'.beginStop (s.group g).team (some g))
    | _ => .next s'

/-! ### EXIT and EFENCE -/

/-- `EXIT` (R191). A service thread stops. -/
def execExit (s : State) : Out :=
  s.running fun s =>
    match s.cur with
    | .group g => .next (s.startExit g)
    | .svc t => .next (s.setSvc t { s.svc t with stopped := true })
    | .none => .next s

/-- `EFENCE` (R113, R207). A service thread's accesses are complete when they issue (R328). -/
def execEfence (s : State) : Out :=
  s.running fun s =>
    match s.cur with
    | .group g =>
      let s := (s.commit g).hashCheckpoint g
      if s.quiet g then .next (s.fenceDone g) else .next (s.park? g .efence)
    | _ => .next (s.pass 4)

/-! ### Lane blocks (R14, R192) -/

/-- The bytes of a block: virtual address and length. -/
def State.blockAt (s : State) (g k n : Nat) : Nat × Nat := ((s.recOf g).lbase.toNat + 12 * k, 12 * n)

/-- R192: the pages of a block, with the address each is reported at. -/
def State.blockPages (s : State) (g k n : Nat) : List (Nat × DWord × Tr) :=
  let (a, len) := s.blockAt g k n
  s.translateAll g { xl := true } ((pagesOf a len).map fun (p, _) => (32, BitVec.ofNat 64 p))

/-- Opcodes of Bellows commands (R20). -/
def bellowsOpcode (w : Nat) : Bool := w % 512 == 0x110 || w % 512 == 0x111 || w % 512 == 0x112

/-- R20: whether a block of a COPY group holds nothing but Bellows commands. -/
def State.blockCopies (s : State) (g k n : Nat) : Bool :=
  (List.range n).all fun j =>
    match s.translateG g (s.asidOf g) ((s.recOf g).lbase.toNat + 12 * (k + j)) { xl := true } with
    | .ok pa _ => bellowsOpcode (s.rdLe pa 4)
    | _ => true

/-- LRUN past its operands: the checks of R192 in order, then the block. -/
def State.runBlock (s : State) (g : Nat) (e : Bool) (n k : Nat) : Try State :=
  if n = 0 || 1024 < n then .error (s.raise .lrunCount {})
  else if (s.recOf g).llen < k + n then .error (s.raise .laneRange {})
  else
    let ts := s.blockPages g k n
    let missing := ts.filterMap fun (_, a, t) => match t with | .miss => some a | _ => none
    if !missing.isEmpty then .error ((missing.foldl (fun s a => s.askWalk g (s.asidOf g) (vpnOf a.toNat)) s).waitFor 23)
    else if let some (_, a, _) := (failing .addrRange ts).head? then .error (s.raise .addrRange { addr := a })
    else match (failing .pageFault ts ++ failing .poison ts).head?, (failing .execDenied ts).head? with
      | some (_, a, p), _ => .error (s.raise (if p.isSome then .pageFault else .poison) { addr := a, pf := p })
      | none, some (_, a, _) => .error (s.raise .execDenied { addr := a })
      | none, none =>
        if s.roleOf g = 1 && !s.blockCopies g k n then .error (s.raise .roleViolation {})
        else
          let t := s.thr
          .ok ((s.modGroup g fun x => { x with blk := some ⟨k, n, e, t.sregs, t.sempty, t.wordAt⟩ }).pass 8)

/-- `LRUN` (R192). -/
def execLrun (e : Bool) (n : LrunCount) (k : Word) (s : State) : Out :=
  s.groupOnly fun g =>
    match n with
    | .imm m => ofTry (s.runBlock g e (m.toNat + 1) k.toNat)
    | .reg a => s.withRegs [a.toNat] [] fun s => ofTry (s.runBlock g e ((s.thr.rd a.toNat).toNat % 2 ^ 32) k.toNat)

/-! ### Regions (R49, R195, R196) -/

/-- The registers of an entry's bytes; none where R196 refuses it. -/
def regionRegs (bs : List Byte) : Option (List Nat) :=
  let n := field bs 0 1
  let regs := (List.range 16).map fun k => field bs (8 + k) 1
  if field bs 1 7 != 0 || field bs 24 8 != 0 || 16 < n || (regs.take n).any (240 ≤ ·) || (regs.drop n).any (· != 0) then none
  else some (regs.take n)

/-- An entry of the region table, read on the LS path with the traps and waits of its accesses (R104, R195): its registers, or
REGION_TABLE. -/
def State.regionEntry (s : State) (g idx : Nat) : Try (State × List Nat) :=
  let r := s.recOf g
  let a := r.rtBase + BitVec.ofNat 64 (32 * idx)
  if r.rtCount ≤ idx then .error (s.raise .regionTable {})
  else do
    let ps ← s.globalCheck g (accLs false) 32 true [(32, a)]
    if s.loadWaits g 32 ps then .error (s.waitFor 21)
    else
      let s := s.l1Sync g
      match regionRegs (s.coreBytes (s.coreOf g) (s.asidOf g) a.toNat ((ps.headD (0, 0, 0)).2.1) 32) with
      | none => .error (s.raise .regionTable {})
      | some regs => .ok (s, regs)

/-- Every register of a working set is full in every lane (R49). -/
def Group.setFull (x : Group) (regs : List Nat) : Bool :=
  regs.all fun r => (List.range 32).all fun l => !Tab.get false x.f.vempty (vkey r l)

/-- R49: the working set reaches the operand file. -/
def Group.deliver (x : Group) (regs : List Nat) : Group :=
  { x with f := { x.f with w := Tab.setAll 0 x.f.w (regs.zipIdx.flatMap fun (r, j) =>
      (List.range 32).map fun l => (vkey j l, Tab.get 0 x.f.v (vkey r l))) } }

/-- R196 steps 3 and 4: a REGION word opens its region, whose working set is still to be delivered. -/
def Group.openAt (x : Group) (regs : List Nat) : Group :=
  let y := Group.begin x x.thr.pcs true
  { y with reg := { y.reg with waiting := some regs } }

/-- R196 step 5: the group waits until the working set is full, and goes on past the word once it is delivered; its words' codes
are looked at as they are read (R55). -/
def State.regionSet (s : State) (g : Nat) (regs : List Nat) : State :=
  if !(s.group g).setFull regs then s.waitFor 15
  else match (s.group g).mismatch (liveKeys regs 0xFFFFFFFF) with
    | some r => s.meetUpset g r
    | none => s.modGroup g fun x =>
      let y := x.deliver regs
      { y with thr := y.thr.next 8, reg := { y.reg with waiting := none } }

/-- `REGION` (R196): the word tried again in the wait of its step 5 goes on there. -/
def execRegion (idx : Word) (s : State) : Out :=
  s.groupOnly fun g =>
    match (s.group g).reg.waiting with
    | some regs => .next (s.regionSet g regs)
    | none =>
      match (s.commit g).regionEntry g idx.toNat with
      | .error s => .next s
      | .ok (s, regs) =>
        let x := s.group g
        if regs.any fun r => decide (16 * x.blocks ≤ r) then .next (s.raise .regUnalloc { flm := x.thr.em })
        else .next ((s.modGroup g fun x => Group.openAt x regs).regionSet g regs)

/-! ### The end of a wait -/

/-- Whether the wait a group is in is over (R34, R197). A tried-again wait is ended by what it waits for. -/
def State.waitOver (s : State) (g : Nat) : Bool :=
  let x := s.group g
  match x.sch.wait with
  | none => true
  | some (.retry _) => false
  | some (.barrier d l n) => s.barFree g d (barKey l n)
  | some (.ring p k) => s.ringOver g p k
  | some .waitm | some (.yield _) => x.mon.fired || !x.mon.armed
  | some (.sgrow b) => decide (b ≤ x.blocks)
  | some .efence => s.quiet g
  | some .exit => s.mayLeave g

/-- The group at hand goes on past its wait. -/
def State.endWait (s : State) (g : Nat) : State :=
  match (s.group g).sch.wait with
  | none | some (.retry _) => s
  | some (.barrier d l n) => s.barDone g d (barKey l n)
  | some (.ring p k) => s.ringDone g p k
  | some .waitm => (s.disarm.pass 4).modGroup g fun x => { x with sch := { x.sch with wait := none } }
  | some (.yield c) => (s.disarm.modThr fun t => t.jump c).modGroup g fun x => { x with sch := { x.sch with wait := none } }
  | some (.sgrow _) => (s.pass 4).modGroup g fun x => { x with sch := { x.sch with wait := none } }
  | some .efence => s.fenceDone g
  | some .exit => s.exitDone g

end Sys2Proof.Machine
end

