-- ==== Sys2Proof/Machine/Image.lean ====
section
/-! DEFINITION. Saved images (R62, R373, R374): the header, and the four kinds of sections. What a section holds is the spec's, how
its bytes hold it is not: an uninterpreted layout lays a section's contents out over the bytes of its size bound, and an
uninterpreted reading takes them from the bytes of an image that this machine did not write (log entry 32). -/

namespace Sys2Proof.Machine

/-- What the image of a team holds of it in its team section (R374): everything but where it stood. -/
def Team.saved (x : Team) : Team := { x with core := 0, base := 0, st := .saved, groups := [], spad := [], image := none }

/-- What the image holds of a group in its group section: w and z registers are not saved, and its lanes have their own sections
(R62, R374). -/
def Group.saved (x : Group) : Group := { x with f := { x.f with w := [], z := [], zp := [] }, lanes := [], walks := [], pend := [] }

end Sys2Proof.Machine

namespace Sys2Proof.Config

/-- FREE VALUE: byte `i` of the layout of a team section (R374; log entry 32). -/
opaque teamByte (x : Machine.Team) (i : Nat) : Byte
/-- FREE VALUE: byte `i` of the layout of a group section. -/
opaque groupByte (x : Machine.Group) (i : Nat) : Byte
/-- FREE VALUE: byte `i` of the layout of a lane section: the lane's state, and its exited bit. -/
opaque laneByte (x : Machine.Lane) (exited : Bool) (i : Nat) : Byte
/-- FREE VALUE: what the bytes of a team section that this machine did not write say. -/
opaque readTeam (bs : List Byte) : Option Machine.Team
/-- FREE VALUE: what the bytes of such a group section say. -/
opaque readGroup (bs : List Byte) : Option Machine.Group
/-- FREE VALUE: what the bytes of such a lane section say. -/
opaque readLane (bs : List Byte) : Option (Machine.Lane × Bool)

end Sys2Proof.Config

namespace Sys2Proof.Machine

/-! ### Sizes -/

/-- A length rounded up to 64 bytes. -/
def pad64 (n : Nat) : Nat := (n + 63) / 64 * 64

/-- Bytes of a section whose content takes `n` bytes. -/
def sectionSize (n : Nat) : Nat := pad64 (8 + n)

/-- The size bounds of R374, which the sections take (log entry 32). -/
def teamBytes : Nat := 65536
def groupBytes (blocks : Nat) : Nat := 98304 + blocks * 2112
def laneBytes (cap : Nat) : Nat := 256 + 4 * min 4094 cap

/-- Bytes of an image: header, team, scratchpad, groups with their blocks, 32 lanes each. -/
def imageSize (spad : Nat) (blocks : List Nat) (cap : Nat) : Nat :=
  64 + sectionSize teamBytes + sectionSize spad + (blocks.map fun b => sectionSize (groupBytes b)).sum +
    32 * blocks.length * sectionSize (laneBytes cap)

/-- The size of a team's image. -/
def State.imageLen (s : State) (t : Nat) : Nat :=
  let x := s.team t
  imageSize x.size (x.groups.map fun (_, g) => (s.group g).blocks) (s.launch x.launch).lr.cap

/-! ### An image -/

/-- A section: its length, its content, and zeros up to a multiple of 64 bytes. -/
def section_ (content : List Byte) : List Byte :=
  let n := content.length
  leBytes 8 n ++ content ++ List.replicate (sectionSize n - 8 - n) 0

/-- The content of a group's section and of those of its lanes. -/
def groupContent (x : Group) : List Byte := (List.range (groupBytes x.blocks)).map (Config.groupByte x.saved)
def laneContent (cap : Nat) (x : Group) (l : Nat) : List Byte :=
  (List.range (laneBytes cap)).map (Config.laneByte (Tab.get Lane.zero x.lanes l) (x.xm.getLsbD l))

/-- The contents of a team's sections, in the order of R374. -/
def State.contents (s : State) (t : Nat) : List (List Byte) :=
  let x := s.team t
  let gs := x.groups.map fun (_, g) => s.group g
  [(List.range teamBytes).map (Config.teamByte x.saved), takeBytes x.spad 0 x.size] ++ gs.map groupContent ++
    gs.flatMap fun y => (List.range 32).map (laneContent (s.launch x.launch).lr.cap y)

/-- The header of R373. -/
def State.imageHeader (s : State) (t : Nat) : List Byte :=
  let x := s.team t
  leBytes 4 1 ++ leBytes 4 (s.launch x.launch).lr.id.toNat ++ leBytes 4 x.idx ++ leBytes 1 x.groups.length ++ leBytes 3 0 ++
    leBytes 8 (s.imageLen t) ++ leBytes 8 0 ++ leBytes 32 (s.ctl.feature.getD 0).toNat

/-- The whole image of a team. -/
def State.imageOf (s : State) (t : Nat) : List Byte := s.imageHeader t ++ (s.contents t).flatMap section_

/-! ### Reading an image -/

/-- The contents of `n` sections, each of the length that stands before it. -/
def cutSections : Nat → List Byte → List (List Byte)
  | 0, _ => []
  | n + 1, bs =>
    let k := ofLeBytes (bs.take 8)
    (bs.drop 8).take k :: cutSections n (bs.drop (sectionSize k))

/-- The lanes of a group, read from their sections: with their exited bits. -/
def readLanes (secs : List (List Byte)) : List (Lane × Bool) := secs.map fun bs => (Config.readLane bs).getD (Lane.zero, false)

/-- A group of a team, read from its section and those of its lanes. -/
def readGroupOf (t i : Nat) (g : List Byte) (ls : List (List Byte)) : Group :=
  let x := ((Config.readGroup g).getD Group.zero).saved
  let ys := readLanes ls
  { x with
    team := t, gidx := i, gone := false
    lanes := ys.zipIdx.map fun ((y, _), k) => (k, y)
    xm := BitVec.ofNat 32 ((ys.zipIdx.map fun ((_, e), k) => if e then 2 ^ k else 0).sum) }

/-- A team takes what the contents of an image's sections say (R334): what it was exported with, where they are as this machine wrote
them, and otherwise what they read as. It waits for a core, as one saved. -/
def State.restore (s : State) (t l idx stage k : Nat) (secs : List (List Byte)) : State :=
  let kept := (s.team t).st == .exported && secs.eraseIdx 1 == (s.contents t).eraseIdx 1
  let s :=
    if kept then s
    else
      let y := (Config.readTeam (secs.headD [])).getD Team.zero
      let s := s.setTeam t
        { y.saved with
          launch := l, idx := idx, size := 4096 * (s.launch l).lr.spad, stage2 := stage, started := true
          groups := (List.range k).map fun i => (i, groupKey t i) }
      (List.range k).foldl (fun s i =>
        s.setGroup (groupKey t i) (readGroupOf t i (secs.getD (2 + i) []) ((secs.drop (2 + k + 32 * i)).take 32))) s
  s.modTeam t fun y => { y with st := .saved, spad := putBytes [] 0 ((secs.getD 1 []).take y.size) }

end Sys2Proof.Machine
end

