-- ==== Sys2Proof/Machine/Launch.lean ====
section
/-! DEFINITION. Launches: the record and its checks (R336-R340), queue entries and dispatch (R341-R346, R350), placement
(R347-R349), completion (R345) and Quench (R251, R339). -/

namespace Sys2Proof.Machine

/-! ### The device's own accesses to virtual memory -/

/-- Physical pieces of a virtual range on a path; none where a page does not allow the access, or a line it reads, or that Dusk
writes, has an uncorrectable error (R104). -/
def State.vRange (s : State) (asid path : Nat) (write : Bool) (va : DWord) (n : Nat) : Option (List (Nat × Nat)) :=
  (pagesOf va.toNat n).mapM fun (a, k) =>
    if a / 2 ^ 58 != 0 then none
    else match s.translate asid a { write := write, path := some path } with
      | .ok pa _ => if (!write || path == 5) && s.isBad pa k then none else some (pa, k)
      | _ => none

/-- Whether a virtual range lies behind a link that retrains, which holds its accesses (R409). -/
def State.vHolds (s : State) (asid : Nat) (va : DWord) (n : Nat) : Bool :=
  (pagesOf va.toNat n).any fun (a, k) => match s.translate asid a {} with | .ok pa _ => s.linkHolds pa k | _ => false

/-- Bytes of lane code, read as an instruction fetch reads them; none where one cannot. -/
def State.vCode (s : State) (asid : Nat) (va : DWord) (n : Nat) : Option (List Byte) :=
  ((pagesOf va.toNat n).mapM fun (a, k) =>
    if a / 2 ^ 58 != 0 then none
    else match s.translate asid a { xl := true } with
      | .ok pa _ => if s.isBad pa k then none else some (pa, k)
      | _ => none).map s.rdPieces

def State.vRead (s : State) (asid path : Nat) (va : DWord) (n : Nat) : Option (List Byte) :=
  (s.vRange asid path false va n).map s.rdPieces

def State.vWrite (s : State) (asid path : Nat) (va : DWord) (bs : List Byte) : Option State :=
  (s.vRange asid path true va bs.length).map fun ps => s.wrPieces ps bs

/-- Clean copies of lines leave every core's L1. -/
def State.dropCopies (s : State) (ps : List (Nat × Nat)) : State :=
  { s with cores := s.cores.map fun (k, (c : Core)) =>
      (k, { c with l1 := c.l1.filter fun (x : L1Line) => !ps.any fun (a, n) => a / 128 ≤ x.pl && x.pl ≤ (a + n - 1) / 128 }) }

/-- A write that is performed at PKG for the LS path: no core keeps a copy from before it (R131, R349). -/
def State.vWriteAll (s : State) (asid path : Nat) (va : DWord) (bs : List Byte) : Option State :=
  (s.vRange asid path true va bs.length).map fun ps => (s.wrPieces ps bs).dropCopies ps

/-- A write of the device that a page may not allow; it is then dropped. -/
def State.vPut (s : State) (asid : Nat) (va : DWord) (bs : List Byte) : State := (s.vWrite asid 0 va bs).getD s

/-! ### The launch record (R336, R337) -/

/-- The 256 bytes of a record. -/
def parseLRec (bs : List Byte) : LRec :=
  let d (o : Nat) : DWord := BitVec.ofNat 64 (field bs o 8)
  let w (o : Nat) : Word := BitVec.ofNat 32 (field bs o 4)
  { id := w 0, flags := w 4, seed := d 8, sbase := d 16, slen := field bs 24 4, llen := field bs 28 4, lbase := d 32, entry := d 40,
    teams := field bs 48 4, tgrps := field bs 52 1, blocks := field bs 53 1, spad := field bs 54 1, nlev := field bs 55 1,
    levels := (List.range 5).map fun k => w (56 + 4 * k), roles := w 76,
    rings := (List.range 8).map fun k => (field bs (80 + 2 * k) 1, field bs (81 + 2 * k) 1),
    args := d 96, stack := d 104, stackSz := field bs 112 4, rtCount := field bs 116 4, rtBase := d 120, ftBase := d 128,
    ftCount := field bs 136 4, csCount := field bs 140 4, csBase := d 144, sched := d 152, rwBase := d 160, rwCount := field bs 168 4,
    cap := field bs 172 4, ivBase := d 176, ovBase := d 184, recBase := d 192, detBase := d 200, detWords := field bs 208 4,
    present := w 212, psBase := d 216, splitBase := d 224, drawExt := d 232 }

/-- FLAGS (R336). -/
def LRec.split (r : LRec) : Bool := r.flags.getLsbD 1
def LRec.tiles (r : LRec) : Bool := r.flags.getLsbD 3

/-- The domain of a present level; 0 for an absent one. -/
def LRec.dom (r : LRec) (k : Nat) : Nat := (r.levels.getD (k - 3) 0).toNat % 4
def LRec.fanout (r : LRec) (k : Nat) : Nat := (r.levels.getD (k - 3) 0).toNat / 256

/-- R13, R337: one level word of the levels L3 to Lh. -/
def LRec.levelWordOk (r : LRec) (h k : Nat) : Bool :=
  let w := (r.levels.getD (k - 3) 0).toNat
  let scope := w / 4 % 8
  if h < k then w == 0
  else
    w / 32 % 8 == 0 && (r.dom k != 0) && (r.fanout k == 0) == (k == h) && (k == 3 || decide (r.dom (k - 1) ≤ r.dom k)) &&
      (match r.dom k with | 1 => scope == 2 | 2 => scope == 3 | _ => scope == 4 || scope == 5)

/-- R12, R13, R337: the levels of a record. -/
def LRec.levelsOk (r : LRec) : Bool :=
  2 ≤ r.nlev && r.nlev ≤ 8 &&
    if r.nlev ≤ 3 then r.levels.all (· == 0)
    else
      let h := r.nlev - 1
      ([3, 4, 5, 6, 7].all (r.levelWordOk h)) && r.teams % max 1 (r.unitTeams (h - 1)) == 0

/-- R336: a ring word. -/
def ringOk (p : Nat × Nat) : Bool := (p.1 == 0 || (2 ≤ p.1 && p.1 ≤ 16)) && p.2 / 16 == 0

/-- R338: NCOPY + NMATRIX + NVECTOR. -/
def LRec.roleSum (r : LRec) : Nat := r.roles.toNat % 256 + r.roles.toNat / 2 ^ 8 % 256 + r.roles.toNat / 2 ^ 16 % 256

/-- R336, R338: the record alone; `draw` for a draw. -/
def LRec.ok (r : LRec) (draw : Bool) : Bool :=
  r.flags.toNat / 2 ^ 8 == 0 && r.drawMode != 3 && r.flags.toNat / 64 % 4 != 3 &&
  r.sbase.toNat % 8 == 0 && r.slen % 4 == 0 && r.lbase.toNat % 16 == 0 && r.entry.toNat % 8 == 0 &&
  decide (r.sbase.toNat ≤ r.entry.toNat) && decide (r.entry.toNat < r.sbase.toNat + r.slen) &&
  1 ≤ r.teams && 1 ≤ r.tgrps && r.tgrps ≤ 16 && 1 ≤ r.blocks && r.blocks ≤ 15 && r.spad ≤ 128 && r.levelsOk &&
  r.roles.toNat / 2 ^ 24 == 0 && r.roleSum ≤ r.tgrps && r.rings.all ringOk && r.stack.toNat % 16 == 0 && r.stackSz % 16 == 0 &&
  r.rtBase.toNat % 32 == 0 && r.ftBase.toNat % 32 == 0 && r.csBase.toNat % 32 == 0 && r.sched.toNat % 8 == 0 &&
  r.rwBase.toNat % 2 ^ 20 == 0 && r.rwCount ≤ 4096 && r.cap < 2 ^ 16 &&
  (r.cap == 0 || (r.ovBase != 0 && r.recBase != 0 && r.ovBase.toNat % 8 == 0 && r.recBase.toNat % 8 == 0 && r.ivBase.toNat % 8 == 0)) &&
  r.detBase.toNat % 4 == 0 && r.detWords ≤ 2 ^ 24 && r.psBase.toNat % 64 == 0 && r.splitBase.toNat % 16 == 0 &&
  r.drawExt.toNat % 64 == 0 && !(r.det && r.detWords != 0 && r.psBase == 0) && !(r.split && r.splitBase == 0) &&
  r.teams * r.tgrps * 32 ≤ (if draw then 2 ^ 31 else 2 ^ 32)

/-! ### The draw extension (R340) -/

def parseExt (bs : List Byte) : DExt :=
  let d (o : Nat) : DWord := BitVec.ofNat 64 (field bs o 8)
  ⟨d 0, d 8, d 16, d 24, field bs 32 2, field bs 34 2, field bs 36 1, field bs 37 1, field bs 40 4, d 48⟩

def extOk (bs : List Byte) : Bool :=
  let e := parseExt bs
  1 ≤ e.maxV && e.maxV ≤ 256 && 1 ≤ e.maxP && e.maxP ≤ 256 && 1 ≤ e.attrW && e.attrW ≤ 64 && e.cull ≤ 2 &&
    field bs 38 2 == 0 && e.area < 2 ^ 20 && field bs 44 4 == 0 && e.visBase.toNat % 8 == 0 && field bs 56 8 == 0

/-! ### The copy schedule (R100) -/

def sentryOk (bs : List Byte) : Bool :=
  let e := parseSEntry bs
  field bs 61 1 < 8 && field bs 62 2 == 0 && e.rowbytes != 0 && e.rowbytes % 4 == 0 && e.rows != 0 &&
    [e.saddr, e.daddr, e.tstride, e.isaddr, e.idaddr, e.srow, e.drow].all (fun a => a.toNat % 4 == 0) &&
    e.stampa.toNat % 8 == 0 && (e.stspad || e.tstride.toNat % 8 == 0)

/-- R100: the schedule of a record can be read and breaks no rule. -/
def State.schedOk (s : State) (asid : Nat) (r : LRec) : Bool :=
  r.sched == 0 ||
    match s.vRead asid 0 r.sched 8 with
    | none => false
    | some h => field h 0 1 ≤ 64 && field h 2 6 == 0 &&
      (List.range (field h 0 1)).all fun e =>
        match s.vRead asid 0 (r.sched + 8 + BitVec.ofNat 64 (64 * e)) 64 with | some bs => sentryOk bs | none => false

/-! ### Checks at submission (R338) -/

/-- The accepted word has a capability (R413). -/
def State.capable (s : State) (bit : Nat) : Bool := match s.ctl.feature with | some f => f.getLsbD bit | none => false

/-- Capabilities that a word of lane code needs (R413): VER = 0, sparse TMMAS, X4 and E2M1, RTRACE, REPLAY and RRES, CPYNET,
CPYRED. -/
def laneNeeds (w : LaneRaw) : List Nat :=
  let opc := w.opc.toNat
  let f := w.fmt.toNat
  (if w.ver == 0 then [1] else []) ++ (if opc = 0x104 then [2] else []) ++
    (if f = 5 || f = 16 || (opc = 0x040 && w.xf.toNat % 32 == 5) then [3] else []) ++ (if opc = 0x118 then [8] else []) ++
    (if opc = 0x120 || opc = 0x121 then [9] else []) ++ (if opc = 0x112 then [11] else []) ++ (if opc = 0x111 then [15] else [])

/-- The capabilities that lane code may need. -/
def codeCaps : List Nat := [1, 2, 3, 8, 9, 11, 15]

/-- Whether word `k` of a record's lane section, which LLEN counts in words (R336), needs nothing that was not accepted; what
cannot be fetched or is no word needs nothing. -/
def State.wordCapsOk (s : State) (asid : Nat) (r : LRec) (k : Nat) : Bool :=
  match s.vCode asid (r.lbase + BitVec.ofNat 64 (12 * k)) 12 with
  | some bs =>
    let w : BitVec 96 := BitVec.ofNat 96 (ofLeBytes bs)
    match decodeLane w with
    | .ok _ => (laneNeeds (unpackL w)).all s.capable
    | .error _ => true
  | none => true

/-- Capabilities a record, its queue and its lane code show (R1, R413; log entry 31). -/
def State.capsOk (s : State) (asid : Nat) (r : LRec) (rr : RrDesc) (frame render : Bool) : Bool :=
  s.capable 0 && (!r.det || s.capable 4) && (rr.mode == 0 || s.capable 5) && (!frame || s.capable 6) && (!r.split || s.capable 7) &&
    (!render || s.capable 10) && (codeCaps.all s.capable || (List.range r.llen).all (s.wordCapsOk asid r))

/-- TILES and ITERS of the split table (R349). -/
def State.splitHead (s : State) (asid : Nat) (r : LRec) : Option (Nat × Nat) :=
  (s.vRead asid 0 r.splitBase 8).map fun bs => (field bs 0 4, field bs 4 4)

/-- R338, R349, R353, R387: everything about a record but its queue: `part` the virtual function's partition, `tail`
the reserved bytes, `ext` the draw extension's bytes. -/
def State.recordOk (s : State) (asid part : Nat) (rr : RrDesc) (r : LRec) (tail : Nat) (ext : Option (List Byte)) : Bool :=
  let draw := r.drawExt != 0
  r.ok draw && tail == 0 && pteBit (s.asidEntry asid) 4 && s.partOfAsid asid == part && s.schedOk asid r &&
    (r.args == 0 || (s.vRead asid 0 r.args 488).isSome) &&
    (!draw || (match ext with | some e => extOk e | none => false)) &&
    (!r.split || (match s.splitHead asid r with | some (t, i) => t != 0 && i != 0 | none => false)) &&
    (rr.mode == 0 || r.teams + (if draw then 288 else 0) ≤ 2 ^ 28)

/-! ### Completion stamps (R345) -/

/-- The value of a stamp. -/
def stampValue (donev : DWord) (level : Nat) (late fail : Bool) : DWord :=
  donev ||| BitVec.ofNat 64 (level * 2 ^ 56) ||| (if late then 0x4000000000000000 else 0) ||| (if fail then 0x8000000000000000 else 0)

/-- Write a launch's stamp; a page that cannot be written keeps its word. -/
def State.writeStamp (s : State) (l : Nat) : State :=
  let x := s.launch l
  if x.doneA = 0 then s
  else
    let late := x.deadline != 0 && decide (x.deadline.toNat < s.time 0)
    let v := stampValue x.doneV x.level late (x.rejected || x.failed)
    match s.translate (s.asidL l) x.doneA.toNat { write := true } with
    | .ok pa _ => s.wrLe pa 8 v.toNat
    | _ => s

/-- SOURCE of the distributor (R364). -/
def distributor : Nat := sourceOf 5 0

/-! ### Before the teams of a launch start (R339, R349) -/

/-- The partial-sum slots are zero. -/
def State.zeroSlots (s : State) (asid : Nat) (r : LRec) : State :=
  if r.det && r.detWords != 0 then s.vPut asid r.psBase (List.replicate (r.teams * r.detWords * 64) 0) else s

/-- R349: the first iteration of team r, of `i` in all. -/
def splitAt (i teams r : Nat) : Nat := r * i / teams

/-- R349: whether no single team holds all iterations of tile j. -/
def needsFix (i iters teams j : Nat) : Bool :=
  !(List.range teams).any fun r => splitAt i teams r ≤ j * iters && (j + 1) * iters ≤ splitAt i teams (r + 1)

/-- The split table, performed at PKG for the LS path (R349). -/
def State.writeSplit (s : State) (asid : Nat) (r : LRec) : State :=
  if !r.split then s
  else match s.splitHead asid r with
  | none => s
  | some (tiles, iters) =>
    let i := tiles * iters
    let rows := (List.range r.teams).flatMap fun k => leBytes 8 (splitAt i r.teams k) ++ leBytes 8 (splitAt i r.teams (k + 1))
    let fix := (List.range tiles).flatMap fun j => leBytes 1 (if needsFix i iters r.teams j then 1 else 0)
    (s.vWriteAll asid 0 (r.splitBase + 16) (rows ++ fix)).getD s

/-! ### Dispatch (R341, R343, R344, R350) -/

def State.queueOf (s : State) (c q : Nat) : Queue := Tab.get Queue.zero (s.ctx c).queues q
def State.setQueue (s : State) (c q : Nat) (x : Queue) : State := s.setCtx c { s.ctx c with queues := Tab.put (s.ctx c).queues q x }

/-- R376, R377: a context's queues dispatch and its teams are placed only while it is its virtual function's active one. -/
def State.ctxActive (s : State) (c : Nat) : Bool :=
  let v := s.vf (s.ctx c).vf
  v.active == some c && v.switching.isNone

/-- Whether a team waits for a core: it has never run, or has been requeued (R371). -/
def State.placeable (s : State) (l i : Nat) : Bool :=
  match Tab.look s.teams (teamKey l i) with | some (t : Team) => t.st == .queued || t.st == .saved | none => true

/-- Teams of a launch that wait for a core, in placement order: requeued ones first (R372). -/
def State.waitingTeams (s : State) (l : Nat) : List Nat :=
  let x := s.launch l
  (x.requeued ++ (List.range x.lr.teams).drop x.nextTeam).filter (s.placeable l)

/-- Whether a team of a launch has never been placed (R344). -/
def State.unplaced (s : State) (l : Nat) : Bool :=
  let x := s.launch l
  ((List.range x.lr.teams).drop x.nextTeam).any fun i => (Tab.look s.teams (teamKey l i)).isNone

/-- HEAD of a queue moves on, in its descriptor too. -/
def State.advanceHead (s : State) (c q : Nat) : State :=
  let x := s.queueOf c q
  let h := (x.head + 1) % max 1 x.size
  let s := s.setQueue c q { x with head := h, reached := false }
  match s.ctxPa c ((s.ctx c).qtBase + BitVec.ofNat 64 (64 * q + 16)) true with
  | some pa => s.wrLe pa 4 h
  | none => s

/-- R343: the entry's layout. -/
def entryOk (frame : Bool) (bs : List Byte) : Bool :=
  field bs 8 8 % 8 == 0 && field bs 24 8 % 8 == 0 && field bs 39 1 == 0 && field bs 58 6 == 0 &&
    if frame then 1 ≤ field bs 56 1 && field bs 56 1 ≤ 4 && field bs 57 1 < 64
    else field bs 56 1 == 1 && field bs 57 1 == 0

/-- R350: the estimate of a slot and level. -/
def Queue.estimate (x : Queue) (slot k : Nat) : Nat :=
  let ds := Tab.get [] x.est (slot * 4 + k)
  if ds.isEmpty then 0 else ds.sum / ds.length

/-- R350: the level a frame entry runs at. -/
def Queue.level (x : Queue) (bs : List Byte) (t : Nat) : Nat :=
  let dl := field bs 40 8
  let n := field bs 56 1
  if !x.frame || dl == 0 then 0
  else if dl ≤ t then n - 1
  else ((List.range n).find? fun k => decide (x.estimate (field bs 57 1) k ≤ dl - t)).getD (n - 1)

/-- The launch an entry makes: its record's bytes, where it can be read. -/
def State.entryRecord (s : State) (c : Nat) (level : Nat) (bs : List Byte) : Option (List Byte) :=
  let asid := (s.ctx c).asid
  let a : Option DWord :=
    if level = 0 then some (BitVec.ofNat 64 (field bs 0 8))
    else (s.vRead asid 0 (BitVec.ofNat 64 (field bs 48 8 + 8 * (level - 1))) 8).map fun w => BitVec.ofNat 64 (ofLeBytes w)
  match a with
  | some a => if a.toNat % 64 != 0 then none else s.vRead asid 0 a 256
  | none => none

/-- A launch joins the device's list under the next sequence number (R341). -/
def State.addLaunch (s : State) (x : Launch) : State := { s with launches := Tab.put s.launches s.nextSeq x, nextSeq := s.nextSeq + 1 }

/-- A rejected launch (R338, R345): its stamp, and a record of cause LAUNCH_INVALID by the unit that submitted it: the
distributor, or Dusk for a relaunch (log entry 28). -/
def State.rejectLaunch (s : State) (x : Launch) (source : Nat) : State :=
  let l := s.nextSeq
  let s := (s.addLaunch { x with rejected := true, failed := true, done := true }).writeStamp l
  s.record (s.launchRec l .launchInvalid source 0xFF 0)

/-- An entry is dispatched: the record is checked, and its launch waits for placement or is rejected. -/
def State.dispatch (s : State) (c q : Nat) (bs : List Byte) : State :=
  let x := s.queueOf c q
  let ctx := s.ctx c
  let t := s.time 0
  let level := x.level bs t
  let base : Launch := { Launch.zero with
    ctx := c, queue := q, doneA := BitVec.ofNat 64 (field bs 24 8), doneV := BitVec.ofNat 64 (field bs 32 8),
    deadline := if x.frame then BitVec.ofNat 64 (field bs 40 8) else 0, eslot := field bs 57 1, level := level, t0 := t, rr := ctx.rr }
  let s := s.advanceHead c q
  match (if entryOk x.frame bs then s.entryRecord c level bs else none) with
  | none => s.rejectLaunch base distributor
  | some rb =>
    let r := parseLRec rb
    let ext := if r.drawExt = 0 then none else s.vRead ctx.asid 0 r.drawExt 64
    let y : Launch := { base with lr := r, ext := if r.drawExt = 0 then none else ext.map parseExt }
    if !s.recordOk ctx.asid (s.vf ctx.vf).part ctx.rr r (field rb 240 16) ext || (r.drawExt != 0 && !x.render) || !s.capsOk ctx.asid r ctx.rr x.frame x.render then
      s.rejectLaunch y distributor
    else
      let l := s.nextSeq
      let y := { y with quenched := !(r.det && r.detWords != 0) }
      let s := ((s.addLaunch y).zeroSlots ctx.asid r).writeSplit ctx.asid r
      let z := s.queueOf c q
      s.setQueue c q { z with last := some l, area := match y.ext with | some e => e.area | none => z.area }

/-- The wait of an entry is over (R344): WAITA is 0, or its N64 is at least WAITV. -/
def State.entryReady (s : State) (c : Nat) (bs : List Byte) : Bool :=
  let a := field bs 8 8
  a == 0 || a % 8 != 0 || match s.translate (s.ctx c).asid a {} with
    | .ok pa _ => decide (field bs 16 8 ≤ s.rdLe pa 8)
    | _ => false

/-- Whether a queue may take its next entry (R344). -/
def State.queueFree (s : State) (c q : Nat) : Bool :=
  let x := s.queueOf c q
  x.valid && x.head != x.tail && s.ctl.feature.isSome && s.ctxActive c &&
    match x.last with | some l => (s.launch l).done || !s.unplaced l | none => true

/-- The bytes of the entry at HEAD. -/
def State.headEntry (s : State) (c q : Nat) : Option (List Byte) :=
  let x := s.queueOf c q
  s.vRead (s.ctx c).asid 0 (x.base + BitVec.ofNat 64 (64 * x.head)) 64

/-- The device watches WAITA of the entry at each HEAD as a monitor watches (R99, R344): what has been reached stays reached. -/
def State.watchQueues (s : State) : State :=
  s.ctxs.foldl (fun s (c, x) => x.queues.foldl (fun s (q, (y : Queue)) =>
    if y.valid && y.head != y.tail && !y.reached then
      match s.headEntry c q with
      | some bs => if s.entryReady c bs then s.setQueue c q { s.queueOf c q with reached := true } else s
      | none => s
    else s) s) s

/-- `QUEUE_DISPATCH` (R344): an entry that cannot be read is rejected like one that breaks its layout. -/
def execQueueDispatch (c q : Nat) (s : State) : Out :=
  if !s.queueFree c q then .next s
  else match s.headEntry c q with
    | none => .next (s.dispatch c q [])
    | some bs => if (s.queueOf c q).reached || s.entryReady c bs then .next (s.dispatch c q bs) else .next s

/-! ### Groups as they start (R17, R26, R43, R45, R54, R58) -/

/-- The 61 values of an argument block; zero where there is none. -/
def State.argRegs (s : State) (asid : Nat) (a : DWord) : Tab DWord :=
  if a = 0 then []
  else match s.vRead asid 0 a 488 with
    | some bs => Tab.setAll 0 [] ((List.range 61).map fun k => (k + 1, BitVec.ofNat 64 (field bs (8 * k) 8)))
    | none => []

/-- sp of a group (R336). -/
def LRec.spOf (r : LRec) (idx gidx : Nat) : DWord := r.stack + BitVec.ofNat 64 ((idx * 16 + gidx + 1) * r.stackSz)

/-- A group as it starts: entry point, present lanes, budget, scalar arguments, lanes. -/
def State.newGroup (s : State) (t gidx : Nat) (pc : DWord) (em : Word) (blocks : Nat) (args : Tab DWord) (lanes : Tab Lane) : Group :=
  let x := s.team t
  let r := (s.launch x.launch).lr
  { Group.zero with
    team := t
    gidx := gidx
    thr := { Thread.zero with pcs := pc, sregs := Tab.set 0 args 62 (r.spOf x.idx gidx), em := em }
    xm := ~~~em
    blocks := blocks
    lanes := lanes
    sch := { Sched.zero with since := (s.die (dieOf x.core)).cyc } }

/-- A group joins its team and takes its blocks. -/
def State.addGroup (s : State) (t : Nat) (x : Group) : State :=
  let g := groupKey t x.gidx
  let s := s.setGroup g x
  let s := s.modTeam t fun y => { y with groups := Tab.put y.groups x.gidx g }
  s.modCore (s.team t).core fun c => { c with used := c.used + x.blocks }

/-- PRESENT of a record. -/
def LRec.presentMask (r : LRec) : Word := if r.present = 0 then 0xFFFFFFFF else r.present

/-- The lanes of a group of a launched team (R11, R127). -/
def LRec.lanesAt (r : LRec) (idx gidx : Nat) (entry : DWord) : Tab Lane :=
  (List.range 32).map fun k => (k, { Lane.zero with glid := BitVec.ofNat 32 ((idx * r.tgrps + gidx) * 32 + k), entry := entry })

/-! ### Placement (R347, R348) -/

/-- Cores of a partition in ascending coreid. -/
def State.coresOf (s : State) (p : Nat) : List Nat := (List.range 288).filter fun k => (s.part p).quads.contains (quadOf k)

/-- The partition of a launch. -/
def State.partOf (s : State) (l : Nat) : Nat := (s.vf (s.ctx (s.launch l).ctx).vf).part

/-- The cores of its partition available to a launch, in ascending coreid (R348): those that pre-emption has not taken from it;
all of them where it has taken all (R39, R372; log entry 62). -/
def State.coresFor (s : State) (l : Nat) : List Nat :=
  let cs := s.coresOf (s.partOf l)
  let rest := cs.filter fun k => !(s.launch l).barred.contains k
  if rest.isEmpty then cs else rest

/-- Teams that hold a core. -/
def State.teamsOn (s : State) (core : Nat) : List (Nat × Team) := s.teams.filter fun (_, t) => t.onCore && t.core == core

/-- Groups resident on a core. -/
def State.groupsOn (s : State) (core : Nat) : List (Nat × Group) :=
  s.groups.filter fun (_, g) => !g.gone && (s.team g.team).onCore && (s.team g.team).core == core

/-- R376: cores the virtual function's teams hold, and whether its quota admits a core. -/
def State.quotaOk (s : State) (l core : Nat) : Bool :=
  let v := (s.ctx (s.launch l).ctx).vf
  let q := (s.vf v).quota
  let held := ((s.teams.filter fun (_, t) => t.onCore && (s.ctx (s.launch t.launch).ctx).vf == v).map fun (_, t) => t.core).dedup
  q == 0 || held.contains core || decide (held.length < q)

/-- A base for a window of `n` bytes on a core: the lowest multiple of 4 KiB that is free (R89). -/
def windowBase (wins : List (Nat × Nat)) (n : Nat) : Option Nat :=
  ((List.range 128).map (4096 * ·)).find? fun b => decide (b + n ≤ 2 ^ 19) && !wins.any fun (w, k) => meets b n w k

/-- Group indices and budgets that a team brings to a core. -/
def State.teamGroups (s : State) (l idx : Nat) : List (Nat × Nat) :=
  let r := (s.launch l).lr
  match Tab.look s.teams (teamKey l idx) with
  | some (t : Team) => if t.st = TeamState.saved then t.groups.map fun (i, g) => (i, (s.group g).blocks)
    else if (s.launch l).replay.isSome then [] else (List.range r.tgrps).map fun i => (i, r.blocks)
  | none => if (s.launch l).replay.isSome then [] else (List.range r.tgrps).map fun i => (i, r.blocks)

/-- R13: a unit of a level stays within one instance of its domain: that of its teams that hold a core. Teams of it that have
ended or are saved bind it no more (DESIGN CHOICE; log entry 99). -/
def State.unitOk (s : State) (l idx core : Nat) : Bool :=
  let r := (s.launch l).lr
  (List.range r.nlev).all fun k =>
    if k < 3 || (r.dom k != 1 && r.dom k != 2) then true
    else
      let u := r.unitOf idx k
      s.teams.all fun (_, t) =>
        t.launch != l || !t.onCore || decide (r.teams ≤ t.idx) || r.unitOf t.idx k != u ||
          (if r.dom k = 1 then quadOf t.core == quadOf core else dieOf t.core == dieOf core)

/-- Locks of a saved team that must be free on the core (R374). -/
def State.locksFree (s : State) (l idx core : Nat) : Bool :=
  match Tab.look s.teams (teamKey l idx) with
  | some t => t.st != .saved || t.locks.all fun (b, _) => Tab.get Lock.free (s.core core).locks b == .free
  | none => true

/-! ### The register arbiter (R25, R46) -/

/-- The formation order of a team's ready bins (R25): ready cycle, target, key of the first lane. -/
def Bin.before (a b : Bin) : Bool :=
  let ra := a.ready.getD 0
  let rb := b.ready.getD 0
  let ka := (a.lanes.map SwLane.key).headD 0
  let kb := (b.lanes.map SwLane.key).headD 0
  decide (ra < rb) || (ra == rb && (decide (a.entry.toNat < b.entry.toNat) || (a.entry == b.entry && decide (ka < kb))))

/-- The lowest free group index of a team (R26). -/
def Team.freeIdx (t : Team) : Option Nat := (List.range 16).find? fun i => (Tab.look t.groups i).isNone

/-- R25: what a ready bin needs besides register blocks: a group index, a residency slot, tile room. Such a bin requests blocks
of the arbiter. -/
def State.asks (s : State) (t : Nat) (b : Bin) : Bool :=
  let x := s.team t
  let on := s.groupsOn x.core
  let tiles := (s.launch x.launch).lr.tiles
  let tiled := (on.filter fun (_, g) => (s.launch (s.team g.team).launch).lr.tiles).length
  x.st == .running && b.ready.isSome && !b.lanes.isEmpty && (!tiles || decide (tiled < Config.nTileGroups)) &&
    match x.freeIdx with
    | none => false
    | some i => decide ((on.filter fun (_, g) => g.gidx % 4 == i % 4).length < Config.nSlots)

/-- R46: the blocks of a bin's budget are free. -/
def State.blocksFor (s : State) (t : Nat) (b : Bin) : Bool := decide ((s.core (s.team t).core).used + b.blocks ≤ Config.nBlocks)

/-- R25, R46: the resources a group of a bin needs are there. -/
def State.canForm (s : State) (t : Nat) (b : Bin) : Bool := s.asks t b && s.blocksFor t b

/-- The place of a request in the arbiter's order (R46): cycle, scheduler, group index. -/
abbrev ArbKey := Nat × Nat × Nat

def ArbKey.before (a b : ArbKey) : Bool :=
  decide (a.1 < b.1) || (a.1 == b.1 && (decide (a.2.1 < b.2.1) || (a.2.1 == b.2.1 && decide (a.2.2 < b.2.2))))

/-- A bin reaches the arbiter in the cycle in which it became ready, with the index its group would take. -/
def State.binKeyOf (s : State) (t : Nat) (b : Bin) : ArbKey :=
  let i := (s.team t).freeIdx.getD 16
  (b.ready.getD 0, i % 4, i)

/-- The bins that request blocks on a core, with their teams. -/
def State.askingBins (s : State) (core : Nat) : List (Nat × Bin) :=
  s.teams.flatMap fun (t, (x : Team)) => if x.core = core then x.bins.filterMap fun (_, b) => if s.asks t b then some (t, b) else none else []

/-- The first SGROW request of a core, where it can be granted (R46): a later one waits behind it. -/
def State.growGrant (s : State) (core : Nat) : Option ArbKey :=
  match (s.core core).arb with
  | .sgrow g b cyc :: _ =>
    if (s.core core).used + (b - (s.group g).blocks) ≤ Config.nBlocks then some (cyc, g % 4, g % 16) else none
  | [] => none

/-- R25, R46: whether a bin is the first that can form: no bin of its team before it in formation order can, and none of another
team's bins before it in the arbiter's order waits for blocks. -/
def State.formFirst (s : State) (t : Nat) (b : Bin) : Bool :=
  let x := s.team t
  s.canForm t b && !(x.bins.any fun (_, c) => c.before b && s.canForm t c) &&
    !((s.askingBins x.core).any fun (u, c) => u != t && (s.binKeyOf u c).before (s.binKeyOf t b))

/-- The cycle of a team's die. -/
def State.cycOf (s : State) (t : Nat) : Nat := (s.die (dieOf (s.team t).core)).cyc

/-- Whether the hold of a bin of a core has expired and is still to be marked: the arbiter waits for its request (R25, R46). -/
def State.holdDue (s : State) (core : Nat) : Bool :=
  s.teams.any fun (t, (x : Team)) => x.core == core && x.st == .running && x.bins.any fun (_, b) => b.holdOver (s.cycOf t)

/-- R46: whether a bin is next: it is the first that can form, and no SGROW request before it can be granted. -/
def State.formNext (s : State) (t : Nat) (b : Bin) : Bool :=
  !s.holdDue (s.team t).core && s.formFirst t b &&
    match s.growGrant (s.team t).core with | some j => !j.before (s.binKeyOf t b) | none => true

/-- R46: whether the first SGROW request of a core is next: it can be granted, and no bin before it is the first that can form. -/
def State.growNext (s : State) (core : Nat) : Bool :=
  !s.holdDue core && match s.growGrant core with
  | some j => !((s.askingBins core).any fun (u, c) => s.formFirst u c && (s.binKeyOf u c).before j)
  | none => false

/-- Whether the arbiter has a request that it can grant: a placement, which reaches it later, waits (R46). -/
def State.arbBusy (s : State) (core : Nat) : Bool :=
  s.holdDue core || (s.growGrant core).isSome || (s.askingBins core).any fun (t, b) => s.formFirst t b

/-- R347: a team fits a core. -/
def State.fits (s : State) (l idx core : Nat) : Bool :=
  let r := (s.launch l).lr
  let gs := s.teamGroups l idx
  let on := s.groupsOn core
  let slots (k : Nat) : Nat := (on.filter fun (_, g) => g.gidx % 4 == k).length + (gs.filter fun (i, _) => i % 4 == k).length
  let tiled := (on.filter fun (_, g) => (s.launch (s.team g.team).launch).lr.tiles).length
  decide (core < 288) && (s.coresFor l).contains core && s.quotaOk l core && !s.arbBusy core &&
    (r.spad == 0 || (windowBase (s.core core).wins (4096 * r.spad)).isSome) &&
    decide ((s.core core).used + (gs.map Prod.snd).sum ≤ Config.nBlocks) &&
    [0, 1, 2, 3].all (fun k => decide (slots k ≤ Config.nSlots)) && (!r.tiles || decide (tiled + gs.length ≤ Config.nTileGroups)) &&
    s.unitOk l idx core && s.locksFree l idx core

/-- The mixing constant of R348. -/
def detSalt : DWord := 0x5A5A5A5A5A5A5A5A

/-- An index below n drawn from a word's high half. -/
def pick (x : DWord) (n : Nat) : Nat := (hi32 x).toNat * n / 2 ^ 32

/-- R348: the core a deterministic launch assigns to a team. -/
def State.detCore (s : State) (l idx : Nat) : Nat :=
  let r := (s.launch l).lr
  let cs := s.coresFor l
  match (List.range r.nlev).find? fun k => decide (3 ≤ k) && (r.dom k == 1 || r.dom k == 2) with
  | none => cs.getD (pick (ember (r.seed ^^^ detSalt) (BitVec.ofNat 64 idx)) cs.length) 288
  | some k =>
    let inst (c : Nat) : Nat := if r.dom k = 1 then quadOf c else dieOf c
    let is_ := (cs.map inst).dedup
    let u := r.unitOf idx k
    let i := is_.getD (pick (ember (r.seed ^^^ detSalt) (BitVec.ofNat 64 u)) is_.length) 288
    let mine := cs.filter fun c => inst c == i
    let j := if k + 1 = r.nlev then idx else idx % max 1 (r.unitTeams k)
    mine.getD (j % max 1 mine.length) 288

/-- The team that the distributor would place next on a core (R347, R348). -/
def State.nextFor (s : State) (l core : Nat) : Option Nat :=
  let x := s.launch l
  if x.lr.det then
    match ((s.waitingTeams l).filter fun i => s.detCore l i == core).min? with
    | some i => if s.fits l i core then some i else none
    | none => none
  else match (s.waitingTeams l).head? with
    | some i => if (s.coresFor l).find? (fun k => s.fits l i k) = some core then some i else none
    | none => none

/-- The entry point of a stage's teams. -/
def Launch.entryOf (x : Launch) (stage : Nat) : DWord :=
  match x.ext, stage with
  | some e, 1 => e.taskE
  | some e, 2 => e.meshE
  | some e, 3 => e.rastE
  | _, _ => x.lr.entry

/-- Rings at team start (R22). -/
def LRec.ringTab (r : LRec) : Tab Ring :=
  r.rings.zipIdx.filterMap fun ((n, b), k) => if n = 0 then none else some (k, ⟨n, b % 4, b / 4 % 4, [], 0, 1, 0, 1⟩)

/-- The issue class of a launch's queue (R346). -/
def State.classOf (s : State) (l : Nat) : Nat := (s.queueOf (s.launch l).ctx (s.launch l).queue).cls

/-- A window is taken on a core. -/
def State.takeWindow (s : State) (core base size : Nat) : State :=
  if size = 0 then s else s.modCore core fun c => { c with wins := c.wins ++ [(base, size)] }

/-- The team record of a team that starts on a core. -/
def State.freshTeam (s : State) (l idx core base stage : Nat) : Team :=
  let r := (s.launch l).lr
  { Team.zero with launch := l, idx := idx, core := core, st := .running, cls := s.classOf l, base := base, size := 4096 * r.spad,
                   rings := r.ringTab, stage2 := stage, started := true }

/-- The relaunched lanes that a team takes (R131): they enter its bins at their entry points. -/
def State.relaunchLanes (s : State) (l idx : Nat) : State :=
  let x := s.launch l
  match x.replay with
  | none => s
  | some (n, _) =>
    match Tab.look s.replays n with
    | none => s
    | some rp =>
      let k := 32 * x.lr.tgrps
      let mine := rp.threads.zipIdx.filter fun (t, i) => i / k == idx && t.fault == 0
      let t := teamKey l idx
      let now := (s.die (dieOf (s.team t).core)).cyc
      let s := mine.foldl (fun s (th, _) => s.modTeam t fun y =>
        y.enter now th.entry x.lr.blocks x.lr.args ⟨0, { Lane.zero with glid := th.glid, entry := th.entry }, [], false⟩) s
      let marked := rp.threads.zipIdx.map fun ((th : RThread), (i : Nat)) => if i / k == idx then { th with placed := true } else th
      { s with replays := Tab.put s.replays n { rp with threads := marked } }.endTeam t

/-- The arguments that a task team gives its mesh team (R137): the spec does not say where it puts them, so they are free values
(log entry 30). -/
def taskArgs (n : Nat) : Tab DWord :=
  Tab.setAll 0 [] ((List.range 61).map fun k => (k + 1, Config.freeWord (n + 2 * k + 1) ++ Config.freeWord (n + 2 * k)))

/-- A team starts on a core: a new one, or the next stage of its index. -/
def State.startTeam (s : State) (l idx core : Nat) : State :=
  let x := s.launch l
  let r := x.lr
  let t := teamKey l idx
  let stage := match Tab.look s.teams t with | some y => y.stage2 | none => x.firstStage
  let base := (windowBase (s.core core).wins (4096 * r.spad)).getD 0
  let keep := Tab.look s.teams t
  let s := (s.setTeam t { s.freshTeam l idx core base stage with
      mesh := none, meshV := (keep.map Team.meshV).getD [], meshP := (keep.map Team.meshP).getD [] }).takeWindow core base (4096 * r.spad)
  let tasked := stage == 2 && match x.ext with | some e => e.taskE != 0 | none => false
  let args := if tasked then taskArgs s.free else s.argRegs (s.asidL l) r.args
  let s := if tasked then { s with free := s.free + 122 } else s
  let e := x.entryOf stage
  let s := if x.replay.isSome then s else
    (List.range r.tgrps).foldl (fun s i => s.addGroup t (s.newGroup t i e r.presentMask r.blocks args (r.lanesAt idx i e))) s
  (s.stageAt t 0).relaunchLanes l idx

/-- A saved team resumes on a core with everything it held (R40, R372). -/
def State.resumeTeam (s : State) (l idx core : Nat) : State :=
  let t := teamKey l idx
  let x := s.team t
  let base := (windowBase (s.core core).wins x.size).getD 0
  let s := (s.setTeam t { x with
    core := core, st := .running, cls := s.classOf l, base := base, image := none, locks := []
    bins := x.bins.map fun (k, b) => (k, { b with lastAt := (s.die (dieOf core)).cyc }) }).takeWindow core base x.size
  let s := x.groups.foldl (fun s (_, g) => s.modGroup g fun y => { y with l1drop := true, mon := y.mon.restore (s.watched (some g) t y.mon) }) s
  s.modCore core fun c =>
    { c with
      used := c.used + (x.groups.map fun (_, g) => (s.group g).blocks).sum
      locks := x.locks.foldl (fun m (b, i) => Tab.put m b (.held (groupKey t i))) c.locks }

/-- A team is placed: it leaves the waiting list. -/
def State.placeTeam (s : State) (l idx core : Nat) : State :=
  let s := s.modLaunch l fun x =>
    if x.requeued.contains idx then { x with requeued := x.requeued.erase idx }
    else { x with nextTeam := if x.lr.det then x.nextTeam else idx + 1 }
  let s := match Tab.look s.teams (teamKey l idx) with
    | some (t : Team) => if t.st = TeamState.saved then s.resumeTeam l idx core else s.startTeam l idx core
    | none => s.startTeam l idx core
  -- a deterministic launch passes the teams placed out of order
  s.modLaunch l fun x =>
    if x.lr.det then
      { x with nextTeam := x.nextTeam + (((List.range x.lr.teams).drop x.nextTeam).takeWhile fun i => (Tab.look s.teams (teamKey l i)).isSome).length }
    else x

/-- R349: every team of a split launch, each on the core the rules give it, or none where one does not fit. -/
def State.placeAll (s : State) (l : Nat) : List Nat → Option State
  | [] => some s
  | i :: is_ =>
    let core := if (s.launch l).lr.det then (if s.fits l i (s.detCore l i) then some (s.detCore l i) else none)
      else (s.coresFor l).find? fun k => s.fits l i k
    match core with
    | some k => (s.placeTeam l i k).placeAll l is_
    | none => none

/-- Whether a split launch has yet to be placed, which is done whole (R349). -/
def State.wholeFirst (s : State) (l : Nat) : Bool :=
  let x := s.launch l
  x.lr.split && x.requeued.isEmpty && x.nextTeam == 0

/-- Whether a launch other than `l` has a team that could be placed now; a split launch only as a whole. -/
def State.rival (s : State) (l k : Nat) : Bool :=
  let x := s.launch k
  !(k == l || x.done || (s.waitingTeams k).isEmpty || !s.ctxActive x.ctx ||
    if s.wholeFirst k then (s.placeAll k (s.waitingTeams k)).isNone else (s.coresFor k).all fun c => (s.nextFor k c).isNone)

/-- The queue of a launch as one number. -/
def Launch.queueKey (x : Launch) : Nat := 65536 * x.ctx + x.queue

/-- How recently a class's queue was served: 0 never, larger more recently. -/
def State.servedRank (s : State) (cls q : Nat) : Nat :=
  match (Tab.get [] s.served cls).idxOf? q with
  | some i => i + 1
  | none => 0

/-- R344: no launch of a higher class, and in its own class none of a queue served less recently, has a team that fits
somewhere. -/
def State.firstInLine (s : State) (l : Nat) : Bool :=
  let c := s.classOf l
  s.launches.all fun (k, x) =>
    !s.rival l k || decide (s.classOf k < c) ||
      (s.classOf k == c && decide (s.servedRank c (s.launch l).queueKey ≤ s.servedRank c x.queueKey))

/-- The distributor has served a launch's queue. -/
def State.markServed (s : State) (l : Nat) : State :=
  let q := (s.launch l).queueKey
  let c := s.classOf l
  { s with served := Tab.put s.served c ((Tab.get [] s.served c).erase q ++ [q]) }

/-- `TEAM_PLACEMENT` (R347): the next team of a launch on the core that the rules give it; a split launch places all. -/
def execTeamPlacement (l core : Nat) (s : State) : Out :=
  let x := s.launch l
  if x.done || x.rejected || (s.waitingTeams l).isEmpty || !s.ctxActive x.ctx || !s.firstInLine l then .next s
  else if s.wholeFirst l then
    match s.nextFor l core with
    | some _ => .next (((s.placeAll l (s.waitingTeams l)).map fun t => t.markServed l).getD s)
    | none => .next s
  else match s.nextFor l core with
    | some i => .next ((s.placeTeam l i core).markServed l)
    | none => .next s

/-! ### Quench (R251, R339) -/

/-- A slot: its exact sum in units of 2^-149, and its flags. -/
def parseSlot (bs : List Byte) : Int × Nat := (intOf true 448 (ofLeBytes (bs.take 56)), field bs 56 1)

/-- The sums and flags of a word over teams. -/
def joinSlots : List (Int × Nat) → Int × Nat
  | [] => (0, 0)
  | (a, f) :: ss => let (b, g) := joinSlots ss; (a + b, f ||| g)

/-- The total of a window word. -/
def slotTotal (sum : Int) (fl : Nat) : Val :=
  let bit (k : Nat) : Bool := fl / 2 ^ k % 2 == 1
  if bit 1 || (bit 2 && bit 3) then .nan false
  else if bit 2 then .inf false
  else if bit 3 then .inf true
  else if sum = 0 then .num (!bit 4) 0 1
  else .num (decide (sum < 0)) sum.natAbs (2 ^ 149)

/-- Address of the slot of a team and word. -/
def LRec.slotVa (r : LRec) (team w : Nat) : DWord := r.psBase + BitVec.ofNat 64 ((team * r.detWords + w) * 64)

/-- Quench of one window word. -/
def State.quenchWord (s : State) (l w : Nat) : State :=
  let x := s.launch l
  let asid := s.asidL l
  let teams := (List.range x.lr.teams).filter fun t => !x.omitted.contains t
  let (sum, fl) := joinSlots (teams.map fun t => match s.vRead asid 0 (x.lr.slotVa t w) 64 with | some bs => parseSlot bs | none => (0, 0))
  if fl % 2 = 0 then s
  else
    let a := x.lr.detBase + BitVec.ofNat 64 (4 * w)
    match s.vRead asid 0 a 4 with
    | none => s
    | some bs => s.vPut asid a (leBytes 4 (roundTo .f32 .rne false (addVal .rne (toVal .f32 (ofLeBytes bs)) (slotTotal sum fl)).1).1)

/-- Whether every team of a launch has ended or been terminated. -/
def Launch.teamsOver (x : Launch) : Bool := x.finished == x.lr.teams

/-- `QUENCH` (R251): after the last team, the deterministic window is written. -/
def execQuench (l : Nat) (s : State) : Out :=
  let x := s.launch l
  if (Tab.look s.launches l).isNone || x.quenched || x.rejected || !x.teamsOver || !x.fixed.isEmpty ||
      s.teams.any (fun (_, (t : Team)) => t.launch == l && !t.over?) || s.units.any (fun (_, q) => q.any fun r => r.launch == l) then .next s
  else .next (((List.range x.lr.detWords).foldl (fun s w => s.quenchWord l w) s).modLaunch l fun x => { x with quenched := true })

/-! ### Completion (R345, R350) -/

/-- Everything a launch released has finished, relaunches of its REPLAYs, which are launches of their own (R131), included. -/
def State.launchIdle (s : State) (l : Nat) : Bool :=
  let x := s.launch l
  x.teamsOver && x.quenched && x.reds.isEmpty && x.fixed.isEmpty &&
    s.teams.all (fun (_, t) => t.launch != l || (t.copies.isEmpty && t.copyq.isEmpty && t.over?)) &&
    s.rays.all (fun (_, r) => r.launch != l) && s.units.all (fun (_, q) => q.all fun r => r.launch != l) &&
    s.replays.all fun (_, r) => r.launch != l || r.failed ||
      (r.started && r.threads.all (fun (t : RThread) => t.done && t.word.isEmpty) && match r.relaunch with | some k => (s.launch k).done | none => true)

/-- A measured duration is kept, the last eight of its level (R350). -/
def Queue.keep (x : Queue) (slot level d : Nat) : Queue :=
  let k := slot * 4 + level
  let ds := Tab.get [] x.est k ++ [d]
  { x with est := Tab.put x.est k (ds.drop (ds.length - 8)) }

/-- `LAUNCH_COMPLETE` (R345). -/
def execLaunchComplete (l : Nat) (s : State) : Out :=
  let x := s.launch l
  if (Tab.look s.launches l).isNone || x.done || !s.launchIdle l then .next s
  else
    let s := s.logCounts l
    let s := if x.replay.isSome then s else s.writeStamp l
    let s := s.modLaunch l fun x => { x with done := true }
    let q := s.queueOf x.ctx x.queue
    if x.deadline = 0 || x.failed || x.replay.isSome then .next s
    else .next (s.setQueue x.ctx x.queue (q.keep x.eslot x.level (s.time 0 - x.t0)))

end Sys2Proof.Machine
end

