-- ==== Sys2Proof/Machine/LaneCtl.lean ====
section
/-! DEFINITION. Draws and outcomes (R121-R126, R254, R255), calls and returns through Swage (R24, R256-R262), ordered
sections (R145, R263), mesh output (R138, R264) and the end of a lane (R265). -/

namespace Sys2Proof.Machine

/-! ### Draws (R119-R125) -/

/-- A choice vector entry's fields (R119). -/
def ventry (value site occ : Nat) (fresh mutd spliced : Bool) : DWord :=
  BitVec.ofNat 64 (value % 2 ^ 32 + 2 ^ 32 * (site % 2 ^ 12) + 2 ^ 44 * (occ % 2 ^ 12) +
    2 ^ 56 * ((if fresh then 1 else 0) + (if mutd then 2 else 0) + (if spliced then 4 else 0)))

def ventryValue (e : Nat) : Nat := e % 2 ^ 32
def ventrySite (e : Nat) : Nat := e / 2 ^ 32 % 2 ^ 12
def ventryOcc (e : Nat) : Nat := e / 2 ^ 44 % 2 ^ 12
def ventryMut (e : Nat) : Bool := e / 2 ^ 57 % 2 == 1
def ventrySpliced (e : Nat) : Bool := e / 2 ^ 58 % 2 == 1

/-- The cursor passes the used entries in front of it. -/
def slide : Nat → Nat → Nat → Nat × Nat
  | 0, c, m => (c, m)
  | n + 1, c, m => if m % 2 = 1 then slide n (c + 1) (m / 2) else (c, m)

/-- The window entry that a SITE draw hits. -/
def siteHit (d : Draw) (n site occ : Nat) (entry : Nat → Nat) : Option Nat :=
  (List.range 8).find? fun j =>
    decide (d.cursor + j < n) && d.used / 2 ^ j % 2 == 0 && ventrySite (entry (d.cursor + j)) == site &&
      ventryOcc (entry (d.cursor + j)) == occ % 2 ^ 12

/-- R122: one draw. `n` input entries are read by `entry`; the lane's next draw state, and the value. -/
def Draw.draw (d : Draw) (mode n site : Nat) (fresh : Nat) (entry : Nat → Nat) : Draw × Nat :=
  let o := Tab.get 0 d.occ site
  let k := d.count
  let take (value : Nat) (fr mu sp : Bool) (c m : Nat) : Draw × Nat :=
    ({ d with cursor := c, used := m, count := k + 1, fresh := d.fresh + (if fr then 1 else 0),
              occ := Tab.put d.occ site (o + 1), buf := d.buf ++ [ventry value site o fr mu sp] }, value)
  match mode with
  | 0 => take fresh true false false d.cursor d.used
  | 1 =>
    if k < n then take (ventryValue (entry k)) false (ventryMut (entry k)) (ventrySpliced (entry k)) d.cursor d.used
    else take fresh true false false d.cursor d.used
  | _ =>
    match siteHit d n site o entry with
    | some j =>
      let e := entry (d.cursor + j)
      let (c, m) := slide 9 d.cursor (d.used ||| 2 ^ j)
      take (ventryValue e) false (ventryMut e) (ventrySpliced e) c m
    | none => take fresh true false false d.cursor d.used

/-- The fresh value of a draw. -/
def freshDraw (seed : DWord) (glid : Word) (site occ : Nat) : Nat :=
  (hi32 (ember seed (BitVec.ofNat 64 (glid.toNat * 2 ^ 32 + site * 2 ^ 20 + occ % 2 ^ 20)))).toNat

/-- The input entries a draw may read: of a lane's slot, by index. -/
def inputsOf (mode n : Nat) (d : Draw) : List Nat :=
  match mode with
  | 0 => []
  | 1 => if d.count < n then [d.count] else []
  | _ => ((List.range 8).map fun j => d.cursor + j).filter fun k => decide (k < n)

/-- The input slots' headers and the entries the draws may read, on the LS path (R93, R112, R114, R124). R122 and R124 do not say which entries
the draw unit reads: in SITE mode the model reads the header and the whole window, used entries and entries past the hit
included, so that each of them can fault (DESIGN CHOICE; log entry 100). -/
def State.drawInputs (s : State) (g : Nat) (ls : List Nat) : Try (State × Tab Nat × Tab (Tab Nat)) :=
  let r := s.recOf g
  let x := s.group g
  let lane (l : Nat) : Lane := Tab.get Lane.zero x.lanes l
  if r.ivBase = 0 || r.drawMode = 0 then .ok (s, [], [])
  else do
    let slot (l : Nat) : DWord := slotAt r.ivBase r.cap (lane l).glid
    let hs ← s.globalCheck g { path := some 0 } 8 true (ls.map fun l => (l, slot l))
    if s.loadWaits g 8 hs then .error (s.waitFor 21)
    let s := s.l1Sync g
    let ns : Tab Nat := hs.map fun (l, pa, _) => (l, min (ofLeBytes (s.loadG g (slot l).toNat pa 4 0)) r.cap)
    let want : List (Nat × Nat) := ls.flatMap fun l => (inputsOf r.drawMode (Tab.get 0 ns l) (lane l).draw).map fun k => (l, k)
    let es ← s.globalCheck g { path := some 0 } 8 true (want.map fun (l, k) => (l, slot l + 8 + BitVec.ofNat 64 (8 * k)))
    if s.loadWaits g 8 es then .error (s.waitFor 21)
    let vals := (want.zip es).map fun ((l, k), _, pa, _) => (l, k, ofLeBytes (s.loadG g (slot l + 8 + BitVec.ofNat 64 (8 * k)).toNat pa 8 0))
    .ok (s, ns, ls.map fun l => (l, (vals.filter fun v => v.1 == l).map fun v => v.2))

/-- VDRAW past its operands. Where some lane meets its limit and some a full buffer, DRAW_LIMIT is raised (R123, R125;
DESIGN CHOICE; log entry 112). -/
def State.vdraw (s : State) (g : Nat) (m : Word) (o : LaneOp) : Try State := do
  let r := s.recOf g
  let x := s.group g
  let site := LaneOp.xfield o 0 12
  let lane (l : Nat) : Lane := Tab.get Lane.zero x.lanes l
  let limit := maskWhere m fun l => decide (r.cap ≤ (lane l).draw.count)
  let full := maskWhere m fun l => decide (Config.nDrawBuf ≤ (lane l).draw.buf.length)
  if limit != 0 then .error (s.raise .drawLimit { flm := limit })
  else if full != 0 then .error (s.raise .drawBufferFull { flm := full })
  else
    let (s, ns, es) ← s.drawInputs g (lanesOf m)
    let res := (lanesOf m).map fun l =>
      let y := lane l
      (l, y.draw.draw r.drawMode (Tab.get 0 ns l) site (freshDraw r.seed y.glid site (Tab.get 0 y.draw.occ site))
        fun k => Tab.get 0 (Tab.get [] es l) k)
    let s := s.modGroup g fun x =>
      { x with lanes := res.foldl (fun t (l, d, _) => Tab.put t l { Tab.get Lane.zero t l with draw := d }) x.lanes }
    let p : Put := ⟨o.d, 1⟩
    let fresh := (res.map fun (l, d, _) => d.fresh - (lane l).draw.fresh).sum
    let s := s.bumpBy (s.ctxOf g) 8 fresh
    .ok (s.addPending g ⟨0, 0, 0, none, (res.map fun (l, _, v) => cutRegs ((x.mainDst p l).getD 0) l v 1).flatten, [], 0, 17, [], none⟩)

/-- `VDRAW` (R254). -/
def execVdraw (o : LaneOp) (s : State) : Out :=
  s.laneWord o.h .other (fun _ => []) (putOf (ruleDraw o) o) fun g m s =>
    if m = 0 then .next (s.laneDone g o.h)
    else match s.vdraw g m o with | .ok s => .next (s.laneDone g o.h) | .error s => .next s

/-- `VOUTCOME` (R255). -/
def execVoutcome (o : LaneOp) (s : State) : Out :=
  s.laneWord o.h .other (usesOf ruleOutcome 32 o) none fun g m s =>
    let (s, vs) := s.readUses g m (usesOf ruleOutcome 32 o m)
    let s := s.popAll g m (usesOf ruleOutcome 32 o m)
    let s := s.modGroup g fun x =>
      { x with lanes := (lanesOf m).foldl (fun t l =>
          let y := Tab.get Lane.zero t l
          Tab.put t l { y with draw := { y.draw with outcome := BitVec.ofNat 32 (Tab.get 0 (vs.getD 0 []) l), oset := true } }) x.lanes }
    .next (s.laneDone g o.h)

/-! ### Calls (R256-R262) -/

/-- The live registers of a call-site entry's bytes (R257); none where the rule refuses it. -/
def siteRegs (bs : List Byte) : Option (List Nat) :=
  let n := field bs 0 1
  let regs := (List.range 24).map fun k => field bs (8 + k) 1
  if field bs 1 7 != 0 || 24 < n || (regs.take n).any (240 ≤ ·) || (regs.drop n).any (· != 0) then none
  else some (regs.take n)

/-- A read of a launch's tables for lanes of a group, on the LS path, with the traps and waits of its accesses (R104). -/
def State.tableRead (s : State) (g : Nat) (ads : List (Nat × DWord)) : Try (List (Nat × Nat × DWord)) := do
  let ps ← s.globalCheck g (accLs false) 32 true ads
  if s.loadWaits g 32 ps then .error (s.waitFor 21) else .ok ps

/-- The live registers of a call-site entry, or CALL_TABLE (R104, R257); `m` the active lanes. -/
def State.callSite (s : State) (g i : Nat) (m : Word) : Try (List Nat) :=
  let r := s.recOf g
  if r.csCount ≤ i || r.csBase == 0 then .error (s.raise .callTable { flm := m })
  else do
    let ps ← s.tableRead g ((lanesOf m).map fun l => (l, r.csBase + BitVec.ofNat 64 (32 * i)))
    match siteRegs (s.rdBytes (ps.headD (0, 0, 0)).2.1 32) with
    | none => .error (s.raise .callTable { flm := m })
    | some regs => .ok regs

/-- The function table entries of lanes of a group are read, where the table has them (R104, R256): `fs` gives the lanes' functions. -/
def State.fnsRead (s : State) (g : Nat) (fs : List (Nat × Nat)) : Try Unit := do
  let r := s.recOf g
  let _ ← s.tableRead g ((fs.filter fun (_, f) => decide (f < r.ftCount) && r.ftBase != 0).map fun (l, f) => (l, r.ftBase + BitVec.ofNat 64 (32 * f)))
  .ok ()

/-- What a lane carries into Swage. -/
def Group.carry (x : Group) (regs : List Nat) (key l : Nat) : SwLane :=
  let y := Tab.get Lane.zero x.lanes l
  ⟨key % 2 ^ 16, y, regs.map fun r => (r, Tab.get 0 x.f.v (vkey r l)), false⟩

/-- A lane enters the bin of a function of its team. -/
def State.enterFn (s : State) (t f : Nat) (y : SwLane) : State :=
  match s.function (s.team t).launch f with
  | some (e, b, a) => s.modTeam t fun x => x.enter (s.die (dieOf x.core)).cyc e b a y
  | none => s

/-- The lanes of a dissolving group that stay behind wait on a new record (R260). -/
def Team.suspend (t : Team) (count : Nat) (ws : List (Nat × SwLane)) : Team × Option Nat :=
  if ws.isEmpty then (t, none)
  else
    let k := ((List.range 64).find? fun k => (Tab.look t.recs k).isNone).getD 0
    ({ t with recs := Tab.put t.recs k ⟨count, ws⟩ }, some k)

/-- Whether every live register of the lanes is full: what a call waits for before its checks (R260). -/
def State.callReady (s : State) (g : Nat) (ls : Word) (regs : List Nat) : Bool :=
  (lanesOf ls).all fun l => regs.all fun r => (s.group g).vfull r 1 l

/-- Whether a group may dissolve (R262): its Anvil operations have completed, and the tokens its commits release have gone, so
that no lane takes one along that it has left (R145; log entry 98). -/
def Group.mayDissolve (x : Group) : Bool := x.anvil.isEmpty && !x.inflight.any fun h => match h with | .token _ => true | _ => false

/-- A group that dissolves leaves (R262): its lanes are in Swage or wait, and what it handed over goes on. -/
def State.leave (s : State) (g : Nat) : State := (s.modGroup g fun x => { x with lanes := [] }).removeGroup g

/-- The records that a lane with a stack of `d` entries reduces when it returns from its function, and those it still owes
(R24, R261; log entry 94). -/
def dueOwed (d : Nat) (owed : List (Nat × Nat)) : List Nat := (owed.filter fun (k, _) => d ≤ k).map Prod.snd
def keptOwed (d : Nat) (owed : List (Nat × Nat)) : List (Nat × Nat) := owed.filter fun (k, _) => k < d

/-- A call traps at its word, between regions (R260). -/
def State.callTrap (s : State) (c : Cause) (flm : Word) : Try State := .error (s.raise c { flm := flm })

/-- The queue elements a call reads leave at once: its region has committed. -/
def State.popFinal (s : State) (g : Nat) (m : Word) (us : List Use) : State :=
  (s.popAll g m us).modTeam (s.group g).team fun t => { t with queues := popsFinal t.queues g }

/-- A lane that leaves by VRET: its top entry popped, and the record of the lanes that wait for it owed (R24, R261). -/
def Lane.ret (y : Lane) (r : Option Nat) : Lane :=
  let d := y.stack.length
  { y with stack := y.stack.drop 1, owed := keptOwed d y.owed ++ match r with | some k => [(d - 1, k)] | none => [] }

/-- A call or return after its commit: its checks, and the dissolution of the group from `after`. `tgt`, `cont` are function
indices by lane, `key` the coherence keys. The lanes that are inactive at a VRET wait on a record of their own; R261 does not
say when it is reduced, which no stack refers to: each active lane owes it, and reduces it when it returns from the function
that it enters now, or ends (DEDUCED; log entry 94). -/
def State.dissolve (s after : State) (g : Nat) (m : Word) (regs : List Nat) (push : Bool) (tgt cont key : Nat → Nat) : Try State :=
  let x := s.group g
  let t := x.team
  let l := s.launchOf g
  let alive := x.present
  let lane (k : Nat) : Lane := Tab.get Lane.zero x.lanes k
  let valid (f : Nat) : Bool := (s.function l f).isSome
  let room (f : Nat) : Bool := match s.function l f with | some (_, b, _) => regs.all fun r => decide (r < 16 * b) | none => false
  let bad := maskWhere alive fun k => (m.getLsbD k && !room (tgt k)) || (push && !valid (cont k))
  let deep := maskWhere m fun k => decide (8 ≤ (lane k).stack.length)
  let stay := alive &&& ~~~m
  if bad != 0 then s.callTrap .callTarget bad
  else if regs.any fun r => decide (16 * x.blocks ≤ r) then s.callTrap .regUnalloc alive
  else if push && deep != 0 then s.callTrap .callDepth deep
  else if stay != 0 && decide (64 ≤ (s.team t).recs.length) then s.callTrap .callDepth m
  else if !x.mayDissolve then .error (s.waitFor 11)
  else
    let ws := (lanesOf stay).map fun k => (cont k, x.carry regs (key k) k)
    let (team, r) := (after.team t).suspend (count32 m) ws
    let s := (after.setTeam t team).leave g
    .ok ((lanesOf m).foldl (fun s k =>
      let y := x.carry regs (key k) k
      if push then s.enterFn t (tgt k) { y with lane := { y.lane with stack := (cont k, r) :: y.lane.stack } }
      else
        let s := s.enterFn t (tgt k) { y with lane := y.lane.ret r }
        let s := match y.lane.stack.head? with | some (_, some q) => s.decRec t q | _ => s
        (dueOwed y.lane.stack.length y.lane.owed).foldl (fun s q => s.decRec t q) s) s)

/-- The commit a call makes; with no active lane it only ends its block (R260). -/
def State.callCommit (s : State) (g : Nat) (m : Word) (k : State → Out) : Out :=
  let s := s.commit g
  if m = 0 then .next (s.modGroup g fun x => { x with blk := none }) else k s

/-- The sources of VCALL and VRET: f of the active lanes; keys and continuations of every lane not exited. A queue
gives one element for each active lane (R56), and the other lanes then have key and continuation 0 (DESIGN CHOICE; log
entry 116). -/
def callUses (x : Group) (call : Bool) (o : LaneOp) (m : Word) : List Use :=
  if m = 0 then []
  else
    (if call then [⟨o.a, .int, 32, 1, m⟩, ⟨o.c, .int, 32, 1, x.present⟩] else []) ++
      (if LaneOp.xbit o 12 then [] else [⟨o.b, .raw, 32, 1, x.present⟩])

/-- VCALL and VRET once their region has committed: they wait, check and dissolve. -/
def State.callWord (s : State) (call : Bool) (o : LaneOp) : Out :=
  let x := s.group (s.gid.getD 0)
  s.laneWord o.h .call (callUses x call o) none fun g m s =>
    s.callCommit g m fun s =>
      match s.callSite g (LaneOp.xfield o 0 12) m with
      | .error s => .next s
      | .ok regs =>
        if !s.callReady g x.present regs then .next (s.waitFor 11)
        else if let some r := x.mismatch (liveKeys regs x.present) then .next (s.meetUpset g r)
        else
          let (t, vs) := s.readUses g m (callUses x call o m)
          let at_ (i l : Nat) : Nat := Tab.get 0 (vs.getD i []) l
          let key (l : Nat) : Nat := if LaneOp.xbit o 12 then 0 else at_ (if call then 2 else 0) l
          let top (l : Nat) : Option (Nat × Option Nat) := (Tab.get Lane.zero x.lanes l).stack.head?
          let empty := maskWhere x.present fun l => (top l).isNone
          if !call && empty != 0 then .next (s.raise .retEmpty { flm := empty })
          else
            let back (l : Nat) : Nat := ((top l).getD (0, none)).1
            let tgt (l : Nat) : Nat := if call then at_ 0 l else back l
            let cont (l : Nat) : Nat := if call then at_ 1 l else back l
            match t.fnsRead g ((lanesOf m).map (fun l => (l, tgt l)) ++ (lanesOf x.present).map fun l => (l, cont l)) with
            | .error s => .next s
            | .ok _ => ofTry (t.dissolve (t.popFinal g m (callUses x call o m)) g m regs call tgt cont key)

/-- `VCALL` (R260). -/
def execVcall (o : LaneOp) (s : State) : Out := s.callWord true o
/-- `VRET` (R261). -/
def execVret (o : LaneOp) (s : State) : Out := s.callWord false o

/-! ### Ordered sections (R144-R147, R263) -/

/-- Every fragment of a launch that is somewhere in its teams. -/
def State.fragsOf (s : State) (l : Nat) : List Frag :=
  let own := s.teams.filter fun (_, t) => t.launch == l
  let inGroups := own.flatMap fun (_, t) => t.groups.flatMap fun (_, g) => (s.group g).lanes.filterMap fun (_, y) => y.frag
  let inSwage := own.flatMap fun (_, t) => t.bins.flatMap fun (_, b) => b.lanes.filterMap fun y => y.lane.frag
  let inRecs := own.flatMap fun (_, t) => t.recs.flatMap fun (_, c) => c.waiting.filterMap fun (_, y) => y.lane.frag
  let inTrails := s.groups.flatMap fun (_, x) =>
    if x.gone && (s.team x.team).launch == l then x.lanes.filterMap fun (_, y) => y.frag else []
  let inRays := s.rays.filterMap fun (_, r) => if r.launch == l then r.shade.bind fun (_, y) => y.lane.frag else none
  inGroups ++ inSwage ++ inRecs ++ inTrails ++ inRays

/-- The ordering class of a draw (R144, R336). -/
def LRec.order (r : LRec) : Nat := r.flags.toNat / 64 % 4

/-- Whether fragment a comes before b under a class and has not released its token. -/
def Frag.before (cls : Nat) (a b : Frag) : Bool :=
  a.px == b.px && a.py == b.py && !a.done && !a.helper && decide (a.prim.toNat < b.prim.toNat) &&
    (cls == 0 || (cls == 1 && a.inst == b.inst))

/-- Whether the rasteriser may still emit a fragment of a primitive before `prim`: one routed to it that is not done, or output of
a mesh team that is not classified yet (R137, R145; log entry 102). -/
def State.rasterDue (s : State) (l prim : Nat) : Bool :=
  let x := s.launch l
  let maxP := match x.ext with | some e => max 1 e.maxP | none => 1
  (x.fixed.any fun p => decide (p < prim)) || (List.range (min x.lr.teams (prim / maxP))).any fun i =>
    match Tab.look s.teams (teamKey l i) with | some (t : Team) => t.stage2 != 3 && t.st != .terminated | none => true

/-- The key of a screen tile. -/
def tileKey (px py : Nat) : Nat := py / 32 * 2 ^ 32 + px / 32

/-- The die that holds the scoreboard of a pixel group's pixels: that of the core that owns their tile (R142, R144, R147). -/
def State.orderDie (s : State) (g : Nat) : Nat :=
  match (s.group g).lanes.findSome? fun (_, y) => y.frag with
  | some f => dieOf (Tab.get (s.coreOf g) (s.launch (s.launchOf g)).tiles (tileKey f.px f.py))
  | none => dieOf (s.coreOf g)

/-- Lanes of a mask that carry no fragment identity. -/
def Group.noFrag (x : Group) (m : Word) : Word := maskWhere m fun l => (Tab.get Lane.zero x.lanes l).frag.isNone

/-- Whether a lane's VORDB must wait (R145): for an earlier fragment of its pixel, or for one that may still be emitted. -/
def orderWaits (cls : Nat) (due : Nat → Bool) (all : List Frag) (f : Frag) : Bool :=
  !f.helper && !f.token && ((decide (cls < 2) && due f.prim.toNat) || all.any fun e => e.before cls f)

/-- A lane's token is on its way from the commit of its VORDE: it has left its section, and takes the token again once it has gone
(R145; log entry 46). -/
def Group.released (x : Group) (l : Nat) : Bool := x.inflight.any fun h => match h with | .token m => m.getLsbD l | _ => false

/-- `VORDB` (R145, R263): the unordered class keeps no token. -/
def execVordb (o : LaneOp) (s : State) : Out :=
  s.laneWord o.h .other (fun _ => []) none fun g m s =>
    let x := s.group g
    let cls := (s.recOf g).order
    let frag (l : Nat) : Option Frag := (Tab.get Lane.zero x.lanes l).frag
    let all := s.fragsOf (s.launchOf g)
    if x.noFrag m != 0 then .next (s.raise .orderContext { flm := x.noFrag m })
    else if (lanesOf m).any fun l => x.released l || match frag l with | some f => orderWaits cls (s.rasterDue (s.launchOf g)) all f | none => false then
      let now := (s.die (s.orderDie g)).cyc
      .next ((s.waitFor 9).modGroup g fun x => { x with sch := { x.sch with orderFrom := some (x.sch.orderFrom.getD now) } })
    else
      let s := s.modGroup g fun x =>
        { x with
          lanes := (lanesOf m).foldl (fun t l =>
            let y := Tab.get Lane.zero t l
            Tab.put t l { y with frag := y.frag.map fun f => if f.helper || 2 ≤ cls then f else { f with token := true, done := false } }) x.lanes
          l1drop := x.l1drop || m != 0
          sch := { x.sch with orderFrom := none, stalled := false } }
      .next (s.laneDone g o.h)

/-- `VORDE` (R145, R263): the tokens go at the commit. -/
def execVorde (o : LaneOp) (s : State) : Out :=
  s.laneWord o.h .other (fun _ => []) none fun g m s =>
    let x := s.group g
    if x.noFrag m != 0 then .next (s.raise .orderContext { flm := x.noFrag m })
    else
      let holds := maskWhere m fun l => match (Tab.get Lane.zero x.lanes l).frag with | some f => f.token | none => false
      .next ((s.modGroup g fun x => { x with reg := { x.reg with orde := x.reg.orde ||| holds } }).laneDone g o.h)

/-! ### Mesh output (R138, R264) -/

/-- Launch flag MESHTRAP (R336). -/
def LRec.meshTrap (r : LRec) : Bool := r.flags.getLsbD 2

/-- The draw extension of a group's launch. -/
def State.extOf (s : State) (g : Nat) : DExt := ((s.launch (s.launchOf g)).ext).getD ⟨0, 0, 0, 0, 0, 0, 0, 0, 0, 0⟩

/-- A mesh word by its active lanes, in a mesh team. -/
def State.meshWord (s : State) (o : LaneOp) (mask : BitVec 13) (k : Nat → Word → (Nat → Nat) → (Nat → Nat) → State → Try State) : Out :=
  let us (m : Word) : List Use := usesOf (ruleMesh mask) 32 o m
  s.laneWord o.h .other us none fun g m s =>
    if m = 0 then .next (s.laneDone g o.h)
    else if (s.team (s.group g).team).stage2 != 2 then .next (s.raise .meshBound { flm := m })
    else
      let (t, vs) := s.readUses g m (us m)
      match k g m (fun l => Tab.get 0 (vs.getD 0 []) l) (fun l => Tab.get 0 (vs.getD 1 []) l) t with
      | .ok s => .next ((s.popAll g m (us m)).laneDone g o.h)
      | .error s => .next s

/-- Lanes whose write exceeds the counts: MESH_BOUND under MESHTRAP, otherwise MESH_OVERFLOW at the commit (R138). -/
def State.meshExcess (s : State) (g : Nat) (bad : Word) : Try State :=
  if bad = 0 then .ok s
  else if (s.recOf g).meshTrap then .error (s.raise .meshBound { flm := bad })
  else .ok (s.capture 2)

/-- `VMCNT` (R264): the lowest active lane declares the team's counts. -/
def execVmcnt (o : LaneOp) (s : State) : Out :=
  s.meshWord o 0 fun g m a b s =>
    let l := (lanesOf m).headD 0
    let e := s.extOf g
    let t := (s.group g).team
    if e.maxV < a l || e.maxP < b l || (s.team t).mesh.isSome then .error (s.raise .meshBound { flm := BitVec.ofNat 32 (2 ^ l) })
    else
      let s := s.modTeam t fun x => { x with mesh := some (a l, b l) }
      .ok (s.modGroup g fun x => { x with reg := { x.reg with meshDecl := true } })

/-- `VMVTX` (R264): word k of a vertex's attributes, held for the commit. -/
def execVmvtx (o : LaneOp) (s : State) : Out :=
  s.meshWord o 0x3F fun g m a b s => do
    let k := LaneOp.xfield o 0 6
    let v := ((s.team (s.group g).team).mesh.getD (0, 0)).1
    if (s.extOf g).attrW ≤ k then .error (s.raise .meshBound { flm := m })
    else
      let bad := maskWhere m fun l => decide (v ≤ a l)
      let s ← s.meshExcess g bad
      let ws := (lanesOf (m &&& ~~~bad)).map fun l => (a l * 64 + k, BitVec.ofNat 32 (b l))
      .ok (s.modGroup g fun x => { x with reg := { x.reg with meshV := x.reg.meshV ++ ws } })

/-- `VMPRIM` (R264): a primitive's vertex indices, held for the commit; one out of range is culled there. -/
def execVmprim (o : LaneOp) (s : State) : Out :=
  s.meshWord o 0 fun g m a b s => do
    let (v, p) := (s.team (s.group g).team).mesh.getD (0, 0)
    let far (l : Nat) : Bool := (List.range 3).any fun j => decide (v ≤ b l / 2 ^ (8 * j) % 256)
    let out := maskWhere m fun l => decide (p ≤ a l)
    let bad := maskWhere m fun l => decide (p ≤ a l) || far l
    let s ← s.meshExcess g bad
    let ws := (lanesOf (m &&& ~~~out)).map fun l => (a l, BitVec.ofNat 32 (b l % 2 ^ 24))
    .ok (s.modGroup g fun x => { x with reg := { x.reg with meshP := x.reg.meshP ++ ws } })

/-! ### The end of a lane (R17, R265) -/

/-- `VEXIT` (R265): the lanes leave em for xm at once; a group with every lane exited goes for its EXIT (R17). -/
def execVexit (o : LaneOp) (s : State) : Out :=
  s.laneWord o.h .basic (fun _ => []) none fun g m s =>
    let x := s.group g
    let last := x.xm ||| m == 0xFFFFFFFF
    let s := s.modGroup g fun x =>
      { x with xm := x.xm ||| m, thr := { x.thr with em := x.thr.em &&& ~~~m }, reg := { x.reg with exited := x.reg.exited ||| m } }
    if last && m != 0 then .next (s.startExit g) else .next (s.laneDone g o.h)

end Sys2Proof.Machine
end

