-- ==== Sys2Proof/Machine/Tongs.lean ====
section
/-! DEFINITION. Tongs: rays, their records and stacks (R148-R153), traversal micro-instructions (R172, R173, R290-R307), RTRACE
and RTRACE.SHADE (R284-R286), and what ends, counts, delivers and resumes a ray. -/

namespace Sys2Proof.Machine

/-! ### The ray-state record (R150) -/

def Ray.setWord (r : Ray) (k : Nat) (v : Word) : Ray := { r with words := r.words.set k v }
def Ray.dword (r : Ray) (k : Nat) : DWord := (r.word (k + 1)) ++ (r.word k)
def Ray.setDword (r : Ray) (k : Nat) (v : DWord) : Ray := (r.setWord k (v.setWidth 32)).setWord (k + 1) (v.extractLsb' 32 32)

def Ray.tmin (r : Ray) : Nat := (r.word 6).toNat
def Ray.tmax (r : Ray) : Nat := (r.word 7).toNat
def Ray.progpc (r : Ray) : DWord := r.dword 8
def Ray.node (r : Ray) : DWord := r.dword 10
def Ray.spillBase (r : Ray) : DWord := r.dword 12
def Ray.spillDepth (r : Ray) : Nat := (r.word 14).toNat % 2 ^ 16
def Ray.spillCap (r : Ray) : Nat := (r.word 14).toNat / 2 ^ 16
def Ray.hitt (r : Ray) : Nat := (r.word 16).toNat

/-- x0-x7. -/
def Ray.x (r : Ray) (k : Nat) : Word := r.word (24 + k)
def Ray.setX (r : Ray) (k : Nat) (v : Word) : Ray := r.setWord (24 + k) v

def Ray.setDepth (r : Ray) (n : Nat) : Ray := r.setWord 14 (BitVec.ofNat 32 (n % 2 ^ 16 + 2 ^ 16 * r.spillCap))
/-- STATUS with STACKDEPTH = 0 and the reserved bytes zero. -/
def Ray.setStatus (r : Ray) (n : Nat) : Ray := r.setWord 15 (BitVec.ofNat 32 (n * 2 ^ 8))

/-- The world-space marker of x6, and no hit (R291). -/
def noIndex : Word := 0xFFFFFFFF
def f32Inf : Nat := 0x7F800000

/-- R149, R150, R173: what a record must obey before its step runs. -/
def Ray.legal (r : Ray) : Bool :=
  r.spillBase.toNat % 16 == 0 && r.spillCap % 32 == 0 && decide (r.spillCap ≤ 65440) &&
    decide (r.spillDepth ≤ r.spillCap + 64) && (r.word 15).toNat % 2 ^ 8 == 0 && r.progpc.toNat % 8 == 0

/-! ### Accesses of the TR path -/

/-- What stops an access of a ray: cause, address, page-fault kind. -/
abbrev RayBad := Cause × DWord × Option PfKind

/-- The physical pieces of a range on the TR path of a core's Tongs: a line with an uncorrectable error, or behind a link that is
down, fails a write as it fails a read (R306). An address outside the space has no page (log entry 29). -/
def State.trRange (s : State) (core asid : Nat) (write : Bool) (va : DWord) (n : Nat) : Except RayBad (List (Nat × Nat)) :=
  (pagesOf va.toNat n).mapM fun (a, k) =>
    if a / 2 ^ 58 != 0 then .error (.pageFault, BitVec.ofNat 64 a, none)
    else match s.translateC core asid a { write := write, path := some 4 } with
      | .ok pa _ => if s.isBad pa k then .error (.poison, BitVec.ofNat 64 a, none) else .ok (pa, k)
      | .fail c k => .error (c, BitVec.ofNat 64 a, k)
      | .miss => .error (.pageFault, BitVec.ofNat 64 a, none)

def State.trRead (s : State) (core asid : Nat) (va : DWord) (n : Nat) : Except RayBad (List Byte) :=
  (s.trRange core asid false va n).map s.rdPieces

def State.trWrite (s : State) (core asid : Nat) (va : DWord) (bs : List Byte) : Except RayBad State :=
  (s.trRange core asid true va bs.length).map fun ps => s.wrPieces ps bs

/-- The words of a string of bytes. -/
def wordsOf (bs : List Byte) (n : Nat) : List Word := (List.range n).map fun k => BitVec.ofNat 32 (field bs (4 * k) 4)

/-- The bytes of a record. -/
def Ray.bytes (r : Ray) : List Byte := r.words.flatMap fun w => leBytes 4 w.toNat

def RayEntry.bytes (e : RayEntry) : List Byte := leBytes 8 e.node.toNat ++ leBytes 4 e.dist.toNat ++ leBytes 4 e.data.toNat

def parseEntry (bs : List Byte) : RayEntry :=
  ⟨BitVec.ofNat 64 (field bs 0 8), BitVec.ofNat 32 (field bs 8 4), BitVec.ofNat 32 (field bs 12 4)⟩

/-- The address of spill entry i (R149). -/
def Ray.spillAt (r : Ray) (i : Nat) : DWord := r.spillBase + BitVec.ofNat 64 (16 * i)

/-- Write entries, oldest first, from spill entry `i` on. -/
def State.spill (s : State) (asid : Nat) (r : Ray) : Nat → List RayEntry → Except RayBad State
  | _, [] => .ok s
  | i, e :: es => match s.trWrite r.core asid (r.spillAt i) e.bytes with
    | .error b => .error b
    | .ok s => s.spill asid r (i + 1) es

/-- Read `n` spill entries from entry `i` on, newest first. -/
def State.unspill (s : State) (asid : Nat) (r : Ray) : Nat → Nat → Except RayBad (List RayEntry)
  | _, 0 => .ok []
  | i, n + 1 => match s.trRead r.core asid (r.spillAt (i + n)) 16 with
    | .error b => .error b
    | .ok bs => (s.unspill asid r i n).map fun es => parseEntry bs :: es

/-! ### Exact geometry (R296-R298) -/

/-- A finite value as a rational. -/
def Val.rat : Val → Option Rat
  | .num s n d => some (if s then -(mkRat n d) else mkRat n d)
  | _ => none

abbrev Vec := Rat × Rat × Rat

def Vec.minus (a b : Vec) : Vec := (a.1 - b.1, a.2.1 - b.2.1, a.2.2 - b.2.2)
def Vec.cross (a b : Vec) : Vec :=
  (a.2.1 * b.2.2 - a.2.2 * b.2.1, a.2.2 * b.1 - a.1 * b.2.2, a.1 * b.2.1 - a.2.1 * b.1)
def Vec.dot (a b : Vec) : Rat := a.1 * b.1 + a.2.1 * b.2.1 + a.2.2 * b.2.2

/-- Three F32 patterns as a vector. -/
def vecOf (ws : List Nat) : Option Vec := do
  let x ← (toVal .f32 (ws.getD 0 0)).rat
  let y ← (toVal .f32 (ws.getD 1 0)).rat
  let z ← (toVal .f32 (ws.getD 2 0)).rat
  pure (x, y, z)

/-- A rational as a value. -/
def ofRat (q : Rat) : Val := .num (decide (q < 0)) q.num.natAbs q.den

/-- An F32 pattern rounded from a value. -/
def toF32 (m : Rnd) (v : Val) : Nat := (roundTo .f32 m false v).1

/-- lo ≤ x of patterns and an exact value; false for a NaN. -/
def leRat (p : Nat) (q : Rat) : Bool := let v := toVal .f32 p; !v.isNan && !valLt (ofRat q) v
def ratLe (q : Rat) (p : Nat) : Bool := let v := toVal .f32 p; !v.isNan && !valLt v (ofRat q)

/-- R297: the exact hit (t, β, γ) of a ray and a triangle. -/
def triHit (o d : Vec) (v0 v1 v2 : Vec) (cull : Bool) (tmin tmax : Nat) : Option (Rat × Rat × Rat) :=
  let e1 := Vec.minus v1 v0
  let e2 := Vec.minus v2 v0
  let n := Vec.cross e1 e2
  let D := Vec.dot n d
  let q := Vec.minus o v0
  if D = 0 || (cull && decide (0 < D)) then none
  else
    let t := -(Vec.dot q n) / D
    let b := Vec.dot q (Vec.cross e2 d) / D
    let c := Vec.dot q (Vec.cross d e1) / D
    if 0 ≤ b ∧ 0 ≤ c ∧ b + c ≤ 1 ∧ leRat tmin t ∧ ratLe t tmax then some (t, b, c) else none

/-- One axis of the box test: entry and exit patterns; none is a miss. -/
def boxAxis (lo hi o d : Nat) : Option (Nat × Nat) :=
  let v (p : Nat) : Val := toVal .f32 p
  if [lo, hi, o, d].any (fun p => (v p).isNan) || valLt (v hi) (v lo) then none
  else if (v d).isZero then
    if !valLt (v o) (v lo) && !valLt (v hi) (v o) then some (0xFF800000, f32Inf) else none
  else
    let q (p : Nat) : Val := (divVal (subVal .rne (v p) (v o)).1 (v d)).1
    let a := q lo
    let b := q hi
    if a.isNan || b.isNan then none
    else
      let (x, y) := if valLt b a then (b, a) else (a, b)
      some (toF32 .rdn x, toF32 .rup y)

/-- R296: the entry distance of a box, or a miss. -/
def boxHit (box o d : List Nat) (tmin tmax : Nat) : Option Nat := do
  let g (l : List Nat) (k : Nat) : Nat := l.getD k 0
  let (nx, fx) ← boxAxis (g box 0) (g box 3) (g o 0) (g d 0)
  let (ny, fy) ← boxAxis (g box 1) (g box 4) (g o 1) (g d 1)
  let (nz, fz) ← boxAxis (g box 2) (g box 5) (g o 2) (g d 2)
  if (toVal .f32 tmin).isNan || (toVal .f32 tmax).isNan then none
  else
    let te := [nx, ny, nz].foldl (fminmax .f32 true) tmin
    let tx := [fx, fy, fz].foldl (fminmax .f32 false) tmax
    if valLt (toVal .f32 tx) (toVal .f32 te) then none else some te

/-! ### A step's working state (R290, R291) -/

/-- A candidate: patterns of t, β, γ and the primitive index. -/
structure Cand where
  t : Nat
  b : Nat
  c : Nat
  prim : Word
  deriving DecidableEq, Repr

structure TStep where
  s : State
  asid : Nat
  r : Ray
  /-- The fetched node's bytes and its LAYOUT immediate. -/
  buf : Option (List Byte × Nat)
  /-- Child list: tnear, index, pointer. -/
  kids : List (Nat × Nat × DWord)
  cand : Option Cand
  c : Bool

/-- How a micro-instruction leaves the step. -/
inductive TEnd
  /-- The step goes on at an address. -/
  | go (x : TStep) (pc : DWord)
  /-- The next FETCH begins the next step. -/
  | cut (x : TStep)
  | done (x : TStep)
  | callb (x : TStep) (code : Word) (pc : DWord)
  /-- STACK_OVERFLOW. -/
  | over (x : TStep)
  | fault (b : RayBad)

/-- MICRO_RESERVED. -/
def TEnd.reserved : TEnd := .fault (.microReserved, 0, none)

/-! ### Layouts and nodes (R292-R294) -/

def layKind (i : Nat) : Nat := i / 2 ^ 4 % 4
def layCount (i : Nat) : Nat := i / 2 ^ 6 % 8 + 1
def layA (i : Nat) : Nat := 4 * (i / 2 ^ 9 % 64)
def layB (i : Nat) : Nat := 4 * (i / 2 ^ 15 % 64)
def laySize (i : Nat) : Nat := 16 * (i % 16 + 1)

/-- R293: a LAYOUT word that declares a node. -/
def layOk (w : Nat) : Bool :=
  let i := w / 2 ^ 32
  let n := layCount i
  let (a, b) := match layKind i with | 0 => (24 * n, 8 * n) | 1 => (36 * n, 4 * n) | _ => (48, 16)
  w % 2 ^ 32 == 1 && i / 2 ^ 21 == 0 && layKind i != 3 && (layKind i != 2 || n == 1) &&
    decide (layA i + a ≤ laySize i) && decide (layB i + b ≤ laySize i)

/-- Words of the node buffer from a byte offset on. -/
def nodeWords (bs : List Byte) (off n : Nat) : List Nat := (List.range n).map fun k => field bs (off + 4 * k) 4

/-- The ray the tests use (R291): origin and direction. -/
def Ray.origin (r : Ray) : List Nat :=
  if r.x 6 = noIndex then [(r.word 0).toNat, (r.word 1).toNat, (r.word 2).toNat] else [(r.x 0).toNat, (r.x 1).toNat, (r.x 2).toNat]
def Ray.dir (r : Ray) : List Nat :=
  if r.x 6 = noIndex then [(r.word 3).toNat, (r.word 4).toNat, (r.word 5).toNat] else [(r.x 3).toNat, (r.x 4).toNat, (r.x 5).toNat]

/-! ### Micro-instructions -/

/-- Fields of a micro-instruction (R172). -/
structure Micro where
  mop : Nat
  xd : Nat
  xa : Nat
  xb : Nat
  res : Nat
  imm16 : Nat
  imm32 : Word
  deriving DecidableEq, Repr

def parseMicro (w : Nat) : Micro :=
  ⟨w % 64, w / 2 ^ 6 % 8, w / 2 ^ 9 % 8, w / 2 ^ 12 % 8, w / 2 ^ 15 % 2, w / 2 ^ 16 % 2 ^ 16, BitVec.ofNat 32 (w / 2 ^ 32)⟩

/-- The register fields, IMM16 and IMM32 are zero where asked. -/
def Micro.zero (m : Micro) (d a b i16 i32 : Bool) : Bool :=
  (!d || m.xd == 0) && (!a || m.xa == 0) && (!b || m.xb == 0) && (!i16 || m.imm16 == 0) && (!i32 || m.imm32 == 0)

/-- R173: a legal micro-instruction that may be executed. -/
def Micro.ok (m : Micro) : Bool :=
  m.res == 0 && match m.mop with
  | 0x02 | 0x0C | 0x0D | 0x0E => m.zero true true true true false
  | 0x03 => m.zero false true true false true
  | 0x04 => m.imm16 ≤ 2 && m.xb == 0 && (m.imm16 != 0 || m.imm32 == 0) && (m.imm16 != 1 || m.xa == 0)
  | 0x05 | 0x07 | 0x08 | 0x0A | 0x0B | 0x10 => m.zero true true true true true
  | 0x06 => m.zero true true true false true && m.imm16 ≤ 3
  | 0x09 => m.zero true true true false true && m.imm16 ≤ 1
  | 0x0F => m.xd == 0 && m.xb == 0 && m.imm16 ≤ 5 && (m.imm16 == 5 || m.xa == 0)
  | _ => false

/-- Jump target (R303). -/
def microTarget (pc : DWord) (i : Word) : DWord := pc + 8 * i.signExtend 64

/-- R294: the node that a FETCH of a ray reads, where it lies, and its layout; or a fault, or none for MICRO_RESERVED. -/
def State.fetchNode (s : State) (asid : Nat) (r : Ray) (pc : DWord) (m : Micro) : Except (Option RayBad) (List (Nat × Nat) × Nat) :=
  let nd := r.node
  if nd = 0 || nd.getLsbD 3 then .error none
  else match s.trRead r.core asid (microTarget pc m.imm32 + BitVec.ofNat 64 (8 * (nd.toNat % 8))) 8 with
    | .error b => .error (some b)
    | .ok bs =>
      let w := ofLeBytes bs
      if !layOk w then .error none
      else match s.trRange r.core asid false (nd &&& ~~~0xF) (laySize (w / 2 ^ 32)) with
        | .error b => .error (some b)
        | .ok ps => .ok (ps, w / 2 ^ 32)

/-- The bytes of a node as its words have been read. -/
def Ray.nodeRead (r : Ray) (bs : List Byte) : List Byte := r.got.foldl (fun bs (w, v) => overlay 0 bs (4 * w) (leBytes 4 v.toNat)) bs

/-- FETCH (R294). -/
def TStep.fetch (x : TStep) (pc : DWord) (m : Micro) : TEnd :=
  match x.s.fetchNode x.asid x.r pc m with
  | .error none => .reserved
  | .error (some b) => .fault b
  | .ok (ps, l) => .go { x with r := { x.r with got := [] }, buf := some (x.r.nodeRead (x.s.rdPieces ps), l) } (pc + 8)

/-- LDX (R295). -/
def TStep.ldx (x : TStep) (pc : DWord) (m : Micro) : TEnd :=
  match x.buf with
  | some (ns, l) =>
    if m.imm16 % 4 != 0 || laySize l ≤ m.imm16 then .reserved
    else .go { x with r := x.r.setX m.xd (BitVec.ofNat 32 (field ns m.imm16 4)) } (pc + 8)
  | none => .reserved

/-- MOVX (R295). -/
def TStep.movx (x : TStep) (pc : DWord) (m : Micro) : TEnd :=
  let v := match m.imm16 with | 0 => x.r.x m.xa | 1 => m.imm32 | _ => x.r.x m.xa + m.imm32
  .go { x with r := x.r.setX m.xd v } (pc + 8)

/-- BOXT (R296). -/
def TStep.boxt (x : TStep) (pc : DWord) : TEnd :=
  match x.buf with
  | some (ns, l) =>
    if layKind l != 0 then .reserved
    else
      let ks := (List.range (layCount l)).filterMap fun k =>
        let p := field ns (layB l + 8 * k) 8
        if p = 0 then none
        else (boxHit (nodeWords ns (layA l + 24 * k) 6) x.r.origin x.r.dir x.r.tmin x.r.tmax).map fun t => (t, k, BitVec.ofNat 64 p)
      .go { x with kids := ks, c := !ks.isEmpty } (pc + 8)
  | none => .reserved

/-- R297: the hits of a triangle node, in ascending index: index and exact (t, β, γ). -/
def triHits (ns : List Byte) (l : Nat) (r : Ray) (cull : Bool) : List (Nat × Rat × Rat × Rat) :=
  match vecOf r.origin, vecOf r.dir with
  | some o, some d => (List.range (layCount l)).filterMap fun k =>
    let vs := nodeWords ns (layA l + 36 * k) 9
    match vecOf vs, vecOf (vs.drop 3), vecOf (vs.drop 6) with
    | some a, some b, some c => (triHit o d a b c cull r.tmin r.tmax).map fun h => (k, h)
    | _, _, _ => none
  | _, _ => []

/-- The hit with the least t, the first of those equal. -/
def leastHit : List (Nat × Rat × Rat × Rat) → Option (Nat × Rat × Rat × Rat)
  | [] => none
  | h :: hs => match leastHit hs with
    | some h' => if h'.2.1 < h.2.1 then some h' else some h
    | none => some h

/-- TRIT (R297). -/
def TStep.trit (x : TStep) (pc : DWord) (m : Micro) : TEnd :=
  match x.buf with
  | some (ns, l) =>
    if layKind l != 1 then .reserved
    else
      let hs := triHits ns l x.r (m.imm16 / 2 % 2 == 1)
      let h := if m.imm16 % 2 = 1 then hs.head? else leastHit hs
      let cd := h.map fun (k, t, b, c) =>
        (⟨toF32 .rne (ofRat t), toF32 .rne (ofRat b), toF32 .rne (ofRat c), BitVec.ofNat 32 (field ns (layB l + 4 * k) 4)⟩ : Cand)
      .go { x with cand := cd, c := cd.isSome } (pc + 8)
  | none => .reserved

/-- A row of the instance matrix applied to a vector, exact before its one rounding; `w` adds the fourth column. -/
def matRow (m : List Nat) (v : List Nat) (w : Bool) : Nat :=
  let g (l : List Nat) (k : Nat) : Val := toVal .f32 (l.getD k 0)
  let p (k : Nat) : Val := (mulVal (g m k) (g v k)).1
  let add (a b : Val) : Val := (addVal .rne a b).1
  toF32 .rne (let s := add (add (p 0) (p 1)) (p 2); if w then add s (g m 3) else s)

/-- XINST (R298). -/
def TStep.xinst (x : TStep) (pc : DWord) : TEnd :=
  match x.buf with
  | some (ns, l) =>
    let inst : Word := BitVec.ofNat 32 (field ns (layB l + 8) 4)
    if layKind l != 2 || x.r.x 6 != noIndex || inst == noIndex then .reserved
    else
      let row (c : Nat) : List Nat := nodeWords ns (layA l + 16 * c) 4
      let vals := (List.range 3).map (fun c => matRow (row c) x.r.origin true) ++ (List.range 3).map (fun c => matRow (row c) x.r.dir false)
      let r := vals.zipIdx.foldl (fun r (v, k) => r.setX k (BitVec.ofNat 32 v)) x.r
      .go { x with r := (r.setX 6 inst).setDword 10 (BitVec.ofNat 64 (field ns (layB l) 8)) } (pc + 8)
  | none => .reserved

/-- Insert in descending order of a key: distance under ORDER, then index. -/
def insKid (fixed : Bool) (k : Nat × Nat × DWord) : List (Nat × Nat × DWord) → List (Nat × Nat × DWord)
  | [] => [k]
  | y :: ys =>
    let a := toVal .f32 k.1
    let b := toVal .f32 y.1
    if (!fixed && valLt b a) || ((fixed || !valLt a b) && decide (y.2.1 < k.2.1)) then k :: y :: ys else y :: insKid fixed k ys

/-- ORDER (R299). -/
def TStep.order (x : TStep) (pc : DWord) (m : Micro) : TEnd :=
  .go { x with kids := x.kids.foldr (insKid (m.imm16 == 1)) [] } (pc + 8)

/-- push(e) of R149; none ends the ray with STACK_OVERFLOW. -/
def TStep.push (x : TStep) (e : RayEntry) : Except RayBad (Option TStep) :=
  if x.r.stack.length < 64 then .ok (some { x with r := { x.r with stack := e :: x.r.stack } })
  else if x.r.spillCap < x.r.spillDepth + 32 then .ok none
  else match x.s.spill x.asid x.r x.r.spillDepth (x.r.stack.drop 32).reverse with
    | .error b => .error b
    | .ok s => .ok (some { x with s := s, r := { x.r.setDepth (x.r.spillDepth + 32) with stack := e :: x.r.stack.take 32 } })

/-- PUSH (R300). -/
def TStep.pushAll (x : TStep) (pc : DWord) : List (Nat × Nat × DWord) → TEnd
  | [] => .go { x with kids := [] } (pc + 8)
  | (t, _, p) :: ks => match x.push ⟨p, BitVec.ofNat 32 t, x.r.x 6⟩ with
    | .error b => .fault b
    | .ok none => .over x
    | .ok (some y) => y.pushAll pc ks

/-- pop() of R149: the top entry, or an empty stack. -/
def TStep.pop (x : TStep) : Except RayBad (Option (RayEntry × TStep)) :=
  match x.r.stack with
  | e :: es => .ok (some (e, { x with r := { x.r with stack := es } }))
  | [] =>
    let d := x.r.spillDepth
    let k := min 32 d
    match x.s.unspill x.asid x.r (d - k) k with
    | .error b => .error b
    | .ok [] => .ok none
    | .ok (e :: es) => .ok (some (e, { x with r := { x.r.setDepth (d - k) with stack := es } }))

/-- POP (R301): `fuel` bounds the entries that the stack can hold. -/
def TStep.popLoop (pc : DWord) : Nat → TStep → TEnd
  | 0, _ => .reserved
  | n + 1, x => match x.pop with
    | .error b => .fault b
    | .ok none => .go { x with c := false } (pc + 8)
    | .ok (some (e, y)) =>
      if valLt (toVal .f32 y.r.tmax) (toVal .f32 e.dist.toNat) && !(toVal .f32 y.r.tmax).isNan && !(toVal .f32 e.dist.toNat).isNan then
        TStep.popLoop pc n y
      else
        let take (r : Ray) : TEnd := .go { y with r := r.setDword 10 e.node, c := true } (pc + 8)
        if e.data = y.r.x 6 then take y.r
        else if e.data = noIndex then take (y.r.setX 6 noIndex)
        else .reserved

/-- HITR (R302). -/
def TStep.hitr (x : TStep) (pc : DWord) (m : Micro) : TEnd :=
  match x.cand with
  | some k =>
    if fcmp .f32 .lt k.t x.r.hitt then
      let w (n : Nat) : Word := BitVec.ofNat 32 n
      let inst := if x.r.x 6 = noIndex then m.imm32 else x.r.x 6
      let r := (((((x.r.setWord 16 (w k.t)).setWord 7 (w k.t)).setWord 17 k.prim).setWord 19 (w k.b)).setWord 20 (w k.c)).setWord 18 inst
      .go { x with r := r, cand := none, c := true } (pc + 8)
    else .go { x with cand := none, c := false } (pc + 8)
  | none => .go { x with c := false } (pc + 8)

/-- JCND's conditions (R303). -/
def TStep.cond (x : TStep) (m : Micro) : Bool :=
  let kind (k : Nat) : Bool := match x.buf with | some (_, l) => layKind l == k | none => false
  match m.imm16 with
  | 0 => x.c
  | 1 => !x.c
  | 2 => kind 0
  | 3 => kind 1
  | 4 => kind 2
  | _ => x.r.x m.xa != 0

/-- One micro-instruction at `pc`. -/
def TStep.micro (x : TStep) (pc : DWord) (m : Micro) : TEnd :=
  if !m.ok then .reserved
  else match m.mop with
  | 0x02 => x.fetch pc m
  | 0x03 => x.ldx pc m
  | 0x04 => x.movx pc m
  | 0x05 => x.boxt pc
  | 0x06 => x.trit pc m
  | 0x07 => x.xinst pc
  | 0x08 => .go { x with r := x.r.setX 6 noIndex } (pc + 8)
  | 0x09 => x.order pc m
  | 0x0A => x.pushAll pc x.kids
  | 0x0B => TStep.popLoop pc (x.r.stack.length + x.r.spillDepth + 1) x
  | 0x0C => x.hitr pc m
  | 0x0D => if x.r.shade.isSome then .reserved else .callb x m.imm32 (pc + 8)
  | 0x0E => .go x (microTarget pc m.imm32)
  | 0x0F => .go x (if x.cond m then microTarget pc m.imm32 else pc + 8)
  | _ => .done x

/-- R290: a step from `pc` on, at most 64 micro-instructions; `n` counts those left and one more. -/
def TStep.run : Nat → Bool → DWord → TStep → TEnd
  | 0, _, _, _ => .reserved
  | n + 1, first, pc, x =>
    match x.s.trRead x.r.core x.asid pc 8 with
    | .error b => .fault b
    | .ok bs =>
      let m := parseMicro (ofLeBytes bs)
      if m.mop = 2 && !first then .cut { x with r := x.r.setDword 8 pc }
      else if n = 0 then .reserved
      else match x.micro pc m with
        | .go x pc => TStep.run n false pc x
        | e => e

/-! ### Rays -/

def State.ray (s : State) (k : Nat) : Option Ray := Tab.look s.rays k
def State.setRay (s : State) (k : Nat) (r : Ray) : State := { s with rays := Tab.put s.rays k r }
/-- A ray has finished. -/
def State.dropRay (s : State) (k : Nat) : State := { s with rays := Tab.del s.rays k }

/-- A record of a ray (R361, R364): unit Tongs of its core, AUX64 its slot. -/
def State.rayRec (s : State) (r : Ray) (b : RayBad) (kind : Nat) (aux : Nat) (w : Option Waiter) : FaultRec :=
  let l := s.launch r.launch
  { ctx := l.ctx, cause := b.1, kind := kind, path := 4, seq := 0,
    source := sourceOf 2 (coreidOf r.core), launch := l.lr.id, team := BitVec.ofNat 32 (s.team r.team).idx, group := 0xFF,
    pfkind := match b.2.2 with | some k => k.code | none => 0xFF, asid := (s.ctx l.ctx).asid, flm := 0,
    aux32 := BitVec.ofNat 32 aux, pc := r.progpc, addr := b.2.1, time := s.time (dieOf r.core), aux64 := r.slot, waiter := w }

/-- Whether the resident service serves a fault of a ray's record read or count as a page fault of the launch (R152, R285). -/
def serviced (b : RayBad) : Bool := b.1 == .pageFault && (b.2.2 == some .notPresent || b.2.2 == some .write)

/-- A relaunched lane ends without its thread record: its thread reports fault code 4 (R132). -/
def State.failThread (s : State) (l : Nat) (glid : Word) : State :=
  match (s.launch l).replay with
  | some (n, _) => { s with replays := Tab.upd s.replays n fun (r : Replay) =>
      { r with threads := r.threads.map fun (t : RThread) => if t.glid = glid && t.placed && !t.done then { t with fault := 4 } else t } }
  | none => s

/-- The lane of a shaded ray ends without its thread record, and CALL_TARGET goes to the context (R286, R306); a lane of a
terminated team has ended already (R369). -/
def State.endShaded (s : State) (r : Ray) : State :=
  match r.shade with
  | none => s
  | some (_, y) =>
    if (s.team r.team).st = .terminated then s
    else
      let s := (s.record (s.rayRec r (.callTarget, 0, none) 5 0 none)).failThread r.launch y.lane.glid
      (s.dropStack r.team y.lane).endTeam r.team

/-- A ray ends uncounted: lost, or at a fault that is not resumed. Its DELIV = 1 lane ends. -/
def State.endRay (s : State) (k : Nat) (r : Ray) : State := (s.dropRay k).endShaded r

/-- The issuing group's EFENCE no longer waits for a ray whose record has been read, or that is lost (R113). -/
def State.rayTaken (s : State) (r : Ray) : State := if r.first && r.shade.isNone then s.cmdDone r.g else s

/-- A lost ray (R151, R152, R285): RAY_LOST names an address. -/
def State.loseRay (s : State) (k : Nat) (r : Ray) (a : DWord) : State :=
  ((s.rayTaken r).record (s.rayRec r (.rayLost, a, none) 5 0 none)).endRay k r

/-- A final record has been written: the ray is counted or delivered next (R285, R286). -/
def State.finalRay (s : State) (k : Nat) (r : Ray) : State :=
  s.setRay k { r with stack := [], st := if r.shade.isSome then .delivering else .counting }

/-- Write the ray's record with a STATUS; a failed write loses the ray (R151). -/
def State.writeRay (s : State) (asid k : Nat) (r : Ray) (status : Nat) (next : State → Ray → State) : State :=
  let r := r.setStatus status
  match s.trWrite r.core asid r.slot r.bytes with
  | .ok s => next s r
  | .error _ => s.loseRay k r r.slot

/-- A FAULTING STEP (R151, R306): the start-of-step stack is spilled, the record is written, and the fault ends the ray or, a
PAGE_FAULT of any kind, waits for its RESOLVE (R362, R365; log entry 29). -/
def State.rayFault (s : State) (asid k : Nat) (r : Ray) (b : RayBad) : State :=
  match s.spill asid r r.spillDepth r.stack.reverse with
  | .error (_, a, _) =>
    (s.record (s.rayRec r (.spillLost, a, none) 5 b.1.code none)).writeRay asid k { r with stack := [] } 5 fun s r => s.finalRay k r
  | .ok s =>
    let r' := { r.setDepth (r.spillDepth + r.stack.length) with stack := [] }
    s.writeRay asid k r' 3 fun s r =>
      if b.1 = .pageFault then (s.setRay k { r with st := .waiting }).record (s.rayRec r b 0 0 (some (.ray k)))
      else (s.record (s.rayRec r b 5 0 none)).endRay k r

/-- What a step leaves (R290, R304, R305): a ray of a terminated team that reaches CALLB ends, with no count. -/
def State.afterStep (s : State) (asid k : Nat) (r : Ray) (e : TEnd) : State :=
  match e with
  | .go x _ | .cut x => x.s.setRay k { x.r with st := .running }
  | .fault b => s.rayFault asid k r b
  | .over x => x.s.writeRay asid k x.r 4 fun s r => s.finalRay k r
  | .done x =>
    let r := (x.r.setDword 8 r.progpc)
    x.s.writeRay asid k { r with stack := [] } (if r.hitt = f32Inf then 2 else 1) fun s r => s.finalRay k r
  | .callb x code pc =>
    match x.s.spill asid x.r x.r.spillDepth x.r.stack.reverse with
    | .error b => s.rayFault asid k r b
    | .ok s =>
      let y := ((x.r.setDepth (x.r.spillDepth + x.r.stack.length)).setDword 8 pc).setX 7 code
      s.writeRay asid k { y with stack := [] } 6 fun s r =>
        if (s.team r.team).st = .terminated then s.dropRay k else s.setRay k { r with st := .counting }

/-- One step of a ray that is loaded in an engine; it counts for its context (R385). -/
def State.rayStep (s : State) (k : Nat) (r : Ray) : State :=
  let asid := s.asidL r.launch
  let s := s.bump (s.launch r.launch).ctx 7
  if !r.legal then s.rayFault asid k { r with stack := [] } (.microReserved, 0, none)
  else s.afterStep asid k r (TStep.run 65 true r.progpc ⟨s, asid, r, none, [], none, false⟩)

/-- The record is read on the TR path; what fails the read is served, or loses the ray (R152). -/
def State.readRay (s : State) (k : Nat) (r : Ray) (next : State → Ray → State) : State :=
  match s.trRead r.core (s.asidL r.launch) r.slot 128 with
  | .ok bs => next (s.keepTr r.core (s.asidL r.launch) r.slot) { r with words := wordsOf bs 32, got := [] }
  | .error b =>
    if serviced b then (s.setRay k { r with st := .waiting }).record (s.rayRec r b 0 0 (some (.ray k)))
    else s.loseRay k r r.slot

/-- The ray's first step: Tongs fills its fields (R284, R291). -/
def Ray.init (r : Ray) (launchId glid : Word) : Ray :=
  let r := ((r.setWord 21 launchId).setWord 22 glid).setWord 15 (BitVec.ofNat 32 ((r.word 15).toNat % 2 ^ 8))
  let r := ((((r.setWord 16 (BitVec.ofNat 32 f32Inf)).setWord 17 noIndex).setWord 18 noIndex).setWord 19 0).setWord 20 0
  (List.range 8).foldl (fun r k => r.setX k (if k = 6 then noIndex else 0)) r

/-- Whether a core's Tongs serves a launch: its quad belongs to the launch's partition (R152). -/
def State.servesLaunch (s : State) (core l : Nat) : Bool :=
  let p := (s.vf (s.ctx (s.launch l).ctx).vf).part
  decide (core < 288) && (s.part p).quads.contains (quadOf core)

/-- The physical words of the node that the next step of a ray reads: none where it begins with no FETCH, or its FETCH faults. -/
def State.nodeWords (s : State) (r : Ray) : List Nat :=
  let asid := s.asidL r.launch
  match s.trRead r.core asid r.progpc 8 with
  | .error _ => []
  | .ok bs =>
    let m := parseMicro (ofLeBytes bs)
    if m.mop != 2 || !m.ok then []
    else match s.fetchNode asid r r.progpc m with
      | .ok (ps, _) => ps.flatMap fun (a, n) => (List.range (n / 4)).map fun k => a + 4 * k
      | .error _ => []

/-- Whether a range that Tongs reads or writes lies behind a link that retrains, which holds the access (R409). -/
def State.trHolds (s : State) (r : Ray) (va : DWord) (n : Nat) : Bool := s.heldC r.core (s.asidL r.launch) va n

/-- Whether a step of a running ray meets a link that retrains: at its program, its record, the top of its spilled stack, or its
node. -/
def State.stepHeld (s : State) (r : Ray) (ws : List Nat) : Bool :=
  s.trHolds r r.progpc 8 || s.trHolds r r.slot 128 || s.trHolds r (r.spillAt (r.spillDepth - 64)) (16 * 128) || ws.any fun a => s.linkHolds a 4

/-- A running ray's step: its FETCH reads one more word of the node, a free choice among those left (R307), or the step is run. -/
def State.rayRun (s : State) (k : Nat) (r : Ray) : State :=
  let ws := s.nodeWords r
  let left := (List.range ws.length).filter fun w => (Tab.look r.got w).isNone
  if s.stepHeld r ws then s
  else if left.isEmpty then s.rayStep k r
  else
    let w := left.getD (Config.freeNat s.free % left.length) 0
    (s.takeFree.keepTr r.core (s.asidL r.launch) (r.node &&& ~~~0xF)).setRay k { r with got := Tab.put r.got w (BitVec.ofNat 32 (s.rdLe (ws.getD w 0) 4)) }

/-- `TRAVERSAL_STEP` (R290): a released ray's record is read on an engine of its launch; then it steps where it runs. -/
def execTraversalStep (ray core : Nat) (s : State) : Out :=
  match s.ray ray with
  | none => .next s
  | some r => s.ticking core fun s =>
    if r.st = .queued && r.first && s.servesLaunch core r.launch then
      let glid := r.word 22
      let r := { r with core := core }
      if s.trHolds r r.slot 128 then .next s
      else .next (s.readRay ray r fun s y =>
        (s.rayTaken r).setRay ray { y.init (s.launch r.launch).lr.id glid with st := .running, first := false })
    else if r.st = .running && r.core = core then .next (s.rayRun ray r)
    else .next s

/-- `RAY_RESUME` (R152): an engine of the launch reads the record and reloads the stack; the step is executed again. -/
def execRayResume (ray core : Nat) (s : State) : Out :=
  match s.ray ray with
  | none => .next s
  | some r => s.ticking core fun s =>
    if r.st = .queued && !r.first && s.servesLaunch core r.launch && !s.trHolds { r with core := core } r.slot 128 then
      .next (s.readRay ray { r with core := core } fun s y =>
        let y := y.setStatus 0
        let n := min 64 y.spillDepth
        if !y.legal then s.rayStep ray y
        else match s.unspill (s.asidL r.launch) y (y.spillDepth - n) n with
          | .error b => s.rayFault (s.asidL r.launch) ray y b
          | .ok es => s.setRay ray { y.setDepth (y.spillDepth - n) with st := .running, stack := es })
    else .next s

/-- `CALLBACK_RESUME` (R305): the STATUS byte of a suspended ray's record holds 0, so the ray is queued. -/
def execCallbackResume (ray : Nat) (s : State) : Out :=
  match s.ray ray with
  | none => .next s
  | some r =>
    if r.st != .callback || s.still r.core then .next s
    else match s.translateC r.core (s.asidL r.launch) (r.slot.toNat + 61) { path := some 4 } with
      | .ok pa _ => if s.rdByte pa = 0 then .next (s.setRay ray { r.setStatus 0 with st := .queued }) else .next s
      | _ => .next s

/-- `RAY_COUNT` (R285, R305): the count lands in the counter's home; a CALLBACK ray stays suspended, any other is finished. -/
def execRayCount (ray : Nat) (s : State) : Out :=
  match s.ray ray with
  | none => .next s
  | some r =>
    if r.st != .counting || s.still r.core || s.trHolds r r.counter 8 then .next s
    else
      let after (s : State) : State := if r.status = 6 then s.setRay ray { r with st := .callback } else s.dropRay ray
      match s.trRange r.core (s.asidL r.launch) true r.counter 8 with
      | .ok ps =>
        let pa := (ps.headD (0, 0)).1
        .next (after (s.wrLe pa 8 ((s.rdLe pa 8 + 1) % 2 ^ 64)))
      | .error b =>
        if serviced b then .next ((s.setRay ray { r with st := .waiting }).record (s.rayRec r b 0 0 (some (.ray ray))))
        else .next (after (s.record (s.rayRec r (.rayLost, r.counter, none) 5 0 none)))

/-- R365: a waiting ray whose fault has been served: a record to resume, a first step, or a count to repeat. -/
def Ray.served (r : Ray) : Ray :=
  { r with st := if !r.first && (r.status == 1 || r.status == 2 || 4 ≤ r.status) then .counting else .queued }

/-- R286: the function a shaded ray's lane enters; none ends the lane. -/
def State.shaderOf (s : State) (r : Ray) (table : DWord) : Option Nat :=
  let rd (a : DWord) : Option Nat := match s.trRead r.core (s.asidL r.launch) a 4 with | .ok bs => some (ofLeBytes bs) | .error _ => none
  match rd table with
  | none => none
  | some n =>
    let i := (r.word 18).toNat
    if r.status = 1 then (if i < n then rd (table + 8 + BitVec.ofNat 64 (4 * i)) else none) else rd (table + 4)

/-- R153: what a delivered lane carries. -/
def Ray.carried (r : Ray) (y : SwLane) : SwLane :=
  let v (k : Nat) (w : Word) : Nat × Word := (k, w)
  { y with
    key := (r.word 18).toNat % 2 ^ 16
    lane := { y.lane with glid := r.word 22 }
    regs := [v 0 (r.word 16), v 1 (r.word 17), v 2 (r.word 18), v 3 (r.word 19), v 4 (r.word 20), v 5 (r.word 23),
             v 6 (r.slot.setWidth 32), v 7 (r.slot.extractLsb' 32 32)] ++ y.regs }

/-- `HIT_DELIVERY` (R153, R286): the lane enters its team's Swage; delivery waits while the team is pre-empted, and a ray of a
terminated team is not delivered (R369). -/
def execHitDelivery (ray : Nat) (s : State) : Out :=
  match s.ray ray with
  | none => .next s
  | some r => match r.st, r.shade with
    | .delivering, some (table, y) =>
      if (s.team r.team).st = .terminated then .next (s.dropRay ray)
      else if (s.team r.team).st != .running then .next s
      else s.cross (dieOf (s.team r.team).core) (.hit ray) fun s =>
        let s := s.dropRay ray
        match s.shaderOf r table with
        | some f => match s.function r.launch f with
          | some _ => .next (s.enterFn r.team f (r.carried y))
          | none => .next (s.endShaded r)
        | none => .next (s.endShaded r)
    | _, _ => .next s

/-! ### Release, RTRACE and RTRACE.SHADE (R284-R286) -/

/-- A ray as it is released. -/
def Ray.new (l t g core : Nat) (slot counter : DWord) (shade : Option (DWord × SwLane)) (glid : Word) : Ray :=
  ⟨l, t, g, slot, counter, shade, .queued, core, (List.replicate 32 (0 : Word)).set 22 glid, [], true, []⟩

/-- The rays of an RTRACE.SHADE are released: each is queued for an engine (R106, R286). -/
def State.releaseShaded (s : State) (ks : List Nat) : State :=
  { s with rays := s.rays.map fun (k, (r : Ray)) => (k, if ks.contains k && r.st == RayState.held then { r with st := .queued } else r) }

/-- The rays of a released RTRACE. -/
def State.releaseRays (s : State) (g : Nat) (lanes : List (Word × DWord)) (counter : DWord) : State :=
  let x := s.group g
  let s := lanes.foldl (fun s (glid, a) =>
    s.setRay (Tab.fresh s.rays) (Ray.new (s.launchOf g) x.team g (s.coreOf g) a counter none glid)) s
  s.modGroup g fun x => { x with outCmd := x.outCmd + lanes.length }

/-- The slots of the active lanes, with their checks at issue (R284). -/
def State.rtraceSlots (s : State) (m : Word) (vs : List (Tab Nat)) (counter : Option DWord) : Try (List (Nat × DWord)) :=
  let ads := (lanesOf m).map fun l => (l, (BitVec.ofNat 64 (Tab.get 0 (vs.getD 0 []) l) : DWord))
  let far (a : DWord) : Bool := a.toNat / 2 ^ 58 != 0
  let range := ads.filter fun (_, a) => far a || (match counter with | some c => far c | none => false)
  let mis := ads.filter fun (_, a) => a.toNat % 128 != 0 || (match counter with | some c => c.toNat % 8 != 0 | none => false)
  let tag (l : List (Nat × DWord)) : List (Nat × DWord × Option PfKind) := l.map fun (k, a) => (k, a, none)
  if !range.isEmpty then .error (s.trapLanes .addrRange 4 (tag range))
  else if !mis.isEmpty then .error (s.trapLanes .misaligned 4 (tag mis))
  else .ok ads

/-- The snapshot a command reads: the same in every lane. -/
def snapVal (m : Word) (vs : List (Tab Nat)) (k : Nat) : DWord := BitVec.ofNat 64 (Tab.get 0 (vs.getD k []) ((lanesOf m).headD 0))

/-- `RTRACE` (R284): DELIV = 0; the rays are released at the commit. -/
def execRtrace (o : LaneOp) (s : State) : Out :=
  s.laneWord o.h .other (usesOf (ruleRtrace false o) 32 o) none fun g m s =>
    if m = 0 then .next (s.laneDone g o.h)
    else
      let (t, vs) := s.readUses g m (usesOf (ruleRtrace false o) 32 o m)
      let c := snapVal m vs 1
      match t.rtraceSlots m vs (some c) with
      | .error s => .next s
      | .ok ads =>
        let ids := ads.map fun (l, a) => ((Tab.get Lane.zero (s.group g).lanes l).glid, a)
        .next (((t.popAll g m (usesOf (ruleRtrace false o) 32 o m)).hold g (.cmd (.rtrace ids c))).laneDone g o.h)

/-- The sources of RTRACE.SHADE: slots of the active lanes, the table, continuations of every lane not exited. -/
def shadeUses (x : Group) (o : LaneOp) (m : Word) : List Use :=
  if m = 0 then [] else [⟨o.a, .raw, 32, 2, m⟩, ⟨o.b, .raw, 32, 2, m⟩, ⟨o.c, .int, 32, 1, x.present⟩]

/-- The checks and pushes of a shading call, the dissolution of the group, and its rays, which are released behind what the group
has handed over before them (R106, R112, R286). -/
def State.shade (s after : State) (g : Nat) (m : Word) (regs : List Nat) (table : DWord) (ads : List (Nat × DWord)) (cont : Nat → Nat) : Try State :=
  let x := s.group g
  let t := x.team
  let l := s.launchOf g
  let alive := x.present
  let lane (k : Nat) : Lane := Tab.get Lane.zero x.lanes k
  let bad := maskWhere alive fun k => (s.function l (cont k)).isNone
  let deep := maskWhere m fun k => decide (8 ≤ (lane k).stack.length)
  let stay := alive &&& ~~~m
  if bad != 0 then s.callTrap .callTarget bad
  else if regs.any fun r => decide (16 * x.blocks ≤ r) then s.callTrap .regUnalloc alive
  else if deep != 0 then s.callTrap .callDepth deep
  else if stay != 0 && decide (64 ≤ (s.team t).recs.length) then s.callTrap .callDepth m
  else if !x.mayDissolve then .error (s.waitFor 11)
  else
    let (team, r) := (after.team t).suspend (count32 m) ((lanesOf stay).map fun k => (cont k, x.carry regs 0 k))
    let (s, ks) := ads.foldl (fun ((s, ks) : State × List Nat) (k, a) =>
      let y := x.carry regs 0 k
      let y := { y with lane := { y.lane with stack := (cont k, r) :: y.lane.stack } }
      let n := Tab.fresh s.rays
      (s.setRay n { Ray.new l t g (s.team t).core a 0 (some (table, y)) y.lane.glid with st := .held }, ks ++ [n])) (after.setTeam t team, [])
    .ok ((s.modGroup g fun y => { y with inflight := y.inflight ++ [.cmd (.shade ks)] }).leave g)

/-- RTRACE.SHADE stands as the last word of a block whose LRUN carries END, or again at its word after that commit. -/
def State.shadePlaced (s : State) (g : Nat) : Bool :=
  match (s.group g).blk with | some b => b.ends && decide (b.n ≤ 1) | none => false

/-- `RTRACE.SHADE` (R267, R286). -/
def execRtraceShade (o : LaneOp) (s : State) : Out :=
  let x := s.group (s.gid.getD 0)
  s.laneWord o.h .other (shadeUses x o) none fun g m s =>
    if !s.shadePlaced g then .next (s.raise .tracePlacement { flm := m })
    else
      let (t, vs) := s.readUses g m (shadeUses x o m)
      match t.rtraceSlots m vs none with
      | .error s => .next s
      | .ok ads =>
        t.callCommit g m fun s =>
          match s.callSite g (LaneOp.xfield o 2 11) m with
          | .error s => .next s
          | .ok regs =>
            let cont (l : Nat) : Nat := Tab.get 0 (vs.getD 2 []) l
            if regs.any fun r => decide (r < 8) then .next (s.raise .callTable { flm := m })
            else if !s.callReady g x.present regs then .next (s.waitFor 11)
            else if let some r := x.mismatch (liveKeys regs x.present) then .next (s.meetUpset g r)
            else match s.fnsRead g ((lanesOf x.present).map fun l => (l, cont l)) with
              | .error s => .next s
              | .ok _ => ofTry (s.shade (s.popFinal g m (shadeUses x o m)) g m regs (snapVal m vs 1) ads cont)

end Sys2Proof.Machine
end

