-- ==== Sys2Proof/Machine/Preempt.lean ====
section
/-! DEFINITION. Pre-emption (R39, R40, R62, R269, R371-R374): cores are vacated, teams are saved with their images, and what
parks and unparks a group (R334, R361, R365, R367). A saved team keeps its state in the machine beside its image (log entry 32). -/

namespace Sys2Proof.Machine

/-! ### The save area (R372, R375) -/

/-- The partition of a team. -/
def State.partOfTeam (s : State) (t : Nat) : Nat := s.partOf (s.team t).launch

/-- The areas that the images of a partition's teams take. -/
def State.imageAreas (s : State) (p : Nat) : List (Nat × Nat) :=
  s.teams.filterMap fun (k, (t : Team)) => match t.image with
    | some a => if s.partOfTeam k = p then some (a, s.imageLen k) else none
    | none => none

/-- The lowest start at which `n` bytes fit beside the areas taken: the area's base, or the end of one of them. -/
def areaFor (base size n : Nat) (taken : List (Nat × Nat)) : Option Nat :=
  let starts := base :: taken.map fun (a, k) => a + k
  let ok := starts.filter fun a => base ≤ a && decide (a + n ≤ base + size) && !taken.any fun (b, k) => meets a n b k
  match ok with
  | [] => none
  | a :: as_ => some (as_.foldl min a)

/-- Room for the images of teams, one after another; none where they do not fit. -/
def State.roomFor (s : State) (p : Nat) : List Nat → List (Nat × Nat) → Option (List (Nat × Nat))
  | [], _ => some []
  | t :: ts, taken =>
    let n := s.imageLen t
    match areaFor (s.part p).saveBase ((s.part p).saveMib * 2 ^ 20) n taken with
    | none => none
    | some a => (s.roomFor p ts (taken ++ [(a, n)])).map fun as_ => (t, a) :: as_

/-! ### Vacating (R39) -/

/-- The group stops: its open region is discarded with neither counter changed; a wait of R197 stays. A parked group whose
region goes resumes at that region (R36, R41, R367). -/
def State.stopGroup (s : State) (g : Nat) : State :=
  let was := (s.group g).reg.opened
  (s.discard g).modGroup g fun x => { x with walks := [], sch := if was then { x.sch with resume := .region } else x.sch }

/-- A ray of a vacated core stops at its step boundary and is written as RUNNING (R152); its stack or its record may be
lost (R151). -/
def State.stopRay (s : State) (k : Nat) : State :=
  match s.ray k with
  | none => s
  | some r =>
    let asid := s.asidL r.launch
    match s.spill asid r r.spillDepth r.stack.reverse with
    | .error (c, a, _) =>
      (s.record (s.rayRec r (.spillLost, a, none) 5 c.code none)).writeRay asid k { r with stack := [] } 5 fun s r => s.finalRay k r
    | .ok s =>
      let r := { r.setDepth (r.spillDepth + r.stack.length) with stack := [] }
      s.writeRay asid k r 0 fun s r => s.setRay k { r with st := .queued }

/-- A team leaves its core: its groups stop, and its copies and commands drain (R39, R371). -/
def State.vacateTeam (s : State) (t image : Nat) : State :=
  let s := (s.members t).foldl (fun s (_, g) => s.stopGroup g) s
  let core := (s.team t).core
  let s := s.modCore core fun c =>
    { c with arb := c.arb.filter fun | .sgrow g _ _ => g / 16 != t
             traced := match c.traced with | some g => if g / 16 == t then none else some g | none => none }
  s.modTeam t fun x => { x with st := .vacating, image := some image }

/-- The rays on a core's Tongs stop. -/
def State.stopRays (s : State) (core : Nat) : State :=
  (s.rays.filter fun (_, (r : Ray)) => r.core == core && r.st == .running).foldl (fun s (k, _) => s.stopRay k) s

/-- Teams that run on a core, by key. -/
def State.runningOn (s : State) (core : Nat) : List Nat :=
  (s.teams.filter fun (_, (t : Team)) => t.st == .running && t.core == core).map Prod.fst

/-- A core is vacated, where the images of its teams fit (R372), and taken from their launches (R39). -/
def State.vacateCore (s : State) (core : Nat) : Option State :=
  let ts := s.runningOn core
  let p := s.partOfTeam (ts.headD 0)
  (s.roomFor p ts (s.imageAreas p)).map fun as_ =>
    let s := ((as_.foldl (fun s (t, a) => s.vacateTeam t a) s).stopRays core)
    (ts.map fun t => (s.team t).launch).dedup.foldl (fun s l => s.modLaunch l fun x => { x with barred := core :: x.barred }) s

/-- Cores are vacated in the order given until one does not fit: the state, and how many were. -/
def State.vacateCores (s : State) : List Nat → State × Nat
  | [] => (s, 0)
  | c :: cs => match s.vacateCore c with
    | none => (s, 0)
    | some s => let (s, n) := s.vacateCores cs; (s, n + 1)

/-- Cores that running teams of a kind hold, in descending coreid. -/
def State.coresHeld (s : State) (p : Team → Bool) : List Nat :=
  ((List.range 288).filter fun c => s.teams.any fun (_, (t : Team)) => t.st == .running && t.core == c && p t).reverse

/-- Whether an Anvil queue has drained but for gated commands that still wait (R269). -/
def State.anvilDrained (s : State) (g : Nat) : Bool :=
  let q := (s.group g).anvil
  (pickCmd [] q).isNone && match firstGated q with | some c => s.gateOf g c == .wait | none => true

/-- What a group has handed over and nothing but a barrier's phase holds back: a second arrival at it, and what stands behind a
fence after that one, is saved with the group. -/
def State.toDrain (s : State) (g : Nat) : Bool → List Held → List Held
  | _, [] => []
  | b, .arrive k :: hs => if s.mayArrive g k then .arrive k :: s.toDrain g b hs else s.toDrain g true hs
  | b, .fence x y sc :: hs => if b then [] else .fence x y sc :: s.toDrain g b hs
  | b, h :: hs => h :: s.toDrain g b hs

/-- Whether a team's copies and commands have drained, and what its groups handed over has performed (R39, R91, R269, R289). -/
def State.drained (s : State) (t : Nat) : Bool :=
  let x := s.team t
  !s.still x.core && x.copies.isEmpty && x.copyq.isEmpty && !(s.groups.any fun (_, y) => y.gone && y.team == t) &&
    (s.members t).all fun (_, g) => s.anvilDrained g && (s.toDrain g false (s.group g).inflight).isEmpty

/-- Insert an index in ascending order. -/
def insIdx (i : Nat) : List Nat → List Nat
  | [] => [i]
  | j :: js => if i ≤ j then i :: j :: js else j :: insIdx i js

/-- The lock bits that a team's groups hold on its core: bit and group index (R374). -/
def State.heldBits (s : State) (t : Nat) : Tab Nat :=
  (s.core (s.team t).core).locks.filterMap fun (b, l) => match l with | .held g => if g / 16 = t then some (b, g % 16) else none | _ => none

/-- THE SAVE: the image is written, the core is free of the team, and the team is requeued (R371, R372). -/
def State.saveTeam (s : State) (t : Nat) : State :=
  let x := s.team t
  let bits := s.heldBits t
  let s := s.wrBytes (x.image.getD 0) (s.imageOf t)
  let s := s.freeWindow t
  let used := (x.groups.map fun (_, g) => (s.group g).blocks).sum
  let s := s.modCore x.core fun c =>
    { c with used := c.used - used, locks := c.locks.filter fun (_, l) => match l with | .held g => g / 16 != t | _ => true }
  let s := s.modTeam t fun y => { y with st := .saved, locks := bits }
  s.modLaunch x.launch fun l => { l with requeued := insIdx x.idx l.requeued }

/-- Every vacating team that has drained is saved. -/
def State.saveDrained (s : State) : State :=
  (s.teams.filter fun (_, (t : Team)) => t.st == .vacating).foldl (fun s (k, _) => if s.drained k then s.saveTeam k else s) s

/-! ### Deadlock among groups in SGROW (R47) -/

/-- Whether a group waits in SGROW, and nothing else keeps it. -/
def Group.growing (x : Group) : Bool :=
  !x.sch.parked && !x.sch.halted && match x.sch.wait with | some (.sgrow _) => true | _ => false

/-- Whether the arbiter can grant its first request. -/
def State.arbFree (s : State) (core : Nat) : Bool :=
  match (s.core core).arb with
  | .sgrow g b _ :: _ => decide ((s.core core).used + (b - (s.group g).blocks) ≤ Config.nBlocks)
  | [] => true

/-- The order of R47: launch sequence number, then team index. -/
def State.latestTeam (s : State) (ts : List Nat) : Nat :=
  ts.foldl (fun a t =>
    let x := s.team a
    let y := s.team t
    if x.launch < y.launch || (x.launch == y.launch && decide (x.idx < y.idx)) then t else a) (ts.headD 0)

/-- `SGROW_DEADLOCK_PREEMPT` (R47). -/
def execSgrowDeadlockPreempt (core : Nat) (s : State) : Out :=
  let on := s.groupsOn core
  let ts := s.runningOn core
  if on.isEmpty || ts.isEmpty || !(on.all fun (_, g) => g.growing) || !(s.core core).quar.isEmpty || s.arbFree core then .next s
  else
    let t := s.latestTeam ts
    let p := s.partOfTeam t
    match s.roomFor p [t] (s.imageAreas p) with
    | some ((_, a) :: _) => .next (s.vacateTeam t a)
    | _ => .next s

/-! ### Parking and unparking (R334, R361, R365, R367) -/

/-- PARK of one group: its region is discarded with neither counter changed, or it is parked at its wait. -/
def State.parkGroup (s : State) (g : Nat) : State :=
  if (s.group g).sch.parked then s
  else (s.discard g).modGroup g fun x =>
    { x with walks := [], thr := { x.thr with pfx := none },
             sch := { x.sch with parked := true, cause := none, resume := .here, ready := 0, promoted := none } }

/-- A group parked within a lane block re-enters its region, which was kept so far: it never resumes in the middle of the block
(R41; log entry 13). One between regions stands at its word (R260). -/
def State.reenter (s : State) (g : Nat) : State :=
  let x := s.group g
  if x.blk.isSome && x.reg.opened && x.sch.resume == .here then s.discard g else s

/-- A parked group resumes as its cause decides (R36, R37, R41, R361); REGION_LIVELOCK clears the fault counter (R362). -/
def State.unparkGroup (s : State) (g : Nat) : State :=
  let s := s.reenter g
  let x := s.group g
  let y := { x with
    fault := if x.sch.cause == some .regionLivelock then 0 else x.fault
    mon := x.mon.restore (s.watched (some g) x.team x.mon)
    sch := { x.sch with parked := false, cause := none, resume := .here } }
  match x.sch.resume with
  | .here | .region => s.setGroup g y
  | .after => s.setGroup g { y with thr := y.thr.next 4, sch := { y.sch with wait := none } }
  | .exit => (s.setGroup g { y with sch := { y.sch with wait := some .exit } })

end Sys2Proof.Machine
end

