-- ==== Sys2Proof/Machine/System.lean ====
section
/-! DEFINITION. The system instructions of service threads (R175, R327-R335, R360): system registers, ERET and SVC, the state
actions, maintenance of caches and TLBs, and the configuration semaphore. An action is complete when it issues (log entry 33),
but for PREEMPT, whose D is empty until it is, and the TLB maintenance, at which the thread waits. -/

namespace Sys2Proof.Machine

/-- R175: a group raises PRIVILEGED; a service thread goes on. -/
def State.svcOnly (s : State) (k : Nat → Svc → Out) : Out :=
  match s.cur with
  | .none => .fault .noIssuer
  | .group _ => .next (s.raise .privileged {})
  | .svc t => k t (s.svc t)

/-- The same with the registers read and written full. -/
def State.svcRegs (s : State) (reads writes : List Nat) (k : Nat → Svc → State → Out) : Out :=
  s.svcOnly fun _ _ => s.withRegs reads writes fun s => s.svcOnly fun t v => k t v s

/-- A status or a value goes to D, and the thread goes on. -/
def State.sysDone (s : State) (d : Nat) (v : DWord) : State := s.modThr fun t => (t.wr d v).next 4

/-! ### System registers (R329) -/

/-- Fields of sstat. -/
def sstatAsid (v : DWord) : Nat := (v.extractLsb' 36 12).toNat
def sstatPart (v : DWord) : Nat := (v.extractLsb' 32 4).toNat
def sstatEp (v : DWord) : Bool := v.getLsbD 8

/-- The bits of sstat that a write at a level changes. -/
def sstatMask (host : Bool) : DWord := if host then 0x0000FFFF00000123 else 0x100

/-- Byte k of semstate. -/
def State.semByte (s : State) (k : Nat) : Byte :=
  match Tab.look s.sems k with
  | some m => if m.holder then 3 else 1
  | none => 0

/-- The value of a system register. -/
def State.sysReg (s : State) (t : Nat) (n : SysReg) : DWord :=
  let v := s.svc t
  match n with
  | .sstat => v.sstat
  | .epc => v.epc
  | .ecause => v.ecause
  | .einfo => v.einfo
  | .svec => v.svec
  | .escr => v.escr
  | .sthread => BitVec.ofNat 64 (t % 32)
  | .evpend => BitVec.ofNat 64 (v.evs.length % 2 ^ 32)
  | .semstate => BitVec.ofNat 64 (ofLeBytes ((List.range 8).map s.semByte))

/-- `SYSRD` (R329). -/
def execSysrd (d : SReg) (n : SysReg) (s : State) : Out :=
  s.svcRegs [] [d.toNat] fun t _ s => .next (s.sysDone d.toNat (s.sysReg t n))

/-- A system register written: bits the table reserves read as zero, bits [2:0] of svec are ignored, and a return address is
a multiple of 4 (R331). -/
def Svc.sysWrite (v : Svc) (n : SysReg) (x : DWord) : Svc :=
  let m := sstatMask (sstatHost v.sstat)
  match n with
  | .sstat => { v with sstat := (v.sstat &&& ~~~m) ||| (x &&& m) }
  | .epc => { v with epc := x &&& ~~~3 }
  | .ecause => { v with ecause := x &&& 0x7FFFFFF }
  | .einfo => { v with einfo := x }
  | .svec => { v with svec := x &&& ~~~7 }
  | .escr => { v with escr := x }
  | .sthread | .evpend | .semstate => v

/-- Registers that SYSWR may not write. -/
def SysReg.ro : SysReg → Bool | .sthread | .evpend | .semstate => true | _ => false

/-- `SYSWR` (R327, R329). -/
def execSyswr (n : SysReg) (a : SReg) (s : State) : Out :=
  s.svcRegs [a.toNat] [] fun t v s =>
    if SysReg.ro n then .next (s.raise .sregReadonly {})
    else if n = .svec && !sstatHost v.sstat then .next (s.raise .privileged {})
    else .next ((s.setSvc t (v.sysWrite n (s.thr.rd a.toNat))).pass 4)

/-- `ERET` (R331). -/
def execEret (s : State) : Out :=
  s.svcOnly fun t v => if sstatHost v.sstat then .next (s.setSvc t v.eret) else .next (s.raise .privileged {})

/-- `SVC` (R330): it enters the handler whatever IE holds. -/
def execSvc (code : BitVec 10) (s : State) : Out :=
  s.svcOnly fun t v => .next (s.setSvc t (v.enter (v.thr.pcs + 4) (code.setWidth 64 <<< (16 : Nat)) 0))

/-! ### Targets (R327, R332) -/

/-- Whether a service thread may name a partition. -/
def Svc.sees (v : Svc) (p : Nat) : Bool := sstatHost v.sstat || sstatPart v.sstat == p

/-- The live launch of an id that a service thread may name. -/
def State.findLaunch (s : State) (v : Svc) (id : Word) : Option Nat :=
  (s.launches.find? fun (k, x) => x.lr.id == id && !x.done && v.sees (s.partOf k)).map Prod.fst

/-- The launch and the team that a target pair names: a team of a live launch, whatever its state. -/
def State.targetTeam (s : State) (v : Svc) (a b : DWord) : Option (Nat × Nat) :=
  if a.toNat / 2 ^ 40 != 0 || b.toNat / 2 ^ 32 != 0 then none
  else match s.findLaunch v (a.setWidth 32) with
    | none => none
    | some l =>
      if b.toNat < (s.launch l).lr.teams || (Tab.look s.teams (teamKey l b.toNat)).isSome then some (l, teamKey l b.toNat) else none

/-- A target pair: a team with groups to act on, and the group index it names. -/
def State.target (s : State) (v : Svc) (a b : DWord) : Option (Nat × Nat) :=
  match s.targetTeam v a b with
  | none => none
  | some (_, t) =>
    match Tab.look s.teams t with
    | some (x : Team) => if x.over? || x.st == .exported then none else some (t, a.toNat / 2 ^ 32 % 256)
    | none => none

/-- The groups a target names; none where the team has no such group. -/
def State.targetGroups (s : State) (t gi : Nat) : Option (List Nat) :=
  if gi = 0xFF then some ((s.members t).map Prod.snd) else (Tab.look (s.team t).groups gi).map fun g => [g]

/-- Status codes (R333). -/
def stOk : DWord := 0
def stNoTarget : DWord := 1
def stWrongState : DWord := 2
def stFault : DWord := 3
def stBusy : DWord := 4
def stRange : DWord := 5

/-- PARK, UNPARK, HALT and RESUME: an act on each group of the target; with a group index, `need` must hold of it. -/
def State.stateAction (s : State) (v : Svc) (a b : DWord) (need : Group → Bool) (act : State → Nat → State) : State × DWord :=
  match s.target v a b with
  | none => (s, stNoTarget)
  | some (t, gi) => match s.targetGroups t gi with
    | none => (s, stNoTarget)
    | some gs =>
      if gi != 0xFF && !(gs.all fun g => need (s.group g)) then (s, stWrongState) else (gs.foldl act s, stOk)

/-- A state action's instruction: the pair is sA and s(A + 1). -/
def State.actionWord (s : State) (d a : SReg) (f : State → Nat → Svc → DWord → DWord → State × DWord) : Out :=
  s.svcRegs [a.toNat, a.toNat + 1] [d.toNat] fun t v s =>
    let (s, st) := f s t v (s.thr.rd a.toNat) (s.thr.rd (a.toNat + 1))
    .next (s.sysDone d.toNat st)

/-- `PARK` (R334). -/
def execPark (d a : SReg) (s : State) : Out :=
  s.actionWord d a fun s _ v x y => s.stateAction v x y (fun _ => true) State.parkGroup

/-- UNPARK of one group of a target; a group that is not parked stays as it is. -/
def State.unparkIf (s : State) (g : Nat) : State := if (s.group g).sch.parked then s.unparkGroup g else s

/-- `UNPARK` (R334). -/
def execUnpark (d a : SReg) (s : State) : Out :=
  s.actionWord d a fun s _ v x y => s.stateAction v x y (fun g => g.sch.parked) State.unparkIf

/-- `HALT` (R334); with group index 0xFF it begins a team stop (R384). -/
def execHalt (d a : SReg) (s : State) : Out :=
  s.actionWord d a fun s _ v x y =>
    let (s', st) := s.stateAction v x y (fun _ => true) fun s g => s.modGroup g Group.halt
    match s.target v x y with
    | some (t, 0xFF) => (s'.beginStop t none, st)
    | _ => (s', st)

/-- A halted group goes on where it stopped. -/
def Group.goOn (x : Group) : Group := { x with sch := { x.sch with halted := false } }

/-- `RESUME` (R334). -/
def execResume (d a : SReg) (s : State) : Out :=
  s.actionWord d a fun s _ v x y => s.stateAction v x y (fun g => g.sch.halted) fun s g => s.modGroup g Group.goOn

/-! ### Saved images (R334, R373) -/

/-- `CTXSV` (R334): the image goes to sB in the thread's address space; the team is exported. -/
def State.ctxsv (s : State) (v : Svc) (a b img : DWord) : State × DWord :=
  if img.toNat % 4096 != 0 then (s, stRange)
  else match s.targetTeam v a b with
    | none => (s, stNoTarget)
    | some (_, t) =>
      let x := s.team t
      match x.image with
      | some area =>
        if a.toNat / 2 ^ 32 % 256 != 0xFF || x.st != .saved then (s, stWrongState)
        else match s.vWrite (sstatAsid v.sstat) 0 img (s.rdBytes area (s.imageLen t)) with
          | none => (s, stFault)
          | some s =>
            ((s.modTeam t fun y => { y with st := .exported, image := none }).modLaunch x.launch fun l =>
              { l with requeued := l.requeued.erase x.idx }, stOk)
      | none => (s, stWrongState)

/-- An action that accesses memory waits for the thread's PREEMPTs (R333). -/
def Svc.behindJobs (v : Svc) (s : State) (k : State → Out) : Out := if v.jobs.isEmpty then k s else .next (s.waitFor 31)

def execCtxsv (d a b : SReg) (s : State) : Out :=
  s.svcRegs [a.toNat, a.toNat + 1, b.toNat] [d.toNat] fun _ v s => v.behindJobs s fun s =>
    let (s, st) := s.ctxsv v (s.thr.rd a.toNat) (s.thr.rd (a.toNat + 1)) (s.thr.rd b.toNat)
    .next (s.sysDone d.toNat st)

/-- R373: whether a header names the launch and team of a target on this device. -/
def State.headerOk (s : State) (h : List Byte) (l idx : Nat) : Bool :=
  field h 0 4 == 1 && field h 4 4 == (s.launch l).lr.id.toNat && field h 8 4 == idx && field h 32 32 == (s.ctl.feature.getD 0).toNat

/-- Whether a team may take an image: it has been exported, or never placed (R334). -/
def State.mayLoad (s : State) (t : Nat) : Bool :=
  match Tab.look s.teams t with
  | some (x : Team) => x.st == .exported || (x.st == .queued && !x.started)
  | none => true

/-- `CTXLD` (R334): a team that is not placed takes what an image holds, and is queued at the head of its launch (log entry 32). -/
def State.ctxld (s : State) (v : Svc) (a b img : DWord) : State × DWord :=
  let asid := sstatAsid v.sstat
  if img.toNat % 4096 != 0 then (s, stRange)
  else match s.targetTeam v a b with
    | none => (s, stNoTarget)
    | some (l, t) =>
      let idx := t % 2 ^ 32
      if a.toNat / 2 ^ 32 % 256 != 0xFF || !s.mayLoad t then (s, stWrongState)
      else match s.vRead asid 0 img 64 with
        | none => (s, stFault)
        | some h =>
          if !s.headerOk h l idx then (s, stWrongState)
          else match s.vRead asid 0 img (field h 16 8) with
            | none => (s, stFault)
            | some bs =>
              let k := field h 12 1
              let stage := match Tab.look s.teams t with | some x => x.stage2 | none => (s.launch l).firstStage
              ((s.restore t l idx stage k (cutSections (2 + 33 * k) (bs.drop 64))).modLaunch l fun y => { y with requeued := idx :: y.requeued }, stOk)

def execCtxld (d a b : SReg) (s : State) : Out :=
  s.svcRegs [a.toNat, a.toNat + 1, b.toNat] [d.toNat] fun _ v s => v.behindJobs s fun s =>
    let (s, st) := s.ctxld v (s.thr.rd a.toNat) (s.thr.rd (a.toNat + 1)) (s.thr.rd b.toNat)
    .next (s.sysDone d.toNat st)

/-! ### PREEMPT (R334, R372, R377) -/

/-- Teams that are being vacated. -/
def State.vacating (s : State) : List Nat := (s.teams.filter fun (_, (t : Team)) => t.st == .vacating).map Prod.fst

/-- The cores that a PREEMPT of `n` cores vacates: whether there were places for them all, and the teams. -/
def State.preempt (s : State) (l n : Nat) : State × Nat × List Nat :=
  let cs := (s.coresHeld fun x => x.launch == l).take n
  let (u, k) := s.vacateCores cs
  (u, (if k = cs.length then 0 else 5), u.vacating.filter fun t => !s.vacating.contains t)

/-- A PREEMPT that waited behind a SWITCH takes its effect (R377). -/
def State.runPreempt (s : State) (t d l n : Nat) : State :=
  let (u, st, ts) := s.preempt l n
  let v := u.svc t
  u.setSvc t { v with jobs := v.jobs.map fun j => if j.1 = d && j.2.2.isNone then (d, st, some ts) else j }

/-- `PREEMPT` (R333, R334): cores of a launch in descending coreid; D is empty until every image is written, and the thread
goes on. Behind a SWITCH of the launch's virtual function it waits for its turn, with D empty (R377). -/
def execPreempt (d a b : SReg) (s : State) : Out :=
  s.svcRegs [a.toNat, b.toNat] [d.toNat] fun t v s =>
    let n := (s.thr.rd b.toNat).toNat
    if n = 0 || 288 < n then .next (s.sysDone d.toNat stRange)
    else match s.findLaunch v ((s.thr.rd a.toNat).setWidth 32) with
      | none => .next (s.sysDone d.toNat stNoTarget)
      | some l =>
        let begin_ (s : State) (st : Nat) (ts : Option (List Nat)) : State :=
          let x := s.svc t
          s.setSvc t { x with thr := (x.thr.mkEmpty d.toNat).next 4, jobs := x.jobs ++ [(d.toNat, st, ts)] }
        if (s.vf (s.ctx (s.launch l).ctx).vf).switching.isSome then
          .next { begin_ s 0 none with ctl := { s.ctl with waiting := s.ctl.waiting ++ [.preempt t d.toNat l n] } }
        else
          let (u, st, ts) := s.preempt l n
          if ts.isEmpty then .next (u.sysDone d.toNat (BitVec.ofNat 64 st)) else .next (begin_ u st (some ts))

/-- Whether the images of a PREEMPT are written: no team that it vacates is still being vacated. -/
def State.jobDone (s : State) (j : Nat × Nat × Option (List Nat)) : Bool :=
  match j.2.2 with | some ts => ts.all fun t => (s.team t).st != .vacating | none => false

/-- A thread's PREEMPTs that are complete fill their D (R333). -/
def Svc.endJobs (v : Svc) (s : State) : Svc :=
  { v with thr := (v.jobs.filter s.jobDone).foldl (fun t j => t.wr j.1 (BitVec.ofNat 64 j.2.1)) v.thr
           jobs := v.jobs.filter fun j => !s.jobDone j }

/-- Every PREEMPT that is complete fills its D. -/
def State.endJobs (s : State) : State :=
  if s.svcs.all fun (_, (v : Svc)) => v.jobs.isEmpty then s else { s with svcs := s.svcs.map fun (k, (v : Svc)) => (k, v.endJobs s) }

/-- Whether a service thread's wait is over, and what it then does. -/
def Svc.waitOver (v : Svc) : Bool :=
  match v.wait with
  | none => true
  | some .waitm | some (.yield _) => v.mon.fired || !v.mon.armed
  | some _ => false

/-- The service thread at hand goes on past its wait. -/
def State.endSvcWait (s : State) (t : Nat) : State :=
  let v := s.svc t
  let off (s : State) : State := s.setSvc t { s.svc t with wait := none }
  match v.wait with
  | some .waitm => off (s.disarm.pass 4)
  | some (.yield c) => off (s.disarm.modThr fun t => t.jump c)
  | _ => s

/-! ### The configuration semaphore (R335) -/

/-- Whether an endpoint holds a slot at a time. -/
def Sem.heldBy (m : Sem) (e : Bool) (now : Nat) : Bool := m.holder == e && decide (now < m.expiry)

/-- LEASE_EXPIRED of a slot's lapsed lease (R415). -/
def State.tellLapse (s : State) (slot : Nat) (m : Sem) : State :=
  { s with sems := Tab.put s.sems slot { m with told := true } }.event (sourceOf 11 0) 9 0 (BitVec.ofNat 64 (slot % 8 + if m.holder then 8 else 0))

/-- SEMACQ for an endpoint: the slots and the status. A lease that has lapsed untold is told first. -/
def State.semAcq (s : State) (e : Bool) (slot lease : Nat) : State × DWord :=
  let now := s.time 0
  let free := match Tab.look s.sems slot with | none => true | some m => m.holder == e || decide (m.expiry ≤ now)
  if 7 < slot then (s, stNoTarget)
  else if lease < 1000 || 2 ^ 36 < lease then (s, stRange)
  else if free then
    let s := match Tab.look s.sems slot with
      | some m => if decide (m.expiry ≤ now) && !m.told then s.tellLapse slot m else s
      | none => s
    ({ s with sems := Tab.put s.sems slot ⟨e, now + lease, false⟩ }, stOk)
  else (s, stBusy)

/-- SEMREL for an endpoint. -/
def State.semRel (s : State) (e : Bool) (slot : Nat) : State × DWord :=
  if 7 < slot then (s, stNoTarget)
  else match Tab.look s.sems slot with
    | some m => if m.heldBy e (s.time 0) then ({ s with sems := Tab.del s.sems slot }, stOk) else (s, stWrongState)
    | none => (s, stWrongState)

/-- `SEMACQ` (R335). -/
def execSemacq (d a b : SReg) (s : State) : Out :=
  s.svcRegs [a.toNat, b.toNat] [d.toNat] fun _ v s =>
    let (s, st) := s.semAcq (sstatEp v.sstat) (s.thr.rd a.toNat).toNat (s.thr.rd b.toNat).toNat
    .next (s.sysDone d.toNat st)

/-- `SEMREL` (R335). -/
def execSemrel (d a : SReg) (s : State) : Out :=
  s.svcRegs [a.toNat] [d.toNat] fun _ v s =>
    let (s, st) := s.semRel (sstatEp v.sstat) (s.thr.rd a.toNat).toNat
    .next (s.sysDone d.toNat st)

/-! ### Cache and TLB maintenance (R334, R360) -/

/-- `L1INV` (R334): one core, or every core of the thread's partition; a core outside it is absent at PART (R327). -/
def execL1inv (all : Bool) (a : SReg) (s : State) : Out :=
  s.svcRegs (if all then [] else [a.toNat]) [] fun _ v s =>
    let cores := if all then s.coresOf (sstatPart v.sstat)
      else [coreOfId (s.thr.rd a.toNat).toNat].filter fun k =>
        decide (k < 288) && (sstatHost v.sstat || (s.part (sstatPart v.sstat)).quads.contains (quadOf k))
    .next ((cores.foldl State.l1Drop s).pass 4)

/-- Which address spaces a TLB maintenance names, and which entries it removes. -/
structure TlbSel where
  asid : Option Nat
  part : Nat
  vpn : Option Nat
  deriving DecidableEq, Repr

def TlbSel.names (q : TlbSel) (s : State) (asid : Nat) : Bool :=
  match q.asid with | some a => a == asid | none => s.partOfAsid asid == q.part

/-- A global entry carries no ASID and goes with ALL alone (R357, R334). -/
def TlbSel.removes (q : TlbSel) (e : TlbEntry) : Bool :=
  (match q.asid with | some a => e.asid == a && !pteBit e.pte 7 | none => e.part == q.part) &&
    match q.vpn with | some n => decide (e.vpn ≤ n) && decide (n < e.vpn + e.pages) | none => true

/-- Whether a pointer entry of a walk cache is one that the maintenance removes (R360). -/
def TlbSel.removesPtr (q : TlbSel) (w : WalkPtr) : Bool :=
  (match q.asid with | some a => w.asid == a | none => w.part == q.part) &&
    match q.vpn with | some n => w.pre == n * 2 ^ 14 / 2 ^ (14 + 11 * w.level) | none => true

/-- The entries of every TLB, and those they have dropped. -/
def State.tlbAll (s : State) : List TlbEntry := s.cores.flatMap (fun (_, (c : Core)) => c.tlb) ++ s.quadTlb.flatMap Prod.snd ++ s.evicted

/-- Whether a page is, for a core, one of a removed entry (R360): an entry that is removed maps it, or it is the page named and
no entry that stays serves it to the core. -/
def TlbSel.takes (q : TlbSel) (s : State) (core asid va : Nat) : Bool :=
  let n := vpnOf va
  q.names s asid &&
    ((s.tlbAll.any fun e => q.removes e && e.hits asid (s.partOfAsid asid) n) ||
      ((s.tlbLook core asid n).isNone && match q.vpn with | some m => m == n | none => true))

/-- Whether a command moves rows of the scratchpad. -/
def AnvilCmd.spad (c : AnvilCmd) : Bool :=
  match c.word with
  | .tld o | .tst o => LaneOp.xbit o 4
  | _ => false

/-- The first and last byte of each piece of a command's rows in memory. -/
def AnvilCmd.places (c : AnvilCmd) : List Nat :=
  if c.spad then [] else c.rows.flatMap fun (va, ps) => (ps.zipIdx).flatMap fun ((_, n), i) =>
    let a := va.toNat + ((ps.take i).map Prod.snd).sum
    [a, a + (n - 1)]

/-- The virtual addresses that a held entry of a group accesses; those of a TST are its command's rows. -/
def Held.places (x : Group) : Held → List Nat
  | .store _ ws _ _ _ _ => (ws.filter fun w => !w.spad).map fun w => w.va.toNat
  | .atom r => r.lanes.map fun a => a.va.toNat
  | .tst id => (x.anvil.filter fun c => c.id == id).flatMap AnvilCmd.places
  | _ => []

/-- Groups of the named address spaces. -/
def State.groupsIn (s : State) (q : TlbSel) : List Nat := (s.groups.filter fun (g, _) => q.names s (s.asidOf g)).map Prod.fst

/-- Whether one of a group's held entries was translated through a removed entry. -/
def TlbSel.meets (q : TlbSel) (s : State) (g : Nat) (hs : List Held) : Bool :=
  hs.any fun h => (h.places (s.group g)).any fun a => q.takes s (s.coreOf g) (s.asidOf g) a

/-- Whether a transfer accesses a removed page and is left to finish (R360): one of a committed region, and the rows that a TLD of
the open region will read without a commit. -/
def TlbSel.rows (q : TlbSel) (s : State) (g : Nat) (stuck : Bool) (c : AnvilCmd) : Bool :=
  let held := (stuckCmds (s.group g).anvil).any fun b => b.id == c.id
  (if c.committed then movesTile c.word && !stuck else c.unread && held == stuck) &&
    c.places.any fun a => q.takes s (s.coreOf g) (s.asidOf g) a

/-- Whether accesses through a removed entry are left to finish, and have not yet (R360): stores and atomics handed over, atomics at
their units, rows of transfers. -/
def State.tlbBusy (s : State) (q : TlbSel) : Bool :=
  (s.groupsIn q).any fun g =>
    let x := s.group g
    q.meets s g x.inflight ||
      (s.units.any fun (_, rs) => rs.any fun r => r.g == g && r.lanes.any fun a => q.takes s (s.coreOf g) (s.asidOf g) a.va.toNat) ||
      x.anvil.any (q.rows s g false)

/-- The removal: TLB and walk cache entries, the L1 copies of the removed pages' lines, and regions that hold an access translated
through them: in their store buffer, or a TLD that only their commit would let read its rows (R360; log entry 44). A group parked in
such a region resumes at it (R367). -/
def State.tlbRemove (s : State) (q : TlbSel) : State :=
  let gs := (s.groupsIn q).filter fun g => q.meets s g (s.group g).reg.held || (s.group g).anvil.any (q.rows s g true)
  let u := gs.foldl State.stopGroup s
  { u with
    evicted := u.evicted.filter fun e => !q.removes e
    cores := u.cores.map fun (k, c) =>
      (k, { c with tlb := c.tlb.filter fun e => !q.removes e, l1 := c.l1.filter fun x => !q.takes s k x.asid (x.vl * 128) })
    quadTlb := u.quadTlb.map fun (k, es) => (k, es.filter fun e => !q.removes e)
    dies := u.dies.map fun (k, d) => (k, { d with ptrs := d.ptrs.filter fun w => !q.removesPtr w }) }

/-- A maintenance instruction: the thread waits until the accesses already committed have performed, and the removal is one
step. A walk in flight reads the tables when it ends, so that none can install a removed entry. At PART, an ASID of another
partition is absent. -/
def State.tlbWord (s : State) (v : Svc) (q : TlbSel) : Out :=
  let seen := match q.asid with | some a => v.sees (s.partOfAsid a) | none => true
  if !seen then .next (s.pass 4)
  else if s.tlbBusy q then .next (s.waitFor 31)
  else .next ((s.tlbRemove q).pass 4)

/-- `TLBIV` (R334, R360). -/
def execTlbiv (a b : SReg) (s : State) : Out :=
  s.svcRegs [a.toNat, b.toNat] [] fun _ v s =>
    s.tlbWord v ⟨some ((s.thr.rd a.toNat).toNat % 2 ^ 12), 0, some ((s.thr.rd b.toNat).toNat % 2 ^ 58 / 2 ^ 14)⟩

/-- `TLBIA` (R334, R360). -/
def execTlbia (all : Bool) (a : SReg) (s : State) : Out :=
  s.svcRegs (if all then [] else [a.toNat]) [] fun _ v s =>
    s.tlbWord v ⟨if all then none else some ((s.thr.rd a.toNat).toNat % 2 ^ 12), sstatPart v.sstat, none⟩

end Sys2Proof.Machine
end

