-- ==== Sys2Proof/Machine/Trace.lean ====
section
/-! DEFINITION. The trace unit (R379-R384): its buffer, its records, samples, and the records of team stops; and what a step
of the machine leaves for it to write. Whether the unit accepts a record is open (log entry 34). -/

namespace Sys2Proof.Machine

/-! ### The buffer (R379) -/

/-- The trace descriptor that a core's partition has in force. -/
def State.traceOf (s : State) (core : Nat) : Option Trace :=
  match s.parts.find? fun (_, (p : Part)) => p.quads.contains (quadOf core) with
  | some (_, p) => p.trace
  | none => none

/-- MODE bits. -/
def Trace.full (t : Trace) : Bool := t.mode % 2 == 1
def Trace.summ (t : Trace) : Bool := t.mode / 2 % 2 == 1
def Trace.wrap (t : Trace) : Bool := t.mode / 4 % 2 == 1

/-- Base of a core's segment, and its record slots. -/
def Trace.segment (t : Trace) (core : Nat) : Nat := t.bufBase + core * (t.segKib * 1024)
def Trace.slots (t : Trace) : Nat := (t.segKib * 1024 - 64) / 32

/-- The segment's header: WRITTEN and DROPPED. -/
def State.traceHead (s : State) (t : Trace) (core : Nat) : State :=
  s.wrBytes (t.segment core) (leBytes 8 (s.core core).written ++ leBytes 8 (s.core core).dropped)

/-- The trace unit of a core writes a record, or drops it and counts it. -/
def State.traceWrite (s : State) (t : Trace) (core : Nat) (bs : List Byte) : State :=
  let n := (s.core core).written
  let a := t.segment core + 64 + 32 * (n % max 1 t.slots)
  if (!t.wrap && decide (t.slots ≤ n)) || s.isBad a 32 then
    (s.modCore core fun c => { c with dropped := c.dropped + 1 }).traceHead t core
  else
    ((s.wrBytes a bs).l1Update core a bs).modCore core (fun c => { c with written := c.written + 1 }) |>.traceHead t core

/-! ### Records (R381) -/

/-- A record of a group, as a state shows it. -/
def State.traceRec (s : State) (g ty evt stall aux : Nat) (pc : DWord) : List Byte :=
  let x := s.group g
  let (k, _) := x.lastArr.headD (0, 0)
  let phase := match x.lastArr with | (k, _) :: _ => s.phaseOf x.team k | [] => 0
  leBytes 1 ty ++ leBytes 1 evt ++ leBytes 2 (coreidOf (s.coreOf g)) ++ leBytes 4 (s.recOf g).id.toNat ++
    leBytes 4 (s.team x.team).idx ++ leBytes 1 x.gidx ++ leBytes 1 (k % 16 + 16 * (k / 16)) ++ leBytes 1 stall ++ leBytes 1 0 ++
    leBytes 4 phase ++ leBytes 4 aux ++ leBytes 8 pc.toNat

/-- A group, where it is there and has not gone. -/
def State.present? (s : State) (g : Nat) : Option Group := (Tab.look s.groups g).filter fun x => !x.gone

/-- R380: whether a group matches the comparator. -/
def State.traceMatch (s : State) (t : Trace) (g : Nat) : Bool :=
  let x := s.group g
  let l := s.launch (s.launchOf g)
  (t.cqueue == 0xFFFF || t.cqueue == l.queue) && (t.claunch == 0 || t.claunch == l.lr.id) &&
    (t.cteam == 0xFFFFFFFF || t.cteam.toNat == (s.team x.team).idx) && (t.cgroup == 0xFF || t.cgroup == x.gidx)

/-- The residency order of R351: time, launch sequence, team, group. -/
def State.residentBefore (s : State) (g h : Nat) : Bool :=
  let x := s.group g
  let y := s.group h
  let a := s.team x.team
  let b := s.team y.team
  decide (x.sch.since < y.sch.since) || (x.sch.since == y.sch.since &&
    (decide (a.launch < b.launch) || (a.launch == b.launch &&
      (decide (a.idx < b.idx) || (a.idx == b.idx && decide (x.gidx < y.gidx))))))

/-- The group of a list that comes first in residency order. -/
def State.firstResident (s : State) : List Nat → Option Nat
  | [] => none
  | g :: gs => match s.firstResident gs with
    | some h => if s.residentBefore h g then some h else some g
    | none => some g

/-- The traced group is chosen again where there is none, from the cycle after the last one's on (R380). -/
def State.chooseTraced (s : State) (core : Nat) : State :=
  match s.traceOf core, (s.core core).traced with
  | some t, none =>
    if t.full && decide ((s.core core).retrace ≤ (s.die (dieOf core)).cyc) then
      let gs := ((s.groupsOn core).map Prod.fst).filter fun g => s.traceMatch t g
      match s.firstResident gs with
      | some g => s.modCore core fun c => { c with traced := some g }
      | none => s
    else s
  | _, _ => s

/-! ### Samples (R383) -/

/-- The stall reason of a group that did not issue. -/
def State.stallOf (s : State) (g : Nat) : Nat :=
  let x := s.group g
  let cyc := (s.die (dieOf (s.coreOf g))).cyc
  let ready : Nat :=
    if x.sch.wait.isNone && x.blk.isSome && decide (cyc < x.sch.notBefore) then 26
    else match Tab.look (s.core (s.coreOf g)).lastIssue (x.gidx % 4) with
      | some (_, c, promoted) => if c == cyc && promoted then 29 else if c == cyc then 30 else 31
      | none => 31
  if x.sch.halted then 1
  else if x.sch.parked then 2
  else if x.configuring then 4
  else if s.waitOver g then ready
  else match x.sch.wait with
    | some (.retry r) => r
    | some (.barrier _ _ _) => 6
    | some (.ring _ _) => 7
    | some .waitm | some (.yield _) => 8
    | some (.sgrow _) => 10
    | some .efence | some .exit => 5
    | none => ready

/-- The group in the next occupied residency slot of a scheduler after the one taken last: slots stand in the order of
group keys (log entry 34). -/
def State.nextSlot (s : State) (core sch : Nat) : Option Nat :=
  let gs := ((s.groupsOn core).filter fun (_, x) => x.gidx % 4 == sch).map Prod.fst
  match Tab.look (s.core core).lastSlot sch with
  | some (g, _) => match gs.find? fun h => decide (g < h) with | some h => some h | none => gs.head?
  | none => gs.head?

/-! ### Team stops (R384, R368) -/

/-- The resume point of a stopped group (R361). -/
def State.resumePc (s : State) (g : Nat) : DWord :=
  let x := s.group g
  if x.sch.parked && x.sch.resume == .after then x.thr.pcs + 4 else s.pcOf g

/-- The STOP record of a group: HALT, BREAK, and a pending cause. -/
def State.stopRec (s : State) (g : Nat) (brk : Bool) : List Byte :=
  let x := s.group g
  let pend : Option Cause := if x.sch.parked && !brk then x.sch.cause else none
  let evt := (if x.sch.halted then 1 else 0) + (if brk then 2 else 0) + (if pend.isSome then 4 else 0)
  s.traceRec g 4 evt (s.stallOf g) ((pend.map Cause.code).getD 0) (s.resumePc g)

/-- Whether a team's arrival at a barrier has been counted by its agent. -/
def State.teamArrived (s : State) (t k : Nat) : Bool :=
  let x := s.team t
  let level := k / 16
  let u := (s.launch x.launch).lr.unitOf x.idx level
  level != 2 && ((s.launch x.launch).xbar (xKey level u (k % 16))).arrived.contains x.idx

/-- A BARRIER record of a team; the spec gives its GROUP, its PC and its STALL no value. -/
def State.barrierRec (s : State) (t k : Nat) : State × List Byte :=
  let x := s.team t
  let counted := s.teamArrived t k
  let bad := k / 16 != 2 && ((s.launch x.launch).xbar (xKey (k / 16) ((s.launch x.launch).lr.unitOf x.idx (k / 16)) (k % 16))).poisoned
  let mask := ((x.groups.filter fun (_, g) => (Tab.look (s.group g).arrivals k).isSome).map fun (i, _) => 2 ^ i).sum
  let n := s.free
  ({ s with free := n + 4 },
    leBytes 1 5 ++ leBytes 1 ((if counted then 1 else 0) + (if bad then 2 else 0)) ++ leBytes 2 (coreidOf x.core) ++
      leBytes 4 (s.launch x.launch).lr.id.toNat ++ leBytes 4 x.idx ++ leBytes 1 (Config.freeWord n).toNat ++ leBytes 1 (k % 16 + 16 * (k / 16)) ++
      leBytes 1 ((Config.freeWord (n + 1)).toNat % 32) ++ leBytes 1 0 ++ leBytes 4 (x.bar k).phase ++ leBytes 4 mask ++
      leBytes 4 (Config.freeWord (n + 2)).toNat ++ leBytes 4 (Config.freeWord (n + 3)).toNat)

/-- Barriers of a team with an arrival, in ascending level and number. -/
def State.openBars (s : State) (t : Nat) : List Nat :=
  (((List.range 8).filter (2 ≤ ·)).flatMap fun l => (List.range 16).map fun n => barKey l n).filter fun k =>
    s.teamArrived t k || ((s.team t).groups.any fun (_, g) => (Tab.look (s.group g).arrivals k).isSome)

/-- `TEAM_STOP` (R384): every group of a stopping team has stopped, and the records are written. -/
def execTeamStop (t : Nat) (s : State) : Out :=
  let x := s.team t
  match x.stop with
  | none => .next s
  | some brks =>
    if !(x.groups.all fun (_, g) => (s.group g).sch.halted || (s.group g).sch.parked) then .next s
    else
      let s := s.modTeam t fun y => { y with stop := none }
      match s.traceOf x.core with
      | none => .next s
      | some tr =>
        let s := x.groups.foldl (fun s (_, g) => s.traceWrite tr x.core (s.stopRec g (brks.contains g))) s
        .next ((s.openBars t).foldl (fun s k => let (s, bs) := s.barrierRec t k; s.traceWrite tr x.core bs) s)

/-! ### What a step leaves to write (R381, R382) -/

/-- Words that dissolve a group. -/
def dissolves : Instr → Bool | .vcall _ | .vret _ | .rtraceShade _ => true | _ => false

/-- A group whose region the step committed: the one that was open, or one that its instruction opened. -/
def committed (old new : Group) : Bool :=
  !new.sch.again && if old.reg.opened then !new.reg.opened || new.regen != old.regen else !new.reg.opened && new.regen != old.regen

/-- Summary events of a group between two states: EVT codes, in the order of R381's table. `ran` is the instruction that the
group issued in the step. -/
def summaryEvents (old new : State) (g : Nat) (ran : Option Instr) : List Nat :=
  match old.present? g, new.present? g with
  | none, some _ => [0]
  | some _, none => [match ran with | some i => if dissolves i then 2 else 1 | none => 1]
  | some x, some y =>
    let a := (old.team x.team).st
    let b := (new.team y.team).st
    (if !x.sch.parked && y.sch.parked then [3] else []) ++ (if x.sch.parked && !y.sch.parked then [4] else []) ++
      (if x.arrivals != y.arrivals && y.lastArr != x.lastArr then [5] else []) ++ (if a == .running && (b == .vacating || b == .saved) then [6] else []) ++
      (if a == .saved && b == .running then [7] else [])
  | none, none => []

/-- A SUMMARY record is written, or finds the unit busy, and is dropped and counted (R382): a free choice (log entry 34). -/
def State.summarize (s : State) (t : Trace) (core : Nat) (bs : List Byte) : State :=
  if Config.freeNat s.free % 2 = 0 then s.takeFree.traceWrite t core bs
  else (s.takeFree.modCore core fun c => { c with dropped := c.dropped + 1 }).traceHead t core

/-- Write a group's summary records, and the STOP record of a HALT of one group (R334). -/
def State.traceGroup (s old : State) (g : Nat) (ran : Option Instr) : State :=
  let src := if (s.present? g).isSome then s else old
  let core := src.coreOf g
  match s.traceOf core with
  | none => s
  | some t =>
    let cycn := (s.die (dieOf core)).cycn % 2 ^ 32
    let s' := if t.summ && (old.core core).traced != some g then
        (summaryEvents old s g ran).foldl (fun w e => w.summarize t core (src.traceRec g 2 e 0 cycn (src.pcOf g))) s
      else s
    match old.present? g, s.present? g with
    | some x, some y =>
      if !x.sch.halted && y.sch.halted && (s.team y.team).stop.isNone then s'.traceWrite t core (s.stopRec g false) else s'
    | _, _ => s'

/-- Whether a group is traced in full: each of its issues needs a record (R382). -/
def State.tracedFull (s : State) (g : Nat) : Bool :=
  match s.traceOf (s.coreOf g) with
  | some t => t.full && (s.core (s.coreOf g)).traced == some g
  | none => false

/-- The FULL record of an issue of the traced group (R382), from the state in which it issued. -/
def State.traceIssue (s old : State) (g : Nat) (ran : Instr) : State :=
  let core := old.coreOf g
  match s.traceOf core with
  | some t =>
    if !old.tracedFull g then s
    else
      let x := old.group g
      let ended := match s.present? g with | some y => committed x y | none => dissolves ran || x.reg.opened
      let evt := (if x.blk.isSome then 1 else 0) + (if ended then 2 else 0) + (if x.sch.again then 4 else 0)
      s.traceWrite t core (old.traceRec g 1 evt 0x80 x.thr.em.toNat (old.pcOf g))
  | none => s

/-- A traced group that has ended or left its core is traced no longer (R380). -/
def State.untrace (s : State) (core : Nat) : State :=
  match (s.core core).traced with
  | some g => if (s.present? g).isSome && (s.team (s.group g).team).onCore && s.coreOf g == core then s
    else s.modCore core fun c => { c with traced := none, retrace := (s.die (dieOf core)).cyc + 1 }
  | none => s

/-- Nothing is traced. -/
def State.untraced (s : State) : Bool := s.parts.all fun (_, (p : Part)) => p.trace.isNone

/-- Everything the trace units write for a step from `old`, in which a group may have issued an instruction in the state `at_`. -/
def State.traceStep (s old at_ : State) (ran : Option (Nat × Instr)) : State :=
  if s.untraced then s
  else
    let gs := (((old.groups ++ s.groups).filter fun (_, x) => !x.gone).map Prod.fst).dedup
    let s := match ran with | some (g, i) => s.traceIssue at_ g i | none => s
    let s := gs.foldl (fun s g => s.traceGroup old g (match ran with | some (h, i) => if h = g then some i else none | none => none)) s
    let cores := (s.teams.map fun (_, (t : Team)) => t.core).dedup
    cores.foldl (fun s c => (s.untrace c).chooseTraced c) s

end Sys2Proof.Machine
end

