-- ==== Sys2Proof/Machine/Clock.lean ====
section
/-! DEFINITION. Clocks and TIME (R394-R398), clock steps (R395), and issue (R34, R351). In one cycle of its die every scheduler
and service core with a thread to issue issues once, in any order; the cycle ends when they all have. A die with nothing to issue
runs along with the others, so that TIME keeps within the bound of R398 (log entry 35). -/

namespace Sys2Proof.Machine

/-! ### Cycles and TIME -/

/-- Q of R396. -/
def Die.ratio (d : Die) : Nat := 1400 * 2 ^ 16 / d.mhz

/-- The rate of TIME, in units of 10^-3 ppm of a cycle's ns, and the units in one ns. -/
def Die.rate (d : Die) : Nat := 1000 * (1000000 + d.ppm).toNat
def Die.unitsNs (d : Die) : Nat := d.mhz * 1000000

/-- A die runs `n` cycles (R396, R398). -/
def Die.run (d : Die) (n : Nat) : Die :=
  let total := d.frac + n * d.rate
  { d with cyc := d.cyc + n, acc := d.acc + n * d.ratio, time := d.time + total / max 1 d.unitsNs, frac := total % max 1 d.unitsNs }

/-- Cycles until TIME is at least `t`. -/
def Die.cyclesTo (d : Die) (t : Nat) : Nat := ((t - d.time) * d.unitsNs + d.rate - 1) / max 1 d.rate

/-- R398: a die keeps within 20 ns of a TIME `t`; a stopped one keeps its cycles. -/
def Die.follow (d : Die) (t : Nat) : Die :=
  if t ≤ d.time + 20 then d
  else if d.stopped then { d with time := t - 20, frac := 0 }
  else { d.run (d.cyclesTo (t - 20)) with busy := [] }

/-- The other dies follow die `d`. -/
def State.followAll (s : State) (d : Nat) : State :=
  [0, 1, 2, 3].foldl (fun s e => if e = d then s else s.setDie e ((s.die e).follow (s.die d).time)) s

/-- The longest relock, in ns (R395). -/
def relockMax : Nat := 2450
def relockMin : Nat := 2400

/-! ### Clock steps (R395) -/

/-- The frequency a die will run at once every accepted step has completed. -/
def Die.finalMhz (d : Die) : Nat := d.steps.getLastD d.mhz

/-- Whether a frequency is one that CLKSET accepts. -/
def mhzOk (f : Nat) : Bool := 600 ≤ f && f ≤ 1800 && f % 100 == 0

/-- Between two cycles of a die that has a step to take, its clock stops (R395). -/
def Die.halt (x : Die) : Die := if x.steps.isEmpty then x else { x with relock := some (x.relock.getD x.time) }

/-- A clock step is accepted: it takes place as the cycle at hand ends, at once where no unit has issued in it, or after the steps
before it (R395). -/
def State.clockStep (s : State) (d mhz : Nat) : State :=
  let x := { s.die d with steps := (s.die d).steps ++ [mhz] }
  s.setDie d (if x.busy.isEmpty then x.halt else x)

/-! ### Issue (R34, R351) -/

/-- Whether a group has an instruction to issue now or when its spacing has expired. -/
def State.groupLive (s : State) (g : Nat) (x : Group) : Bool :=
  !x.gone && (s.team x.team).st == .running && !x.sch.parked && !x.sch.halted && !x.configuring &&
    match x.sch.wait with
    | some _ => s.waitOver g
    | none => true

/-- Whether a group is ready (R34): its team runs, it is neither parked nor halted, its wait is over, and its spacing has
expired (R171). -/
def State.groupReady (s : State) (g : Nat) (x : Group) : Bool :=
  s.groupLive g x &&
    (x.sch.wait.isSome || x.blk.isNone || decide (x.sch.notBefore ≤ (s.die (dieOf (s.team x.team).core)).cyc))

/-- The ready groups of a scheduler. -/
def State.readyOn (s : State) (core sch : Nat) : List Nat :=
  (s.groups.filter fun (g, x) => (s.team x.team).core == core && x.gidx % 4 == sch && s.groupReady g x).map Prod.fst

/-- R34: whether a group issues before another: promoted, class, residency. -/
def State.issuesBefore (s : State) (g h : Nat) : Bool :=
  let x := s.group g
  let y := s.group h
  let a := (s.team x.team).cls
  let b := (s.team y.team).cls
  match x.sch.promoted, y.sch.promoted with
  | some p, some q => decide (p < q) || (p == q && s.residentBefore g h)
  | some _, none => true
  | none, some _ => false
  | none, none => decide (b < a) || (a == b && s.residentBefore g h)

/-- The group that a scheduler issues from. -/
def State.choose (s : State) : List Nat → Option Nat
  | [] => none
  | g :: gs => match s.choose gs with
    | some h => if s.issuesBefore h g then some h else some g
    | none => some g

/-- Whether a group has issued in the cycle at hand of its die. -/
def State.issuedNow (s : State) (g : Nat) (x : Group) : Bool :=
  let core := (s.team x.team).core
  match Tab.look (s.core core).lastIssue (x.gidx % 4) with
  | some (h, c, _) => h == g && c == (s.die (dieOf core)).cyc
  | none => false

/-- The counts of R351 as a cycle of a die ends: consecutive cycles in which a group is ready and does not issue. -/
def State.countReady (s : State) (d : Nat) : State :=
  { s with groups := s.groups.map fun (g, x) =>
      if dieOf (s.team x.team).core != d then (g, x)
      else
        let n := if s.issuedNow g x || !s.groupReady g x then 0 else x.sch.ready + 1
        (g, { x with sch := { x.sch with ready := n, promoted := if n = 0 then none else x.sch.promoted } }) }

/-- A service thread enters its handler for its oldest pending event (R330). -/
def State.enterEvent (s : State) (t : Nat) : State :=
  let v := s.svc t
  match v.evs with
  | [] => s
  | a :: as_ => s.setSvc t { v.enter v.thr.pcs (BitVec.ofNat 64 (2 ^ 26)) a with evs := as_ }

/-- Whether an event makes a service thread enter its handler now. -/
def Svc.due (v : Svc) : Bool := !v.stopped && !v.halted && sstatIe v.sstat && !v.evs.isEmpty

/-- Whether a service thread is ready. -/
def State.svcReady (s : State) (t : Nat) : Bool :=
  let v := s.svc t
  !v.stopped && !v.halted && (v.due || v.waitOver)

/-- The threads of a service core, the one after the last to issue first (log entry 35). -/
def State.svcOrder (s : State) (core : Nat) : List Nat :=
  let last := Tab.get 0 s.ctl.svcTurn core
  (List.range 8).map fun k => core * 8 + (last + 1 + k) % 8

/-- A service thread runs its next instruction, goes on past its wait, or enters its handler. -/
def State.issueSvc (s : State) (core t : Nat) : State :=
  let s := { s with ctl := { s.ctl with svcTurn := Tab.put s.ctl.svcTurn core (t % 8) } }
  if (s.svc t).due then s.enterEvent t
  else
    let s := { s with cur := .svc t }
    if (s.svc t).wait.isSome then { s.endSvcWait t with cur := .none } else s

/-- Cycles after which a ready group is promoted. -/
def promoteCycles : Nat := 256

/-- Whether a group of die `d` is to be promoted before the die's next cycle (R34, R351). -/
def State.promotionDue (s : State) (d : Nat) : Bool :=
  s.groups.any fun (g, x) =>
    dieOf (s.coreOf g) == d && s.groupReady g x && x.sch.promoted.isNone && decide (promoteCycles ≤ x.sch.ready)

/-- Whether an event of the cycle at hand of die `d` comes before the issues of its units: a promotion (R34), or a bin whose hold
has expired (R25). -/
def State.edgeDue (s : State) (d : Nat) : Bool :=
  s.promotionDue d || s.teams.any fun (t, (x : Team)) => dieOf x.core == d && x.st == .running && x.bins.any fun (_, b) => b.holdOver (s.cycOf t)

/-- Units by number: 4 × core + scheduler, then the service cores; and a unit's die. -/
def unitOf (n : Nat) : IssueUnit := if n < 1152 then .sched (n / 4) (n % 4) else .service (n - 1152)
def unitNum : IssueUnit → Nat | .sched core sch => 4 * core + sch | .service core => 1152 + core
def unitDie : IssueUnit → Nat | .sched core _ => dieOf core | .service _ => 0

/-- Whether a unit of this device has a thread to issue. -/
def State.unitReady (s : State) : IssueUnit → Bool
  | .sched core sch => decide (core < 288) && decide (sch < 4) && !(s.readyOn core sch).isEmpty
  | .service core => decide (core < 4) && (s.svcOrder core).any s.svcReady

/-- Whether every unit of a die with a thread to issue has issued in the cycle at hand (R34). -/
def State.cycleDone (s : State) (d : Nat) : Bool :=
  (s.groups.all fun (g, x) =>
    dieOf (s.coreOf g) != d || !s.groupReady g x || (s.die d).busy.contains (4 * s.coreOf g + x.gidx % 4)) &&
    (d != 0 || s.svcs.all fun (t, _) => !s.svcReady t || (s.die 0).busy.contains (1152 + t / 8))

/-- Whether the groups of a die's cores are sampled (R383). -/
def State.sampling (s : State) (d : Nat) : Bool :=
  s.parts.any fun (_, (p : Part)) => match p.trace with
    | some t => t.sper != 0 && p.quads.any fun q => q / 18 == d
    | none => false

/-- Whether a die's cycles are to pass one by one: its threads run, it samples, a clock step waits for its cycle to end (R395), a team
of it stops (R384), or a bin of one is held (R25). -/
def State.dieLive (s : State) (d : Nat) : Bool :=
  s.sampling d || (!(s.die d).steps.isEmpty && (s.die d).relock.isNone) ||
  (s.teams.any fun (_, (x : Team)) => dieOf x.core == d && x.onCore &&
    (x.stop.isSome || x.bins.any fun (_, b) => !b.lanes.isEmpty && b.ready.isNone)) || (s.groups.any fun (g, x) => dieOf (s.coreOf g) == d && s.groupLive g x) || (d == 0 && s.svcs.any fun (t, _) => s.svcReady t)

/-- Whether die `d` may run a cycle: its clock runs, no relock of another die is overdue, and no die whose threads run falls
behind by more than the bound of R398. -/
def State.clockOk (s : State) (d : Nat) : Bool :=
  let t := ((s.die d).run 1).time
  !(s.die d).stopped && [0, 1, 2, 3].all fun e =>
    e == d || match (s.die e).relock with
      | some t0 => decide (t ≤ t0 + relockMax + 20)
      | none => (s.die e).tripped || !s.dieLive e || decide (t ≤ (s.die e).time + 20)

/-- Whether a scheduler of a core is to be sampled in a cycle that it samples (R383): the group, with the trace in force. -/
def State.sampleOf (s : State) (core sch : Nat) : Option (Trace × Nat) :=
  let cyc := (s.die (dieOf core)).cyc
  match s.traceOf core, s.nextSlot core sch with
  | some t, some g =>
    let done := match Tab.look (s.core core).lastSlot sch with | some (_, c) => c == cyc | none => false
    if t.sper = 0 || cyc % 2 ^ t.sper != 0 || done then none else some (t, g)
  | _, _ => none

/-- Whether samples of the cycle at hand are still to be taken on a die. -/
def State.sampleDue (s : State) (d : Nat) : Bool :=
  s.sampling d && ((s.teams.map fun (_, (t : Team)) => t.core).filter (dieOf · == d)).any fun c =>
    [0, 1, 2, 3].any fun j => (s.sampleOf c j).isSome

/-- `SAMPLE` (R383): once per scheduler in each sampled cycle, when its units have issued. -/
def execSample (core sch : Nat) (s : State) : Out :=
  let d := dieOf core
  match s.sampleOf core sch with
  | some (t, g) =>
    if !s.cycleDone d || s.still core then .next s
    else
      let cyc := (s.die d).cyc
      let issued := match Tab.look (s.core core).lastIssue sch with | some (h, c, _) => h == g && c == cyc | none => false
      let r := if issued then 0 else s.stallOf g
      let s := s.traceWrite t core (s.traceRec g 3 0 (r + (if issued then 0x80 else 0)) ((s.die d).cycn % 2 ^ 32) (s.pcOf g))
      let s := if 6 ≤ r then s.bump (s.ctxOf g) 9 else s
      .next (s.modCore core fun c => { c with lastSlot := Tab.put c.lastSlot sch (g, cyc) })
  | none => .next s

/-- As a cycle of a die ends, the groups of its stopping teams halt (R384), and as the next begins traced groups are chosen (R380). -/
def State.cycleEdge (s : State) (d : Nat) : State :=
  let s := (s.teams.filter fun (_, (x : Team)) => dieOf x.core == d && x.stop.isSome).foldl (fun s (t, _) => s.haltTeam t) s
  if s.untraced then s
  else (((s.teams.map fun (_, (t : Team)) => t.core).filter (dieOf · == d)).dedup).foldl State.chooseTraced s

/-- A cycle of die `d` ends and the next begins; a clock step that has waited for it takes effect (R395). -/
def State.tick (s : State) (d : Nat) : State :=
  let s := s.countReady d
  ((s.setDie d { (s.die d).run 1 with busy := [] }.halt).followAll d).cycleEdge d

/-- The state in which a unit issues, if it may: the cycle at hand, where the unit has not issued in it and has a thread to
issue; otherwise the next cycle, once every unit of the die has issued. What is due as the cycle begins comes first. -/
def State.cycleOf (s : State) (u : IssueUnit) : Option State :=
  let d := unitDie u
  if 4 ≤ d || (s.die d).stopped || s.edgeDue d then none
  else if !(s.die d).busy.contains (unitNum u) && s.unitReady u then some s
  else if s.cycleDone d && s.clockOk d && !s.sampleDue d then some (s.tick d)
  else none

/-- A unit issues in the cycle at hand. -/
def State.setBusy (s : State) (u : IssueUnit) : State :=
  let d := unitDie u
  s.setDie d { s.die d with busy := unitNum u :: (s.die d).busy }

/-- A unit that has issued nothing after all may issue another thread in the same cycle. -/
def State.unBusy (s : State) (u : IssueUnit) : State :=
  let d := unitDie u
  s.setDie d { s.die d with busy := (s.die d).busy.filter (· != unitNum u) }

/-- Whether a group at hand has an instruction to issue: it has not ended, parked or begun to wait. -/
def State.goes (s : State) (g : Nat) : Bool :=
  (Tab.look s.groups g).isSome && s.groupReady g (s.group g) && (s.group g).sch.wait.isNone

/-- Whether a group's issue is held because the trace unit cannot take its record: a free choice (R382; log entry 34). -/
def State.traceHeld (s : State) (g : Nat) : Bool := s.tracedFull g && Config.freeNat s.free % 2 != 0

/-- A scheduler issues: the group at hand leaves a wait that is over, and runs its next instruction in the same issue (R34); or
its trace record cannot be taken; or it meets a soft error in a register, whose code stays wrong where the register keeps its value
(R55). A group that its wait leaves with nothing to issue has issued nothing. -/
def State.issueGroup (s : State) (u : IssueUnit) (g : Nat) (soft : Option Word) : State :=
  let s := { s with cur := .group g }
  match soft with
  | some r => { (s.softError g r).corrupt g r with cur := .none }
  | none =>
    if s.traceHeld g then { (s.takeFree.waitFor 25).unBusy u with cur := .none }
    else
      let s := if s.tracedFull g then s.takeFree else s
      if (s.group g).sch.wait.isSome then
        let s := s.endWait g
        if s.goes g then s else { s.unBusy u with cur := .none }
      else s

/-- Thread 0 of the service, while it runs, starts a stopped thread of a service core (R327). The spec gives neither the instruction
nor where the thread begins: the outside names the thread in an issue of its core, and the thread stands at HOST, at a free address
(DESIGN CHOICE; log entry 93). None where the issue names no thread. -/
def State.startSvc (s : State) (u : IssueUnit) (soft : Option Word) : Option State :=
  match u, soft with
  | .service core, some w =>
    let t := 8 * core + w.toNat % 8
    let z := s.svc 0
    if z.stopped || z.halted || t = 0 || 32 ≤ t || !(s.svc t).stopped then some s
    else some (s.takeFree.setSvc t { Svc.zero with stopped := false, thr := { Thread.zero with pcs := BitVec.ofNat 64 (Config.freeNat s.free) } })
  | _, _ => none

/-- `ISSUE` (R34): a scheduler or a service core issues. The thread that issues is the one at hand; the step then
fetches and executes its instruction. A soft error in a register of the chosen group takes the issue's place. Where nothing is
left to issue, a cycle passes. -/
def execIssue (u : IssueUnit) (soft : Option Word) (s : State) : Out :=
  match s.startSvc u soft with
  | some t => .next t
  | none => match s.cycleOf u with
  | none => .next s
  | some s =>
    if (s.die (unitDie u)).stopped || s.edgeDue (unitDie u) || !s.unitReady u then .next s
    else match u with
      | .sched core sch => match s.choose (s.readyOn core sch) with
        | some g => .next ((s.setBusy u).issueGroup u g soft)
        | none => .next s
      | .service core => match (s.svcOrder core).find? s.svcReady with
        | some t => .next ((s.setBusy u).issueSvc core t)
        | none => .next s

/-! ### The end of a relock (R395) -/

/-- Whether a die may restart at TIME `t1`: no die whose clock runs is behind it by more than R398 allows, no relock of another ends
before it, and what left for the barrier agents, and from them for dies whose clocks run, has arrived: a relock is longer than any
such way (R400, R402; log entry 107). -/
def State.mayRestart (s : State) (die t1 : Nat) : Bool :=
  ([0, 1, 2, 3].all fun e => e == die || match (s.die e).relock with
    | some t0 => decide (t1 ≤ t0 + relockMax + 20)
    | none => (s.die e).tripped || !s.dieLive e || decide (t1 ≤ (s.die e).time + 20)) &&
  s.arrivals.isEmpty && s.notices.all fun m =>
    let x := s.team (teamKey m.launch m.team)
    x.onCore && s.still x.core

/-- `RELOCK_COMPLETE` (R395, R396): the clock restarts after `dur` ns. -/
def execRelockComplete (die dur : Nat) (s : State) : Out :=
  let x := s.die die
  match x.relock, x.steps with
  | some t0, f :: rest =>
    if dur < relockMin || relockMax < dur || t0 + dur < x.time || 4 ≤ die || !s.mayRestart die (t0 + dur) then .next s
    else
      let t1 := t0 + dur
      let y : Die := { x with
        mhz := f, time := t1, frac := 0, acc := x.acc + dur * 1400 * 2 ^ 16 / 1000, steps := rest,
        relock := if rest.isEmpty then none else some t1 }
      let s := (s.setDie die y).followAll die
      .next (s.event (sourceOf 8 die) 2 die (BitVec.ofNat 64 (die + 2 ^ 8 * x.mhz + 2 ^ 24 * f + 2 ^ 40 * dur)))
  | _, _ => .next s

/-- `PROMOTION` (R34). -/
def execPromotion (g : Nat) (s : State) : Out :=
  let x := s.group g
  if (Tab.look s.groups g).isSome && s.groupReady g x && x.sch.promoted.isNone && decide (promoteCycles ≤ x.sch.ready) then
    .next (s.modGroup g fun y => { y with sch := { y.sch with promoted := some (s.die (dieOf (s.coreOf g))).cyc } })
  else .next s

/-- `HANDLER_ENTRY` (R330). -/
def execHandlerEntry (t : Nat) (s : State) : Out := if (s.svc t).due then .next (s.enterEvent t) else .next s

end Sys2Proof.Machine
end

