-- ==== Sys2Proof/Machine/Device.lean ====
section
/-! DEFINITION. What the device and the outside do between instructions: walks (R357, R358), fault records and rings (R363,
R365, R414), leases (R415), IEEE 1588 (R404), pool and link errors (R409), corrected errors (R419), power (R420) and boot
(R416). -/

namespace Sys2Proof.Machine

/-! ### Walks (R358) -/

/-- What a walk brings its requesters: an entry in each core's TLBs, or the failure to each group. -/
def State.walkDone (s : State) (w : Walk) (r : Except (Cause × Option PfKind) (DWord × Nat)) : State :=
  match r with
  | .ok (e, level) => (w.who.map Prod.snd).dedup.foldl (fun s c => s.tlbFill c (leafEntry w.asid w.part w.vpn e level)) s
  | .error (c, k) => w.who.foldl (fun s (g, _) =>
      if (Tab.look s.groups g).isSome then s.modGroup g fun x => { x with walks := x.walks ++ [(w.vpn, c, k)] } else s) s

/-- Walkers of a die (R358). -/
def nWalkers : Nat := 64

/-- `PAGE_WALK` (R358): one of the walks that a die's walkers hold ends; the pointer entries it read stay in the die's walk cache
(R357). A link that retrains holds its reads (R409). -/
def execPageWalk (die n : Nat) (s : State) : Out :=
  let d := s.die die
  match (d.walks.take nWalkers)[n]? with
  | none => .next s
  | some w =>
    if s.walkHeld die w.asid (w.vpn * 2 ^ 14) then .next s else
    let s := s.setDie die { d with walks := d.walks.eraseIdx n }
    .next ((s.walkKeep die w.asid (w.vpn * 2 ^ 14)).walkDone w (s.walkOn die w.asid (w.vpn * 2 ^ 14)))

/-! ### Fault records (R363-R365) -/

/-- The 16 KiB page of a record. -/
def FaultRec.page (r : FaultRec) : Nat := r.addr.toNat / 2 ^ 14

/-- A waiting agent joins a record. -/
def Outstanding.join (o : Outstanding) (w : Option Waiter) : Outstanding :=
  match w with
  | some (.group g) => { o with groups := o.groups ++ [g] }
  | some (.ray k) => { o with rays := o.rays ++ [k] }
  | none => o

/-- Whether an outstanding record covers a new one: the same ASID, page and cause. -/
def Outstanding.covers (o : Outstanding) (r : FaultRec) : Bool :=
  o.asid == r.asid && o.page == r.page && o.cause == r.cause

/-- A record enters its ring under its source's next number; a served one is outstanding from then on. -/
def State.writeRecord (s : State) (r : FaultRec) : Option State :=
  let n := Tab.get 0 s.seqs r.source
  let r := { r with seq := n % 2 ^ 32 }
  match s.pushFault r.ctx r with
  | none => none
  | some s =>
    let s := { s with seqs := Tab.set 0 s.seqs r.source (n + 1) }
    if r.waiter.isNone then some s
    else
      let o : Outstanding := ⟨r.seq, r.source, r.asid, r.page, r.cause, r.pfkind, [], []⟩
      some (s.setCtx r.ctx { s.ctx r.ctx with out := (s.ctx r.ctx).out ++ [o.join r.waiter] })

/-- `FAULT_RECORD` (R363, R365): a record reaches its context. While one of its triple is outstanding, its agent joins that
one's waiting set instead. A full ring holds it, and every later record of its source behind it. -/
def execFaultRecord (n : Nat) (s : State) : Out :=
  match s.faults[n]? with
  | none => .next s
  | some r =>
    if (s.faults.take n).any fun q => q.source == r.source then .next s
    else
      let rest := s.faults.eraseIdx n
      let c := s.ctx r.ctx
      if r.waiter.isSome && c.out.any (fun (o : Outstanding) => o.covers r) then
        .next ({ s with faults := rest }.setCtx r.ctx { c with out := c.out.map fun (o : Outstanding) => if o.covers r then o.join r.waiter else o })
      else match { s with faults := rest }.writeRecord r with
        | some s => .next s
        | none => .next s

/-- `RING_HEAD_ADVANCE` (R363, R414): the driver advances HEAD; held events enter their ring. The host's request to advance the rollback
counter comes the same way: it never passes the running image's SVN (R417; log entry 36). -/
def execRingHeadAdvance (r : RingId) (head : Word) (s : State) : Out :=
  let h := head.toNat
  match r with
  | .fault c => if (Tab.look s.ctxs c).isNone then .next s else .next (s.setCtx c { s.ctx c with frHead := h })
  | .event c =>
    if (Tab.look s.ctxs c).isNone then .next s
    else
      let s := s.setCtx c { s.ctx c with evHead := h }
      .next (s.drainEvents c (s.ctx c).evHeld.length)
  | .endpoint b =>
    let x := { (if b then s.ctl.evB else s.ctl.evA) with head := h }
    let y := x.pour s.free x.held.length
    .next { s with free := s.free + x.held.length, ctl := if b then { s.ctl with evB := y } else { s.ctl with evA := y } }
  | .rollback =>
    let svn := match s.ctl.running.bind fun k => Tab.look s.ctl.flash k with | some i => i.svn | none => 0
    .next { s with ctl := { s.ctl with rollback := if s.ctl.rollback < h && h ≤ svn then h else s.ctl.rollback } }

/-! ### Leases, time and links -/

/-- `LEASE_EXPIRED` (R415): once, when D0's TIME reaches the expiry of a held slot. -/
def execLeaseExpired (slot : Nat) (s : State) : Out :=
  match Tab.look s.sems slot with
  | none => .next s
  | some m =>
    if m.told || s.time 0 < m.expiry then .next s
    else .next (s.tellLapse slot m)

/-- `PTP_EVENT_MESSAGE` (R398, R404): the rate of a die's TIME, within 500 ppm. -/
def execPtpEventMessage (port die : Nat) (ppm : Int) (s : State) : Out :=
  if 8 ≤ port || 4 ≤ die || s.link (16 + port) != .up || ppm < -500 || 500 < ppm then .next s
  else .next (s.setDie die { s.die die with ppm := ppm })

/-- The code of a link state in a LINK event (R415). -/
def LinkState.code : LinkState → Nat | .down => 0 | .up => 1 | .retraining => 2

/-- A link changes, with its LINK event. -/
def State.setLink (s : State) (cxl : Bool) (port : Nat) (st : LinkState) : State :=
  let d := if cxl then port / 4 else 0
  { s with links := Tab.put s.links (if cxl then port else 16 + port) (st, s.time d) }.event (sourceOf (if cxl then 10 else 9) port) 4 d
    (BitVec.ofNat 64 (port + 2 ^ 8 * LinkState.code st))

/-- `LINK_STATE_CHANGE` (R409, R415): a CXL port that is down stays down until POOLCFG re-enables it. -/
def execLinkStateChange (cxl : Bool) (port : BitVec 4) (st : LinkState) (s : State) : Out :=
  let p := port.toNat
  if (!cxl && 8 ≤ p) || (cxl && s.link p == .down) || s.link (if cxl then p else 16 + p) == st then .next s
  else .next (s.setLink cxl p st)

/-- The longest retraining, in ns (R409). -/
def retrainMax : Nat := 2000000

/-- Whether a CXL link has retrained for 2 ms. -/
def State.retrained (s : State) (port : Nat) : Bool :=
  match Tab.look s.links port with | some (.retraining, t) => decide (t + retrainMax ≤ s.time (port / 4)) | _ => false

/-- `LINK_DOWN` (R409): a CXL link that has retrained for 2 ms counts as down. -/
def execLinkDown (port : BitVec 4) (s : State) : Out :=
  if s.retrained port.toNat then .next (s.setLink true port.toNat .down) else .next s

/-! ### Pool errors (R409) -/

/-- A load of a group meets a pool error: its data arrives with an uncorrectable error. -/
def State.poolRead (s : State) (g n : Nat) : State :=
  s.modLive g fun x => { x with
    pend := x.pend.map fun p =>
      if p.id == n && p.bad.isEmpty && p.reason == 16 then
        let ls := (List.range 32).filter fun l => p.vdst.any fun (k, _) => k % 32 == l
        { p with bad := if ls.isEmpty then [(32, p.va)] else ls.map fun l => (l, p.va) }
      else p }

/-- What a pool error is to a copy: poisoned data, or a timeout or a link that is down (R409). -/
def poolCause (kind : BitVec 4) : Cause := if kind = 0 then .copyMemory else .copyCxl

/-- Where a pool error meets a reduction whose number has come up: a free choice among the accesses at hand. -/
def State.redAddr (s : State) (r : Reduction) : DWord × State :=
  let as_ := match s.redPick r with
    | some k => [r.at_ r.src k, r.at_ r.dst k]
    | none => if r.stamp = 0 then [r.dst] else [r.stamp]
  (as_.getD (Config.freeNat (s.free + 1) % as_.length) r.dst, s.takeFree.takeFree)

/-- `POOL_ERROR` (R409): the event, and what the error hits. -/
def execPoolError (port kind : BitVec 4) (dpa : BitVec 56) (v : PoolVictim) (s : State) : Out :=
  if 3 ≤ kind.toNat then .next s
  else
    let s := s.event (sourceOf 10 port.toNat) 3 (port.toNat / 4) (BitVec.ofNat 64 (port.toNat + 2 ^ 4 * kind.toNat + 2 ^ 8 * dpa.toNat))
    match v with
    | .none => .next s
    | .read g n => .next (s.poolRead g n)
    | .writeBack g => .next (s.modLive g fun x => x.holdErr .cxlWbError 0)
    | .copy t n => match Tab.look (s.team t).copies n with
      | some c => .next (s.copyMeets t c (poolCause kind))
      | none => .next s
    | .reduction l r => match Tab.look (s.launch l).reds r with
      | some x =>
        if x.n != Tab.get 0 (s.launch l).rexp x.region then .next s
        else
          let (a, t) := s.redAddr x
          .next ((t.dropRed l r x.g).copyStop x.team 2 (poolCause kind, a, none) x.n x.desc)
      | none => .next s

/-! ### Corrected errors, scrubbing, power (R419, R420) -/

/-- The die of a unit that a SOURCE names: a core's own, a clock's, a CXL port's, an atomic unit's, otherwise D0. -/
def dieOfSource (src : Word) : Nat :=
  let u := src.toNat % 2 ^ 16
  match src.toNat / 2 ^ 16 with
  | 0 | 1 | 2 => u / 128 % 4
  | 8 => u % 4
  | 10 => u / 4 % 4
  | 13 => u / 64 % 4
  | _ => 0

/-- `CORRECTED` (R419): a unit tells how many errors it has corrected in a second, once in the second. -/
def execCorrected (src : Word) (count : Word) (mem : Byte) (s : State) : Out :=
  let sec := s.time (dieOfSource src) / 10 ^ 9
  if count = 0 || 3 < mem.toNat || Tab.look s.ctl.corrected src.toNat == some sec then .next s
  else .next ({ s with ctl := { s.ctl with corrected := Tab.put s.ctl.corrected src.toNat sec } }.event src.toNat 5 (dieOfSource src)
    (BitVec.ofNat 64 (count.toNat + 2 ^ 32 * mem.toNat)))

/-- `HEARTH_PATROL_SCRUB` (R419): corrected errors change no result. -/
def execHearthPatrolScrub (_die : Nat) (s : State) : Out := .next s

/-- A POWER event (R415). -/
def State.powerEvent (s : State) (watts die : Nat) (trip low high : Bool) : State :=
  s.event (sourceOf 12 0) 6 (die % 4) (BitVec.ofNat 64 (watts % 2 ^ 16 + 2 ^ 16 * s.ctl.capW + 2 ^ 32 * (die % 4) +
    (if trip then 2 ^ 34 else 0) + (if low then 2 ^ 35 else 0) + (if high then 2 ^ 36 else 0)))

/-- `POWER` (R420): above the cap a die's clock is lowered by a clock step, below it raised again. -/
def execPower (watts : BitVec 16) (die : BitVec 2) (mhz : Nat) (s : State) : Out :=
  let d := die.toNat
  let old := (s.die d).finalMhz
  let low := decide (s.ctl.capW < watts.toNat)
  if !mhzOk mhz || mhz == old || low != decide (mhz < old) then .next s
  else .next ((s.powerEvent watts.toNat d false low (!low)).clockStep d mhz)

/-- `THERMAL_TRIP` (R420): the core clock stops without end; the event's power is open. -/
def execThermalTrip (die : Nat) (s : State) : Out :=
  if 4 ≤ die || (s.die die).tripped then .next s
  else
    let w := (Config.freeWord s.free).toNat
    .next ((s.takeFree.setDie die { s.die die with tripped := true }).powerEvent w die true false false)

/-! ### Boot (R416) -/

/-- The header of an image slot. -/
def Image.header (i : Image) : List Byte := leBytes 4 i.version ++ leBytes 4 i.svn ++ leBytes 4 i.length ++ i.rest

/-- R416: a valid slot. -/
def State.imageOk (s : State) (i : Image) : Bool :=
  i.rest == List.replicate 52 0 && i.key.length == 1312 && i.sig.length == 2420 && i.body.length == i.length &&
    Config.sha3 i.key == s.ctl.keyHash && decide (s.ctl.rollback ≤ i.svn) &&
    Config.mldsaVerify i.key (Config.sha3 (i.header ++ i.body)) i.sig

/-- The slot that the ROM enters: the active one, then the other. -/
def State.bootSlot (s : State) : Option Nat :=
  [s.ctl.activeSlot, 1 - s.ctl.activeSlot].find? fun k => match Tab.look s.ctl.flash k with | some i => s.imageOk i | none => false

/-- Whether a physical address lies in Hearth. -/
def inHearth (pa : Nat) : Bool := pa / 2 ^ 51 % 2 == 1

/-- `BOOT` (R327, R416): Hearth and the CXL decoders are zero, and service thread 0 enters the image at HOST. -/
def execBoot (s : State) : Out :=
  if !s.ctl.bootPending then .next s
  else match s.bootSlot with
    | none => .next { s with ctl := { s.ctl with bootPending := false, bootFailed := true } }
    | some k =>
      let body := ((Tab.look s.ctl.flash k).map Image.body).getD []
      .next ({ s with
        mem := s.mem.filter fun (a, _) => !inHearth a
        bad := s.bad.filter fun l => !inHearth (l * 128)
        decoders := []
        ctl := { s.ctl with bootPending := false, running := some k, image := body } }.setSvc 0 { Svc.zero with stopped := false })

end Sys2Proof.Machine
end

