-- ==== Sys2Proof/Machine/Dusk.lean ====
section
/-! DEFINITION. The engine commands of a group's lanes (R106, R279, R280, R282) and Dusk: REPLAY, RRES, relaunches, proposals
and result words (R128-R136, R287, R288). -/

namespace Sys2Proof.Machine

/-! ### Bellows commands -/

/-- A word that holds a command for its commit, made from the snapshots it reads. -/
def State.commandWord (s : State) (o : LaneOp) (cls : LaneClass) (r : LaneRule) (c : (Nat → DWord) → Cmd) : Out :=
  s.laneWord o.h cls (usesOf r 32 o) none fun g m s =>
    if m = 0 then .next (s.laneDone g o.h)
    else
      let (t, vs) := s.readUses g m (usesOf r 32 o m)
      .next ((t.hold g (.cmd (c (snapVal m vs)))).laneDone g o.h)

/-- `STAGE` (R279). -/
def execStage (o : LaneOp) (s : State) : Out := s.commandWord o .bellows ruleBare fun _ => .stage

/-- `CPYRED` (R280). -/
def execCpyred (o : LaneOp) (s : State) : Out :=
  s.commandWord o .bellows (ruleCpyred o) fun v => .cpyred (LaneOp.xfield o 0 2) o.fmt o.sat (v 0) ((v 1).setWidth 32)

/-- `CPYNET` (R282). -/
def execCpynet (o : LaneOp) (s : State) : Out := s.commandWord o .bellows (ruleCpynet o) fun v => .cpynet (v 0) (v 1)

/-- `REPLAY` (R287). -/
def execReplay (o : LaneOp) (s : State) : Out := s.commandWord o .other (ruleReplay o) fun v => .replay (v 0)

/-- The replays an RRES of a group covers (R288). -/
def State.uncovered (s : State) (g : Nat) : List Nat :=
  (s.replays.filter fun (_, (r : Replay)) => r.g == g && !r.covered && r.cover.isNone).map Prod.fst

/-- `RRES` (R288): its value is decided when it lands; with nothing covered it is 0 at once. -/
def execRres (o : LaneOp) (s : State) : Out :=
  s.laneWord o.h .other (fun _ => []) (putOf ruleRres o) fun g m s =>
    if m = 0 then .next (s.laneDone g o.h)
    else
      let p : Put := ⟨o.d, 1⟩
      match s.uncovered g with
      | [] => .next ((s.writeDst g p ((lanesOf m).map fun l => (l, 0))).laneDone g o.h)
      | ns =>
        let gen := (s.group g).regen
        let keys := (s.group g).putKeys p m
        let s := { s with replays := ns.foldl (fun t n => Tab.upd t n fun (r : Replay) => { r with cover := some gen }) s.replays }
        .next ((s.addPending g ⟨0, 0, 0, none, keys.map fun k => (k, 0), [], 0, 17, [], some ns⟩).laneDone g o.h)

/-! ### The block of a REPLAY -/

/-- The fields of a block (R287). -/
structure RBlock where
  recList : DWord
  desc : DWord
  prop : DWord
  ov : DWord
  rec_ : DWord
  res : DWord
  lrec : DWord
  count : Nat
  iter : Nat
  mode : Nat
  ok : Bool
  deriving DecidableEq, Repr

def parseBlock (bs : List Byte) : RBlock :=
  let d (k : Nat) : DWord := BitVec.ofNat 64 (field bs (8 * k) 8)
  let n := field bs 56 4
  let m := field bs 60 4
  ⟨d 0, d 1, d 2, d 3, d 4, d 5, d 6, n, m % 2 ^ 20, m / 2 ^ 20 % 4,
    1 ≤ n && n ≤ 2 ^ 20 && m % 2 ^ 20 != 0 && m / 2 ^ 20 % 4 != 3 && m / 2 ^ 22 == 0⟩

/-- Path RP. -/
def rp : Nat := 5

/-! ### Descriptors and proposals (R128-R130) -/

/-- The fields of a mutation descriptor. -/
def descKind (d : List Byte) : Nat := field d 0 1 % 4
def descAccept (d : List Byte) : Bool := field d 0 1 / 4 % 2 == 1
def descBySite (d : List Byte) : Bool := field d 0 1 / 8 % 2 == 1
def descSplpt (d : List Byte) : Nat := field d 2 2
def descProp (d : List Byte) : Val := toVal .f32 (field d 4 4)
def descS1 (d : List Byte) : Val := toVal .f32 (field d 8 4)
def descS2 (d : List Byte) : Val := toVal .f32 (field d 12 4)
def descShift (d : List Byte) : Nat := field d 16 4

/-- Whether a value is below zero; -0 is not. -/
def Val.below0 (v : Val) : Bool := match v with | .inf s => s | .num s n _ => s && n != 0 | .nan _ => false

/-- R128: the descriptor is valid. -/
def descOk (d : List Byte) : Bool :=
  field d 0 1 / 16 == 0 && field d 1 1 == 0 && field d 20 4 == 0 &&
    (descKind d != 0 || (!(descS1 d).isNan && !(descS2 d).isNan && valLt (.num false 0 1) (descS1 d) &&
      !valLt (descS2 d) (descS1 d) && !valLt (.num false 1 1) (descS2 d))) &&
    (descKind d != 1 || descShift d ≤ 65535) &&
    (!descAccept d || (!(descProp d).isNan && !(descProp d).below0))

/-- The exact 2^e-th root, where there is one. -/
def exactRoot : Nat → Nat → Option Nat
  | 0, n => some n
  | e + 1, n => let r := isqrt n; if r * r = n then exactRoot e r else none

/-- m = odd × 2^k below 2^31: the odd part and 31 - k. -/
def oddPart : Nat → Nat → Nat × Nat
  | 0, m => (m, 0)
  | e + 1, m => if m % 2 = 0 then oddPart e (m / 2) else (m, e + 1)

/-- An irrational magnitude rounded to an integer: both ends of its interval, at growing precision. -/
def roundIrr (approx : Nat → Nat × Nat × Nat) (p : Nat) : Nat → Nat
  | 0 => let (lo, _, d) := approx p; roundNat .rne false lo d
  | fuel + 1 =>
    let (lo, hi, d) := approx p
    if roundNat .rne false lo d = roundNat .rne false hi d then roundNat .rne false lo d else roundIrr approx (p + 96) fuel

/-- R130: D from S1 = a / b, S2 = c / d, and the low 31 bits of the kick draw. -/
def kickSize (a b c d m : Nat) : Nat :=
  -- the ratio S1 / S2, at most 1, in lowest terms
  let n0 := a * d
  let d0 := b * c
  let g := Nat.gcd n0 d0
  let n := n0 / max 1 g
  let e := d0 / max 1 g
  let (q, k) := if m = 0 then (0, 0) else oddPart 31 m
  let exact := if m = 0 then some (1, 1) else match exactRoot k n, exactRoot k e with
    | some x, some y => some (x ^ q, y ^ q)
    | _, _ => none
  match exact with
  | some (x, y) => roundNat .rne false (c * x * 2 ^ 32) (d * y)
  | none =>
    roundIrr (fun p =>
      let l := (log2Fix p e n).toNat * m / 2 ^ 31
      let (u, i) := exp2Fix p true l (2 ^ p)
      let (x, y) := pow2 i
      (c * (u - 2 ^ 24) * x * 2 ^ 32, c * (u + 2 ^ 24) * x * 2 ^ 32, d * 2 ^ p * y)) 128 6

/-- The magnitude of a value as a fraction. -/
def Val.frac (v : Val) : Nat × Nat := match v with | .num _ n d => (n, d) | _ => (0, 1)

/-- An entry of a proposal: FRESH and the reserved bits clear. -/
def ventryPlain (e : Nat) : Nat := e % 2 ^ 59 - 2 ^ 56 * (e / 2 ^ 56 % 2)

/-- A PERTURB kick of entry k. -/
def kickEntry (rseed : DWord) (glid : Word) (d : List Byte) (e k : Nat) : Nat :=
  let x := (hi32 (ember rseed (BitVec.ofNat 64 (glid.toNat * 2 ^ 32) ||| BitVec.ofNat 64 (4094 * 2 ^ 20) ||| BitVec.ofNat 64 k))).toNat
  let (a, b) := (descS1 d).frac
  let (c, f) := (descS2 d).frac
  let n := kickSize a b c f (x % 2 ^ 31)
  let v := ventryValue e
  let v' := if x < 2 ^ 31 then (v + n) % 2 ^ 32 else (v + 2 ^ 32 - n % 2 ^ 32) % 2 ^ 32
  let p := ventryPlain e - v + v'
  if v' = v || ventryMut e then p else p + 2 ^ 57

/-- The index of the first entry of a site. -/
def siteIndex (v : List DWord) (site : Nat) : Nat := v.findIdx fun e => ventrySite e.toNat == site

/-- R129: the proposal from the original's vector V and a donor's vector W. -/
def proposal (rseed : DWord) (glid : Word) (d : List Byte) (v w : List DWord) (cap : Nat) : List DWord :=
  let plain (l : List DWord) : List Nat := l.map fun e => ventryPlain e.toNat
  let p : List Nat := match descKind d with
    | 0 => v.zipIdx.map fun (e, k) => kickEntry rseed glid d e.toNat k
    | 1 => plain (v.drop (descShift d))
    | 2 =>
      let site := descSplpt d % 2 ^ 12
      let p := if descBySite d then siteIndex v site else min (descSplpt d) v.length
      let q := if descBySite d then siteIndex w site else min p w.length
      plain (v.take p) ++ (plain (w.drop q)).map fun e => if ventrySpliced e then e else e + 2 ^ 58
    | _ => []
  (p.take cap).map fun e => BitVec.ofNat 64 e

/-! ### Reading a thread (R131, R132) -/

/-- A vector: its entries, at an output slot. -/
def State.rpVector (s : State) (asid : Nat) (slot : DWord) (n : Nat) : Option (List DWord) :=
  (s.vRead asid rp (slot + 8) (8 * n)).map fun bs => (List.range n).map fun k => BitVec.ofNat 64 (field bs (8 * k) 8)

/-- A thread that will not run. -/
def RThread.bad (code : Nat) : RThread := ⟨[], [], [], 0, 0, code, false, false, []⟩

/-- The records of RECLIST: a readable record's bytes for each thread. -/
def State.rpRecords (s : State) (asid : Nat) (b : RBlock) : List (Option (List Byte)) :=
  (List.range b.count).map fun t => do
    let a ← s.vRead asid rp (b.recList + BitVec.ofNat 64 (8 * t)) 8
    s.vRead asid rp (BitVec.ofNat 64 (ofLeBytes a)) 48

/-- The donor's vector, or the fault code of reading it. -/
def State.rpDonor (s : State) (asid : Nat) (d : List Byte) : Except Nat (List DWord) :=
  if descKind d != 2 then .ok []
  else match s.vRead asid rp (BitVec.ofNat 64 (field d 24 8)) 48 with
    | none => .error 1
    | some r => match s.rpVector asid (BitVec.ofNat 64 (field r 16 8)) (field r 24 2) with
      | none => .error 2
      | some w => .ok w

/-- One thread, and its proposal written to the relaunch's input slot. Where several fault codes of R132 hold, the thread reports
the first of this order, which the model chose (DESIGN CHOICE; log entry 103): its record or descriptor (1), DESC_INVALID (3),
the donor's record (1) or vector (2), its own vector (2), the proposal write (2). -/
def State.rpThread (s : State) (asid : Nat) (b : RBlock) (r : LRec) (first : Option Nat) (t : Nat) (rec_ : Option (List Byte)) :
    State × RThread :=
  match rec_ with
  | none => (s, RThread.bad 1)
  | some bs =>
    if some (field bs 0 4) != first then (s, RThread.bad 1)
    else match s.vRead asid rp (b.desc + BitVec.ofNat 64 (32 * t)) 32 with
    | none => (s, RThread.bad 1)
    | some d =>
      if !descOk d then (s, RThread.bad 3)
      else match s.rpDonor asid d, s.rpVector asid (BitVec.ofNat 64 (field bs 16 8)) (field bs 24 2) with
      | .error c, _ => (s, RThread.bad c)
      | .ok _, none => (s, RThread.bad 2)
      | .ok w, some v =>
        let glid : Word := BitVec.ofNat 32 (field bs 4 4)
        let p := proposal r.seed glid d v w r.cap
        let out := leBytes 8 p.length ++ p.flatMap fun e => leBytes 8 e.toNat
        match s.vWriteAll asid rp (slotAt r.ivBase r.cap glid) out with
        | none => (s, RThread.bad 2)
        | some s => (s, ⟨bs, v, d, glid, BitVec.ofNat 64 (field bs 8 8), 0, false, false, []⟩)

/-- The threads, in order. -/
def State.rpThreads (s : State) (asid : Nat) (b : RBlock) (r : LRec) (first : Option Nat) : Nat → List (Option (List Byte)) → State × List RThread
  | _, [] => (s, [])
  | t, x :: xs =>
    let (s, y) := s.rpThread asid b r first t x
    let (s, ys) := s.rpThreads asid b r first (t + 1) xs
    (s, y :: ys)

/-- R131: the relaunch's record, built from the original's; its launch id is that of the named records (R321), and TEAMS the number
of its teams (DESIGN CHOICE; log entry 109). -/
def LRec.relaunch (r : LRec) (b : RBlock) (id : Option Nat) : LRec :=
  { r with
    id := match id with | some i => BitVec.ofNat 32 i | none => r.id
    ivBase := b.prop
    ovBase := b.ov
    recBase := b.rec_
    flags := (r.flags &&& ~~~(0x30 : Word)) ||| BitVec.ofNat 32 (b.mode * 16)
    seed := ember r.seed (0xFFFFFFFF00000000 ||| BitVec.ofNat 64 b.iter)
    teams := (b.count + 32 * r.tgrps - 1) / (32 * max 1 r.tgrps) }

/-- SOURCE of Dusk (R364). -/
def duskSource : Nat := sourceOf 3 0

/-- The block of a replay could not be read or breaks its layout: a record, and no result word (R287). -/
def State.replayFail (s : State) (n : Nat) (r : Replay) : State :=
  { s with replays := Tab.put s.replays n { r with started := true, failed := true } }.record
    { s.launchRec r.launch .replayBlock duskSource rp r.blk with aux64 := r.blk }

/-- Whether what Dusk reads and writes as it builds a relaunch lies behind a link that retrains (R409). -/
def State.duskHeld (s : State) (asid : Nat) (r : Replay) : Bool :=
  s.vHolds asid r.blk 64 || match s.vRead asid rp r.blk 64 with
    | none => false
    | some bs =>
      let b := parseBlock bs
      let recAt (t : Nat) : DWord := BitVec.ofNat 64 (((s.vRead asid rp (b.recList + BitVec.ofNat 64 (8 * t)) 8).map ofLeBytes).getD 0)
      s.vHolds asid b.lrec 256 || s.vHolds asid b.recList (8 * b.count) || s.vHolds asid b.desc (32 * b.count) ||
        (List.range b.count).any fun t => s.vHolds asid (recAt t) 48 ||
          match s.vRead asid rp (recAt t) 48 with
          | some y => s.vHolds asid (BitVec.ofNat 64 (field y 16 8)) (8 + 8 * field y 24 2)
          | none => false

/-- `DUSK_RELAUNCH` (R131, R287): Dusk reads a released REPLAY's block, builds the relaunch and its threads. The relaunch counts
under the queue of the launch that issued the REPLAY (DESIGN CHOICE; log entry 109). A record that is not 64-byte aligned, or a draw
outside a rendering queue, is rejected as at a submission (R132, R336, R338). -/
def execDuskRelaunch (n : Nat) (s : State) : Out :=
  match Tab.look s.replays n with
  | none => .next s
  | some r =>
    if r.started || !r.released || s.duskHeld (s.ctx (s.launch r.launch).ctx).asid r then .next s
    else
      let c := (s.launch r.launch).ctx
      let asid := (s.ctx c).asid
      let s := s.cmdDone r.g
      match (if r.blk.toNat % 8 = 0 then s.vRead asid rp r.blk 64 else none) with
      | none => .next (s.replayFail n r)
      | some bs =>
        let b := parseBlock bs
        if !b.ok then .next (s.replayFail n r)
        else
          let rr := (s.ctx c).rr
          let l := s.nextSeq
          let base : Launch := { Launch.zero with ctx := c, queue := (s.launch r.launch).queue, rr := rr, replay := some (n, b.iter), t0 := s.time 0 }
          let failAll (s : State) (x : Launch) : State :=
            let s := s.rejectLaunch x duskSource
            { s with replays := Tab.put s.replays n ({ r with started := true, bytes := bs, relaunch := some l, threads := List.replicate b.count (RThread.bad 5) } : Replay) }
          let z := s.queueOf c (s.launch r.launch).queue
          match (if b.lrec.toNat % 64 = 0 then s.vRead asid 0 b.lrec 256 else none) with
          | none => .next (failAll s base)
          | some rb =>
            let o := parseLRec rb
            let rs := s.rpRecords asid b
            let first := (rs.filterMap id).head?.map fun r => field r 0 4
            let q := o.relaunch b first
            let x : Launch := { base with lr := q }
            let ext := if q.drawExt = 0 then none else s.vRead asid 0 q.drawExt 64
            if !s.recordOk asid (s.vf (s.ctx c).vf).part rr q (field rb 240 16) ext || (q.drawExt != 0 && !z.render) || !s.capsOk asid q rr z.frame z.render then .next (failAll s x)
            else
              let (s, ts) := s.rpThreads asid b q first 0 rs
              let s := ((s.addLaunch { x with quenched := !(q.det && q.detWords != 0) }).zeroSlots asid q).writeSplit asid q
              .next { s with replays := Tab.put s.replays n { r with started := true, bytes := bs, relaunch := some l, seed := o.seed, threads := ts } }

/-! ### Result words (R132-R134) -/

/-- R133: RATIO of the outcomes' patterns. -/
def outcomeRatio (a b : Nat) : Nat :=
  match toVal .f32 a, toVal .f32 b with
  | .nan _, _ | _, .nan _ => canonNan .f32
  | .inf _, .inf _ => canonNan .f32
  | .inf _, .num _ _ _ => 0
  | .num _ n _, .inf _ => if n = 0 then f32Inf else f32Inf
  | .num _ n d, .num _ m e =>
    if n = 0 then (if m = 0 then 0x3F800000 else f32Inf)
    else (roundTo .f32 .rne false (.num false (m * d) (e * n))).1

/-- R133: DIVIDX of two output vectors. -/
def divIndex (v w : List DWord) : Nat :=
  let k := (v.zip w).findIdx fun (x, y) => ventrySite x.toNat != ventrySite y.toNat
  if k < min v.length w.length then k
  else if v.length = w.length then 0xFFFF else min v.length w.length

/-- R134: the acceptance of a ratio under a descriptor. -/
def accepts (seed : DWord) (glid : Word) (iter ratio : Nat) (prop : Val) : Bool :=
  let u := (hi32 (ember seed (BitVec.ofNat 64 (glid.toNat * 2 ^ 32 + 4095 * 2 ^ 20 + iter % 2 ^ 20)))).toNat
  match toVal .f32 ratio, prop with
  | .nan _, _ | _, .nan _ => false
  | .inf _, .inf _ => true
  | .inf _, .num _ n _ => n != 0
  | .num _ n _, .inf _ => n != 0
  | .num _ n d, .num _ m e => decide (u * (d * e) < 2 ^ 32 * (n * m))

/-- Whether a relaunched lane is still somewhere in its launch; one whose VEXIT has not committed is (R127, R265). -/
def State.laneLives (s : State) (l : Nat) (glid : Word) : Bool :=
  let has (x : SwLane) : Bool := x.lane.glid == glid
  (s.teams.any fun (_, t) => t.launch == l &&
    ((t.groups.any fun (_, g) =>
        let x := s.group g
        x.lanes.any fun (k, y) => (!x.xm.getLsbD k || x.reg.exited.getLsbD k) && y.glid == glid) ||
      (t.bins.any fun (_, b) => b.lanes.any has) || t.recs.any fun (_, c) => c.waiting.any fun (_, y) => has y)) ||
    s.rays.any fun (_, r) => r.launch == l && match r.shade with | some (_, y) => has y | none => false

/-- Whether a store of a lane's record, output slot header or output entries has not performed yet (R321). -/
def State.recPending (s : State) (l : Nat) (glid : Word) : Bool :=
  let q := (s.launch l).lr
  let a := (q.recBase + BitVec.ofNat 64 (48 * glid.toNat)).toNat
  let o := (slotAt q.ovBase q.cap glid).toNat
  s.groups.any fun (_, x) => (s.team x.team).launch == l && x.inflight.any fun h => match h with
    | .store _ ws _ _ _ _ => ws.any fun w =>
      !w.spad && (meets w.va.toNat w.data.length a 48 || meets w.va.toNat w.data.length o (8 + 8 * q.cap))
    | _ => false

/-- The words of a result. -/
def resultBytes (ratio div fresh unused status out : Nat) : List Byte :=
  leBytes 4 ratio ++ leBytes 2 div ++ leBytes 2 fresh ++ leBytes 2 unused ++ leBytes 2 status ++ leBytes 4 out

/-- A thread's result word is decided and performed on the RP path; the other paths see it later, at the latest behind a fence from
RP (R118, R136, R322). -/
def State.putResult (s : State) (n i : Nat) (r : Replay) (x : RThread) (bs : List Byte) (acc : Bool) : State :=
  let r := { r with acc := r.acc + (if acc then 1 else 0), threads := r.threads.set i { x with done := true, word := bs } }
  { s with replays := Tab.put s.replays n r }

/-- The word reaches memory, or is dropped where its page does not allow the write. -/
def State.showResult (s : State) (n i : Nat) (r : Replay) (x : RThread) : State :=
  let b := parseBlock r.bytes
  let s := (s.vWrite (s.ctx (s.launch r.launch).ctx).asid rp (b.res + BitVec.ofNat 64 (16 * i)) x.word).getD s
  { s with replays := Tab.put s.replays n { r with threads := r.threads.set i { x with word := [] } } }

/-- The result of a thread whose lane has ended: its words, and ACC; or the fault code of reading them. -/
def State.resultOf (s : State) (r : Replay) (x : RThread) : Except Nat (List Byte × Bool) :=
  let l := r.relaunch.getD 0
  let q := (s.launch l).lr
  let b := parseBlock r.bytes
  let asid := (s.ctx (s.launch r.launch).ctx).asid
  match s.vRead asid rp (q.recBase + BitVec.ofNat 64 (48 * x.glid.toNat)) 48 with
  | none => .error 1
  | some y => match s.rpVector asid (slotAt q.ovBase q.cap x.glid) (field y 24 2) with
    | none => .error 2
    | some w =>
      let ratio := outcomeRatio (field x.orig 32 4) (field y 32 4)
      let acc := descAccept x.desc && accepts r.seed x.glid b.iter ratio (descProp x.desc)
      let status := (if acc then 1 else 0) + (if descAccept x.desc then 2 else 0)
      .ok (resultBytes ratio (divIndex x.vec w) (field y 26 2) (field y 28 2) status (field y 32 4), acc)

/-- `RESULT_WORD` (R132): thread `i` of replay `n`: its word is decided, then shown to every path. -/
def execResultWord (n i : Nat) (s : State) : Out :=
  match Tab.look s.replays n with
  | none => .next s
  | some r => match r.threads[i]? with
    | none => .next s
    | some x =>
      let l := r.relaunch.getD 0
      let t := s.team (teamKey l (i / max 1 (32 * (s.launch l).lr.tgrps)))
      let fault (c : Nat) : Out := .next (s.putResult n i r x (resultBytes 0 0 0 0 (16 * c) 0) false)
      let asid := (s.ctx (s.launch r.launch).ctx).asid
      let q := (s.launch l).lr
      if x.done then
        .next (if x.word.isEmpty || s.vHolds asid ((parseBlock r.bytes).res + BitVec.ofNat 64 (16 * i)) 16 then s else s.showResult n i r x)
      else if x.fault != 0 then fault x.fault
      else if t.st == .terminated then fault 4
      else if !x.placed || s.laneLives l x.glid || s.recPending l x.glid ||
          s.vHolds asid (q.recBase + BitVec.ofNat 64 (48 * x.glid.toNat)) 48 || s.vHolds asid (slotAt q.ovBase q.cap x.glid) (8 + 8 * q.cap) then .next s
      else match s.resultOf r x with
        | .error c => fault c
        | .ok (bs, acc) => .next (s.putResult n i r x bs acc)

/-- Whether every result word of a replay has been written, or none will be. -/
def Replay.complete (r : Replay) : Bool := r.failed || (r.started && r.threads.all fun t => t.done)

end Sys2Proof.Machine
end

