-- ==== Sys2Proof/Machine/Service.lean ====
section
/-! DEFINITION. Service commands of contexts and guests (R341, R342, R365, R368, R369, R376-R378, R385-R387, R405, R410-R412):
what every request asks first, its response, and the commands on queues, teams and contexts. -/

namespace Sys2Proof.Machine

/-! ### Requests and responses (R410-R412) -/

/-- `n` bytes of a request's message from offset `off` on. -/
def reqArg (q : Req) (off n : Nat) : Nat := field q.args (off - 16) n

/-- R412: every argument byte outside the named ranges is zero. -/
def reqArgsOk (q : Req) (named : List (Nat × Nat)) : Bool :=
  q.args.length == 48 && (List.range 48).all fun k =>
    (named.any fun (o, n) => decide (o ≤ k + 16) && decide (k + 16 < o + n)) || q.args.getD k 0 == 0

/-- VF = 0xFF means host. -/
def fromHost (q : Req) : Bool := q.vf == 0xFF

/-- Status codes beside those of R333 (R410). -/
def stRefused : Nat := 6
def stNotOwner : Nat := 7

/-- The response to a request: its status and 24 result bytes. -/
def State.reply (s : State) (q : Req) (st : Nat) (result : List Byte) : State :=
  let r : Resp := ⟨q.endpointB, q.seq, q.cmd, st, (result ++ List.replicate 24 0).take 24⟩
  { s with ctl := { s.ctl with resps := s.ctl.resps ++ [r] } }

/-- Who may issue a command (R411). -/
inductive Issuer
  | context
  | contextOrHost
  | guestOrHost
  | host
  | any
  deriving DecidableEq, Repr

/-- Whether a request comes from a context of its virtual function. -/
def State.fromContext (s : State) (q : Req) : Bool :=
  match Tab.look s.ctxs q.ctx.toNat with | some (c : Ctx) => !fromHost q && c.vf == q.vf.toNat | none => false

def State.issuerOk (s : State) (q : Req) : Issuer → Bool
  | .context => s.fromContext q
  | .contextOrHost => s.fromContext q || fromHost q
  | .guestOrHost => fromHost q || decide (q.vf.toNat < 64)
  | .host => fromHost q
  | .any => true

/-- Whether two requests have one sender: the host at one endpoint, or a context of a virtual function at one (R410). -/
def sameSender (q r : Req) : Bool := q.endpointB == r.endpointB && q.vf == r.vf && (fromHost q || q.ctx == r.ctx)

/-- Whether a request waits behind an earlier one of its sender: they take effect in SEQ order (R410). -/
def State.behindOwn (s : State) (q : Req) : Bool :=
  s.ctl.waiting.any fun w => match w with | .req r _ => sameSender q r | .preempt _ _ _ _ => false

/-- A request waits with the commands behind a SWITCH. -/
def State.pend (s : State) (q : Req) (accepted : Bool) : State := { s with ctl := { s.ctl with waiting := s.ctl.waiting ++ [.req q accepted] } }

/-- WHAT EVERY REQUEST ASKS FIRST (R411-R413, R416), in this order (log entry 36): a booted service; its turn among its sender's
requests; the feature word, but for FEATNEG and ATTEST; its issuer; its slot; its bytes. -/
def State.serve (s : State) (q : Req) (early : Bool) (who : Issuer) (slot : Option Nat) (named : List (Nat × Nat)) (k : State → State) : Out :=
  if s.ctl.bootPending then .next s
  else if s.behindOwn q then .next (s.pend q false)
  else if s.ctl.bootFailed || (s.ctl.feature.isNone && !early) || !s.issuerOk q who then .next (s.reply q stRefused [])
  else if match slot with
      | some n => (match Tab.look s.sems n with | some m => !m.heldBy q.endpointB (s.time 0) | none => true)
      | none => false then .next (s.reply q stNotOwner [])
  else if !reqArgsOk q named then .next (s.reply q 5 [])
  else .next (k s)

/-- A command that targets a virtual function waits behind its SWITCH (R377). -/
def State.behindSwitch (s : State) (q : Req) (vf : Nat) (k : State → State) : State :=
  if (s.vf vf).switching.isSome then s.pend q true else k s

/-- The virtual function of the context a request names. -/
def State.reqVf (s : State) (q : Req) : Nat := (s.ctx q.ctx.toNat).vf

/-- Memory that a request's address names: physical from the host, otherwise in the context's address space (R412). -/
def State.reqRead (s : State) (q : Req) (a : DWord) (n : Nat) : Option (List Byte) :=
  if fromHost q then (if s.isBad a.toNat n then none else some (s.rdBytes a.toNat n)) else s.vRead (s.ctx q.ctx.toNat).asid 0 a n

def State.reqWrite (s : State) (q : Req) (a : DWord) (bs : List Byte) : Option State :=
  if fromHost q then some (s.wrBytes a.toNat bs) else s.vWrite (s.ctx q.ctx.toNat).asid 0 a bs

/-! ### RING (R341, R342) -/

/-- A power of two between two bounds. -/
def pow2In (lo hi n : Nat) : Bool := (List.range 17).any fun k => n == 2 ^ k && decide (lo ≤ n) && decide (n ≤ hi)

/-- R342: a queue descriptor's checks. -/
def queueDescOk (bs : List Byte) : Bool :=
  let w := field bs 14 1
  field bs 0 8 % 64 == 0 && pow2In 1 65536 (field bs 8 4) && field bs 12 1 ≤ 7 && field bs 13 1 / 4 == 0 &&
    (w == 0 || (12 ≤ w && w ≤ 28)) && field bs 20 4 < field bs 8 4 && field bs 15 1 == 0 && (bs.drop 24).all (· == 0)

/-- The settings that a valid descriptor gives a queue; HEAD is the device's own. Another ring's entry at HEAD has still to wait for
its own WAITA (R344). -/
def Queue.load (x : Queue) (bs : List Byte) : Queue :=
  let w := field bs 14 1
  let n := field bs 8 4
  { x with base := BitVec.ofNat 64 (field bs 0 8), size := n, cls := field bs 12 1 / 2, render := field bs 13 1 % 2 == 1,
           frame := field bs 13 1 / 2 % 2 == 1, wdog := if w = 0 then 20 else w, head := x.head % max 1 n, tail := field bs 20 4, valid := true,
           reached := x.reached && x.base == BitVec.ofNat 64 (field bs 0 8) && x.size == n }

/-- A doorbell. -/
def State.ringQueue (s : State) (q : Req) : State :=
  let c := q.ctx.toNat
  let n := reqArg q 16 2
  if (s.ctx c).qCount ≤ n then s.reply q 5 []
  else
    let bs := match s.ctxPa c ((s.ctx c).qtBase + BitVec.ofNat 64 (64 * n)) false with
      | some pa => if s.isBad pa 64 then none else some (s.rdBytes pa 64)
      | none => none
    match bs with
    | none => s.reply q 3 []
    | some bs =>
      let x := s.queueOf c n
      if queueDescOk bs then (s.setQueue c n (x.load bs)).reply q 0 []
      else
        let s := s.setQueue c n { x with valid := false }
        let r : FaultRec := ⟨c, .queueInvalid, 5, 0xFF, 0, distributor, 0, 0, 0xFF, 0xFF, (s.ctx c).asid, 0, BitVec.ofNat 32 n, 0, 0, s.time 0, 0, none⟩
        (s.record r).reply q 5 []

/-- `RING` (R341, R342). -/
def execRing (q : Req) (s : State) : Out := s.serve q false .context none [(16, 2)] fun s => s.ringQueue q

/-! ### Teams and launches of a context (R365, R369, R376) -/

/-- The live launch of an id in a context. -/
def State.ctxLaunch (s : State) (c : Nat) (id : Nat) : Option Nat :=
  (s.launches.find? fun (_, x) => x.ctx == c && x.lr.id.toNat == id && !x.done).map Prod.fst

/-- A waiting agent is released: a group unparks, a ray is queued (R365). -/
def State.serveAgent (s : State) (retry : Bool) (w : Waiter) : State :=
  match w with
  | .group g =>
    if (Tab.look s.groups g).isNone then s
    else if retry then (if (s.group g).sch.parked then s.unparkGroup g else s) else s.terminate (s.group g).team
  | .ray k => match s.ray k with
    | none => s
    | some r => if r.st != .waiting then s else if retry then s.setRay k r.served else s.loseRay k r r.slot

/-- RESOLVE of an outstanding record (R365). -/
def State.resolve (s : State) (q : Req) : State :=
  let c := q.ctx.toNat
  let retry := reqArg q 20 1 == 0
  if 1 < reqArg q 20 1 then s.reply q 5 []
  else match (s.ctx c).out.find? fun (o : Outstanding) => o.seq == reqArg q 16 4 with
    | none => s.reply q 1 []
    | some o =>
      if retry && o.cause == .pageFault && o.pfkind == 1 then s.reply q 2 []
      else
        let s := s.setCtx c { s.ctx c with out := (s.ctx c).out.erase o }
        let ws := o.groups.map Waiter.group ++ o.rays.map Waiter.ray
        (ws.foldl (fun s w => s.serveAgent retry w) s).reply q 0 []

/-- `RESOLVE` (R365). -/
def execResolve (q : Req) (s : State) : Out :=
  s.serve q false .contextOrHost none [(16, 4), (20, 1)] fun s => s.behindSwitch q (s.reqVf q) fun s => s.resolve q

/-- UNPARK of a team of the context (R376). -/
def State.unparkReq (s : State) (q : Req) : State :=
  match s.ctxLaunch q.ctx.toNat (reqArg q 16 4) with
  | none => s.reply q 1 []
  | some l =>
    let t := teamKey l (reqArg q 20 4)
    let gi := reqArg q 24 1
    if (Tab.look s.teams t).isNone || (s.team t).over? || (s.team t).st == .exported then s.reply q 1 []
    else match s.targetGroups t gi with
      | none => s.reply q 1 []
      | some gs =>
        if gi != 0xFF && !(gs.all fun g => (s.group g).sch.parked) then s.reply q 2 []
        else (gs.foldl State.unparkIf s).reply q 0 []

/-- `UNPARK` (R376). -/
def execUnparkCmd (q : Req) (s : State) : Out :=
  s.serve q false .contextOrHost none [(16, 4), (20, 4), (24, 1)] fun s => s.behindSwitch q (s.reqVf q) fun s => s.unparkReq q

/-- Terminate a team of a launch that may not have been placed. -/
def State.killIndex (s : State) (l idx : Nat) : State :=
  let t := teamKey l idx
  let s := if (Tab.look s.teams t).isSome then s else s.setTeam t { Team.zero with launch := l, idx := idx }
  s.terminate t

def State.killTeam (s : State) (q : Req) : State :=
  match s.ctxLaunch q.ctx.toNat (reqArg q 16 4) with
  | none => s.reply q 1 []
  | some l =>
    let idx := reqArg q 20 4
    let t := teamKey l idx
    if (s.launch l).lr.teams ≤ idx && (Tab.look s.teams t).isNone then s.reply q 1 []
    else if (s.team t).over? then s.reply q 2 []
    else (s.killIndex l idx).reply q 0 []

/-- `KILLTEAM` (R369). -/
def execKillteam (q : Req) (s : State) : Out :=
  s.serve q false .contextOrHost none [(16, 4), (20, 4)] fun s => s.behindSwitch q (s.reqVf q) fun s => s.killTeam q

def State.killLaunch (s : State) (q : Req) : State :=
  match s.ctxLaunch q.ctx.toNat (reqArg q 16 4) with
  | none => s.reply q 1 []
  | some l =>
    let extra := (s.teams.filter fun (_, (t : Team)) => t.launch == l && decide ((s.launch l).lr.teams ≤ t.idx)).map fun (_, (t : Team)) => t.idx
    ((List.range (s.launch l).lr.teams ++ extra).foldl (fun s i => s.killIndex l i) s).reply q 0 []

/-- `KILLLAUNCH` (R369). -/
def execKilllaunch (q : Req) (s : State) : Out :=
  s.serve q false .contextOrHost none [(16, 4)] fun s => s.behindSwitch q (s.reqVf q) fun s => s.killLaunch q

/-! ### SWITCH and PREEMPTVF (R376-R378) -/

/-- Cores of the teams of a context. -/
def State.coresOfCtx (s : State) (c : Nat) : List Nat := s.coresHeld fun t => (s.launch t.launch).ctx == c

/-- SWITCH is accepted: dispatch and placement stop, and the outgoing context's cores are vacated. -/
def State.startSwitch (s : State) (q : Req) : State :=
  let c := reqArg q 16 2
  let vf := (s.ctx c).vf
  if (Tab.look s.ctxs c).isNone || (!fromHost q && vf != q.vf.toNat) then s.reply q 1 []
  else s.behindSwitch q vf fun s =>
    let s := s.setVf vf { s.vf vf with switching := some c }
    let s := match (s.vf vf).active with | some a => (s.vacateCores (s.coresOfCtx a)).1 | none => s
    s.reply q 0 []

/-- `SWITCH` (R377). -/
def execSwitch (q : Req) (s : State) : Out := s.serve q false .guestOrHost none [(16, 2)] fun s => s.startSwitch q

/-- PREEMPTVF: cores of the virtual function's active context, in descending coreid. -/
def State.preemptVf (s : State) (q : Req) : State :=
  let vf := reqArg q 16 1
  let n := reqArg q 20 4
  if 63 < vf || n = 0 || 288 < n then s.reply q 5 []
  else s.behindSwitch q vf fun s =>
    let cs := match (s.vf vf).active with | some a => (s.coresOfCtx a).take n | none => []
    let (s, k) := s.vacateCores cs
    s.reply q (if k = cs.length then 0 else 5) (leBytes 4 k)

/-- `PREEMPTVF` (R376). -/
def execPreemptvf (q : Req) (s : State) : Out := s.serve q false .host none [(16, 1), (20, 4)] fun s => s.preemptVf q

/-! ### HALTSVC and RESUMESVC (R368) -/

/-- `HALTSVC` (R368): every point between steps is an instruction boundary. The stop record, with the halt and ecause, stays with
the thread: the spec names no buffer for it (log entry 50). -/
def execHaltsvc (q : Req) (s : State) : Out :=
  s.serve q false .host none [(16, 1)] fun s =>
    let t := reqArg q 16 1
    if 32 ≤ t then s.reply q 5 []
    else if (s.svc t).stopped then s.reply q 2 []
    else
      let v := s.svc t
      (s.setSvc t { v with halted := true, stop := some (v.inHandler, v.ecause, v.thr.pcs) }).reply q 0 []

/-- `RESUMESVC` (R368). -/
def execResumesvc (q : Req) (s : State) : Out :=
  s.serve q false .host none [(16, 1)] fun s =>
    let t := reqArg q 16 1
    if 32 ≤ t then s.reply q 5 []
    else if !(s.svc t).halted then s.reply q 2 []
    else (s.setSvc t { s.svc t with halted := false }).reply q 0 []

/-! ### Record and replay, profiling (R385-R387) -/

/-- R387: a descriptor's layout. -/
def rrDescOk (bs : List Byte) : Bool :=
  let seg := field bs 16 4
  field bs 0 1 ≤ 2 && field bs 1 7 == 0 && field bs 8 8 % 4096 == 0 && seg % 8 == 0 && 16 ≤ seg && field bs 24 8 % 8 == 0 &&
    field bs 32 8 % 32 == 0 && (bs.drop 40).all (· == 0)

def parseRr (bs : List Byte) : RrDesc :=
  ⟨field bs 0 1, BitVec.ofNat 64 (field bs 8 8), field bs 16 4, field bs 20 4, BitVec.ofNat 64 (field bs 24 8), BitVec.ofNat 64 (field bs 32 8), 0⟩

/-- `RRSET` (R387): for the launches submitted from now on. -/
def execRrset (q : Req) (s : State) : Out :=
  s.serve q false .context none [(16, 8)] fun s =>
    let c := q.ctx.toNat
    match s.reqRead q (BitVec.ofNat 64 (reqArg q 16 8)) 64 with
    | none => s.reply q 3 []
    | some bs => if rrDescOk bs then (s.setCtx c { s.ctx c with rr := parseRr bs }).reply q 0 [] else s.reply q 5 []

/-- A counter word (R386): the word before it, the event's presence, and what has been counted. -/
def counterWord (old n : Nat) (absent : Bool) : Nat :=
  let c := old % 2 ^ 48 + if absent then 0 else n
  let ovf := old / 2 ^ 62 % 2 == 1 || decide (2 ^ 48 ≤ c)
  c % 2 ^ 48 + (if ovf then 2 ^ 62 else 0) + (if absent then 2 ^ 63 else 0)

/-- The counters of a session as its block shows them. -/
def State.profWords (s : State) (p : Prof) : List Byte :=
  (p.sel.zip p.base).flatMap fun (e, old) =>
    if e = 0xFFFF then leBytes 8 old
    else leBytes 8 (counterWord old (Tab.get 0 p.cnt e) (!s.capable (128 + e) || decide (128 ≤ e)))

/-- `PROFOPEN` (R385, R386): counting starts at zero, beside what the block already holds. -/
def execProfopen (q : Req) (s : State) : Out :=
  s.serve q false .context none [(16, 8)] fun s =>
    let c := q.ctx.toNat
    let a : DWord := BitVec.ofNat 64 (reqArg q 16 8)
    match s.reqRead q a 192 with
    | none => s.reply q 3 []
    | some bs =>
      let sel := (List.range 16).map fun k => field bs (4 * k) 2
      if (List.range 16).any fun k => field bs (4 * k + 2) 2 != 0 then s.reply q 5 []
      else
        let base := (List.range 16).map fun k => field bs (64 + 8 * k) 8
        (s.setCtx c { s.ctx c with profs := (s.ctx c).profs.filter (fun p => p.addr != a) ++ [⟨a, sel, base, []⟩] }).reply q 0 []

/-- Write a session's counters. -/
def State.profWrite (s : State) (q : Req) (close : Bool) : State :=
  let c := q.ctx.toNat
  let a : DWord := BitVec.ofNat 64 (reqArg q 16 8)
  match (s.ctx c).profs.find? fun p => p.addr == a with
  | none => s.reply q 2 []
  | some p => match s.reqWrite q (a + 64) (s.profWords p) with
    | none => s.reply q 3 []
    | some s => (if close then s.setCtx c { s.ctx c with profs := (s.ctx c).profs.filter fun p => p.addr != a } else s).reply q 0 []

/-- `PROFREAD` (R385). -/
def execProfread (q : Req) (s : State) : Out := s.serve q false .context none [(16, 8)] fun s => s.profWrite q false
/-- `PROFCLOSE` (R385). -/
def execProfclose (q : Req) (s : State) : Out := s.serve q false .context none [(16, 8)] fun s => s.profWrite q true

/-! ### Peers and contexts (R405, R411) -/

/-- `PEERSET` (R405). -/
def execPeerset (q : Req) (s : State) : Out :=
  s.serve q false .context none [(16, 2), (24, 32)] fun s =>
    let c := q.ctx.toNat
    let n := reqArg q 16 2
    let adm := reqArg q 45 1
    if 4096 ≤ n || reqArg q 43 1 != 0 || (64 ≤ adm && adm != 0xFF) || reqArg q 46 10 != 0 then s.reply q 5 []
    else
      let p : Peer := ⟨(q.args.drop 8).take 16, reqArg q 40 3, reqArg q 44 1, adm⟩
      (s.setCtx c { s.ctx c with peers := Tab.put (s.ctx c).peers n p }).reply q 0 []

/-- The partition that a virtual function belongs to. -/
def State.vfPart (s : State) (vf : Nat) : Option Nat := (s.parts.find? fun (_, (p : Part)) => p.vfs.contains vf).map Prod.fst

/-- CTXCREATE past its checks. -/
def State.newCtx (s : State) (q : Req) (vf : Nat) : State :=
  let n := Tab.fresh s.ctxs
  let x : Ctx := { Ctx.zero with
    vf := vf, phys := fromHost q, asid := reqArg q 18 2, job := reqArg q 20 3, frBase := BitVec.ofNat 64 (reqArg q 24 8), frSize := reqArg q 32 4,
    evBase := BitVec.ofNat 64 (reqArg q 40 8), evSize := reqArg q 36 4, qtBase := BitVec.ofNat 64 (reqArg q 48 8), qCount := reqArg q 56 2 }
  let v := s.vf vf
  ((s.setCtx n x).setVf vf { v with ctxs := v.ctxs ++ [n], active := some (v.active.getD n) }).reply q 0 (leBytes 2 n)

/-- `CTXCREATE` (R376, R411): the first context of a virtual function is its active one. -/
def execCtxcreate (q : Req) (s : State) : Out :=
  s.serve q false .guestOrHost none [(16, 1), (18, 2), (20, 3), (24, 8), (32, 4), (36, 4), (40, 8), (48, 8), (56, 2)] fun s =>
    let vf := reqArg q 16 1
    if !fromHost q && vf != q.vf.toNat then s.reply q stRefused []
    else if 64 ≤ vf || 4096 ≤ reqArg q 18 2 || reqArg q 24 8 % 64 != 0 || !pow2In 16 65536 (reqArg q 32 4) || !pow2In 16 65536 (reqArg q 36 4) ||
        reqArg q 56 2 = 0 || 4096 < reqArg q 56 2 then s.reply q 5 []
    else if (s.vfPart vf).isNone then s.reply q 1 []
    else if 64 ≤ (s.vf vf).ctxs.length then s.reply q 2 []
    else s.newCtx q vf

/-- `UNKNOWN_SERVICE_COMMAND` (R411). -/
def execUnknownServiceCommand (q : Req) (s : State) : Out :=
  if s.ctl.bootPending then .next s else if s.behindOwn q then .next (s.pend q false) else .next (s.reply q stRefused [])

end Sys2Proof.Machine
end

