-- ==== Sys2Proof/Machine/HostCmd.lean ====
section
/-! DEFINITION. Service commands of the host (R353, R355, R375, R379, R395, R406, R408, R411-R413, R417, R418, R420): the
configuration of the module, its feature word, its identity and its power. -/

namespace Sys2Proof.Machine

/-! ### TRACE (R379) -/

/-- R379: a descriptor's layout; its buffer lies in the partition's memory. -/
def State.traceDescOk (s : State) (p : Nat) (bs : List Byte) : Bool :=
  let base := field bs 0 8
  let seg := field bs 8 4
  let sper := field bs 12 1
  base % 4096 == 0 && (List.range 17).any (fun k => seg == 2 ^ k && decide (2 ≤ k)) && (sper == 0 || (6 ≤ sper && sper ≤ 20)) &&
    field bs 13 1 / 8 == 0 && (bs.drop 25).all (· == 0) && s.ownsPa p base (288 * seg * 1024) none

def parseTrace (bs : List Byte) : Trace :=
  ⟨field bs 0 8, field bs 8 4, field bs 12 1, field bs 13 1, field bs 14 2, BitVec.ofNat 32 (field bs 16 4),
    BitVec.ofNat 32 (field bs 20 4), field bs 24 1⟩

/-- Tracing starts or stops in a partition: its cores' units count from zero, in segments whose headers are zero. -/
def State.setTrace (s : State) (p : Nat) (t : Option Trace) : State :=
  let s := s.setPart p { s.part p with trace := t }
  (s.coresOf p).foldl (fun s k =>
    let s := s.modCore k fun c => { c with traced := none, written := 0, dropped := 0, lastSlot := [] }
    match t with
    | some x => s.wrBytes (x.segment k) (List.replicate 64 0)
    | none => s) s

/-- `TRACE` (R379): for the partition of the context that the request names (log entry 36). -/
def execTrace (q : Req) (s : State) : Out :=
  s.serve q false .host (some 6) [(16, 8)] fun s =>
    let a := reqArg q 16 8
    if (Tab.look s.ctxs q.ctx.toNat).isNone then s.reply q 1 []
    else
      let p := (s.vf (s.reqVf q)).part
      if a = 0 then (s.setTrace p none).reply q 0 []
      else if s.isBad a 64 then s.reply q 3 []
      else
        let bs := s.rdBytes a 64
        if s.traceDescOk p bs then (s.setTrace p (some (parseTrace bs))).reply q 0 [] else s.reply q 5 []

/-! ### Clocks and power (R395, R420) -/

/-- `CLKSET` (R395). -/
def execClkset (q : Req) (s : State) : Out :=
  s.serve q false .host (some 4) [(16, 1), (18, 2)] fun s =>
    let d := reqArg q 16 1
    let f := reqArg q 18 2
    if 4 ≤ d || !mhzOk f then s.reply q 5 []
    else
      let old := (s.die d).finalMhz
      (if f = old then s else s.clockStep d f).reply q 0 (leBytes 2 old)

/-- `POWERCAP` (R420). -/
def execPowercap (q : Req) (s : State) : Out :=
  s.serve q false .host (some 4) [(16, 2)] fun s =>
    let w := reqArg q 16 2
    if w < 800 || 2000 < w then s.reply q 5 []
    else ({ s with ctl := { s.ctl with capW := w } }).reply q 0 (leBytes 2 s.ctl.capW)

/-! ### Partitions (R375, R376) -/

/-- Positions of the ones of a mask. -/
def onesOf (n w : Nat) : List Nat := (List.range w).filter fun k => n / 2 ^ k % 2 == 1

/-- Whether another partition holds one of these quads or virtual functions. -/
def State.taken (s : State) (p : Nat) (quads vfs : List Nat) : Bool :=
  s.parts.any fun (k, (x : Part)) => k != p && (x.quads.any quads.contains || x.vfs.any vfs.contains)

/-- Whether a partition uses what a new configuration takes from it: a quad with teams, a virtual function with contexts. -/
def State.inUse (s : State) (p : Nat) (quads vfs : List Nat) : Bool :=
  let x := s.part p
  (x.quads.any fun k => !quads.contains k && s.teams.any fun (_, (t : Team)) => t.onCore && quadOf t.core == k) ||
    x.vfs.any fun v => !vfs.contains v && !(s.vf v).ctxs.isEmpty

/-- `PARTCFG` (R375): what another partition holds, or what is in use, is not taken (log entry 36). -/
def execPartcfg (q : Req) (s : State) : Out :=
  s.serve q false .host (some 0) [(16, 1), (17, 1), (18, 2), (20, 4), (24, 8), (32, 8), (40, 8)] fun s =>
    let p := reqArg q 16 1
    let quads := onesOf (reqArg q 24 8 + 2 ^ 64 * reqArg q 17 1) 72
    let vfs := onesOf (reqArg q 32 8) 64
    let mib := reqArg q 20 4
    let base := reqArg q 40 8
    if 16 ≤ p || !(mib == 0 || s.ownsPa p base (mib * 2 ^ 20) (some true)) then s.reply q 5 []
    else if s.taken p quads vfs || s.inUse p quads vfs then s.reply q 2 []
    else
      let s := s.setPart p { s.part p with quads := quads, saveBase := base, saveMib := mib, vfs := vfs }
      let quota := reqArg q 18 2
      (vfs.foldl (fun s v => s.setVf v { s.vf v with part := p, quota := quota }) s).reply q 0 []

/-! ### Memory: Hearth, pool, address spaces (R353, R355, R408) -/

/-- `HEARTHCFG` (R355). -/
def execHearthcfg (q : Req) (s : State) : Out :=
  s.serve q false .host (some 1) [(16, 1), (17, 1), (18, 1), (19, 1)] fun s =>
    let d := reqArg q 16 1
    let n := reqArg q 17 1
    let p := reqArg q 18 1
    let use := reqArg q 19 1
    if 4 ≤ d || 8 ≤ n || 16 ≤ p || 3 ≤ use then s.reply q 5 []
    else
      let k := d * 8 + n
      ({ s with hearth := if use = 0 then Tab.del s.hearth k else Tab.put s.hearth k (p, use == 1) }).reply q 0 []

/-- Whether a decoder would map a pool address that another partition's decoder maps: one of the same port, behind which the address
lies (R355). -/
def State.poolClash (s : State) (k p base size : Nat) : Bool :=
  s.decoders.any fun (j, (d : Decoder)) => j != k && j / 8 == k / 8 && d.part != p && meets d.base d.size base size

/-- `POOLCFG` (R408, R409). -/
def execPoolcfg (q : Req) (s : State) : Out :=
  s.serve q false .host (some 2) [(16, 1), (17, 1), (18, 1), (19, 1), (24, 8), (32, 8), (40, 8), (48, 2)] fun s =>
    let port := reqArg q 16 1
    let n := reqArg q 17 1
    let p := reqArg q 18 1
    let fl := reqArg q 19 1
    let base := reqArg q 24 8
    let size := reqArg q 32 8
    let k := port * 8 + n
    let on := fl % 2 == 1
    if 16 ≤ port || 8 ≤ n || 16 ≤ p || 4 ≤ fl || base % 2 ^ 28 != 0 || size % 2 ^ 28 != 0 || 2 ^ 44 < base + size then s.reply q 5 []
    else if on && s.poolClash k p base size then s.reply q stRefused []
    else
      let s := { s with decoders := if on then Tab.put s.decoders k ⟨p, base, size, reqArg q 40 8, reqArg q 48 2⟩ else Tab.del s.decoders k }
      (if fl / 2 = 1 && s.link port == .down then s.setLink true port .up else s).reply q 0 []

/-- R353: the fields of an ASID entry. -/
def asidMask : DWord := 0x000FFFFFFFFFC01F

/-- `ASIDSET` (R353). -/
def execAsidset (q : Req) (s : State) : Out :=
  s.serve q false .host (some 5) [(16, 2), (24, 8)] fun s =>
    let a := reqArg q 16 2
    if 4096 ≤ a then s.reply q 5 []
    else ({ s with asids := Tab.set 0 s.asids a (BitVec.ofNat 64 (reqArg q 24 8) &&& asidMask) }).reply q 0 []

/-! ### The network (R406) -/

/-- Gb/s admitted on a port besides admission n. -/
def State.admitted (s : State) (n port : Nat) : Nat :=
  ((s.admits.filter fun (k, (a : Admit)) => k != n && a.ports / 2 ^ port % 2 == 1).map fun (_, (a : Admit)) => 25 * a.rate).sum

/-- `NETADMIT` (R406). -/
def execNetadmit (q : Req) (s : State) : Out :=
  s.serve q false .host (some 3) [(16, 1), (17, 1), (18, 1), (19, 1), (20, 4), (24, 8), (32, 4)] fun s =>
    let n := reqArg q 16 1
    let ports := reqArg q 17 1
    let r := reqArg q 20 4
    let m := reqArg q 24 8
    if !s.capable 12 then s.reply q stRefused []
    else if 64 ≤ n || 8 ≤ reqArg q 18 1 || 16 ≤ reqArg q 19 1 || 2 ^ 26 < m then s.reply q 5 []
    else if r = 0 then ({ s with admits := Tab.del s.admits n }).reply q 0 []
    else if (List.range 8).any fun k => ports / 2 ^ k % 2 == 1 && decide (800 < s.admitted n k + 25 * r) then s.reply q stRefused []
    else ({ s with admits := Tab.put s.admits n ⟨ports, reqArg q 18 1, reqArg q 19 1, r, m, reqArg q 32 4⟩ }).reply q 0 []

/-! ### The feature word (R413) -/

/-- What the KG7-4D20 offers: bits 0 to 15 and the events 0 to 9. -/
def offered : BitVec 256 := BitVec.ofNat 256 (2 ^ 16 - 1 + 2 ^ 128 * (2 ^ 10 - 1))

/-- `FEATNEG` (R413). -/
def execFeatneg (q : Req) (s : State) : Out :=
  s.serve q true .host none [(16, 2), (24, 8), (32, 8)] fun s =>
    if s.ctl.feature.isSome then s.reply q 2 []
    else
      let w : BitVec 256 := BitVec.ofNat 256 (reqArg q 16 2 + 2 ^ 128 * reqArg q 24 8 + 2 ^ 192 * reqArg q 32 8)
      let o := offered.toNat
      ({ s with ctl := { s.ctl with feature := some (w &&& offered) } }).reply q 0
        (leBytes 2 (o % 2 ^ 16) ++ leBytes 6 0 ++ leBytes 8 (o / 2 ^ 128 % 2 ^ 64) ++ leBytes 8 (o / 2 ^ 192))

/-! ### Images and attestation (R416-R418) -/

/-- The bytes of an image slot, parsed. -/
def parseImage (bs : List Byte) : Image :=
  ⟨field bs 0 4, field bs 4 4, field bs 8 4, (bs.drop 12).take 52, (bs.drop 64).take 1312, (bs.drop 1376).take 2420, (bs.drop 3796).take (field bs 8 4)⟩

/-- `IMGSTAGE` (R417): the slot that does not run holds the image and is active at the next reset. -/
def execImgstage (q : Req) (s : State) : Out :=
  s.serve q false .host (some 7) [(16, 8), (24, 4)] fun s =>
    match s.reqRead q (BitVec.ofNat 64 (reqArg q 16 8)) (reqArg q 24 4) with
    | none => s.reply q 3 []
    | some bs =>
      let k := 1 - s.ctl.running.getD s.ctl.activeSlot
      ({ s with ctl := { s.ctl with flash := Tab.put s.ctl.flash k (parseImage bs), activeSlot := k } }).reply q 0 []

/-- The partition configuration as bytes; the spec gives its form no layout (log entry 36). -/
def State.partBytes (s : State) : List Byte :=
  s.parts.flatMap fun (k, (p : Part)) =>
    leBytes 1 k ++ leBytes 9 ((p.quads.map (2 ^ ·)).sum) ++ leBytes 8 ((p.vfs.map (2 ^ ·)).sum) ++ leBytes 8 p.saveBase ++ leBytes 4 p.saveMib ++
      p.vfs.flatMap fun v => leBytes 2 (s.vf v).quota

/-- The report of R418 for a nonce. -/
def State.report (s : State) (nonce : List Byte) : List Byte :=
  let pk := Config.mldsaPublic s.ctl.fuseSeed
  let im := s.ctl.running.bind fun k => Tab.look s.ctl.flash k
  let digest := match im with | some i => Config.sha3 (i.header ++ i.body) | none => Config.sha3 []
  let body := nonce ++ (Config.sha3 pk).take 16 ++ digest ++ leBytes 4 ((im.map Image.svn).getD 0) ++ leBytes 32 (s.ctl.feature.getD 0).toNat ++
    Config.sha3 s.partBytes ++ pk
  body ++ Config.mldsaSign s.free s.ctl.fuseSeed (Config.sha3 body)

/-- `ATTEST` (R418). -/
def execAttest (q : Req) (s : State) : Out :=
  s.serve q true .any none [(16, 32), (48, 8)] fun s =>
    let bs := s.report (q.args.take 32)
    match s.takeFree.reqWrite q (BitVec.ofNat 64 (reqArg q 48 8)) bs with
    | none => s.reply q 3 []
    | some s => s.reply q 0 (leBytes 4 bs.length)

/-! ### Leases (R335, R412) -/

/-- `LEASE` (R412): SEMACQ for the sender's endpoint. -/
def execLease (q : Req) (s : State) : Out :=
  s.serve q false .host none [(16, 1), (24, 8)] fun s =>
    let n := reqArg q 16 1
    let (s, st) := s.semAcq q.endpointB n (reqArg q 24 8)
    s.reply q st.toNat (if st = stOk then leBytes 8 (match Tab.look s.sems n with | some m => m.expiry | none => 0) else [])

/-- `UNLEASE` (R412): SEMREL for the sender's endpoint. -/
def execUnlease (q : Req) (s : State) : Out :=
  s.serve q false .host none [(16, 1)] fun s =>
    let (s, st) := s.semRel q.endpointB (reqArg q 16 1)
    s.reply q st.toNat []

end Sys2Proof.Machine
end

