-- ==== Sys2Proof/Machine/LaneArith.lean ====
section
/-! DEFINITION. The lane instructions of 10_lane_arithmetic_instructions.md: arithmetic, logic, compare, special functions,
conversion, quantisation, dot products and the cross-lane group (R216-R241). -/

namespace Sys2Proof.Machine

/-! ### Lane by lane (R216) -/

/-- A word of a row, lane by lane: element width of its modifiers, producer, and each active lane's result with the flags
that CAP captures. -/
def State.laneOp (s : State) (cls : LaneClass) (o : LaneOp) (r : LaneRule) (ew z : Nat) (f : List Nat → Nat × Word) : Out :=
  s.laneAlu o.h cls z (usesOf r ew o) (putOf r o) fun m vs =>
    let (t, fl) := perLane f m vs
    (t, capIf (LaneOp.cap o) fl)

/-- Operand k of a lane. -/
def opnd (vs : List Nat) (k : Nat) : Nat := vs.getD k 0

/-! ### Integer arithmetic (R220) -/

/-- An integer instruction of two or three operands. -/
def State.laneInt (s : State) (o : LaneOp) (r : LaneRule) (op : Int → Int → Int → Int) : Out :=
  s.laneOp .basic o r (Fmt.width o.fmt) 1 (intElems o.fmt o.sat op)

/-- `VADD` (R220). -/
def execVadd (o : LaneOp) (s : State) : Out := s.laneInt o (ruleInt2 intFmts true o) fun a b _ => a + b
/-- `VSUB` (R220). -/
def execVsub (o : LaneOp) (s : State) : Out := s.laneInt o (ruleInt2 intFmts true o) fun a b _ => a - b
/-- `VMUL` (R220). -/
def execVmul (o : LaneOp) (s : State) : Out := s.laneInt o (ruleInt2 narrowIntFmts true o) fun a b _ => a * b
/-- `VMULH` (R220): the high half of the exact product. -/
def execVmulh (o : LaneOp) (s : State) : Out :=
  s.laneInt o (ruleInt2 [.i16, .i32, .n16, .n32] false o) fun a b _ => (a * b) / 2 ^ Fmt.width o.fmt
/-- `VMAD` (R220): exact, rounded once. -/
def execVmad (o : LaneOp) (s : State) : Out := s.laneInt o (ruleInt3 o) fun a b c => a * b + c
/-- `VMIN` (R220). -/
def execVmin (o : LaneOp) (s : State) : Out := s.laneInt o (ruleInt2 intFmts false o) fun a b _ => if b < a then b else a
/-- `VMAX` (R220). -/
def execVmax (o : LaneOp) (s : State) : Out := s.laneInt o (ruleInt2 intFmts false o) fun a b _ => if a < b then b else a
/-- `VSHL` (R220). -/
def execVshl (o : LaneOp) (s : State) : Out :=
  s.laneOp .basic o (ruleInt2 [.n8, .n16, .n32, .n64] false o) (Fmt.width o.fmt) 1
    (patElems o.fmt fun a b => a * 2 ^ (b % Fmt.width o.fmt))
/-- `VSHR` (R220). -/
def execVshr (o : LaneOp) (s : State) : Out :=
  s.laneOp .basic o (ruleInt2 [.n8, .n16, .n32, .n64] false o) (Fmt.width o.fmt) 1
    (patElems o.fmt fun a b => a / 2 ^ (b % Fmt.width o.fmt))
/-- `VSAR` (R220). -/
def execVsar (o : LaneOp) (s : State) : Out :=
  s.laneOp .basic o (ruleInt2 [.i8, .i16, .i32, .i64] false o) (Fmt.width o.fmt) 1
    (patElems o.fmt fun a b => patOf (Fmt.width o.fmt) (intOf true (Fmt.width o.fmt) a / 2 ^ (b % Fmt.width o.fmt)))

/-! ### Logic, bit fields, selection and moves (R221-R223) -/

/-- A logic instruction on 32-bit words. -/
def State.laneBits (s : State) (o : LaneOp) (r : LaneRule) (f : List Nat → Nat) : Out :=
  s.laneOp .basic o r 32 1 fun vs => (f vs, 0)

/-- `VAND` (R221). -/
def execVand (o : LaneOp) (s : State) : Out := s.laneBits o ruleLogic2 fun vs => opnd vs 0 &&& opnd vs 1
/-- `VOR` (R221). -/
def execVor (o : LaneOp) (s : State) : Out := s.laneBits o ruleLogic2 fun vs => opnd vs 0 ||| opnd vs 1
/-- `VXOR` (R221). -/
def execVxor (o : LaneOp) (s : State) : Out := s.laneBits o ruleLogic2 fun vs => opnd vs 0 ^^^ opnd vs 1

/-- Bit n of the result is the LUT bit that the operands' bits n number. -/
def lop3 (lut a b c : Nat) : Nat :=
  packElems 1 ((List.range 32).map fun n => lut / 2 ^ (a / 2 ^ n % 2 * 4 + b / 2 ^ n % 2 * 2 + c / 2 ^ n % 2) % 2)

/-- `VLOP3` (R221, R222). -/
def execVlop3 (o : LaneOp) (s : State) : Out :=
  s.laneBits o ruleLop3 fun vs => lop3 (LaneOp.xfield o 0 8) (opnd vs 0) (opnd vs 1) (opnd vs 2)

/-- A bit field, sign-extended to 32 bits when `sx`. -/
def bitField (pos len : Nat) (sx : Bool) (a : Nat) : Nat :=
  let v := a / 2 ^ pos % 2 ^ len
  if sx then patOf 32 (intOf true len v) else v

/-- `VBFE` (R221). -/
def execVbfe (o : LaneOp) (s : State) : Out :=
  s.laneBits o (ruleBfe o) fun vs => bitField (bfPos o) (bfLen o) (LaneOp.xbit o 11) (opnd vs 0)

/-- a with the bits from `pos` on replaced by the low `len` bits of b. -/
def insertField (pos len a b : Nat) : Nat :=
  a % 2 ^ pos + 2 ^ pos * (b % 2 ^ len) + 2 ^ (pos + len) * (a / 2 ^ (pos + len))

/-- `VBFI` (R221). -/
def execVbfi (o : LaneOp) (s : State) : Out :=
  s.laneBits o (ruleBfi o) fun vs => insertField (bfPos o) (bfLen o) (opnd vs 0) (opnd vs 1)

/-- `VPOPC` (R221). -/
def execVpopc (o : LaneOp) (s : State) : Out := s.laneBits o ruleLogic1 fun vs => popcount 32 (opnd vs 0)
/-- `VCLZ` (R221). -/
def execVclz (o : LaneOp) (s : State) : Out :=
  s.laneBits o ruleLogic1 fun vs => if opnd vs 0 = 0 then 32 else 31 - Nat.log2 (opnd vs 0)

/-- `VSEL` (R221): bit L of pK, inverted or not, chooses. -/
def execVsel (o : LaneOp) (s : State) : Out :=
  let p := s.thr.pred (LaneOp.xfield o 0 3)
  s.laneAlu o.h .basic 1 (usesOf ruleSel 32 o) (putOf ruleSel o) fun m vs =>
    ((lanesOf m).map fun l => (l, Tab.get 0 (vs.getD (if p.getLsbD l != LaneOp.xbit o 3 then 0 else 1) []) l), 0)

/-- `VMOV` (R221). -/
def execVmov (o : LaneOp) (s : State) : Out := s.laneBits o (ruleMov o) fun vs => opnd vs 0

/-- `VMOVI` (R223). -/
def execVmovi (h : LaneHdr) (d : Dst) (imm : Word) (s : State) : Out :=
  s.laneAlu h .basic 1 (fun _ => []) (some ⟨d, 1⟩) fun m _ => ((lanesOf m).map fun l => (l, imm.toNat), 0)

/-! ### Compare (R224) -/

/-- Bits of inactive lanes of a predicate are unchanged. -/
def mergeMask (old m new : Word) : Word := (old &&& ~~~m) ||| (new &&& m)

/-- A compare: each active lane's bit of pPD, its z value, and d where DV is set. -/
def State.laneCmp (s : State) (cls : LaneClass) (o : LaneOp) (r : LaneRule) (ew z : Nat) (test : Nat → Nat → Bool) : Out :=
  s.laneWord o.h cls (usesOf r ew o) (putOf r o) fun g m s =>
    let (s, vs) := s.readUses g m (usesOf r ew o m)
    let s := s.popAll g m (usesOf r ew o m)
    let hit (l : Nat) : Bool := test (Tab.get 0 (vs.getD 0 []) l) (Tab.get 0 (vs.getD 1 []) l)
    let t : Tab Nat := (lanesOf m).map fun l => (l, if hit l then 1 else 0)
    let s := match putOf r o with | some p => s.writeDst g p t | none => s
    let s := s.writeZ g z t
    let pd := LaneOp.xfield o 0 3
    let s := s.modThr fun x => x.setPred pd (mergeMask (x.pred pd) m (maskWhere m hit))
    .next (s.laneDone g o.h)

/-- The conditions of VCMP: EQ, NE, LT, LE, GT, GE. -/
def intCond (c : Nat) (a b : Int) : Bool :=
  match c with
  | 0 => a == b
  | 1 => a != b
  | 2 => decide (a < b)
  | 3 => decide (a ≤ b)
  | 4 => decide (b < a)
  | _ => decide (b ≤ a)

/-- The conditions of VFCMP. -/
def fltCond : Nat → FCond | 0 => .eq | 1 => .lt | 2 => .le | _ => .un

/-- `VCMP` (R224). -/
def execVcmp (o : LaneOp) (s : State) : Out :=
  let rd (v : Nat) : Int := intOf (Fmt.isI o.fmt) (Fmt.width o.fmt) v
  s.laneCmp .basic o (ruleCmp false o) (Fmt.width o.fmt) 1 fun a b => intCond (LaneOp.xfield o 3 4) (rd a) (rd b)

/-- `VFCMP` (R224): element 0 of each operand. -/
def execVfcmp (o : LaneOp) (s : State) : Out :=
  s.laneCmp .other o (ruleCmp true o) (Fmt.width o.fmt) 0 fun a b =>
    fcmp o.fmt (fltCond (LaneOp.xfield o 3 4)) (a % 2 ^ Fmt.width o.fmt) (b % 2 ^ Fmt.width o.fmt)

/-! ### Floating point (R225, R226) -/

/-- A floating-point instruction, element by element. -/
def State.laneFlt (s : State) (o : LaneOp) (n : Nat) (op : Val → Val → Val → Val × Word) : Out :=
  s.laneOp .other o (ruleFlt n true) (Fmt.width o.fmt) 0 (fltElems o.fmt o.rnd o.sat op)

/-- `VFADD` (R225). -/
def execVfadd (o : LaneOp) (s : State) : Out := s.laneFlt o 2 fun a b _ => addVal o.rnd a b
/-- `VFSUB` (R225). -/
def execVfsub (o : LaneOp) (s : State) : Out := s.laneFlt o 2 fun a b _ => subVal o.rnd a b
/-- `VFMUL` (R225). -/
def execVfmul (o : LaneOp) (s : State) : Out := s.laneFlt o 2 fun a b _ => mulVal a b
/-- `VFMA` (R225): rounded once. -/
def execVfma (o : LaneOp) (s : State) : Out := s.laneFlt o 3 fun a b c => fmaVal o.rnd a b c
/-- `VFMIN` (R225). -/
def execVfmin (o : LaneOp) (s : State) : Out :=
  s.laneOp .other o (ruleFlt 2 false) (Fmt.width o.fmt) 0 (patElems o.fmt (fminmax o.fmt false))
/-- `VFMAX` (R225). -/
def execVfmax (o : LaneOp) (s : State) : Out :=
  s.laneOp .other o (ruleFlt 2 false) (Fmt.width o.fmt) 0 (patElems o.fmt (fminmax o.fmt true))
/-- `VFCLASS` (R226). -/
def execVfclass (o : LaneOp) (s : State) : Out :=
  s.laneOp .other o (ruleFlt 1 false) (Fmt.width o.fmt) 0 (patElems o.fmt fun a _ => fclass o.fmt a)

/-! ### Special functions (R227) -/

/-- A special function, correctly rounded. -/
def State.laneSfu (s : State) (o : LaneOp) (k : Sfu) : Out :=
  s.laneOp .other o ruleSfu 32 2 fun vs => sfu k o.rnd o.sat (toVal .f32 (opnd vs 0))

/-- `VRCP` (R227). -/
def execVrcp (o : LaneOp) (s : State) : Out := s.laneSfu o .rcp
/-- `VRSQ` (R227). -/
def execVrsq (o : LaneOp) (s : State) : Out := s.laneSfu o .rsq
/-- `VSQRT` (R227). -/
def execVsqrt (o : LaneOp) (s : State) : Out := s.laneSfu o .sqrt
/-- `VEXP2` (R227). -/
def execVexp2 (o : LaneOp) (s : State) : Out := s.laneSfu o .exp2
/-- `VLOG2` (R227). -/
def execVlog2 (o : LaneOp) (s : State) : Out := s.laneSfu o .log2
/-- `VSIN` (R227): of half-turns. -/
def execVsin (o : LaneOp) (s : State) : Out := s.laneSfu o .sin
/-- `VCOS` (R227): of half-turns. -/
def execVcos (o : LaneOp) (s : State) : Out := s.laneSfu o .cos

/-! ### Conversion, packing and quantisation (R228-R232) -/

/-- `VCVT` (R228). -/
def execVcvt (o : LaneOp) (s : State) : Out :=
  s.laneOp .other o (ruleCvt o) (Fmt.width (cvtFrom o)) 1 fun vs => convert (cvtFrom o) o.fmt o.rnd o.sat (opnd vs 0)

/-- Element k of a word. -/
def elemAt (ew k v : Nat) : Nat := v / 2 ^ (ew * k) % 2 ^ ew

/-- A word with element k replaced. -/
def setElem (ew k v e : Nat) : Nat := insertField (ew * k) ew v e

/-- The format VPACK reads its operands in (R229). -/
def packSrc (t : Fmt) : Fmt := if Fmt.isFloat t then .f32 else if Fmt.isI t then .i32 else .n32

/-- `VPACK` (R229). -/
def execVpack (o : LaneOp) (s : State) : Out :=
  let w := Fmt.width o.fmt
  let k := LaneOp.xfield o 0 2
  s.laneOp .other o (rulePack o) 32 1 fun vs =>
    let (x, f) := convert (packSrc o.fmt) o.fmt o.rnd o.sat (opnd vs 0)
    let (y, g) := convert (packSrc o.fmt) o.fmt o.rnd o.sat (opnd vs 1)
    (setElem w (2 * k + 1) (setElem w (2 * k) (opnd vs 2) x) y, f ||| g)

/-- `VUNPK` (R230): no flag. -/
def execVunpk (o : LaneOp) (s : State) : Out :=
  let w := Fmt.width o.fmt
  s.laneOp .other o (ruleUnpk o) w 1 fun vs =>
    let e := elemAt w (LaneOp.xfield o 0 3) (opnd vs 0)
    (if Fmt.isFloat o.fmt then (cvtFlt o.fmt .f32 .rne false e).1 else patOf 32 (intOf (Fmt.isI o.fmt) w e), 0)

/-- The largest finite value of an element format (R231). -/
def largest : Fmt → Nat | .e4m3 => 448 | .e5m2 => 57344 | _ => 6

/-- The block scale of the active lanes' values, as F32 encodings, with NV on a NaN scale (R231). -/
def blockScale (t : Fmt) (xs : List Nat) : Nat × Word :=
  let vs := xs.map (toVal .f32)
  let finite (v : Val) : Bool := match v with | .num _ _ _ => true | _ => false
  let top : Val := vs.foldl (fun (m v : Val) => match v with | .num _ n d => if valLt m (.num false n d) then .num false n d else m | _ => m) (.num false 0 1)
  if !vs.all finite then (0xFF0, fNV)
  else if top.isZero then (0x7F0, 0)
  else
    let need := (divVal top (ofInt (largest (Fmt.elem t)))).1
    if valLt (scaleE8m4 0xFEF) need then (0xFEF, 0) else (scaleCode need 13 0 0xFEF, 0)

/-- `VQNT`, scale form (R231). -/
def execVqntScl (o : LaneOp) (s : State) : Out :=
  s.laneAlu o.h .other 1 (usesOf (ruleQntScl o) 32 o) (putOf (ruleQntScl o) o) fun m vs =>
    let (c, f) := blockScale o.fmt ((lanesOf m).map fun l => Tab.get 0 (vs.getD 0 []) l)
    ((lanesOf m).map fun l => (l, c), capIf (LaneOp.cap o && m != 0) f)

/-- `VQNT`, element form (R231). -/
def execVqnt (o : LaneOp) (s : State) : Out :=
  let t := Fmt.elem o.fmt
  s.laneOp .other o (ruleQnt o) 32 1 fun vs =>
    let x := toVal .f32 (opnd vs 0)
    let (q, f) := divVal x (scaleE8m4 (opnd vs 1 % 2 ^ 12))
    let (e, g) := roundTo t o.rnd o.sat q
    (setElem (Fmt.width t) (LaneOp.xfield o 0 3) (opnd vs 2) e, f ||| g)

/-- `VDQNT` (R232). -/
def execVdqnt (o : LaneOp) (s : State) : Out :=
  let t := Fmt.elem o.fmt
  s.laneOp .other o (ruleDqnt o) (Fmt.width t) 1 fun vs =>
    let (q, f) := mulVal (toVal t (elemAt (Fmt.width t) (LaneOp.xfield o 0 3) (opnd vs 0))) (scaleE8m4 (opnd vs 1 % 2 ^ 12))
    let (b, g) := roundTo .f32 o.rnd o.sat q
    (b, f ||| g)

/-! ### Packed dot products (R233) -/

/-- A dot product of K elements into the accumulator: R80 for floating point, R81 for integers. -/
def dotWord (fa fb : Fmt) (sat : Bool) (a b c : Nat) : Nat × Word :=
  let one : Val := .num false 1 1
  let ea := elems (Fmt.width fa) (Fmt.count fa) a
  let eb := elems (Fmt.width fb) (Fmt.count fb) b
  if Fmt.isFloat fa then accumulate c [(List.zip (ea.map (toVal fa)) (eb.map (toVal fb)), one, one)]
  else accumulateInt sat c [List.zip (ea.map (intOf (Fmt.isI fa) (Fmt.width fa))) (eb.map (intOf (Fmt.isI fb) (Fmt.width fb)))]

/-- The sources of a dot product: a and b in their formats, c as one 32-bit element. -/
def dotUses (r : LaneRule) (o : LaneOp) (m : Word) : List Use :=
  [⟨o.a, if Fmt.isFloat o.fmt then .flt else .int, Fmt.width o.fmt, 1, m⟩,
   ⟨o.b, if Fmt.isFloat (dotB o) then .flt else .int, Fmt.width (dotB o), 1, m⟩,
   ⟨o.c, (r.c.map SrcRule.kind).getD .raw, 32, 1, m⟩]

/-- A dot product, lane by lane. -/
def State.laneDot (s : State) (o : LaneOp) (r : LaneRule) : Out :=
  s.laneAlu o.h .other 0 (dotUses r o) (putOf r o) fun m vs =>
    let (t, fl) := perLane (fun vs => dotWord o.fmt (dotB o) o.sat (opnd vs 0) (opnd vs 1) (opnd vs 2)) m vs
    (t, capIf (LaneOp.cap o) fl)

/-- `VDOT4` (R233). -/
def execVdot4 (o : LaneOp) (s : State) : Out := s.laneDot o (ruleDot4 o)
/-- `VDOT8` (R233). -/
def execVdot8 (o : LaneOp) (s : State) : Out := s.laneDot o (ruleDot8 o)

/-! ### Cross-lane (R234-R241) -/

/-- The lane VSHFL reads for lane l: an index outside 0 to 31 reads the lane itself (R235). -/
def shflFrom (mode n l idx : Nat) : Nat :=
  let j : Int := match mode with
    | 0 => (idx % 32 : Nat)
    | 1 => (l : Int) - n
    | 2 => (l : Int) + n
    | _ => (l ^^^ n : Nat)
  if 0 ≤ j && j < 32 then j.toNat else l

/-- VSHFL's sources: the index first, then a in the lanes it chooses, none of which is known while the index is empty or its queue
holds too few elements (R56). -/
def State.shflUses (s : State) (o : LaneOp) (m : Word) : List Use :=
  let mode := LaneOp.xfield o 0 2
  let n := LaneOp.xfield o 2 5
  let ub : List Use := if mode = 0 then [⟨o.b, .raw, 32, 1, m⟩] else []
  match s.gid with
  | none => ub
  | some g =>
    let x := s.group g
    let open_ := ub.any fun u => x.mustWait u || x.outOfBound u != 0 || x.unalloc u ||
      match useQueue u with | some q => decide ((s.queue g q).avail g < count32 m) | none => false
    let (_, vs) := s.readUses g m ub
    let idx (l : Nat) : Nat := Tab.get 0 (vs.getD 0 []) l
    let from_ : Word := if open_ then 0 else maskOfLanes ((lanesOf m).map fun l => shflFrom mode n l (idx l))
    ub ++ [⟨o.a, .raw, 32, 1, from_⟩]
where
  /-- Lanes of a list as a mask. -/
  maskOfLanes (ls : List Nat) : Word := ls.foldl (fun w l => w ||| BitVec.ofNat 32 (2 ^ l)) 0

/-- `VSHFL` (R235). -/
def execVshfl (o : LaneOp) (s : State) : Out :=
  let mode := LaneOp.xfield o 0 2
  s.laneAlu o.h .other 1 (fun m => s.shflUses o m) (putOf (ruleShfl o) o) fun m vs =>
    let ia := if mode = 0 then 1 else 0
    ((lanesOf m).map fun l =>
      (l, Tab.get 0 (vs.getD ia []) (shflFrom mode (LaneOp.xfield o 2 5) l (Tab.get 0 (vs.getD 0 []) l))), 0)

/-- `VBCST` (R236). -/
def execVbcst (o : LaneOp) (s : State) : Out :=
  let j := LaneOp.xfield o 0 5
  s.laneAlu o.h .other 1 (fun m => [⟨o.a, .raw, 32, 1, if m = 0 then 0 else BitVec.ofNat 32 (2 ^ j)⟩]) (putOf ruleBcst o)
    fun m vs => ((lanesOf m).map fun l => (l, Tab.get 0 (vs.getD 0 []) j), 0)

/-- The operations of VRED, VSCAN and VTOS on two values (R237). -/
def redOp (op : Nat) (f : Fmt) (rnd : Rnd) (sat : Bool) (x y : Nat) : Nat × Word :=
  match op with
  | 0 =>
    if f = .f32 then
      let (v, a) := addVal rnd (toVal .f32 x) (toVal .f32 y)
      let (b, c) := roundTo .f32 rnd sat v
      (b, a ||| c)
    else putInt (Fmt.isI f) 32 sat (intOf (Fmt.isI f) 32 x + intOf (Fmt.isI f) 32 y)
  | 1 =>
    if f = .f32 then (fminmax .f32 false x y, 0)
    else (if intOf (Fmt.isI f) 32 y < intOf (Fmt.isI f) 32 x then y else x, 0)
  | 2 =>
    if f = .f32 then (fminmax .f32 true x y, 0)
    else (if intOf (Fmt.isI f) 32 x < intOf (Fmt.isI f) 32 y then y else x, 0)
  | 3 => (x &&& y, 0)
  | 4 => (x ||| y, 0)
  | 5 => (x ^^^ y, 0)
  | _ => (x, 0)

/-- One level of the tree: neighbours combine, left then right. -/
def treeLevel (op : Nat → Nat → Nat × Word) : List (Option Nat) → List (Option Nat) × Word
  | a :: b :: r =>
    let (t, f) := treeLevel op r
    match a, b with
    | some x, some y => let (v, g) := op x y; (some v :: t, g ||| f)
    | some x, none => (some x :: t, f)
    | none, y => (y :: t, f)
  | r => (r, 0)

/-- The levels up to the root. -/
def treeUp (op : Nat → Nat → Nat × Word) : Nat → List (Option Nat) → List (Option Nat) × Word
  | 0, r => (r, 0)
  | n + 1, r =>
    let (t, f) := treeLevel op r
    let (u, g) := treeUp op n t
    (u, f ||| g)

/-- The fixed binary tree of R237 over lanes 0 to 31. -/
def reduceTree (op : Nat → Nat → Nat × Word) (m : Word) (a : Tab Nat) : Option Nat × Word :=
  let (r, f) := treeUp op 5 ((List.range 32).map fun l => if m.getLsbD l then some (Tab.get 0 a l) else none)
  (r.headD none, f)

/-- A source read in its format by the active lanes; VTOS.FIRST, too, reads all of them (R240; DESIGN CHOICE; log
entry 115). -/
def redUses (o : LaneOp) (m : Word) : List Use := [⟨o.a, if o.fmt = .f32 then .flt else .int, 32, 1, m⟩]

/-- `VRED` (R237). -/
def execVred (o : LaneOp) (s : State) : Out :=
  s.laneAlu o.h .other 1 (redUses o) (putOf (ruleRed o) o) fun m vs =>
    let (r, f) := reduceTree (redOp (LaneOp.xfield o 0 3) o.fmt o.rnd o.sat) m (vs.getD 0 [])
    ((lanesOf m).map fun l => (l, r.getD 0), capIf (LaneOp.cap o) f)

/-- The identities of the exclusive form (R238). -/
def redIdentity (op : Nat) (f : Fmt) : Nat :=
  match op with
  | 1 => if f = .f32 then 0x7F800000 else patOf 32 (intMax (Fmt.isI f) 32)
  | 2 => if f = .f32 then 0xFF800000 else patOf 32 (intMin (Fmt.isI f) 32)
  | 3 => 0xFFFFFFFF
  | _ => 0

/-- The running combination of lanes in ascending order (R238). -/
def scanFrom (op : Nat → Nat → Nat × Word) (excl : Bool) (ident : Nat) (a : Tab Nat) : Option Nat → List Nat → Tab Nat × Word
  | _, [] => ([], 0)
  | acc, l :: ls =>
    let x := Tab.get 0 a l
    let (n, f) := match acc with | some y => op y x | none => (x, 0)
    let (t, g) := scanFrom op excl ident a (some n) ls
    ((l, if excl then acc.getD ident else n) :: t, f ||| g)

/-- `VSCAN` (R238). -/
def execVscan (o : LaneOp) (s : State) : Out :=
  let op := LaneOp.xfield o 0 3
  s.laneAlu o.h .other 1 (redUses o) (putOf (ruleScan o) o) fun m vs =>
    let (t, f) := scanFrom (redOp op o.fmt o.rnd o.sat) (LaneOp.xbit o 3) (redIdentity op o.fmt) (vs.getD 0 []) none (lanesOf m)
    (t, capIf (LaneOp.cap o) f)

/-- `VBALT` (R239). -/
def execVbalt (o : LaneOp) (s : State) : Out :=
  s.laneAlu o.h .other 1 (fun m => [⟨o.a, .int, 32, 1, m⟩]) (putOf ruleBalt o) fun m vs =>
    let b := (maskWhere m fun l => Tab.get 0 (vs.getD 0 []) l != 0).toNat
    ((lanesOf m).map fun l => (l, b), 0)

/-- The value VTOS sends to its scalar register (R240). -/
def tosValue (o : LaneOp) (m : Word) (a : Tab Nat) : Nat × Word :=
  let op := LaneOp.xfield o 6 3
  if op = 6 then (Tab.get 0 a ((lanesOf m).headD 0), 0)
  else
    let (r, f) := reduceTree (redOp op o.fmt o.rnd o.sat) m a
    (r.getD 0, f)

/-- `VTOS` (R240): sN is empty until the value arrives, which no discard drops; a register still empty is waited for. -/
def execVtos (o : LaneOp) (s : State) : Out :=
  let N := LaneOp.xfield o 0 6
  s.laneWord o.h .other (redUses o) none fun g m s =>
    if !s.thr.full N then .next (s.waitFor 18)
    else
      let (s, vs) := s.readUses g m (redUses o m)
      let (v, f) := tosValue o m (vs.getD 0 [])
      let s := s.writeZ g 1 ((lanesOf m).map fun l => (l, v))
      let s := s.capture (capIf (LaneOp.cap o) f)
      let w : DWord := if o.fmt = .i32 then BitVec.ofInt 64 (intOf true 32 v) else BitVec.ofNat 64 v
      let s := if N = 0 then s
        else if m = 0 then s.modThr fun t => t.wr N 0
        else s.addPending g ⟨0, 0, 0, some (N, w), [], [], 0, 27, [], none⟩
      .next (s.laneDone g o.h)

/-- What VLSR reads of a lane (R241). -/
def lsrValue (x : Group) (l k : Nat) : Nat :=
  let y := Tab.get Lane.zero x.lanes l
  match k with
  | 0 => l
  | 1 => y.glid.toNat
  | 2 => y.draw.cursor % 2 ^ 32
  | 3 => y.draw.count % 2 ^ 32
  | 4 => y.draw.fresh % 2 ^ 32
  | _ => y.draw.used % 2 ^ 8

/-- `VLSR` (R241). -/
def execVlsr (o : LaneOp) (s : State) : Out :=
  s.laneAlu o.h .basic 1 (fun _ => []) (putOf (ruleLsr o) o) fun m _ =>
    ((lanesOf m).map fun l => (l, lsrValue (s.group (s.gid.getD 0)) l (LaneOp.xfield o 0 4)), 0)

end Sys2Proof.Machine
end

