-- ==== Sys2Proof/Machine/LaneMem.lean ====
section
/-! DEFINITION. Lane memory instructions: loads, stores, locks, atomics, prefetch and index registers (R242-R253). -/

namespace Sys2Proof.Machine

/-! ### Operands and addresses (R242) -/

/-- The offset of a lane: b as I32, shifted, where OFS = 1. -/
def laneOff (o : LaneOp) (vs : List (Tab Nat)) (l : Nat) : Int :=
  if memOfs o then intOf true 32 (Tab.get 0 (vs.getD 1 []) l) * 2 ^ memSh o else 0

/-- Global addresses of the active lanes: a pair plus the offset, modulo 2^64. -/
def globalAds (o : LaneOp) (m : Word) (vs : List (Tab Nat)) : List (Nat × DWord) :=
  (lanesOf m).map fun l => (l, BitVec.ofInt 64 (Tab.get 0 (vs.getD 0 []) l + laneOff o vs l))

/-- Scratchpad offsets of the active lanes, exact. -/
def spadAds (o : LaneOp) (m : Word) (vs : List (Tab Nat)) : List (Nat × Int) :=
  (lanesOf m).map fun l => (l, Tab.get 0 (vs.getD 0 []) l + laneOff o vs l)

/-- The data operand of a lane: the last source of the row. -/
def laneData (vs : List (Tab Nat)) (l : Nat) : Nat := Tab.get 0 (vs.getLastD []) l

/-- Lanes that write: helper lanes' stores and atomics have no effect (R142; log entry 26). -/
def Group.writers (x : Group) (m : Word) : Word :=
  maskWhere m fun l => match (Tab.get Lane.zero x.lanes l).frag with | some f => !f.helper | none => true

/-- A memory word: operands as `laneWord`, then its own checks and effect on the values read. With no active lane it does
nothing (R16). -/
def State.memWord (s : State) (o : LaneOp) (r : LaneRule) (k : Nat → Word → List (Tab Nat) → State → Try State) : Out :=
  s.laneWord o.h .other (usesOf r 32 o) (putOf r o) fun g m s =>
    if m = 0 then .next (s.laneDone g o.h)
    else
      let (t, vs) := s.readUses g m (usesOf r 32 o m)
      match k g m vs t with
      | .ok s => .next ((s.popAll g m (usesOf r 32 o m)).laneDone g o.h)
      | .error s => .next s

/-! ### Loads (R245) -/

/-- The values of the lanes' destination registers, lowest address in the lowest register; `zd` also sends z3 the low word. -/
def State.pendLanes (s : State) (g : Nat) (o : LaneOp) (n regs : Nat) (zd : Bool) (va : DWord) (bad : List (Nat × DWord))
    (bs : List (Nat × Nat)) : State :=
  let x := s.group g
  let p : Put := ⟨o.d, regs⟩
  let ext (v : Nat) : Nat := extWord n (memSx o) v
  s.addPending g ⟨0, 0, 0, none, (bs.map fun (l, v) => cutRegs ((x.mainDst p l).getD 0) l (ext v) regs).flatten,
    if zd then bs.map fun (l, v) => (vkey 3 l, BitVec.ofNat 32 (ext v)) else [], va, 16, bad, none⟩

/-- A global load: each active lane makes an access of its own, or the first makes one for all (`one`). -/
def State.vld (s : State) (g : Nat) (m : Word) (o : LaneOp) (regs : Nat) (one : Bool) (ads : List (Nat × DWord)) : Try State := do
  s.placement g m
  let ps ← s.globalCheck g { path := some 0 } (memBytes o) false ads
  if s.loadWaits g (memBytes o) ps then .error (s.waitFor 21)
  else
    let qs := if one then ps.take 1 else ps
    let (s, bs) := ((s.poolErrors (qs.map fun (_, pa, _) => pa)).l1Sync g).loadLanes g (memBytes o) (memCh o == 0) ads qs
    let all : List (Nat × List Byte) := if one then ps.map fun (l, _) => (l, (bs.headD (0, [])).2) else bs
    .ok (s.pendLanes g o (memBytes o) regs false (ads.headD (0, 0)).2 (s.badLanes (memBytes o) ads ps) (all.map fun (l, b) => (l, ofLeBytes b)))

/-- `VLD` (R245). -/
def execVld (o : LaneOp) (s : State) : Out :=
  s.memWord o (ruleVld o) fun g m vs s => s.vld g m o (memRegs o) false (globalAds o m vs)

/-- `VLDU` (R245): one access at the snapshot's address; every active lane receives the value. -/
def execVldu (o : LaneOp) (s : State) : Out :=
  s.memWord o (ruleVldu o) fun g m vs s => s.vld g m o (memRegs o) true (globalAds o m vs)

/-- A scratchpad load of each active lane; its return also reaches z3 (R50). -/
def State.vlds (s : State) (g : Nat) (o : LaneOp) (regs : Nat) (offs : List (Nat × Nat)) : State :=
  let (s, bs) := s.loadSpads g (memBytes o) offs
  s.pendLanes g o (memBytes o) regs true 0 [] (bs.map fun (l, b) => (l, ofLeBytes b))

/-- `VLDS` (R245). -/
def execVlds (o : LaneOp) (s : State) : Out :=
  s.memWord o (ruleVlds o) fun g m vs s => do
    s.placement g m
    let offs ← s.spadCheck g (memBytes o) (spadAds o m vs)
    .ok (s.vlds g o (memRegs o) offs)

/-! ### Stores (R107, R246) -/

/-- The writes of a store, in ascending lane order. -/
def vstGlobal (n : Nat) (vs : List (Tab Nat)) (ads : List (Nat × DWord)) (ps : List (Nat × Nat × DWord)) : List Wr :=
  ps.map fun (l, pa, _) => ⟨false, Tab.get 0 ads l, pa, l, leBytes n (laneData vs l)⟩

def vstSpad (n : Nat) (vs : List (Tab Nat)) (offs : List (Nat × Nat)) : List Wr :=
  offs.map fun (l, a) => ⟨true, BitVec.ofNat 64 a, 0, l, leBytes n (laneData vs l)⟩

/-- `VST` (R246): one store-buffer entry for all its lanes. -/
def execVst (o : LaneOp) (s : State) : Out :=
  s.memWord o (ruleVst o) fun g m vs s => do
    s.placement g m
    let w := (s.group g).writers m
    let ads := globalAds o w vs
    let ps ← s.globalCheck g { write := true, path := some 0 } (memBytes o) false ads
    s.buffer g (.store .ls (vstGlobal (memBytes o) vs ads ps) [] true true (ps.any fun (_, _, e) => pteSc e)) s.thr.em

/-- `VSTS` (R246). -/
def execVsts (o : LaneOp) (s : State) : Out :=
  s.memWord o (ruleVsts o) fun g m vs s => do
    s.placement g m
    let offs ← s.spadCheck g (memBytes o) (spadAds o ((s.group g).writers m) vs)
    s.buffer g (.store .ls (vstSpad (memBytes o) vs offs) [] true true false) s.thr.em

/-! ### Locks (R91, R248) -/

/-- `VLDLK` (R91): every bit in one step, or none and another try in 8 die cycles. -/
def execVldlk (o : LaneOp) (s : State) : Out :=
  s.memWord o (ruleVldlk o) fun g m vs s => do
    s.placement g m
    let offs ← s.spadCheck g 4 (spadAds o m vs)
    let bits := (offs.map fun (_, a) => lockOf a).dedup
    if bits.any fun b => (s.lockBit g b).others g then .error (s.waitLock g)
    else
      let gen := (s.group g).regen
      let s := s.takeLocks g bits fun l => match l with | .free | .atomic _ _ => some (.tentative g gen) | _ => none
      .ok (s.vlds g o 1 offs)

/-- Whether a bit is the group's to unlock. -/
def Lock.mine (l : Lock) (g : Nat) : Bool := match l with | .tentative h _ => h == g | .held h => h == g | _ => false

/-- `VSTUL` (R91, R248): its bits are freed once its store has performed. -/
def execVstul (o : LaneOp) (s : State) : Out :=
  s.memWord o (ruleVstul o) fun g m vs s => do
    s.placement g m
    let offs ← s.spadCheck g 4 (spadAds o m vs)
    let bad := offs.filter fun (_, a) => !(s.lockBit g (lockOf a)).mine g
    if !bad.isEmpty then .error (s.raise .lockNotHeld { flm := maskOf (bad.map Prod.fst) })
    else
      let w := (s.group g).writers m
      s.buffer g (.store .ls (vstSpad 4 vs (offs.filter fun (l, _) => w.getLsbD l)) ((offs.map fun (_, a) => lockOf a).dedup) true true false)
        s.thr.em

/-! ### Atomics (R249-R251) -/

/-- The operands of a lane: CAS takes compare, then swap. -/
def atLane (o : LaneOp) (cas : Bool) (vs : List (Tab Nat)) (l : Nat) (va : DWord) (pa : Nat) : AtLane :=
  let c := laneData vs l
  let w := 8 * memBytes o
  ⟨l, va, pa, BitVec.ofNat 64 (if cas then c % 2 ^ w else c), BitVec.ofNat 64 (if cas then c / 2 ^ w else 0)⟩

/-- A scratchpad atomic performs at issue, and R30 does not bind it; the old value reaches DST and z3. -/
def State.vatomSpad (s : State) (g : Nat) (m : Word) (o : LaneOp) (op : ReqOp) (cas : Bool) (vs : List (Tab Nat)) : Try State := do
  let offs ← s.spadCheck g (memBytes o) (spadAds o m vs)
  let (s, old) ← s.spadAtomic g op (memSz o == 3) (offs.map fun (l, a) => atLane o cas vs l (BitVec.ofNat 64 a) a)
  let x := s.group g
  let dst := if memRet o then (old.map fun (l, v) => cutRegs ((x.mainDst ⟨o.d, memRegs o⟩ l).getD 0) l v (memRegs o)).flatten else []
  .ok (s.addPending g ⟨0, 0, 0, none, dst, old.map fun (l, v) => (vkey 3 l, BitVec.ofNat 32 v), 0, 16, [], none⟩)

/-- A global atomic is held for its commit (R30). -/
def State.vatomGlobal (s : State) (g : Nat) (m : Word) (o : LaneOp) (op : ReqOp) (cas : Bool) (vs : List (Tab Nat)) : Try State := do
  s.placement g m
  let ads := globalAds o m vs
  let ps ← s.globalCheck g { write := true, path := some 0 } (memBytes o) false ads
  let x := s.group g
  let p : Put := ⟨o.d, memRegs o⟩
  let ret := memRet o
  .ok (s.holdAtom g op (memSz o == 3) (ps.any fun (_, _, e) => pteSc e) (ps.map fun (l, pa, _) => atLane o cas vs l (Tab.get 0 ads l) pa) []
    (if ret then x.putKeys p m else []) (if ret then (lanesOf m).map fun l => (l, (x.mainDst p l).getD 0) else []))

/-- An atomic of either space by its writing lanes. -/
def State.vatom (s : State) (g : Nat) (m : Word) (o : LaneOp) (op : ReqOp) (cas : Bool) (vs : List (Tab Nat)) : Try State :=
  let w := (s.group g).writers m
  if w = 0 then .ok s
  else if memSx o then s.vatomSpad g w o op cas vs
  else s.vatomGlobal g w o op cas vs

/-- The operation of a code (R249). -/
def atomOpOf : Nat → AtomOp
  | 0 => .add | 1 => .min | 2 => .max | 3 => .umin | 4 => .umax | 5 => .and | 6 => .or | 7 => .xor | 8 => .xchg | _ => .cas

/-- `VATOM` (R249). -/
def execVatom (o : LaneOp) (s : State) : Out :=
  s.memWord o (ruleVatom [2, 3] 10 o) fun g m vs s => s.vatom g m o (.int (atomOpOf (memOp o))) (memOp o == 9) vs

/-- R251: whether an address lies in the launch's deterministic window. -/
def LRec.inWindow (r : LRec) (a : DWord) : Bool :=
  decide (r.detBase.toNat ≤ a.toNat) && decide (a.toNat < r.detBase.toNat + 4 * r.detWords)

/-- R251: a VFATOM.ADD that a deterministic launch redirects. -/
def State.vfatomDet (s : State) (g : Nat) (m : Word) (o : LaneOp) (vs : List (Tab Nat)) : Try State :=
  let out := (globalAds o m vs).filter fun (_, a) => !(s.recOf g).inWindow a
  if memRet o then .error (s.raise .detReturn { flm := m })
  else if !out.isEmpty then .error (s.trapLanes .detWindow 0 (out.map fun (l, a) => (l, a, none)))
  else s.vatomGlobal g m o .det false vs

/-- `VFATOM` (R250, R251). -/
def execVfatom (o : LaneOp) (s : State) : Out :=
  s.memWord o (ruleVatom [2] 3 o) fun g m vs s =>
    let w := (s.group g).writers m
    if memOp o = 0 && !memSx o && (s.recOf g).flags.getLsbD 0 then (if w = 0 then .ok s else s.vfatomDet g w o vs)
    else s.vatom g m o (.flt (memOp o)) false vs

/-! ### Prefetch (R247) -/

/-- One lane's prefetch: a line the page lets the L1 hold, or nothing. -/
def State.prefetch (s : State) (g : Nat) (keep : Bool) (a : DWord) : State :=
  if a.toNat / 2 ^ 58 != 0 then s
  else match s.translateG g (s.asidOf g) a.toNat { path := some 0 } with
    | .ok pa e => if s.isBad pa 1 then s else s.l1Fill (s.coreOf g) (s.asidOf g) a.toNat pa (keep && l1able e)
    | _ => s

/-- `VPREF` (R247). -/
def execVpref (o : LaneOp) (s : State) : Out :=
  s.memWord o (ruleVpref o) fun g m vs s => .ok ((globalAds o m vs).foldl (fun s (_, a) => s.prefetch g (memCh o == 0) a) s)

/-! ### Index registers (R252, R253) -/

/-- The words of iN of lanes, as a group's `upset` numbers them. -/
def idxKeys (n : Nat) (ls : List Nat) : List Nat := ls.map fun l => vkey (248 + n) l

/-- Write iN of the active lanes; the new words reach z1. -/
def State.writeIdx (s : State) (g n : Nat) (vals : Tab Nat) : State :=
  (s.modGroup g fun x =>
    Group.recode { x with f := { x.f with i := Tab.setAll 0 x.f.i (vals.map fun (l, v) => (vkey n l, BitVec.ofNat 32 v)) } }
      (idxKeys n (vals.map Prod.fst))).writeZ g 1 vals

/-- A word of the index class with an optional source; `reads`: it reads iN. -/
def State.idxWord (s : State) (h : LaneHdr) (n : Nat) (reads : Bool) (src : Option Src) (f : Nat → Nat → Nat) : Out :=
  let us (m : Word) : List Use := match src with | some a => [⟨a, .raw, 32, 1, m⟩] | none => []
  s.laneWord h .basic us none fun g m s =>
    let x := s.group g
    match (if reads then x.mismatch (idxKeys n (lanesOf m)) else none) with
    | some r => .next (s.meetUpset g r)
    | none =>
      let (s, vs) := s.readUses g m (us m)
      let s := s.popAll g m (us m)
      let vals := (lanesOf m).map fun l => (l, f (Tab.get 0 x.f.i (vkey n l)).toNat (Tab.get 0 (vs.getD 0 []) l))
      .next ((s.writeIdx g n vals).laneDone g h)

/-- `VSETI` (R252). -/
def execVseti (h : LaneHdr) (n : BitVec 2) (v : SetSrc) (s : State) : Out :=
  match v with
  | .reg a => s.idxWord h n.toNat false (some a) fun _ x => x % 2 ^ 24
  | .imm b len => s.idxWord h n.toNat false none fun _ _ => b.toNat * 2 ^ 8 + len.toNat * 2 ^ 16

/-- IDX + k modulo 256, BASE and LEN kept. -/
def bumpIdx (w k : Nat) : Nat := w / 256 * 256 + (w % 256 + k % 256) % 256

/-- `VINCI` (R253). -/
def execVinci (h : LaneHdr) (n : BitVec 2) (v : IncSrc) (s : State) : Out :=
  match v with
  | .reg a => s.idxWord h n.toNat true (some a) fun w x => bumpIdx w x
  | .imm k => s.idxWord h n.toNat true none fun w _ => bumpIdx w k.toNat

end Sys2Proof.Machine
end

