-- ==== Sys2Proof/Machine/Perform.lean ====
section
/-! DEFINITION. What a group has handed over performs (R28, R91, R93, R106, R109-R112, R115, R116, R145), atomic requests at their
units (R97, R98, R209, R249-R251, R388, R389), and values that land (R32, R38, R53, R288). -/

namespace Sys2Proof.Machine

/-! ### What may perform -/

/-- Bytes of one lane's operation. -/
def AtReq.size (r : AtReq) : Nat := if r.wide then 8 else 4

/-- Whether nothing that a group has handed over before writes the aligned words of a range (R109). -/
def State.wordFree (s : State) (g : Nat) (earlier : List Held) (spad : Bool) (a n : Nat) : Bool :=
  !earlier.any ((s.group g).writesWord spad a n) && (spad || !s.atomOut g a n)

/-- Kinds of entries. -/
def Held.isFence : Held → Bool | .fence _ _ _ => true | _ => false
def Held.isCmd : Held → Bool | .cmd _ => true | _ => false
def Held.isAtom : Held → Bool | .atom _ => true | _ => false
def Held.isStore : Held → Bool | .store _ _ _ _ _ _ => true | _ => false
def Held.isLs : Held → Bool | .store p _ _ _ _ _ => p == .ls | _ => false
def Held.isSc : Held → Bool | .store _ _ _ _ _ sc => sc | .atom r => r.sc | _ => false
def Held.isPush : Held → Bool | .push _ => true | _ => false
def Held.isQcfg : Held → Bool | .qcfg _ _ _ => true | _ => false
def Held.isSpad : Held → Bool | .store _ ws _ _ _ _ => ws.any Wr.spad | _ => false

/-- Whether an entry acts in the core domain (R394): all but global stores, atomics and fences. An arrival leaves its core, and
waits with it (R400). -/
def Held.inCore : Held → Bool
  | .store _ ws locks _ _ _ => ws.any Wr.spad || !locks.isEmpty
  | .atom _ | .fence _ _ _ => false
  | _ => true

/-- Whether an entry that stands behind `earlier` may perform: nothing passes a fence; writes of one aligned word keep program
order (R109), and so do accesses of SC pages (R93), commands (R106) and pushes (R57); a global atomic comes after the pushes
(R28), and in REPLAY mode after the group's earlier ones (R391); lock bits go after the scratchpad stores (R91); an arrival and a token wait for the LS writes before them (R115, R145);
a fence waits for everything before it, and for the engine commands its scope holds (R111, R112), and what its group's engines have
written is then there for the LS path on its core; a queue's configuration waits for the pushes before it and for the groups that
use the queue (R211). -/
def State.mayPerform (s : State) (g : Nat) (earlier : List Held) (h : Held) : Bool :=
  let x := s.group g
  (!earlier.any Held.isFence || h.isQcfg) &&
    match h with
    | .store _ ws _ _ _ sc =>
      (ws.all fun w => s.wordFree g earlier w.spad w.at_ w.data.length) && (!sc || (!earlier.any Held.isSc && !s.scOut g))
    | .tst _ => false
    | .fence a _ _ => earlier.isEmpty && (a != .ls || x.outAt == 0) && (a != .cr || x.outCmd == 0)
    | .cmd _ => !earlier.any Held.isCmd
    | .atom r =>
      !earlier.any Held.isPush && ((s.launch r.launch).rr.mode != 2 || !earlier.any Held.isAtom) && (r.lanes.all fun a => s.wordFree g earlier false a.pa r.size) &&
        (!r.sc || (!earlier.any Held.isSc && !s.scOut g))
    | .push q => !earlier.any (· == .push q)
    | .shown _ _ | .over _ => true
    | .qcfg q _ _ => !earlier.any (fun e => e.isPush || e.isQcfg) && !s.queueBusy x.team g q
    | .unlock _ => !earlier.any Held.isSpad
    | .arrive k => !earlier.any (fun e => e.isLs || e.isAtom || e.isPush || e == .arrive k) && x.outAt == 0 && s.mayArrive g k
    | .token _ => !earlier.any (fun e => e.isStore || e.isAtom) && x.outAt == 0

/-- Whether an entry's global accesses lie behind a link that retrains, which holds them (R409). -/
def State.linkHeld (s : State) : Held → Bool
  | .store _ ws _ _ _ _ => ws.any fun w => !w.spad && s.linkHolds w.pa w.data.length
  | .atom r => r.op == .det && r.lanes.any fun a => s.linkHolds a.pa r.size
  | _ => false

/-! ### Atomic requests (R98) -/

/-- The unit of a line: of the Hearth slice of its die, or of its home die's Hearth-cache slice (R94, R387). -/
def unitOfPa (pa : Nat) : Nat := 64 * (if pa / 2 ^ 51 % 2 = 1 then pa / 2 ^ 30 % 4 else pa / 2 ^ 16 % 4) + pa / 2 ^ 7 % 64

/-- The parts of a request by unit, in order of first use (R388). SCHUNK's counter is one operation, at NEXT's home. -/
def AtReq.parts (r : AtReq) : List (Nat × AtReq) :=
  match r.op with
  | .schunk _ => [(unitOfPa ((r.lanes.map AtLane.pa).headD 0), r)]
  | _ => ((r.lanes.map fun a => unitOfPa a.pa).dedup).map fun u => (u, { r with lanes := r.lanes.filter fun a => unitOfPa a.pa == u })

/-- A slot of the partial sums with a contribution (R251, R339): the sum in units of 2^-149, and its flags: contributed, NaN,
+∞, -∞, not -0. -/
def slotAdd (sum : Int) (fl : Nat) (c : Val) : Int × Nat :=
  match c with
  | .nan _ => (sum, fl ||| 1 ||| 2 ||| 16)
  | .inf false => (sum, fl ||| 1 ||| 4 ||| 16)
  | .inf true => (sum, fl ||| 1 ||| 8 ||| 16)
  | .num neg n d =>
    let k : Int := (n * 2 ^ 149 / d : Nat)
    (sum + (if neg then -k else k), fl ||| 1 ||| (if n = 0 && neg then 0 else 16))

/-- The bytes of a slot. -/
def slotBytes (sum : Int) (fl : Nat) : List Byte := leBytes 56 (patOf 448 sum) ++ leBytes 8 fl

/-- A redirected VFATOM.ADD of one lane performs in its team's slot (R251). A slot whose page does not translate is
taken as one whose data are poisoned, and one that may not be written keeps its value (DESIGN CHOICE; log entry 111). -/
def State.detAdd (s : State) (r : AtReq) (a : AtLane) : State :=
  let q := (s.launch r.launch).lr
  let asid := s.asidL r.launch
  let va := q.slotVa (s.team r.team).idx ((a.va.toNat - q.detBase.toNat) / 4)
  match s.vRead asid 0 va 64 with
  | none => s.modLive r.g fun x => x.holdErr .latePoison a.va
  | some bs =>
    let (sum, fl) := parseSlot bs
    let (sum, fl) := slotAdd sum fl (toVal .f32 (a.opnd.toNat % 2 ^ 32))
    s.vPut asid va (slotBytes sum fl)

/-- A request is released to its units, or into the slots of the deterministic window. -/
def State.releaseAtom (s : State) (r : AtReq) : State :=
  match r.op with
  | .det => r.lanes.foldl (fun s a => s.detAdd r a) s
  | _ =>
    let ps := r.parts
    let s := ps.foldl (fun s (u, p) => { s.loadGate r.launch u with units := Tab.put s.units u (Tab.get [] s.units u ++ [p]) }) s
    s.modGroup r.g fun x => { x with outAt := x.outAt + ps.length }

/-- The launch's teams that are placed and have not ended (R209). -/
def State.liveTeams (s : State) (l : Nat) : Nat := (s.teams.filter fun (_, (t : Team)) => t.launch == l && t.onCore).length

/-- A unit applies one lane's operation; a poisoned line is not written, and its error is held (R38). -/
def State.applyLane (s : State) (r : AtReq) (a : AtLane) : State × Nat :=
  if s.isBad a.pa r.size then (((s.modLive r.g fun x => x.holdErr .latePoison a.va).takeFree).poolErrors [a.pa], (Config.freeNat s.free) % 2 ^ (8 * r.size))
  else
    let old := s.rdLe a.pa r.size
    (s.wrLe a.pa r.size (atomNew r.op r.wide old a.opnd.toNat a.swap.toNat), old)

/-- The lanes in ascending order (R107). -/
def State.applyLanes (s : State) (r : AtReq) : List AtLane → State × List (Nat × Nat)
  | [] => (s, [])
  | a :: as_ =>
    let (s, v) := s.applyLane r a
    let (s, vs) := s.applyLanes r as_
    (s, (a.lane, v) :: vs)

/-- The words of the main file that old values go to. -/
def AtReq.oldWords (r : AtReq) (olds : List (Nat × Nat)) : List (Nat × Word) :=
  olds.flatMap fun (l, v) => (r.vdst.filter fun (k, _) => k == l).flatMap fun (_, q) => cutRegs q l v (r.size / 4)

/-- Results reach their registers, which are full again: scalar registers, and words of the main file. -/
def Group.landAll (x : Group) (ss : List (Nat × DWord)) (ws : List (Nat × Word)) : Group :=
  Group.recode
    { x with
      thr := ss.foldl (fun t (d, v) => t.wr d v) x.thr
      f := { x.f with v := Tab.setAll 0 x.f.v ws, vempty := Tab.setAll false x.f.vempty (ws.map fun (k, _) => (k, false)) } }
    (ss.flatMap (fun (d, _) => sWords d) ++ ws.map Prod.fst)

/-- Results that land after the restart of their die's clock (R395). -/
def Group.await (x : Group) (ss : List (Nat × DWord)) (ws : List (Nat × Word)) : Group :=
  let n := x.pend.foldl (fun n q => max n (q.id + 1)) 0
  let p (k : Nat) (d : Option (Nat × DWord)) (ws : List (Nat × Word)) : Pending := ⟨n + k, x.regen - 1, 0, d, ws, [], 0, 16, [], none⟩
  { x with pend := x.pend ++ (ss.zipIdx.map fun (d, k) => p k (some d) []) ++ if ws.isEmpty then [] else [p ss.length none ws] }

/-- Results of an atomic request reach its group: scalar registers, and words of the main file, where a released register stays
released (R48). -/
def State.landResults (s : State) (g : Nat) (ss : List (Nat × DWord)) (ws : List (Nat × Word)) : State :=
  s.modLive g fun x =>
    let ws := ws.filter fun (k, _) => decide (k / 512 < x.blocks)
    if s.still (s.coreOf g) then x.await ss ws else x.landAll ss ws

/-- SCHUNK applies (R209): the old NEXT and the chunk. -/
def State.applySchunk (s : State) (r : AtReq) (minc : Word) : State :=
  let p := (r.lanes.map AtLane.pa).getD 0 0
  let q := (r.lanes.map AtLane.pa).getD 1 0
  let d := r.sdst.getD 0
  if s.isBad p 8 || s.isBad q 8 then
    let v := BitVec.ofNat 64 (Config.freeNat s.free)
    let w := BitVec.ofNat 64 (Config.freeNat (s.free + 1))
    (s.takeFree.takeFree.landResults r.g [(d, v), (d + 1, w)] []).modLive r.g fun x => x.holdErr .latePoison ((r.lanes.map AtLane.va).getD 0 0)
  else
    let n := s.rdLe p 8
    let c := chunk n (s.rdLe q 8) minc.toNat (s.liveTeams r.launch)
    (s.wrLe p 8 (n + c)).landResults r.g [(d, BitVec.ofNat 64 n), (d + 1, BitVec.ofNat 64 c)] []

/-- The issuing core's copies of the lines are invalid (R95). -/
def State.dropLines (s : State) (core : Nat) (pas : List Nat) : State :=
  s.modCore core fun c => { c with l1 := c.l1.filter fun x => !pas.any fun p => p / 128 == x.pl }

/-- A request applies, whole. -/
def State.applyRequest (s : State) (r : AtReq) : State :=
  let s := match r.op with
    | .schunk m => s.applySchunk r m
    | _ => match s.applyLanes r r.lanes with
      | (s, olds) => s.landResults r.g (r.sdst.toList.flatMap fun d => olds.map fun (o : Nat × Nat) => (d, BitVec.ofNat 64 o.2)) (r.oldWords olds)
  (s.dropLines (s.team r.team).core (r.lanes.map AtLane.pa)).modLive r.g fun x => { x with outAt := x.outAt - 1 }

/-- Whether an earlier request of a unit's queue belongs to the same group. -/
def earlierOwn (q : List AtReq) (n g : Nat) : Bool := (q.take n).any fun r => r.g == g

/-- `ATOMIC_REQUEST` (R98, R388, R389): a unit takes a request of its queue, where its order gate lets it. -/
def execAtomicRequest (u n : Nat) (s : State) : Out :=
  let q := Tab.get [] s.units u
  match q[n]? with
  | none => .next s
  | some r =>
    if earlierOwn q n r.g || s.gate r.launch u r.req != .pass || (r.lanes.any fun a => s.linkHolds a.pa r.size) then .next s
    else
      let s := { s with units := Tab.set [] s.units u (q.eraseIdx n) }
      let s := s.applyRequest r
      let s := if (s.launch r.launch).rr.mode = 1 then s.logRequest r.launch u r.req else s
      .next (s.spendChunk r.launch u)

/-- `ORDER_GATE` (R389): the gate opens at a request it can no longer order. -/
def execOrderGate (u n : Nat) (s : State) : Out :=
  match (Tab.get [] s.units u)[n]? with
  | none => .next s
  | some r => match s.gate r.launch u r.req with
    | .opens w => .next (s.openGate r.launch u r.req w)
    | _ => .next s

/-! ### The store queue drains -/

/-- The first REPLAY that a group has handed over and Dusk may now read. -/
def State.releaseReplay (s : State) (g : Nat) : State :=
  match s.replays.find? fun (_, (r : Replay)) => r.g == g && !r.released with
  | some (k, r) => { s with replays := Tab.put s.replays k { r with released := true } }.modGroup g fun x => { x with outCmd := x.outCmd + 1 }
  | none => s

/-- One entry takes its effect. -/
def State.performHeld (s : State) (g : Nat) (h : Held) : State :=
  match h with
  | .store p ws locks last _ _ => s.performStore g p last ws locks
  | .tst _ | .over _ => s
  | .fence x y _ => if y == .ls && x != .ls then s.l1Drop (s.coreOf g) else s
  | .cmd .stage => s.stageUp (s.group g).team
  | .cmd (.cpyred op f sat d n) => s.releaseRed g op f sat d n
  | .cmd (.cpynet d v) => s.releaseNet g d v
  | .cmd (.rtrace ls c) => s.releaseRays g ls c
  | .cmd (.replay _) => s.releaseReplay g
  | .cmd (.shade ks) => s.releaseShaded ks
  | .atom r => s.releaseAtom r
  | .arrive k => s.arrive g k
  | .token m => s.releaseTokens g m
  | .unlock locks => s.performStore g .ls false [] locks
  | .push q => s.release g (.push q)
  | .shown off bs => s.release g (.shown off bs)
  | .qcfg q b c => s.layQueue (s.group g).team q b c

/-- `STORE_PERFORMED` (R109): entry `n` of what a group has handed over performs, if it may. What a saved team's groups keep waits
with them (R91, R371). -/
def execStorePerformed (g n : Nat) (s : State) : Out :=
  let hs := (s.group g).inflight
  match hs[n]? with
  | none => .next s
  | some h =>
    if (s.team (s.group g).team).onCore && !(h.inCore && s.still (s.coreOf g)) && !s.linkHeld h && s.mayPerform g (hs.take n) h then
      .next ((s.modGroup g fun x => { x with inflight := x.inflight.eraseIdx n }).performHeld g h)
    else .next s

/-- `VLDLK_RETRY` (R91): eight cycles after its last try, a group tries again. -/
def execVldlkRetry (g : Nat) (s : State) : Out :=
  s.ticking (s.coreOf g) fun s =>
  let x := s.group g
  if x.sch.wait == some (.retry 14) && decide (x.sch.retryAt ≤ (s.die (dieOf (s.coreOf g))).cyc) then
    .next (s.modGroup g fun y => { y with sch := { y.sch with wait := none } })
  else .next s

/-! ### Values that land -/

/-- Whether an RRES may land, and its value (R288). -/
def State.rresValue (s : State) (ns : List Nat) : Option Word :=
  let rs := ns.filterMap fun n => Tab.look s.replays n
  if rs.all Replay.complete then
    some (if rs.any fun (r : Replay) => r.failed then 0xFFFFFFFF else BitVec.ofNat 32 (rs.map fun (r : Replay) => r.acc).sum)
  else none

/-- A value lands: its registers are full (R53); a z register of a scratchpad return takes it for certain (R50). -/
def Group.land (x : Group) (p : Pending) : Group :=
  Group.recode { x with
    pend := x.pend.filter fun q => q.id != p.id
    thr := match p.sdst with | some (n, v) => x.thr.wr n v | none => x.thr
    f := { x.f with
      v := Tab.setAll 0 x.f.v p.vdst
      vempty := Tab.setAll false x.f.vempty (p.vdst.map fun (k, _) => (k, false))
      z := Tab.setAll 0 x.f.z p.zdst } }
    ((match p.sdst with | some (n, _) => sWords n | none => []) ++ p.vdst.map Prod.fst ++ p.zdst.map fun (k, _) => 16384 + k)

/-- A late value is open: free words in its place (R38). -/
def State.freeWords (s : State) (p : Pending) : State × Pending :=
  let n := s.free
  let p := { p with
    sdst := p.sdst.map fun (d, _) => (d, Config.freeWord (n + 1) ++ Config.freeWord n)
    vdst := p.vdst.zipIdx.map fun ((k, _), j) => (k, Config.freeWord (n + 2 + j)) }
  ({ s with free := n + 2 + p.vdst.length }, p)

/-- Data that arrives with an uncorrectable error (R38, R104): POISON of the load's lanes while its region is open, where
the group's other stops are over; otherwise LATE_POISON and an open value. -/
def State.landBad (s : State) (g : Nat) (p : Pending) : State :=
  let x := s.group g
  if x.reg.opened && p.gen == x.regen then
    if x.sch.parked || x.sch.halted then s
    else s.trapGroup g .poison
      { flm := maskOf ((p.bad.map Prod.fst).filter (· < 32)), addr := (p.bad.headD (0, 0)).2, path := 0, pc := some p.pc }
  else
    let (s, q) := s.freeWords p
    s.modGroup g fun x => (x.land q).holdErr .latePoison (p.bad.headD (0, 0)).2

/-- A value of a group enters its core and lands. -/
def State.landValue (s : State) (g : Nat) (p : Pending) : Out :=
  s.cross (dieOf (s.coreOf g)) (.value g p.id) fun s =>
    if p.bad.isEmpty then .next (s.modGroup g fun x => x.land p) else .next (s.landBad g p)

/-- `LONG_LATENCY_WRITE` (R53): a value of a group lands. A service thread's accesses are complete when they issue. -/
def execLongLatencyWrite (a : Agent) (n : Nat) (s : State) : Out :=
  match a with
  | .group g => match (s.group g).pend.find? fun p => p.id == n with
    | none => .next s
    | some p => match p.rres with
      | some ns => match s.rresValue ns with
        | none => .next s
        | some v => s.landValue g { p with vdst := p.vdst.map fun (k, _) => (k, v) }
      | none => s.landValue g p
  | _ => .next s

/-- `MONITOR_FIRE` (R99): a monitor is evaluated against its location's value. -/
def execMonitorFire (a : Agent) (s : State) : Out :=
  match a with
  | .none => .next s
  | .group g => .next (s.modLive g fun x => { x with mon := Monitor.eval x.mon (s.watched (some g) x.team x.mon) })
  | .svc t =>
    if (Tab.look s.svcs t).isNone then .next s
    else .next (s.setSvc t { s.svc t with mon := Monitor.eval (s.svc t).mon (s.watched none 0 (s.svc t).mon) })

end Sys2Proof.Machine
end

