-- ==== Sys2Proof/Machine/Swage.lean ====
section
/-! DEFINITION. Swage forms groups from the bins of a team (R24-R27, R45, R46, R54). -/

namespace Sys2Proof.Machine

/-- `SWAGE_HOLD_EXPIRY` (R25): a bin that has received no lane for 512 die cycles is ready. -/
def execSwageHoldExpiry (t key : Nat) (s : State) : Out :=
  match Tab.look (s.team t).bins key with
  | none => .next s
  | some b => s.ticking (s.team t).core fun s =>
    if (s.team t).st == .running && b.holdOver (s.cycOf t) then
      .next (s.modTeam t fun x => { x with bins := Tab.put x.bins key (b.expire (s.cycOf t)) })
    else .next s

/-- The new group of R26: the scalar arguments of its function or of the launch (R256), lanes by position, carried registers, helper lanes marked in p1 (R142). In a team
stop it starts halted (R384). -/
def State.formed (s : State) (t idx : Nat) (b : Bin) : Group :=
  let x := s.team t
  let ls := (b.lanes.take 32).zipIdx
  let em : Word := BitVec.ofNat 32 (2 ^ ls.length - 1)
  let args := s.argRegs (s.asidL x.launch) (if b.sargs = 0 then (s.launch x.launch).lr.args else b.sargs)
  -- a pixel lane's first group is this one (R127)
  let first (y : Lane) : Lane := if x.stage2 = 4 && y.entry = 0 then { y with entry := b.entry } else y
  let g := s.newGroup t idx b.entry em b.blocks args (ls.map fun (y, k) => (k, first y.lane))
  let cover : Word := BitVec.ofNat 32 ((ls.map fun (y, k) => if y.cover then 2 ^ k else 0).sum)
  { g with
    sch := { g.sch with halted := x.stop.isSome }
    thr := if x.stage2 = 4 then g.thr.setPred 1 cover else g.thr
    f := { g.f with v := Tab.setAll 0 [] (ls.flatMap fun (y, k) => y.regs.map fun (r, w) => (r * 32 + k, w)) } }

/-- A group forms from a bin; a bin with lanes left keeps its place while 32 of them remain. -/
def State.form (s : State) (t key idx : Nat) (b : Bin) : State :=
  let x := s.formed t idx b
  let rest := b.lanes.drop 32
  let s := s.addGroup t x
  let s := s.modTeam t fun y =>
    { y with bins := if rest.isEmpty then Tab.del y.bins key
        else Tab.put y.bins key { b with lanes := rest, ready := if 32 ≤ rest.length then b.ready else none } }
  s.bump (s.launch (s.team t).launch).ctx 3

/-- `SWAGE_GROUP_FORMATION` (R25): the first bin in formation order whose resources are there forms its group. -/
def execSwageGroupFormation (t key : Nat) (s : State) : Out :=
  let x := s.team t
  match Tab.look x.bins key, x.freeIdx with
  | some b, some i => s.ticking x.core fun s =>
    if s.formNext t b then .next (s.form t key i b) else .next s
  | _, _ => .next s

/-- `REGISTER_GRANT` (R46): the arbiter grants its first SGROW request whole, where it is next; one whose group no longer waits
leaves. -/
def execRegisterGrant (core : Nat) (s : State) : Out :=
  match (s.core core).arb with
  | [] => .next s
  | .sgrow g b _ :: rest => s.ticking core fun s =>
    let x := s.group g
    let s' := s.modCore core fun c => { c with arb := rest }
    if x.sch.wait != some (.sgrow b) || s.coreOf g != core then .next s'
    else if s.growNext core then
      .next ((s'.modCore core fun c => { c with used := c.used + (b - x.blocks) }).modGroup g fun y =>
        { y with blocks := max y.blocks b, thr := y.thr.next 4, sch := { y.sch with wait := none } })
    else .next s

end Sys2Proof.Machine
end

