-- ==== Sys2Proof/Machine/Render.lean ====
section
/-! DEFINITION. The fixed parts of the rendering pipeline (R137-R143, R147): the classifier, the fixed rasteriser, pixel teams
and the order watchdog. What the viewport transform and the rasteriser compute comes from outside (log entry 30). -/

namespace Sys2Proof.Machine

/-! ### Classification (R138-R140) -/

/-- The primitives of an ended mesh team that are not culled for their output: written, with every vertex below V. -/
def Team.survivors (t : Team) : List Nat :=
  let (v, p) := t.mesh.getD (0, 0)
  (t.meshP.filter fun (k, w) => decide (k < p) && (List.range 3).all fun j => decide (w.toNat / 2 ^ (8 * j) % 256 < v)).map Prod.fst

/-- Twice the signed area of a triangle in units of 1/65536 square pixel: positive for one winding, negative for the other. -/
def triCross (i : TriInfo) : Int := (i.b.1 - i.a.1) * (i.c.2 - i.a.2) - (i.c.1 - i.a.1) * (i.b.2 - i.a.2)

/-- Whether a draw's cull state rejects a triangle (R139, R340): 0 rejects none, 1 back faces, 2 front faces; which winding is the
front is a free value (log entry 30). -/
def triCulled (i : TriInfo) (cull : Nat) : Bool :=
  let front := decide (0 < triCross i) == Config.frontCcw
  (cull == 1 && !front) || (cull == 2 && front)

/-- Where the classifier sends a triangle (R139): none is culled, true the software path. -/
def classify (order cull area : Nat) (i : TriInfo) : Option Bool :=
  if triCulled i cull || triCross i == 0 then none
  else if i.crosses || order ≤ 1 then some false
  else some (decide ((triCross i).natAbs ≤ area * 8192))

/-- R137: the primitive id of a mesh team's primitive. -/
def primId (maxP idx k : Nat) : Nat := idx * maxP + k

/-- Primitives of an ended mesh team that take a path. -/
def State.routed (s : State) (t : Nat) (tris : List TriInfo) (soft : Bool) : List Nat :=
  let x := s.team t
  let l := s.launch x.launch
  let area := (s.queueOf l.ctx l.queue).area
  let cull := match l.ext with | some e => e.cull | none => 0
  x.survivors.filter fun k => match tris.find? fun i => i.prim == k with
    | some i => classify l.lr.order cull area i == some soft
    | none => false

/-- `MESH_OUTPUT_CLASSIFY` (R139): the output of an ended mesh team is routed; its index goes on to software rasterisation
where that path has work; with RASTE = 0 there is no such stage (log entry 30). -/
def execMeshOutputClassify (t : Nat) (tris : List TriInfo) (s : State) : Out :=
  let x := s.team t
  let l := s.launch x.launch
  if x.stage2 != 2 || x.st != .ended || !(x.survivors.all fun k => tris.any fun i => i.prim == k) then .next s
  else
    let e := l.ext.getD ⟨0, 0, 0, 0, 0, 0, 0, 0, 0, 0⟩
    let soft := (s.routed t tris true).map (primId e.maxP x.idx)
    let fixed := (s.routed t tris false).map (primId e.maxP x.idx)
    let rast := !soft.isEmpty && e.rastE != 0
    let s := s.modTeam t fun y => { y with stage2 := 3, mesh := none, st := if rast then .queued else .ended, started := !rast }
    let s := s.modLaunch x.launch fun y =>
      { y with fixed := y.fixed ++ fixed, soft := y.soft ++ soft,
               requeued := if rast then y.requeued ++ [x.idx] else y.requeued, finished := if rast then y.finished else y.finished + 1 }
    .next (s.endPixels x.launch)

/-! ### Fragments (R141-R143, R340) -/

/-- A record of cause CALL_TARGET and kind C about a launch's fragments (R143, R340). -/
def State.fragRec (s : State) (l : Nat) : FaultRec := { s.launchRec l .callTarget distributor 0xFF 0 with kind := 5 }

/-- The function index of a material in the pixel shader table (R340). -/
def State.pixelFn (s : State) (l : Nat) (material : Word) : Option Nat :=
  let e := ((s.launch l).ext).getD ⟨0, 0, 0, 0, 0, 0, 0, 0, 0, 0⟩
  let rd (a : DWord) : Option Nat := (s.vRead (s.asidL l) 0 a 4).map ofLeBytes
  match rd e.psTab with
  | some n => if material.toNat < n then rd (e.psTab + 4 + BitVec.ofNat 64 (4 * material.toNat)) else none
  | none => none

/-- One lane of a pixel quad. -/
def fragLane (f : FragQuad) (n k : Nat) : SwLane :=
  let cover := f.cover.getLsbD k
  ⟨f.material.toNat % 2 ^ 16,
    { Lane.zero with
      glid := BitVec.ofNat 32 (2 ^ 31 + n + k)
      frag := some ⟨f.px + k % 2, f.py + k / 2, f.prim, f.inst, !cover, n + k, false, false⟩ }, [], cover⟩

/-- The pixel team of a core, made at its first fragment and not yet formed (R143). -/
def State.pixelTeam (s : State) (l core : Nat) : Nat × State :=
  let idx := (s.launch l).lr.teams + core
  let t := teamKey l idx
  (t, if (Tab.look s.teams t).isSome then s
    else s.setTeam t { Team.zero with launch := l, idx := idx, core := core, cls := s.classOf l, stage2 := 4, rings := (s.launch l).lr.ringTab })

/-- The visibility word of a pixel: aligned as VISBASE is; its place in the buffer is a free value (R141, R340; log entry 30). -/
def visAddr (base : DWord) (px py : Nat) : DWord := base + 8 * BitVec.ofNat 64 (Config.visIndex px py)

/-- The visibility words of a quad's covered pixels: 64-bit maxima at the words' homes (R141); a page that cannot be written drops
its word. -/
def State.visWords (s : State) (l : Nat) (f : FragQuad) : State :=
  let base := (((s.launch l).ext).getD ⟨0, 0, 0, 0, 0, 0, 0, 0, 0, 0⟩).visBase
  if base = 0 then s
  else ((List.range 4).filter fun k => f.cover.getLsbD k).foldl (fun s k =>
    match s.translateC f.core (s.asidL l) (visAddr base (f.px + k % 2) (f.py + k / 2)).toNat { write := true, path := some 0 } with
    | .ok pa _ => s.wrLe pa 8 (max (s.rdLe pa 8) ((f.keys.getD k 0).toNat * 2 ^ 32 + f.prim.toNat))
    | _ => s) s

/-- The four lanes of a quad enter their core's Swage; past 2^31 lanes they are discarded, with one record (R143). -/
def State.emitQuad (s : State) (l : Nat) (f : FragQuad) : State :=
  let n := (s.launch l).frags
  if f.cover = 0 then s
  else if 2 ^ 31 < n + 4 then
    (if 2 ^ 31 < n then s else s.record (s.fragRec l)).modLaunch l fun x => { x with frags := n + 4, failed := true }
  else
    let s := s.modLaunch l fun x => { x with frags := n + 4, tiles := Tab.put x.tiles (tileKey f.px f.py) f.core }
    match s.pixelFn l f.material with
    | none => s.record (s.fragRec l)
    | some fn => match s.function l fn with
      | none => s.record (s.fragRec l)
      | some _ =>
        let (t, s) := s.pixelTeam l f.core
        (List.range 4).foldl (fun s k => s.enterFn t fn (fragLane f n k)) s

/-- Whether the fixed rasteriser may emit a quad: a primitive routed to it, on an even pixel, on a core of the partition that
owns its screen tile. -/
def State.quadOk (s : State) (l : Nat) (f : FragQuad) : Bool :=
  let x := s.launch l
  x.fixed.contains f.prim.toNat && f.px % 2 == 0 && f.py % 2 == 0 && (s.coresOf (s.partOf l)).contains f.core &&
    match Tab.look x.tiles (tileKey f.px f.py) with | some c => c == f.core | none => true

/-- `FRAGMENT_QUAD_EMIT` (R142). -/
def execFragmentQuadEmit (l : Nat) (f : FragQuad) (s : State) : Out :=
  if !s.quadOk l f || s.still f.core then .next s
  else
    let s := (s.visWords l f).emitQuad l f
    if f.last then .next ((s.modLaunch l fun x => { x with fixed := x.fixed.erase f.prim.toNat }).endPixels l) else .next s

/-- `PIXEL_TEAM_FORM` (R143): the team takes its window, which holds zero, once the core can hold it, and starts: its stage
counter takes 0 (R101). -/
def execPixelTeamForm (l core : Nat) (s : State) : Out :=
  let x := s.launch l
  let t := teamKey l (x.lr.teams + core)
  match Tab.look s.teams t, windowBase (s.core core).wins (4096 * x.lr.spad) with
  | some y, some base =>
    if y.stage2 == 4 && y.st == .queued && s.ctxActive x.ctx then
      let s := (s.modTeam t fun z =>
        { z with st := .running, base := base, size := 4096 * x.lr.spad, started := true,
                 bins := z.bins.map fun (k, b) => (k, { b with lastAt := (s.die (dieOf core)).cyc }) }).takeWindow core base (4096 * x.lr.spad)
      .next (s.stageAt t 0)
    else .next s
  | _, _ => .next s

/-! ### The order watchdog (R147) -/

/-- `ORDER_STALL` (R147): once per wait, W die cycles after it began, of the die that holds the pixel's scoreboard. -/
def execOrderStall (g : Nat) (s : State) : Out :=
  let x := s.group g
  let l := s.launch (s.launchOf g)
  let w := 2 ^ (s.queueOf l.ctx l.queue).wdog
  match x.sch.orderFrom with
  | some c =>
    if !x.sch.stalled && decide (c + w ≤ (s.die (s.orderDie g)).cyc) then
      .next ((s.record (s.groupRec g .orderStall { flm := x.thr.em })).modGroup g fun x => { x with sch := { x.sch with stalled := true } })
    else .next s
  | none => .next s

end Sys2Proof.Machine
end

