-- ==== Sys2Proof/Machine/Scalar.lean ====
section
/-! DEFINITION. Scalar arithmetic: integer (R181-R185), floating point (R186-R189), and masks (R193). -/

namespace Sys2Proof.Machine

/-! ### Integer, R format (R181-R183) -/

/-- An instruction on the exact integers a and b; SAT acts where a prefix carries it (R182). -/
def State.intOp (s : State) (f : IntF) (d a b : SReg) (op : Int → Int → Int) : Out :=
  s.scalarOp 4 [a.toNat, b.toNat] d.toNat fun t =>
    intRes f t.opts.sat (op (intRd f (t.rd a.toNat)) (intRd f (t.rd b.toNat)))

/-- An instruction on bits. -/
def State.bitOp (s : State) (f : IntF) (d a b : SReg) (op : DWord → DWord → Nat) : Out :=
  s.scalarOp 4 [a.toNat, b.toNat] d.toNat fun t => (intExt f (op (t.rd a.toNat) (t.rd b.toNat)), 0)

/-- `ADD` (R182). -/
def execAdd (f : IntF) (d a b : SReg) (s : State) : Out := s.intOp f d a b (· + ·)
/-- `SUB` (R182). -/
def execSub (f : IntF) (d a b : SReg) (s : State) : Out := s.intOp f d a b (· - ·)
/-- `MUL` (R182). -/
def execMul (f : IntF) (d a b : SReg) (s : State) : Out := s.intOp f d a b (· * ·)
/-- `MULH` (R182): the high half of the exact product. -/
def execMulh (f : IntF) (d a b : SReg) (s : State) : Out := s.intOp f d a b fun x y => (x * y) / 2 ^ intW f
/-- `DIV` (R183). -/
def execDiv (f : IntF) (d a b : SReg) (s : State) : Out := s.intOp f d a b (divInt f)
/-- `REM` (R183). -/
def execRem (f : IntF) (d a b : SReg) (s : State) : Out := s.intOp f d a b remInt
/-- `MIN` (R182). -/
def execMin (f : IntF) (d a b : SReg) (s : State) : Out := s.intOp f d a b fun x y => if y < x then y else x
/-- `MAX` (R182). -/
def execMax (f : IntF) (d a b : SReg) (s : State) : Out := s.intOp f d a b fun x y => if x < y then y else x
/-- `SLT` (R182). -/
def execSlt (f : IntF) (d a b : SReg) (s : State) : Out := s.intOp f d a b fun x y => if x < y then 1 else 0
/-- `SEQ` (R182): the w-bit patterns are equal. -/
def execSeq (f : IntF) (d a b : SReg) (s : State) : Out := s.intOp f d a b fun x y => if x = y then 1 else 0
/-- `AND` (R182). -/
def execAnd (f : IntF) (d a b : SReg) (s : State) : Out := s.bitOp f d a b fun x y => (x &&& y).toNat
/-- `OR` (R182). -/
def execOr (f : IntF) (d a b : SReg) (s : State) : Out := s.bitOp f d a b fun x y => (x ||| y).toNat
/-- `XOR` (R182). -/
def execXor (f : IntF) (d a b : SReg) (s : State) : Out := s.bitOp f d a b fun x y => (x ^^^ y).toNat

/-- Shift left, and right with zeros or copies of bit w - 1, of the w-bit pattern. -/
def shlPat (x : DWord) (n : Nat) : Nat := x.toNat * 2 ^ n
def shrPat (f : IntF) (x : DWord) (n : Nat) : Nat := x.toNat % 2 ^ intW f / 2 ^ n
def sarPat (f : IntF) (x : DWord) (n : Nat) : Nat := patOf (intW f) (intOf true (intW f) x.toNat / 2 ^ n)

/-- `SHL` (R182). -/
def execShl (f : IntF) (d a b : SReg) (s : State) : Out := s.bitOp f d a b fun x y => shlPat x (shiftN f y)
/-- `SHR` (R182). -/
def execShr (f : IntF) (d a b : SReg) (s : State) : Out := s.bitOp f d a b fun x y => shrPat f x (shiftN f y)
/-- `SAR` (R182). -/
def execSar (f : IntF) (d a b : SReg) (s : State) : Out := s.bitOp f d a b fun x y => sarPat f x (shiftN f y)
/-- `MOV` (R182). -/
def execMov (d a : SReg) (s : State) : Out := s.scalarOp 4 [a.toNat] d.toNat fun t => (t.rd a.toNat, 0)

/-! ### Integer, I and L formats (R184, R185) -/

/-- The 64-bit signed operation. -/
def i64F : IntF := ⟨false, false⟩

/-- `ADDI` (R184): saturating to I64 under SAT. -/
def execAddi (d a : SReg) (imm : BitVec 10) (s : State) : Out :=
  s.scalarOp 4 [a.toNat] d.toNat fun t => intRes i64F t.opts.sat ((t.rd a.toNat).toInt + imm.toInt)
/-- `ANDI` (R184). -/
def execAndi (d a : SReg) (imm : BitVec 10) (s : State) : Out :=
  s.scalarOp 4 [a.toNat] d.toNat fun t => (t.rd a.toNat &&& imm.signExtend 64, 0)
/-- `ORI` (R184). -/
def execOri (d a : SReg) (imm : BitVec 10) (s : State) : Out :=
  s.scalarOp 4 [a.toNat] d.toNat fun t => (t.rd a.toNat ||| imm.signExtend 64, 0)
/-- `XORI` (R184). -/
def execXori (d a : SReg) (imm : BitVec 10) (s : State) : Out :=
  s.scalarOp 4 [a.toNat] d.toNat fun t => (t.rd a.toNat ^^^ imm.signExtend 64, 0)
/-- `SHLI` (R184). -/
def execShli (d a : SReg) (n : BitVec 6) (s : State) : Out :=
  s.scalarOp 4 [a.toNat] d.toNat fun t => (t.rd a.toNat <<< n.toNat, 0)
/-- `SHRI` (R184). -/
def execShri (d a : SReg) (n : BitVec 6) (s : State) : Out :=
  s.scalarOp 4 [a.toNat] d.toNat fun t => (t.rd a.toNat >>> n.toNat, 0)
/-- `SARI` (R184). -/
def execSari (d a : SReg) (n : BitVec 6) (s : State) : Out :=
  s.scalarOp 4 [a.toNat] d.toNat fun t => ((t.rd a.toNat).sshiftRight n.toNat, 0)
/-- `SLTI` (R184). -/
def execSlti (d a : SReg) (imm : BitVec 10) (s : State) : Out :=
  s.scalarOp 4 [a.toNat] d.toNat fun t => (if (t.rd a.toNat).toInt < imm.toInt then 1 else 0, 0)
/-- `MOVL` (R185). -/
def execMovl (d : SReg) (imm : Word) (s : State) : Out := s.scalarOp 8 [] d.toNat fun _ => (imm.signExtend 64, 0)
/-- `MOVH` (R185): bits [31:0] are kept. -/
def execMovh (d : SReg) (imm : Word) (s : State) : Out :=
  s.scalarOp 8 [d.toNat] d.toNat fun t => (imm ++ (t.rd d.toNat).extractLsb' 0 32, 0)
/-- `ADDL` (R185): an unsigned W32 operand is the pattern's N(w) (R182). -/
def execAddl (f : IntF) (d a : SReg) (imm : Word) (s : State) : Out :=
  s.scalarOp 8 [a.toNat] d.toNat fun t => intRes f t.opts.sat (intRd f (t.rd a.toNat) + intRd f (imm.signExtend 64))

/-! ### Floating point (R186-R189) -/

/-- An arithmetic instruction on exact values, rounded once under the prefix's mode. -/
def State.fltOp (s : State) (f : SFmt) (d : SReg) (reads : List SReg) (op : Pfx → List Val → Val × Word) : Out :=
  s.scalarOp 4 (reads.map BitVec.toNat) d.toNat fun t =>
    let vs := reads.map fun r => toVal (SFmt.fmt f) (fltRd (SFmt.fmt f) (t.rd r.toNat))
    let (b, fl) := fltRes (SFmt.fmt f) t.opts (op t.opts vs)
    (BitVec.ofNat 64 b, fl)

/-- The n-th of a list of values. -/
def val (vs : List Val) (n : Nat) : Val := vs.getD n (.num false 0 1)

/-- `FADD` (R187). -/
def execFadd (f : SFmt) (d a b : SReg) (s : State) : Out := s.fltOp f d [a, b] fun p vs => addVal p.rnd (val vs 0) (val vs 1)
/-- `FSUB` (R187). -/
def execFsub (f : SFmt) (d a b : SReg) (s : State) : Out := s.fltOp f d [a, b] fun p vs => subVal p.rnd (val vs 0) (val vs 1)
/-- `FMUL` (R187). -/
def execFmul (f : SFmt) (d a b : SReg) (s : State) : Out := s.fltOp f d [a, b] fun _ vs => mulVal (val vs 0) (val vs 1)
/-- `FMA` (R187): the old sD is the addend. -/
def execFma (f : SFmt) (d a b : SReg) (s : State) : Out :=
  s.fltOp f d [a, b, d] fun p vs => fmaVal p.rnd (val vs 0) (val vs 1) (val vs 2)
/-- `FDIV` (R187). -/
def execFdiv (f : SFmt) (d a b : SReg) (s : State) : Out := s.fltOp f d [a, b] fun _ vs => divVal (val vs 0) (val vs 1)
/-- `FSQRT` (R187). -/
def execFsqrt (f : SFmt) (d a : SReg) (s : State) : Out := s.fltOp f d [a] fun _ vs => sqrtVal (val vs 0)

/-- `FMIN` and `FMAX` on register patterns (R188). -/
def State.fltMinMax (s : State) (isMax : Bool) (f : SFmt) (d a b : SReg) : Out :=
  s.scalarOp 4 [a.toNat, b.toNat] d.toNat fun t =>
    (BitVec.ofNat 64 (fminmax (SFmt.fmt f) isMax (fltRd (SFmt.fmt f) (t.rd a.toNat)) (fltRd (SFmt.fmt f) (t.rd b.toNat))), 0)
/-- `FMIN` (R188). -/
def execFmin (f : SFmt) (d a b : SReg) (s : State) : Out := s.fltMinMax false f d a b
/-- `FMAX` (R188). -/
def execFmax (f : SFmt) (d a b : SReg) (s : State) : Out := s.fltMinMax true f d a b
/-- `FCMP` (R188). -/
def execFcmp (c : FCond) (f : SFmt) (d a b : SReg) (s : State) : Out :=
  s.scalarOp 4 [a.toNat, b.toNat] d.toNat fun t =>
    (if fcmp (SFmt.fmt f) c (fltRd (SFmt.fmt f) (t.rd a.toNat)) (fltRd (SFmt.fmt f) (t.rd b.toNat)) then 1 else 0, 0)

/-- Source and destination of a conversion (R189). -/
def CvtKind.fmts : CvtKind → Fmt × Fmt
  | .f32F16 => (.f32, .f16) | .f32B16 => (.f32, .b16) | .f16F32 => (.f16, .f32) | .b16F32 => (.b16, .f32)
  | .f32I32 => (.f32, .i32) | .f32N32 => (.f32, .n32) | .f32I64 => (.f32, .i64) | .f32N64 => (.f32, .n64)
  | .i32F32 => (.i32, .f32) | .n32F32 => (.n32, .f32) | .i64F32 => (.i64, .f32) | .n64F32 => (.n64, .f32)

/-- `FCVT` (R189): an I32 result is sign-extended, an N32 result zero-extended. -/
def execFcvt (k : CvtKind) (d a : SReg) (s : State) : Out :=
  s.scalarOp 4 [a.toNat] d.toNat fun t =>
    let (x, y) := CvtKind.fmts k
    let (b, fl) := convert x y t.opts.rnd t.opts.sat (t.rd a.toNat).toNat
    (if y == .i32 then (BitVec.ofNat 32 b).signExtend 64 else BitVec.ofNat 64 b, fl)

/-! ### Masks (R193) -/

/-- A mask instruction: registers among its operands must be full, and its own destination too (R178). -/
def State.maskOp (s : State) (reads : List MaskOp) (d : MaskOp) (f : State → Word) : Out :=
  s.withRegs (reads.flatMap MaskOp.sreg) (MaskOp.sreg d) fun s =>
    .next ((s.writeMask d (f s)).modThr fun t => t.next 4)

/-- `MMOV` (R193). -/
def execMmov (d a : MaskOp) (s : State) : Out := s.maskOp [a] d fun s => s.readMask a
/-- `MAND` (R193). -/
def execMand (d a b : MaskOp) (s : State) : Out := s.maskOp [a, b] d fun s => s.readMask a &&& s.readMask b
/-- `MOR` (R193). -/
def execMor (d a b : MaskOp) (s : State) : Out := s.maskOp [a, b] d fun s => s.readMask a ||| s.readMask b
/-- `MXOR` (R193). -/
def execMxor (d a b : MaskOp) (s : State) : Out := s.maskOp [a, b] d fun s => s.readMask a ^^^ s.readMask b
/-- `MANDN` (R193). -/
def execMandn (d a b : MaskOp) (s : State) : Out := s.maskOp [a, b] d fun s => s.readMask a &&& ~~~(s.readMask b)
/-- `MCNT` (R193). -/
def execMcnt (d : BitVec 5) (a : MaskOp) (s : State) : Out :=
  s.withRegs (MaskOp.sreg a) [d.toNat] fun s =>
    .next (s.modThr fun t => (t.wr d.toNat (BitVec.ofNat 64 (count32 (s.readMask a)))).next 4)

end Sys2Proof.Machine
end

