-- ==== Sys2Proof/Machine/Dispatch.lean ====
section
/-! DEFINITION. One arm per row of the opcode table. -/

namespace Sys2Proof.Machine

/-- The effect of one step of the machine, by constructor. -/
def exec (i : Instr) (s : State) : Host.Outcome State Fault Refusal :=
  match i with
  | .pfx cap sat rnd => Sys2Proof.Machine.execPfx cap sat rnd s
  | .nop => Sys2Proof.Machine.execNop s
  | .trap code => Sys2Proof.Machine.execTrap code s
  | .brk code => Sys2Proof.Machine.execBrk code s
  | .add f d a b => Sys2Proof.Machine.execAdd f d a b s
  | .sub f d a b => Sys2Proof.Machine.execSub f d a b s
  | .mul f d a b => Sys2Proof.Machine.execMul f d a b s
  | .mulh f d a b => Sys2Proof.Machine.execMulh f d a b s
  | .div f d a b => Sys2Proof.Machine.execDiv f d a b s
  | .rem f d a b => Sys2Proof.Machine.execRem f d a b s
  | .min f d a b => Sys2Proof.Machine.execMin f d a b s
  | .max f d a b => Sys2Proof.Machine.execMax f d a b s
  | .slt f d a b => Sys2Proof.Machine.execSlt f d a b s
  | .seq f d a b => Sys2Proof.Machine.execSeq f d a b s
  | .and f d a b => Sys2Proof.Machine.execAnd f d a b s
  | .or f d a b => Sys2Proof.Machine.execOr f d a b s
  | .xor f d a b => Sys2Proof.Machine.execXor f d a b s
  | .shl f d a b => Sys2Proof.Machine.execShl f d a b s
  | .shr f d a b => Sys2Proof.Machine.execShr f d a b s
  | .sar f d a b => Sys2Proof.Machine.execSar f d a b s
  | .mov d a => Sys2Proof.Machine.execMov d a s
  | .addi d a imm => Sys2Proof.Machine.execAddi d a imm s
  | .andi d a imm => Sys2Proof.Machine.execAndi d a imm s
  | .ori d a imm => Sys2Proof.Machine.execOri d a imm s
  | .xori d a imm => Sys2Proof.Machine.execXori d a imm s
  | .shli d a n => Sys2Proof.Machine.execShli d a n s
  | .shri d a n => Sys2Proof.Machine.execShri d a n s
  | .sari d a n => Sys2Proof.Machine.execSari d a n s
  | .slti d a imm => Sys2Proof.Machine.execSlti d a imm s
  | .movl d imm => Sys2Proof.Machine.execMovl d imm s
  | .movh d imm => Sys2Proof.Machine.execMovh d imm s
  | .addl f d a imm => Sys2Proof.Machine.execAddl f d a imm s
  | .fadd f d a b => Sys2Proof.Machine.execFadd f d a b s
  | .fsub f d a b => Sys2Proof.Machine.execFsub f d a b s
  | .fmul f d a b => Sys2Proof.Machine.execFmul f d a b s
  | .fma f d a b => Sys2Proof.Machine.execFma f d a b s
  | .fdiv f d a b => Sys2Proof.Machine.execFdiv f d a b s
  | .fsqrt f d a => Sys2Proof.Machine.execFsqrt f d a s
  | .fmin f d a b => Sys2Proof.Machine.execFmin f d a b s
  | .fmax f d a b => Sys2Proof.Machine.execFmax f d a b s
  | .fcmp c f d a b => Sys2Proof.Machine.execFcmp c f d a b s
  | .fcvt k d a => Sys2Proof.Machine.execFcvt k d a s
  | .br off => Sys2Proof.Machine.execBr off s
  | .brc c a off => Sys2Proof.Machine.execBrc c a off s
  | .brm c m off => Sys2Proof.Machine.execBrm c m off s
  | .call off => Sys2Proof.Machine.execCall off s
  | .callr a => Sys2Proof.Machine.execCallr a s
  | .ret => Sys2Proof.Machine.execRet s
  | .exit => Sys2Proof.Machine.execExit s
  | .lrun e n k => Sys2Proof.Machine.execLrun e n k s
  | .mmov d a => Sys2Proof.Machine.execMmov d a s
  | .mand d a b => Sys2Proof.Machine.execMand d a b s
  | .mor d a b => Sys2Proof.Machine.execMor d a b s
  | .mxor d a b => Sys2Proof.Machine.execMxor d a b s
  | .mandn d a b => Sys2Proof.Machine.execMandn d a b s
  | .mcnt d a => Sys2Proof.Machine.execMcnt d a s
  | .join a => Sys2Proof.Machine.execJoin a s
  | .region idx => Sys2Proof.Machine.execRegion idx s
  | .ld sz sx sp d a off => Sys2Proof.Machine.execLd sz sx sp d a off s
  | .st sz sp d a off => Sys2Proof.Machine.execSt sz sp d a off s
  | .atom op wide sp d a off => Sys2Proof.Machine.execAtom op wide sp d a off s
  | .srd d n => Sys2Proof.Machine.execSrd d n s
  | .swr n a => Sys2Proof.Machine.execSwr n a s
  | .bara level n => Sys2Proof.Machine.execBara level n s
  | .barw d level n => Sys2Proof.Machine.execBarw d level n s
  | .bar d level n => Sys2Proof.Machine.execBar d level n s
  | .efence => Sys2Proof.Machine.execEfence s
  | .mfence x y sc => Sys2Proof.Machine.execMfence x y sc s
  | .arm sp a b => Sys2Proof.Machine.execArm sp a b s
  | .waitm => Sys2Proof.Machine.execWaitm s
  | .yield off => Sys2Proof.Machine.execYield off s
  | .schunk d a minc => Sys2Proof.Machine.execSchunk d a minc s
  | .ringp k => Sys2Proof.Machine.execRingp k s
  | .ringg k => Sys2Proof.Machine.execRingg k s
  | .qcfg q a cap => Sys2Proof.Machine.execQcfg q a cap s
  | .stcfg n a => Sys2Proof.Machine.execStcfg n a s
  | .sgrow b => Sys2Proof.Machine.execSgrow b s
  | .sshrink b => Sys2Proof.Machine.execSshrink b s
  | .sysrd d n => Sys2Proof.Machine.execSysrd d n s
  | .syswr n a => Sys2Proof.Machine.execSyswr n a s
  | .eret => Sys2Proof.Machine.execEret s
  | .l1inv all a => Sys2Proof.Machine.execL1inv all a s
  | .park d a => Sys2Proof.Machine.execPark d a s
  | .unpark d a => Sys2Proof.Machine.execUnpark d a s
  | .halt d a => Sys2Proof.Machine.execHalt d a s
  | .resume d a => Sys2Proof.Machine.execResume d a s
  | .ctxsv d a b => Sys2Proof.Machine.execCtxsv d a b s
  | .ctxld d a b => Sys2Proof.Machine.execCtxld d a b s
  | .preempt d a b => Sys2Proof.Machine.execPreempt d a b s
  | .semacq d a b => Sys2Proof.Machine.execSemacq d a b s
  | .semrel d a => Sys2Proof.Machine.execSemrel d a s
  | .svc code => Sys2Proof.Machine.execSvc code s
  | .tlbiv a b => Sys2Proof.Machine.execTlbiv a b s
  | .tlbia all a => Sys2Proof.Machine.execTlbia all a s
  | .vadd o => Sys2Proof.Machine.execVadd o s
  | .vsub o => Sys2Proof.Machine.execVsub o s
  | .vmul o => Sys2Proof.Machine.execVmul o s
  | .vmulh o => Sys2Proof.Machine.execVmulh o s
  | .vmad o => Sys2Proof.Machine.execVmad o s
  | .vmin o => Sys2Proof.Machine.execVmin o s
  | .vmax o => Sys2Proof.Machine.execVmax o s
  | .vshl o => Sys2Proof.Machine.execVshl o s
  | .vshr o => Sys2Proof.Machine.execVshr o s
  | .vsar o => Sys2Proof.Machine.execVsar o s
  | .vand o => Sys2Proof.Machine.execVand o s
  | .vor o => Sys2Proof.Machine.execVor o s
  | .vxor o => Sys2Proof.Machine.execVxor o s
  | .vlop3 o => Sys2Proof.Machine.execVlop3 o s
  | .vbfe o => Sys2Proof.Machine.execVbfe o s
  | .vbfi o => Sys2Proof.Machine.execVbfi o s
  | .vpopc o => Sys2Proof.Machine.execVpopc o s
  | .vclz o => Sys2Proof.Machine.execVclz o s
  | .vsel o => Sys2Proof.Machine.execVsel o s
  | .vmov o => Sys2Proof.Machine.execVmov o s
  | .vmovi h d imm => Sys2Proof.Machine.execVmovi h d imm s
  | .vcmp o => Sys2Proof.Machine.execVcmp o s
  | .vfadd o => Sys2Proof.Machine.execVfadd o s
  | .vfsub o => Sys2Proof.Machine.execVfsub o s
  | .vfmul o => Sys2Proof.Machine.execVfmul o s
  | .vfma o => Sys2Proof.Machine.execVfma o s
  | .vfmin o => Sys2Proof.Machine.execVfmin o s
  | .vfmax o => Sys2Proof.Machine.execVfmax o s
  | .vfcmp o => Sys2Proof.Machine.execVfcmp o s
  | .vfclass o => Sys2Proof.Machine.execVfclass o s
  | .vrcp o => Sys2Proof.Machine.execVrcp o s
  | .vrsq o => Sys2Proof.Machine.execVrsq o s
  | .vsqrt o => Sys2Proof.Machine.execVsqrt o s
  | .vexp2 o => Sys2Proof.Machine.execVexp2 o s
  | .vlog2 o => Sys2Proof.Machine.execVlog2 o s
  | .vsin o => Sys2Proof.Machine.execVsin o s
  | .vcos o => Sys2Proof.Machine.execVcos o s
  | .vcvt o => Sys2Proof.Machine.execVcvt o s
  | .vpack o => Sys2Proof.Machine.execVpack o s
  | .vunpk o => Sys2Proof.Machine.execVunpk o s
  | .vqntScl o => Sys2Proof.Machine.execVqntScl o s
  | .vqnt o => Sys2Proof.Machine.execVqnt o s
  | .vdqnt o => Sys2Proof.Machine.execVdqnt o s
  | .vdot4 o => Sys2Proof.Machine.execVdot4 o s
  | .vdot8 o => Sys2Proof.Machine.execVdot8 o s
  | .vshfl o => Sys2Proof.Machine.execVshfl o s
  | .vbcst o => Sys2Proof.Machine.execVbcst o s
  | .vred o => Sys2Proof.Machine.execVred o s
  | .vscan o => Sys2Proof.Machine.execVscan o s
  | .vbalt o => Sys2Proof.Machine.execVbalt o s
  | .vtos o => Sys2Proof.Machine.execVtos o s
  | .vlsr o => Sys2Proof.Machine.execVlsr o s
  | .vld o => Sys2Proof.Machine.execVld o s
  | .vst o => Sys2Proof.Machine.execVst o s
  | .vlds o => Sys2Proof.Machine.execVlds o s
  | .vsts o => Sys2Proof.Machine.execVsts o s
  | .vldlk o => Sys2Proof.Machine.execVldlk o s
  | .vstul o => Sys2Proof.Machine.execVstul o s
  | .vatom o => Sys2Proof.Machine.execVatom o s
  | .vfatom o => Sys2Proof.Machine.execVfatom o s
  | .vldu o => Sys2Proof.Machine.execVldu o s
  | .vpref o => Sys2Proof.Machine.execVpref o s
  | .vseti h n v => Sys2Proof.Machine.execVseti h n v s
  | .vinci h n v => Sys2Proof.Machine.execVinci h n v s
  | .vdraw o => Sys2Proof.Machine.execVdraw o s
  | .voutcome o => Sys2Proof.Machine.execVoutcome o s
  | .vcall o => Sys2Proof.Machine.execVcall o s
  | .vret o => Sys2Proof.Machine.execVret o s
  | .vordb o => Sys2Proof.Machine.execVordb o s
  | .vorde o => Sys2Proof.Machine.execVorde o s
  | .vmcnt o => Sys2Proof.Machine.execVmcnt o s
  | .vmvtx o => Sys2Proof.Machine.execVmvtx o s
  | .vmprim o => Sys2Proof.Machine.execVmprim o s
  | .vexit o => Sys2Proof.Machine.execVexit o s
  | .tld o => Sys2Proof.Machine.execTld o s
  | .tst o => Sys2Proof.Machine.execTst o s
  | .tzero o => Sys2Proof.Machine.execTzero o s
  | .tmma o => Sys2Proof.Machine.execTmma o s
  | .tmmas o => Sys2Proof.Machine.execTmmas o s
  | .ttov o => Sys2Proof.Machine.execTtov o s
  | .vtot o => Sys2Proof.Machine.execVtot o s
  | .atov o => Sys2Proof.Machine.execAtov o s
  | .vtoa o => Sys2Proof.Machine.execVtoa o s
  | .stage o => Sys2Proof.Machine.execStage o s
  | .cpyred o => Sys2Proof.Machine.execCpyred o s
  | .cpynet o => Sys2Proof.Machine.execCpynet o s
  | .rtrace o => Sys2Proof.Machine.execRtrace o s
  | .rtraceShade o => Sys2Proof.Machine.execRtraceShade o s
  | .replay o => Sys2Proof.Machine.execReplay o s
  | .rres o => Sys2Proof.Machine.execRres o s
  | .traversalStep ray core => Sys2Proof.Machine.execTraversalStep ray core s
  | .rayResume ray core => Sys2Proof.Machine.execRayResume ray core s
  | .callbackResume ray => Sys2Proof.Machine.execCallbackResume ray s
  | .rayCount ray => Sys2Proof.Machine.execRayCount ray s
  | .hitDelivery ray => Sys2Proof.Machine.execHitDelivery ray s
  | .issue u soft => Sys2Proof.Machine.execIssue u soft s
  | .promotion g => Sys2Proof.Machine.execPromotion g s
  | .storePerformed g n => Sys2Proof.Machine.execStorePerformed g n s
  | .longLatencyWrite a n => Sys2Proof.Machine.execLongLatencyWrite a n s
  | .atomicRequest u n => Sys2Proof.Machine.execAtomicRequest u n s
  | .orderGate u n => Sys2Proof.Machine.execOrderGate u n s
  | .vldlkRetry g => Sys2Proof.Machine.execVldlkRetry g s
  | .monitorFire a => Sys2Proof.Machine.execMonitorFire a s
  | .swageHoldExpiry t key => Sys2Proof.Machine.execSwageHoldExpiry t key s
  | .swageGroupFormation t key => Sys2Proof.Machine.execSwageGroupFormation t key s
  | .registerGrant core => Sys2Proof.Machine.execRegisterGrant core s
  | .sgrowDeadlockPreempt core => Sys2Proof.Machine.execSgrowDeadlockPreempt core s
  | .quarantineRelease core n => Sys2Proof.Machine.execQuarantineRelease core n s
  | .anvilCommandComplete g => Sys2Proof.Machine.execAnvilCommandComplete g s
  | .gatedCommandStart g => Sys2Proof.Machine.execGatedCommandStart g s
  | .barrierArrival n => Sys2Proof.Machine.execBarrierArrival n s
  | .barrierNotice n => Sys2Proof.Machine.execBarrierNotice n s
  | .copyComplete t n => Sys2Proof.Machine.execCopyComplete t n s
  | .copyFault t n e => Sys2Proof.Machine.execCopyFault t n e s
  | .reductionApply l r => Sys2Proof.Machine.execReductionApply l r s
  | .cpynetTransmit t n => Sys2Proof.Machine.execCpynetTransmit t n s
  | .cpynetConfirm t n => Sys2Proof.Machine.execCpynetConfirm t n s
  | .cpynetFail t n => Sys2Proof.Machine.execCpynetFail t n s
  | .rmaWriteReceive job addr data => Sys2Proof.Machine.execRmaWriteReceive job addr data s
  | .duskRelaunch n => Sys2Proof.Machine.execDuskRelaunch n s
  | .resultWord n idx => Sys2Proof.Machine.execResultWord n idx s
  | .quench l => Sys2Proof.Machine.execQuench l s
  | .queueDispatch c q => Sys2Proof.Machine.execQueueDispatch c q s
  | .teamPlacement l core => Sys2Proof.Machine.execTeamPlacement l core s
  | .launchComplete l => Sys2Proof.Machine.execLaunchComplete l s
  | .pageWalk die n => Sys2Proof.Machine.execPageWalk die n s
  | .faultRecord n => Sys2Proof.Machine.execFaultRecord n s
  | .handlerEntry t => Sys2Proof.Machine.execHandlerEntry t s
  | .orderStall g => Sys2Proof.Machine.execOrderStall g s
  | .meshOutputClassify t tris => Sys2Proof.Machine.execMeshOutputClassify t tris s
  | .fragmentQuadEmit l f => Sys2Proof.Machine.execFragmentQuadEmit l f s
  | .pixelTeamForm l core => Sys2Proof.Machine.execPixelTeamForm l core s
  | .sample core sch => Sys2Proof.Machine.execSample core sch s
  | .teamStop t => Sys2Proof.Machine.execTeamStop t s
  | .relockComplete die d => Sys2Proof.Machine.execRelockComplete die d s
  | .leaseExpired slot => Sys2Proof.Machine.execLeaseExpired slot s
  | .ptpEventMessage port die ppm => Sys2Proof.Machine.execPtpEventMessage port die ppm s
  | .poolError port kind dpa v => Sys2Proof.Machine.execPoolError port kind dpa v s
  | .linkDown port => Sys2Proof.Machine.execLinkDown port s
  | .corrected src count mem => Sys2Proof.Machine.execCorrected src count mem s
  | .hearthPatrolScrub die => Sys2Proof.Machine.execHearthPatrolScrub die s
  | .power watts die mhz => Sys2Proof.Machine.execPower watts die mhz s
  | .thermalTrip die => Sys2Proof.Machine.execThermalTrip die s
  | .boot => Sys2Proof.Machine.execBoot s
  | .ring q => Sys2Proof.Machine.execRing q s
  | .resolve q => Sys2Proof.Machine.execResolve q s
  | .unparkCmd q => Sys2Proof.Machine.execUnparkCmd q s
  | .killteam q => Sys2Proof.Machine.execKillteam q s
  | .killlaunch q => Sys2Proof.Machine.execKilllaunch q s
  | .switch q => Sys2Proof.Machine.execSwitch q s
  | .preemptvf q => Sys2Proof.Machine.execPreemptvf q s
  | .haltsvc q => Sys2Proof.Machine.execHaltsvc q s
  | .resumesvc q => Sys2Proof.Machine.execResumesvc q s
  | .trace q => Sys2Proof.Machine.execTrace q s
  | .rrset q => Sys2Proof.Machine.execRrset q s
  | .profopen q => Sys2Proof.Machine.execProfopen q s
  | .profread q => Sys2Proof.Machine.execProfread q s
  | .profclose q => Sys2Proof.Machine.execProfclose q s
  | .clkset q => Sys2Proof.Machine.execClkset q s
  | .partcfg q => Sys2Proof.Machine.execPartcfg q s
  | .hearthcfg q => Sys2Proof.Machine.execHearthcfg q s
  | .poolcfg q => Sys2Proof.Machine.execPoolcfg q s
  | .peerset q => Sys2Proof.Machine.execPeerset q s
  | .netadmit q => Sys2Proof.Machine.execNetadmit q s
  | .asidset q => Sys2Proof.Machine.execAsidset q s
  | .ctxcreate q => Sys2Proof.Machine.execCtxcreate q s
  | .featneg q => Sys2Proof.Machine.execFeatneg q s
  | .attest q => Sys2Proof.Machine.execAttest q s
  | .imgstage q => Sys2Proof.Machine.execImgstage q s
  | .powercap q => Sys2Proof.Machine.execPowercap q s
  | .lease q => Sys2Proof.Machine.execLease q s
  | .unlease q => Sys2Proof.Machine.execUnlease q s
  | .unknownServiceCommand q => Sys2Proof.Machine.execUnknownServiceCommand q s
  | .ringHeadAdvance r head => Sys2Proof.Machine.execRingHeadAdvance r head s
  | .linkStateChange cxl port st => Sys2Proof.Machine.execLinkStateChange cxl port st s

end Sys2Proof.Machine
end

