-- ==== Sys2Proof/Machine/Settle.lean ====
section
/-! DEFINITION. What the end of every step settles: switches of context and the commands that waited behind them (R376-R378, R410,
R411), and what a step has completed. -/

namespace Sys2Proof.Machine

/-- R411: the command that a request's code names. -/
def commandOf (q : Req) : State → Out :=
  match q.cmd.toNat with
  | 0x01 => execRing q
  | 0x02 => execResolve q
  | 0x03 => execUnparkCmd q
  | 0x04 => execKillteam q
  | 0x05 => execKilllaunch q
  | 0x06 => execSwitch q
  | 0x07 => execPreemptvf q
  | 0x08 => execHaltsvc q
  | 0x09 => execResumesvc q
  | 0x0A => execTrace q
  | 0x0B => execRrset q
  | 0x0C => execProfopen q
  | 0x0D => execProfread q
  | 0x0E => execProfclose q
  | 0x10 => execClkset q
  | 0x11 => execPartcfg q
  | 0x12 => execHearthcfg q
  | 0x13 => execPoolcfg q
  | 0x14 => execPeerset q
  | 0x15 => execNetadmit q
  | 0x16 => execAsidset q
  | 0x17 => execCtxcreate q
  | 0x18 => execFeatneg q
  | 0x19 => execAttest q
  | 0x1A => execImgstage q
  | 0x1B => execPowercap q
  | 0x1C => execLease q
  | 0x1D => execUnlease q
  | _ => execUnknownServiceCommand q

/-- A request that a SWITCH held after it was accepted takes its effect (R377, R378). -/
def State.runAccepted (s : State) (q : Req) : State :=
  match q.cmd.toNat with
  | 0x02 => s.behindSwitch q (s.reqVf q) fun s => s.resolve q
  | 0x03 => s.behindSwitch q (s.reqVf q) fun s => s.unparkReq q
  | 0x04 => s.behindSwitch q (s.reqVf q) fun s => s.killTeam q
  | 0x05 => s.behindSwitch q (s.reqVf q) fun s => s.killLaunch q
  | 0x06 => s.startSwitch q
  | 0x07 => s.preemptVf q
  | _ => s

/-- What waited behind a SWITCH takes its effect. -/
def State.runWaiting (s : State) : Queued → State
  | .req q true => s.runAccepted q
  | .req q false => match commandOf q s with | .next u => u | _ => s
  | .preempt t d l n =>
    if (s.vf (s.ctx (s.launch l).ctx).vf).switching.isSome then { s with ctl := { s.ctl with waiting := s.ctl.waiting ++ [.preempt t d l n] } }
    else s.runPreempt t d l n

/-- Whether a context's teams have left every core. -/
def State.ctxVacated (s : State) (c : Nat) : Bool := s.teams.all fun (_, (t : Team)) => !t.onCore || (s.launch t.launch).ctx != c

/-- Steps 3 and 4 of R377 for a virtual function: the new context is active, its event goes out, and what waited acts. -/
def State.finishSwitch (s : State) (vf : Nat) : State :=
  match (s.vf vf).switching with
  | none => s
  | some c =>
    let gone := match (s.vf vf).active with | some a => s.ctxVacated a | none => true
    if !gone then
      match (s.vf vf).active with
      | some a => (s.vacateCores (s.coresOfCtx a)).1
      | none => s
    else
      let s := s.setVf vf { s.vf vf with switching := none, active := some c }
      -- what a SWITCH vacated may go to any core again
      let s := { s with launches := s.launches.map fun (k, (x : Launch)) => (k, if (s.ctx x.ctx).vf = vf then { x with barred := [] } else x) }
      let s := s.event (svcUnit 0) 7 0 (BitVec.ofNat 64 (vf + 2 ^ 8 * c))
      let ws := s.ctl.waiting
      ws.foldl State.runWaiting { s with ctl := { s.ctl with waiting := [] } }

/-- What the end of every step settles: what gone groups left is over, drained teams are saved, switches finish,
PREEMPTs are complete, and the device sees what the entries at each HEAD wait for (R262, R333, R344, R371, R377). -/
def State.settle (s : State) : State :=
  let s := s.layTrails.saveDrained
  let s := (s.vfs.filter fun (_, (v : Vf)) => v.switching.isSome).foldl (fun s (k, _) => s.finishSwitch k) s
  s.endJobs.watchQueues

end Sys2Proof.Machine
end

