-- ==== Sys2Proof/Machine/Choose.lean ====
section
/-! DEFINITION. What happens next (R1, R34, R35, R420; log entry 9): the outside names coming events in `agenda`, and where it
names none the machine takes a pending event of its own that has an effect and an issue by turns, and an idle cycle where there is
neither. What follows every step: waits that end, switches of context that finish, and trace records. -/

namespace Sys2Proof.Machine

/-- The rows of the opcode table that are no instruction of a thread: events and service commands. -/
def isEvent : Instr → Bool
  | .traversalStep _ _ | .rayResume _ _ | .callbackResume _ | .rayCount _ | .hitDelivery _ | .issue _ _ | .promotion _
  | .longLatencyWrite _ _ | .atomicRequest _ _ | .orderGate _ _ | .vldlkRetry _ | .monitorFire _ | .swageHoldExpiry _ _
  | .swageGroupFormation _ _ | .registerGrant _ | .sgrowDeadlockPreempt _ | .quarantineRelease _ _
  | .anvilCommandComplete _ | .gatedCommandStart _ | .barrierArrival _ | .barrierNotice _ | .copyComplete _ _
  | .copyFault _ _ _ | .reductionApply _ _ | .cpynetTransmit _ _ | .cpynetConfirm _ _ | .cpynetFail _ _
  | .rmaWriteReceive _ _ _ | .duskRelaunch _ | .resultWord _ _ | .quench _ | .queueDispatch _ _ | .teamPlacement _ _
  | .launchComplete _ | .pageWalk _ _ | .faultRecord _ | .handlerEntry _ | .orderStall _ | .meshOutputClassify _ _
  | .fragmentQuadEmit _ _ | .pixelTeamForm _ _ | .sample _ _ | .teamStop _ | .relockComplete _ _ | .leaseExpired _
  | .ptpEventMessage _ _ _ | .poolError _ _ _ _ | .linkDown _ | .corrected _ _ _ | .hearthPatrolScrub _ | .power _ _ _
  | .thermalTrip _ | .boot | .ring _ | .resolve _ | .unparkCmd _ | .killteam _ | .killlaunch _ | .switch _ | .preemptvf _
  | .haltsvc _ | .resumesvc _ | .trace _ | .rrset _ | .profopen _ | .profread _ | .profclose _ | .clkset _ | .partcfg _
  | .hearthcfg _ | .poolcfg _ | .peerset _ | .netadmit _ | .asidset _ | .ctxcreate _ | .featneg _ | .attest _ | .imgstage _
  | .powercap _ | .lease _ | .unlease _ | .unknownServiceCommand _ | .storePerformed _ _ | .ringHeadAdvance _ _
  | .linkStateChange _ _ _ => true
  | _ => false

/-! ### The machine's own events -/

/-- Indices of a list. -/
def idxs {α : Type} (l : List α) : List Nat := List.range l.length

/-- Events of the memory system and the engines. -/
def State.memoryEvents (s : State) : List Instr :=
  s.dies.flatMap (fun (d, (x : Die)) => (idxs x.walks).map fun n => Instr.pageWalk d n) ++
  s.groups.flatMap (fun (g, (x : Group)) =>
    (idxs x.inflight).map (fun n => Instr.storePerformed g n) ++ x.pend.map (fun p => Instr.longLatencyWrite (.group g) p.id) ++
    [.gatedCommandStart g, .anvilCommandComplete g, .vldlkRetry g] ++ (if x.mon.armed && !x.mon.fired then [.monitorFire (.group g)] else [])) ++
  s.units.flatMap (fun (u, q) => (idxs q).flatMap fun n => [Instr.atomicRequest u n, .orderGate u n]) ++
  (idxs s.arrivals).map Instr.barrierArrival ++ (idxs s.notices).map Instr.barrierNotice ++
  s.teams.flatMap (fun (t, (x : Team)) => x.copies.flatMap fun (n, _) => [Instr.copyComplete t n, .cpynetTransmit t n, .cpynetConfirm t n]) ++
  s.launches.flatMap (fun (l, (x : Launch)) => x.reds.map fun (r, _) => Instr.reductionApply l r)

/-- The first core that serves a launch's rays. -/
def State.rayCore (s : State) (l : Nat) : Nat := (s.coresOf (s.partOf l)).headD 288

/-- Events of Tongs, Dusk and Swage. -/
def State.engineEvents (s : State) : List Instr :=
  s.rays.flatMap (fun (n, (r : Ray)) =>
    let k := if r.st = .running then r.core else s.rayCore r.launch
    [Instr.traversalStep n k, .rayResume n k, .callbackResume n, .rayCount n, .hitDelivery n]) ++
  s.replays.flatMap (fun (n, (r : Replay)) => .duskRelaunch n :: (idxs r.threads).map fun i => Instr.resultWord n i) ++
  s.teams.flatMap (fun (t, (x : Team)) => x.bins.flatMap fun (k, _) => [Instr.swageHoldExpiry t k, .swageGroupFormation t k])

/-- Events of clocks, cores and service. -/
def State.coreEvents (s : State) : List Instr :=
  s.dies.map (fun (d, _) => Instr.relockComplete d relockMax) ++ (idxs s.faults).map Instr.faultRecord ++
  s.cores.flatMap (fun (k, (c : Core)) =>
    .registerGrant k :: (idxs c.quar).map (fun n => Instr.quarantineRelease k n) ++ [0, 1, 2, 3].map (fun j => Instr.sample k j)) ++
  s.groups.flatMap (fun (g, _) => [Instr.promotion g, .orderStall g]) ++ s.teams.map (fun (t, _) => Instr.teamStop t) ++
  (s.links.filter fun (k, _) => decide (k < 16)).map (fun (k, _) => Instr.linkDown (BitVec.ofNat 4 k)) ++
  s.svcs.flatMap (fun (t, _) => [Instr.monitorFire (.svc t), .handlerEntry t]) ++ s.sems.map (fun (n, _) => Instr.leaseExpired n) ++
  s.cores.map fun (k, _) => Instr.sgrowDeadlockPreempt k

/-- Cores on which a launch's next team may be placed. -/
def State.placeCores (s : State) (l : Nat) : List Nat :=
  if (s.launch l).done || (s.waitingTeams l).isEmpty then [] else (s.coresFor l).filter fun k => (s.nextFor l k).isSome

/-- Events of queues and launches. -/
def State.launchEvents (s : State) : List Instr :=
  s.launches.flatMap (fun (l, _) => (s.placeCores l).map (fun k => Instr.teamPlacement l k) ++ [.quench l, .launchComplete l]) ++
  s.teams.flatMap (fun (_, (x : Team)) => if x.stage2 = 4 && x.st = .queued then [.pixelTeamForm x.launch x.core] else []) ++
  s.ctxs.flatMap fun (c, (x : Ctx)) => x.queues.map fun (q, _) => Instr.queueDispatch c q

/-- Whether an event has an effect. -/
def State.changes (s : State) (e : Instr) : Bool :=
  match exec e s with
  | .next t => t != s
  | _ => true

/-- The machine's own next event: the first with an effect from the place `evTurn` of the list on, or from its beginning, so that
each has its turn (R35); and the place after it. -/
def State.ownEvent (s : State) : Option (Instr × Nat) :=
  if s.ctl.bootPending then some (.boot, 0)
  else
    let es := (s.memoryEvents ++ s.engineEvents ++ s.coreEvents ++ s.launchEvents).zipIdx
    ((es.drop s.evTurn ++ es.take s.evTurn).find? fun e => s.changes e.1).map fun (e, k) => (e, k + 1)

/-! ### Issues -/

/-- Numbers of the units that may issue now. -/
def State.readyUnits (s : State) : List Nat :=
  ((s.groups.filterMap fun (g, x) => if s.groupReady g x then some (4 * s.coreOf g + x.gidx % 4) else none) ++
    s.svcs.filterMap fun (t, _) => if s.svcReady t then some (1152 + t / 8) else none).filter fun n => (s.cycleOf (unitOf n)).isSome

/-- The unit whose turn it is: the lowest from `turn` on, otherwise the lowest. -/
def State.turnUnit (s : State) (ns : List Nat) : Option Nat :=
  match (ns.filter fun n => s.turn ≤ n).min? with
  | some n => some n
  | none => ns.min?

/-- A cycle without an issue, on the first die that may run one. -/
def State.idleUnit (s : State) : Option IssueUnit :=
  ([0, 1, 2, 3].map fun d => if d = 0 then IssueUnit.service 0 else .sched (72 * d) 0).find? fun u => (s.cycleOf u).isSome

/-- The request of a service command. -/
def reqOf : Instr → Option Req
  | .ring q | .resolve q | .unparkCmd q | .killteam q | .killlaunch q | .switch q | .preemptvf q | .haltsvc q | .resumesvc q | .trace q
  | .rrset q | .profopen q | .profread q | .profclose q | .clkset q | .partcfg q | .hearthcfg q | .poolcfg q | .peerset q | .netadmit q
  | .asidset q | .ctxcreate q | .featneg q | .attest q | .imgstage q | .powercap q | .lease q | .unlease q | .unknownServiceCommand q => some q
  | _ => none

/-- The outside's next event: where it is a request, the one of its sender with the lowest SEQ of those that have come (R410). -/
def firstOf (e : Instr) (rest : List Instr) : Instr :=
  match reqOf e with
  | none => e
  | some q => rest.foldl (fun b i => match reqOf b, reqOf i with
      | some p, some r => if sameSender q r && decide (r.seq.toNat < p.seq.toNat) then i else b
      | _, _ => b) e

/-- The next event and the state it meets; none where every clock is stopped and nothing is pending. An event of the machine's own
and an issue come by turns where there are both, so that neither holds the other back for ever (R35). -/
def State.nextEvent (s : State) : Option (Instr × State) :=
  match s.agenda with
  | e :: rest => some (firstOf e rest, { s with agenda := (e :: rest).erase (firstOf e rest), cur := .none })
  | [] =>
    let s := { s with cur := .none }
    let unit := s.turnUnit s.readyUnits
    match (if s.issueNext && unit.isSome then none else s.ownEvent) with
    | some (e, k) => some (e, { s with evTurn := k, issueNext := true })
    | none => match unit with
      | some n => some (.issue (unitOf n) none, { s with turn := n + 1, issueNext := false })
      | none => s.idleUnit.map fun u => (.issue u none, s)

/-! ### The end of a step -/

/-- Whether an event leaves nothing to wait for: an issue with nothing to issue. -/
def State.idles (s : State) : Instr → Bool
  | .issue (.service _) (some _) => false
  | .issue u _ => match s.cycleOf u with
    | some t => (t.die (unitDie u)).stopped || t.edgeDue (unitDie u) || !t.unitReady u
    | none => true
  | _ => false

/-! ### The instruction of a thread -/

/-- Instruction `i` of the thread at hand executes in `s`; a prefix is followed by the word after it (R160). -/
def State.execute (s : State) (i : Instr) : Host.Outcome State Fault Refusal × Instr :=
  match i with
  | .pfx _ _ _ => match exec i s with
    | .next t => if t.thr.pfx.isSome then
        match t.fetch with
        | .ok (j, u) => (exec j u, j)
        | .error u => (.next u, i)
      else (.next t, i)
    | o => (o, i)
  | _ => (exec i s, i)

/-! ### Waits that end (R34) -/

/-- Whether a thread's instruction is to be tried again. -/
def State.retrying (s : State) (a : Agent) : Bool :=
  match a with
  | .group g => match (s.group g).sch.wait with
    | some (.retry _) => true
    | _ => false
  | .svc t => match (s.svc t).wait with
    | some (.retry _) => true
    | _ => false
  | .none => false

/-- What a waiting thread's instruction would leave if it were tried now, where it would wait again. -/
def State.waitsAgain (s : State) (a : Agent) : Option State :=
  let t := { s.awake a with cur := a }
  let u := match t.fetch with
    | .error u => some u
    | .ok (i, u) => match (u.execute i).1 with
      | .next v => some v
      | _ => none
  u.filter fun v => v.retrying a

/-- A WAITING THREAD IS READY AGAIN when what it waits for has come: when its instruction, tried now, would not wait. While it
would, the thread waits on, and what its wait has asked of the walkers stands (R34, R358; log entry 2). -/
def State.rouse (s : State) (a : Agent) : State :=
  match s.waitsAgain a with
  | none => s.awake a
  | some v =>
    let s := { s with dies := v.dies }
    match a with
    | .group g => s.modGroup g fun x => { x with sch := (v.group g).sch }
    | .svc t => s.setSvc t { s.svc t with wait := (v.svc t).wait }
    | .none => s

/-- The threads other than `a` whose instruction waits to be tried again; a wait for lock bits has its own retry (R91). -/
def State.sleepers (s : State) (a : Agent) : List Agent :=
  ((s.groups.filterMap fun (g, (x : Group)) =>
      if x.sch.wait.any Wait.retries && !x.gone && !x.sch.parked && !x.sch.halted && (s.team x.team).st == .running then some (Agent.group g) else none) ++
    s.svcs.filterMap fun (t, (v : Svc)) => if v.wait.any Wait.retries then some (Agent.svc t) else none).filter (· != a)

/-- Every thread but `a` that waits to try its instruction again is looked at. -/
def State.rouseAll (s : State) (a : Agent) : State := (s.sleepers a).foldl State.rouse s

/-- The group that issued, with its instruction; one that waits to try again has issued nothing. -/
def State.issued (s : State) (a : Agent) (i : Instr) : Option (Nat × Instr) :=
  match a with
  | .group g => if s.retrying a then none else some (g, i)
  | _ => none

/-- An issue of a group is counted, and its scheduler keeps what issued in the cycle (R351, R383, R385). -/
def State.noteIssue (s old : State) : Option (Nat × Instr) → State
  | none => s
  | some (g, _) =>
    let core := old.coreOf g
    let x := old.group g
    let s := s.modLive g fun y => { y with sch := { y.sch with ready := 0, promoted := none } }
    (s.modCore core fun c =>
      { c with lastIssue := Tab.put c.lastIssue (x.gidx % 4) (g, (s.die (dieOf core)).cyc, x.sch.promoted.isSome) }).bump (old.ctxOf g) 0

/-- The unit of the thread that a step ran. -/
def State.unitOfAgent (s : State) : Agent → IssueUnit
  | .group g => .sched (s.coreOf g) ((s.group g).gidx % 4)
  | .svc t => .service (t / 8)
  | .none => .service 0

/-- A thread that waits to try again has not issued: its unit may issue another in the cycle. -/
def State.giveBack (s old : State) (a : Agent) : State := if s.retrying a then s.unBusy (old.unitOfAgent a) else s

/-- The instruction at hand has read a register word whose residue does not match: a soft error (R55). -/
def State.meetSoft (s : State) (a : Agent) : State :=
  match a with
  | .group g => match (s.group g).sch.upset with
    | some r => s.softError g r
    | none => s
  | _ => s

/-- The end of a step from `old` in which thread `a` has executed an instruction in the state `at_`, or an event has happened. -/
def State.finish (s old at_ : State) (a : Agent) (i : Option Instr) : State :=
  let ran := i.bind fun i => s.issued a i
  let s := ({ s with cur := .none }.noteIssue old ran).giveBack old a
  (((s.meetSoft a).settle).rouseAll a).traceStep old at_ ran

/-- The end of a step from `old` in which event `e` happened and no thread executed an instruction. -/
def State.finishEvent (s old : State) (e : Instr) : State :=
  if old.idles e then { s with cur := .none } else s.finish old old .none none

/-- The thread that a step has chosen is about to execute: a discard it has met is past (R381). -/
def State.begun (s : State) : State :=
  match s.cur with
  | .group g => s.modGroup g fun x => { x with sch := { x.sch with again := false } }
  | _ => s

end Sys2Proof.Machine
end

