-- ==== Sys2Proof/Machine/Place.lean ====
section
/-! DEFINITION. One instruction placed where the next step fetches it (log entry 37): a system word in the image of service
thread 0 at HOST; any other word in the code page of a launch of one team of one group on core 0, which the next issue of
scheduler 0 runs; a lane word in a running block of that group. -/

namespace Sys2Proof.Machine

/-- The bytes of an instruction: bits from `nbits` on are zero, up to a prefix and the longest word. -/
def placeBytes (nbits w : Nat) : List Byte := leBytes 24 (w % 2 ^ nbits)

/-- The placed code's virtual address, and its page in the memory of die 0's Hearth. -/
def placeVa : Nat := 2 ^ 16
def placePa : Nat := 2 ^ 51

/-- A page-table entry of that page: present, writable, both execute bits, every path, HR. -/
def placePte : DWord := BitVec.ofNat 64 (placePa + 0x3F00 + 0x5F)

/-- Every clock runs, and the next event is an issue of `u`. -/
def State.clocked (s : State) (u : IssueUnit) : State :=
  { s with dies := s.dies.map (fun (k, d) => (k, { d with relock := none, steps := [], tripped := false, busy := [] })), agenda := [.issue u none] }

/-- A word for service thread 0. -/
def State.placeSvc (s : State) (bs : List Byte) : State :=
  let s := { s with ctl := { s.ctl with image := bs, svcTurn := Tab.put s.ctl.svcTurn 0 7 } }
  let v := s.svc 0
  (s.setSvc 0 { v with thr := { v.thr with pcs := 0, pfx := none }, sstat := v.sstat ||| 0x10, evs := [], stopped := false,
                       halted := false, wait := none }).clocked (.service 0)

/-- The record of the placed launch. -/
def placeRec : LRec :=
  { LRec.zero with sbase := BitVec.ofNat 64 placeVa, slen := 2 ^ 14, lbase := BitVec.ofNat 64 placeVa, llen := 2 ^ 14,
                   entry := BitVec.ofNat 64 placeVa, blocks := 15 }

/-- The placed group, before any instruction; with `lane`, inside a block of one word. -/
def placeGroup (t : Nat) (lane : Bool) : Group :=
  let x : Group := { Group.zero with
    team := t, thr := { Thread.zero with pcs := BitVec.ofNat 64 placeVa, em := 0xFFFFFFFF }, blocks := 15,
    lanes := placeRec.lanesAt 0 0 placeRec.entry, sch := { Sched.zero with promoted := some 0 } }
  if lane then
    { Group.begin x x.thr.pcs false with blk := some ⟨0, 1, false, x.thr.sregs, x.thr.sempty, x.thr.pcs⟩ }
  else x

/-- A word for a group. -/
def State.placeCode (s : State) (bs : List Byte) (lane : Bool) : State :=
  let l := s.nextSeq
  let c := Tab.fresh s.ctxs
  let t := teamKey l 0
  let g := groupKey t 0
  let s := { s with
    mem := putBytes s.mem placePa bs, bad := s.bad.filter (· != placePa / 128), nextSeq := l + 1,
    ctxs := Tab.put s.ctxs c Ctx.zero, launches := Tab.put s.launches l { Launch.zero with ctx := c, lr := placeRec, nextTeam := 1 },
    teams := Tab.put s.teams t { Team.zero with launch := l, st := .running, groups := [(0, g)], started := true },
    groups := Tab.put s.groups g (placeGroup t lane) }
  (s.modCore 0 fun k => { k with
    tlb := ⟨0, s.partOfAsid 0, placeVa / 2 ^ 14, 1, placePte⟩ :: k.tlb, used := k.used + 15 }).clocked (.sched 0 0)

end Sys2Proof.Machine
end

