-- ==== Sys2Proof/Machine/Step.lean ====
section
/-! DEFINITION. One step of the machine: the next event happens; where it is an issue and a thread is to run, the thread's
next instruction is fetched and executed in the same step, and with a prefix the instruction after it (R160). -/

namespace Sys2Proof.Machine

/-- The thread at hand of `s` runs its next instruction; `old` is the state before the step. -/
def State.runThread (s old : State) : Host.Outcome State Fault Refusal :=
  match s.begun.fetch with
  | .error t => .next (t.finish old s s.cur none)
  | .ok (i, t) => match t.execute i with
    | (.next u, j) => .next (u.finish old s s.cur (some j))
    | (.fault e, _) => .fault e
    | (.refused r, _) => .refused r

/-- One step. -/
def step (s : State) : Host.Outcome State Fault Refusal :=
  match s.nextEvent with
  | none => .next s
  | some (e, t) =>
    if isEvent e then
      match exec e t with
      | .next u => if u.cur = .none then .next (u.finishEvent t e) else u.runThread t
      | .fault f => .fault f
      | .refused r => .refused r
    else .next t

/-- The state in which the next step fetches and runs the instruction of `nbits` bits `w`. -/
def State.withFetchWord (s : State) (nbits w : Nat) : State :=
  if nbits = 96 then s.placeCode (placeBytes 96 w) true
  else if systemWord (BitVec.ofNat 32 (w % 2 ^ nbits)) then s.placeSvc (placeBytes nbits w)
  else s.placeCode (placeBytes nbits w) false

end Sys2Proof.Machine
end

