-- ==== Sys2Proof/Safety.lean ====
section
/-! DEFINITION. What a safe run is, and the forms of a state that every step keeps: no step faults or refuses; memory is in
canonical form (log entry 8); the reserved fields of a service thread's registers read as zero (R329). -/

namespace Sys2Proof.Machine

/-- `n` steps from `s` end in a state: none of them faults or refuses. -/
def Safe (n : Nat) (s : State) : Prop := ∃ t, Host.Core.run Sys2Proof.core n s = Host.Outcome.next t

/-- The reserved fields of sstat: bits [63:48], [31:9], [7:6] and [3:2] (R329). -/
def sstatReserved : DWord := 0xFFFF0000FFFFFECC

/-- A service thread's system registers read as R329 lays them out: reserved fields of sstat and ecause zero, svec a
multiple of 8. -/
def Svc.legal (v : Svc) : Bool :=
  v.sstat &&& sstatReserved == 0 && v.ecause.toNat < 2 ^ 27 && v.svec.toNat % 8 == 0

/-- Memory is in canonical form. -/
def State.memOk (s : State) : Bool := Memory.wf s.mem

/-- Every team's scratchpad window is in canonical form. -/
def State.windowsOk (s : State) : Bool := s.teams.all fun (_, t) => Memory.wf t.spad

/-- Every service thread's system registers are as R329 lays them out. -/
def State.svcOk (s : State) : Bool := s.svcs.all fun (_, v) => v.legal

end Sys2Proof.Machine
end

