-- ==== Sys2Proof/Certificates/Slice0/Obligations.lean ====
section
/-! DEFINITION. The statements for the provers. What they share (a thread ready to execute, what an instruction leaves alone,
the results that the rules give) stands in `Sys2Proof.Claim`. -/

open Sys2Proof Sys2Proof.Machine

namespace Sys2Proof.Claim

/-! ### Words of the statements -/

/-- A scalar instruction that reads and writes these registers neither waits nor traps for them: a thread runs, no register
it reads is a pending atomic's, all of them are full, and its words carry the codes of their values (R30, R55, R178). -/
structure Ready (s : State) (reads writes : List Nat) : Prop where
  runs : s.cur ≠ .none
  free : s.readsAtomDst reads = false
  full : ∀ n ∈ reads ++ writes, s.thr.full n = true
  sound : s.sound

/-- `t` is `s` but for the thread at hand, and the flags that its open region has captured and where that region's lanes
diverged: nothing else of the state, memory included, has changed. -/
def OnlyThread (s t : State) : Prop :=
  match s.cur with
  | .none => False
  | .group g => ∃ x f d, t = s.modGroup g fun y => { y with thr := x, reg := { y.reg with fset := f, divFrom := d } }
  | .svc k => ∃ x, t = s.setSvc k { s.svc k with thr := x }

/-- The flags that a captured flag enters: those of a group's open region, or a service thread's register (R61). -/
def flagsIn (s : State) : Word :=
  match s.cur with
  | .group g => (s.group g).reg.fset
  | _ => s.thr.flags

/-- `t` is `s` after an instruction that writes `v` to register `d` (nothing for s0), raises flags `fl`, and goes on at
`pc`: every other register, em, the predicates, the committed flags of a group and all of memory are as they were. -/
structure Wrote (s t : State) (d : Nat) (v : DWord) (fl : Word) (pc : DWord) : Prop where
  only : OnlyThread s t
  regs : ∀ n, t.thr.rd n = if n = d ∧ n ≠ 0 then v else s.thr.rd n
  full : ∀ n, n < 64 → t.thr.full n = s.thr.full n
  pcs : t.thr.pcs = pc
  pfx : t.thr.pfx = none
  em : t.thr.em = s.thr.em
  preds : ∀ n, t.thr.pred n = s.thr.pred n
  flags : flagsIn t = flagsIn s ||| (if s.thr.opts.cap then fl else 0)
  committed : ∀ g, s.cur = .group g → t.thr.flags = s.thr.flags
  mem : ∀ a, t.rdByte a = s.rdByte a

/-- Instruction `i` of the thread at hand answers a next state in which it has written `v` to `d`, raised `fl`, and passed
its `len` bytes. -/
def Gives (s : State) (i : Instr) (len : DWord) (d : Nat) (v : DWord) (fl : Word) : Prop :=
  ∃ t, exec i s = .next t ∧ Wrote s t d v fl (s.thr.wordAt + len)

/-! ### Integers (R181-R185) -/

/-- w. -/
def width (f : IntF) : Nat := if f.w then 32 else 64

/-- An operand read as I(w), or as N(w) when U = 1. -/
def num (f : IntF) (v : DWord) : Int :=
  match f.w, f.u with
  | true, true => ((v.setWidth 32 : Word).toNat : Int)
  | true, false => (v.setWidth 32 : Word).toInt
  | false, true => (v.toNat : Int)
  | false, false => v.toInt

/-- Width extension: with W = 1 the low 32 bits, sign-extended, or zero-extended when U = 1 (R181). -/
def ext (f : IntF) (v : DWord) : DWord :=
  if f.w then (if f.u then (v.setWidth 32).setWidth 64 else (v.setWidth 32).signExtend 64) else v

/-- The least and the greatest number of I(w) or N(w). -/
def least (f : IntF) : Int := if f.u then 0 else -(2 ^ (width f - 1) : Int)
def greatest (f : IntF) : Int := if f.u then 2 ^ width f - 1 else 2 ^ (width f - 1) - 1

/-- An exact result wrapped modulo 2^w. -/
def wrap (f : IntF) (i : Int) : DWord := ext f (BitVec.ofInt 64 i)

/-- An exact result, saturated under SAT with SATF on a clamp, else wrapped (R182). -/
def fit (f : IntF) (sat : Bool) (i : Int) : DWord := if sat then wrap f (max (least f) (min (greatest f) i)) else wrap f i
def fitFlags (f : IntF) (sat : Bool) (i : Int) : Word :=
  if sat ∧ (i < least f ∨ greatest f < i) then 128 else 0

end Sys2Proof.Claim

/-- R182, R181: what the R-format integer instructions write. ADD, SUB and MUL take a prefix; the others have none (a PFX before
them is an orphan). Completes: add, sub, mul, mulh, div, rem, min, max, slt, seq, and, or, xor, shl, shr, sar, mov. -/
def Obligations.IntegerResults : Prop :=
  ∀ (f : IntF) (d a b : SReg) (s : State), Claim.Ready s [a.toNat, b.toNat] [d.toNat] →
    let x := s.thr.rd a.toNat
    let y := s.thr.rd b.toNat
    let i := Claim.num f x
    let j := Claim.num f y
    let sat := s.thr.opts.sat
    let n := y.toNat % Claim.width f
    let gives (c : Instr) (v : DWord) (fl : Word) := Claim.Gives s c 4 d.toNat v fl
    (gives (.add f d a b) (Claim.fit f sat (i + j)) (Claim.fitFlags f sat (i + j)) ∧
     gives (.sub f d a b) (Claim.fit f sat (i - j)) (Claim.fitFlags f sat (i - j)) ∧
     gives (.mul f d a b) (Claim.fit f sat (i * j)) (Claim.fitFlags f sat (i * j))) ∧
    (s.thr.pfx = none →
      gives (.mulh f d a b) (Claim.wrap f (i * j / 2 ^ Claim.width f)) 0 ∧
      (j ≠ 0 → gives (.div f d a b) (Claim.wrap f (Int.tdiv i j)) 0) ∧
      (j ≠ 0 → gives (.rem f d a b) (Claim.wrap f (i - j * Int.tdiv i j)) 0) ∧
      gives (.min f d a b) (Claim.wrap f (min i j)) 0 ∧
      gives (.max f d a b) (Claim.wrap f (max i j)) 0 ∧
      gives (.slt f d a b) (if i < j then 1 else 0) 0 ∧
      gives (.seq f d a b) (if (if f.w then x.setWidth 32 = y.setWidth 32 else x = y) then 1 else 0) 0 ∧
      gives (.and f d a b) (Claim.ext f (x &&& y)) 0 ∧
      gives (.or f d a b) (Claim.ext f (x ||| y)) 0 ∧
      gives (.xor f d a b) (Claim.ext f (x ^^^ y)) 0 ∧
      gives (.shl f d a b) (Claim.ext f (x <<< n)) 0 ∧
      gives (.shr f d a b) (Claim.ext f ((if f.w then (x.setWidth 32).setWidth 64 else x) >>> n)) 0 ∧
      gives (.sar f d a b) (Claim.ext f ((if f.w then (x.setWidth 32).signExtend 64 else x).sshiftRight n)) 0) ∧
    gives (.mov d a) x 0

/-- R183: DIV and REM never trap, and their corners: a zero divisor, and the most negative number by -1. -/
def Obligations.DivisionCorners : Prop :=
  ∀ (f : IntF) (d a b : SReg) (s : State), Claim.Ready s [a.toNat, b.toNat] [d.toNat] → s.thr.pfx = none →
    let i := Claim.num f (s.thr.rd a.toNat)
    let j := Claim.num f (s.thr.rd b.toNat)
    (∃ v w, Claim.Gives s (.div f d a b) 4 d.toNat v 0 ∧ Claim.Gives s (.rem f d a b) 4 d.toNat w 0) ∧
    (j = 0 → Claim.Gives s (.div f d a b) 4 d.toNat (Claim.ext f (-1)) 0 ∧
      Claim.Gives s (.rem f d a b) 4 d.toNat (Claim.ext f (s.thr.rd a.toNat)) 0) ∧
    (f.u = false → i = -(2 ^ (Claim.width f - 1) : Int) → j = -1 →
      Claim.Gives s (.div f d a b) 4 d.toNat (Claim.wrap f (-(2 ^ (Claim.width f - 1) : Int))) 0 ∧
      Claim.Gives s (.rem f d a b) 4 d.toNat 0 0)

/-- R184: the I-format integer instructions, on 64 bits. ADDI alone takes a prefix. -/
def Sys2Proof.Claim.ImmediateResults : Prop :=
  ∀ (d a : SReg) (imm : BitVec 10) (n : BitVec 6) (s : State), Claim.Ready s [a.toNat] [d.toNat] →
    let x := s.thr.rd a.toNat
    let k : DWord := imm.signExtend 64
    let f : IntF := ⟨false, false⟩
    let gives (c : Instr) (v : DWord) (fl : Word) := Claim.Gives s c 4 d.toNat v fl
    gives (.addi d a imm) (Claim.fit f s.thr.opts.sat (x.toInt + k.toInt)) (Claim.fitFlags f s.thr.opts.sat (x.toInt + k.toInt)) ∧
    gives (.andi d a imm) (x &&& k) 0 ∧
    gives (.ori d a imm) (x ||| k) 0 ∧
    gives (.xori d a imm) (x ^^^ k) 0 ∧
    gives (.shli d a n) (x <<< n.toNat) 0 ∧
    gives (.shri d a n) (x >>> n.toNat) 0 ∧
    gives (.sari d a n) (x.sshiftRight n.toNat) 0 ∧
    gives (.slti d a imm) (if x.toInt < imm.toInt then 1 else 0) 0

/-- R185: the L-format immediates. -/
def Sys2Proof.Claim.LongImmediateResults : Prop :=
  (∀ (d : SReg) (imm : Word) (s : State), Claim.Ready s [] [d.toNat] →
    Claim.Gives s (.movl d imm) 8 d.toNat (imm.signExtend 64) 0) ∧
  (∀ (d : SReg) (imm : Word) (s : State), Claim.Ready s [d.toNat] [d.toNat] →
    Claim.Gives s (.movh d imm) 8 d.toNat (imm.setWidth 64 <<< 32 ||| s.thr.rd d.toNat &&& 0xFFFFFFFF) 0) ∧
  (∀ (f : IntF) (d a : SReg) (imm : Word) (s : State), Claim.Ready s [a.toNat] [d.toNat] →
    let i := Claim.num f (s.thr.rd a.toNat) + Claim.num f (imm.signExtend 64)
    Claim.Gives s (.addl f d a imm) 8 d.toNat (Claim.fit f s.thr.opts.sat i) (Claim.fitFlags f s.thr.opts.sat i))

/-- R184, R185: the I-format and L-format integer instructions. Completes: addi, andi, ori, xori, shli, shri, sari, slti, movl,
movh, addl. -/
def Obligations.ImmediateResults : Prop := Sys2Proof.Claim.ImmediateResults ∧ Sys2Proof.Claim.LongImmediateResults

namespace Sys2Proof.Claim

/-! ### Scalar floating point (R186-R189) -/

/-- The operand of a format: the low bits of its register. -/
def low (f : SFmt) (v : DWord) : Nat := v.toNat % 2 ^ Fmt.width (SFmt.fmt f)

/-- The value of an operand. -/
def real (f : SFmt) (v : DWord) : Val := toVal (SFmt.fmt f) (low f v)

/-- Instruction `i` writes the rounding of the exact value `r` to `d`, once, under the prefix's mode and SAT, and raises the
flags of its operands and of the rounding (R187). -/
def Rounds (s : State) (i : Instr) (f : SFmt) (d : SReg) (r : Val × Word) : Prop :=
  let p := roundTo (SFmt.fmt f) s.thr.opts.rnd s.thr.opts.sat r.1
  Gives s i 4 d.toNat (BitVec.ofNat 64 p.1) (r.2 ||| p.2)

/-- The sign bit and the magnitude of an encoding, +∞'s encoding, the quiet bit, and the canonical NaN (R63, R65). -/
def negative (f : SFmt) (p : Nat) : Prop := 2 ^ (Fmt.width (SFmt.fmt f) - 1) ≤ p
def mag (f : SFmt) (p : Nat) : Nat := p % 2 ^ (Fmt.width (SFmt.fmt f) - 1)
def infinity : SFmt → Nat | .f32 => 0x7F800000 | .f16 => 0x7C00 | .b16 => 0x7F80
def quiet : SFmt → Nat | .f32 => 0x00400000 | .f16 => 0x0200 | .b16 => 0x0040
def isNan (f : SFmt) (p : Nat) : Prop := infinity f < mag f p
def isSignalling (f : SFmt) (p : Nat) : Prop := isNan f p ∧ p / quiet f % 2 = 0

/-- Encodings that are no NaN in the order of their values, with -0 just below +0; and with the two zeros equal. -/
def rank (f : SFmt) (p : Nat) : Int :=
  if 2 ^ (Fmt.width (SFmt.fmt f) - 1) ≤ p then -(mag f p : Int) - 1 else mag f p
def level (f : SFmt) (p : Nat) : Int :=
  if 2 ^ (Fmt.width (SFmt.fmt f) - 1) ≤ p then -(mag f p : Int) else mag f p

end Sys2Proof.Claim

/-- R187: each arithmetic instruction rounds its exact value once; FMA waits for its old sD. The exact values are those of
the model's own exact arithmetic. -/
def Sys2Proof.Claim.FloatResults : Prop :=
  ∀ (f : SFmt) (d a b : SReg) (s : State), Claim.Ready s [a.toNat, b.toNat] [d.toNat] →
    let x := Claim.real f (s.thr.rd a.toNat)
    let y := Claim.real f (s.thr.rd b.toNat)
    let z := Claim.real f (s.thr.rd d.toNat)
    let m := s.thr.opts.rnd
    Claim.Rounds s (.fadd f d a b) f d (addVal m x y) ∧
    Claim.Rounds s (.fsub f d a b) f d (addVal m x y.negate) ∧
    Claim.Rounds s (.fmul f d a b) f d (mulVal x y) ∧
    (s.readsAtomDst [d.toNat] = false → Claim.Rounds s (.fma f d a b) f d (fmaVal m x y z)) ∧
    Claim.Rounds s (.fdiv f d a b) f d (divVal x y) ∧
    Claim.Rounds s (.fsqrt f d a) f d (sqrtVal x)

/-- R188: FMIN, FMAX and FCMP on encodings, with the NaN rules; they capture no flags. -/
def Sys2Proof.Claim.FloatOrder : Prop :=
  ∀ (f : SFmt) (d a b : SReg) (s : State), Claim.Ready s [a.toNat, b.toNat] [d.toNat] → s.thr.pfx = none →
    let p := Claim.low f (s.thr.rd a.toNat)
    let q := Claim.low f (s.thr.rd b.toNat)
    let gives (i : Instr) (v : Nat) := Claim.Gives s i 4 d.toNat (BitVec.ofNat 64 v) 0
    let both (v w : Nat) := gives (.fmin f d a b) v ∧ gives (.fmax f d a b) w
    let nan := Claim.infinity f + Claim.quiet f
    let isNan := Claim.isNan f
    let isSig := Claim.isSignalling f
    ((isSig p ∨ isSig q) → both nan nan) ∧
    (¬isSig p → ¬isSig q → isNan p → ¬isNan q → both q q) ∧
    (¬isSig p → ¬isSig q → ¬isNan p → isNan q → both p p) ∧
    (¬isSig p → ¬isSig q → isNan p → isNan q → both nan nan) ∧
    (¬isNan p → ¬isNan q → Claim.rank f p ≤ Claim.rank f q → both p q) ∧
    (¬isNan p → ¬isNan q → Claim.rank f q ≤ Claim.rank f p → both q p) ∧
    ((isNan p ∨ isNan q) → gives (.fcmp .eq f d a b) 0 ∧ gives (.fcmp .lt f d a b) 0 ∧ gives (.fcmp .le f d a b) 0 ∧
      gives (.fcmp .un f d a b) 1) ∧
    (¬isNan p → ¬isNan q →
      gives (.fcmp .eq f d a b) (if Claim.level f p = Claim.level f q then 1 else 0) ∧
      gives (.fcmp .lt f d a b) (if Claim.level f p < Claim.level f q then 1 else 0) ∧
      gives (.fcmp .le f d a b) (if Claim.level f p ≤ Claim.level f q then 1 else 0) ∧
      gives (.fcmp .un f d a b) 0)

/-- R187, R188: the scalar floating-point arithmetic, minimum, maximum and comparison. Completes: fadd, fsub, fmul, fma, fdiv,
fsqrt, fmin, fmax, fcmp. -/
def Obligations.FloatResults : Prop := Sys2Proof.Claim.FloatResults ∧ Sys2Proof.Claim.FloatOrder

/-- R189: a conversion writes the model's conversion of its source's low bits, an I32 result sign-extended and every other zero-
extended; and the five cases of the rule's table, with no prefix or the prefix they name. Completes: fcvt. -/
def Obligations.ConversionResults : Prop :=
  (∀ (k : CvtKind) (d a : SReg) (s : State), Claim.Ready s [a.toNat] [d.toNat] →
    let r := convert (CvtKind.fmts k).1 (CvtKind.fmts k).2 s.thr.opts.rnd s.thr.opts.sat (s.thr.rd a.toNat).toNat
    Claim.Gives s (.fcvt k d a) 4 d.toNat
      (if k = .f32I32 then (BitVec.ofNat 32 r.1).signExtend 64 else BitVec.ofNat 64 r.1) r.2) ∧
  (∀ (d a : SReg) (s : State), Claim.Ready s [a.toNat] [d.toNat] → s.thr.opts.sat = false →
    let x : Word := (s.thr.rd a.toNat).setWidth 32
    let gives (v : DWord) (fl : Word) := Claim.Gives s (.fcvt .f32I32 d a) 4 d.toNat v fl
    (x = 0x40200000 → s.thr.opts.rnd = .rne → gives 2 64) ∧
    (x = 0x40200000 → s.thr.opts.rnd = .rna → gives 3 64) ∧
    (x = 0xC0200000 → s.thr.opts.rnd = .rup → gives 0xFFFFFFFFFFFFFFFE 64) ∧
    (x = 0x4F32D05E → s.thr.opts.rnd = .rne → gives 0x7FFFFFFF 4) ∧
    (x = 0x7FC00000 → s.thr.opts.rnd = .rne → gives 0 4))

/-- R68, R69, R71: a finite encoding of every floating-point format rounds to itself in every mode, saturating or not, and
raises no flag. -/
def Obligations.EncodingsRoundToThemselves : Prop :=
  ∀ (f : Fmt) (m : Rnd) (sat : Bool) (p : Nat), Fmt.isFloat f = true → p < 2 ^ Fmt.width f →
    p % 2 ^ (Fmt.width f - 1) ≤ maxEnc f → roundTo f m sat (toVal f p) = (p, 0)

/-- R190, R156, R158: control transfer. A conditional branch goes to its target or to the instruction after it; a target register
whose low three bits are not zero is BRANCH_ALIGN, and pcs is unchanged. Completes: nop, br, brc, brm, call, callr, ret. -/
def Obligations.ControlTransfers : Prop :=
  ∀ (s : State), s.cur ≠ .none →
    let at_ := s.thr.wordAt
    let unit := at_ &&& 0xFFFFFFFFFFFFFFF8
    let goes (i : Instr) (pc : DWord) := ∃ t, exec i s = .next t ∧ Claim.Wrote s t 0 0 0 pc
    let calls (i : Instr) (pc : DWord) := ∃ t, exec i s = .next t ∧ Claim.Wrote s t 63 (unit + 8) 0 pc
    goes .nop (at_ + 4) ∧
    (∀ off : BitVec 22, goes (.br off) (unit + 8 * off.signExtend 64)) ∧
    (∀ (a : SReg) (off : Word), Claim.Ready s [a.toNat] [] →
      let v := (s.thr.rd a.toNat).toInt
      let dest := unit + 8 * off.signExtend 64
      goes (.brc .eq a off) (if v = 0 then dest else at_ + 8) ∧
      goes (.brc .ne a off) (if v ≠ 0 then dest else at_ + 8) ∧
      goes (.brc .lt a off) (if v < 0 then dest else at_ + 8) ∧
      goes (.brc .ge a off) (if 0 ≤ v then dest else at_ + 8) ∧
      goes (.brc .gt a off) (if 0 < v then dest else at_ + 8) ∧
      goes (.brc .le a off) (if v ≤ 0 then dest else at_ + 8)) ∧
    (∀ (a : MaskOp) (off : Word), Claim.Ready s (MaskOp.sreg a) [] →
      let m := s.readMask a &&& s.thr.em
      let dest := unit + 8 * off.signExtend 64
      goes (.brm .none a off) (if m = 0 then dest else at_ + 8) ∧
      goes (.brm .any a off) (if m ≠ 0 then dest else at_ + 8) ∧
      goes (.brm .all a off) (if m = s.thr.em then dest else at_ + 8) ∧
      goes (.brm .nall a off) (if m ≠ s.thr.em then dest else at_ + 8)) ∧
    (∀ off : BitVec 22, Claim.Ready s [] [63] → calls (.call off) (unit + 8 * off.signExtend 64)) ∧
    (∀ a : SReg, Claim.Ready s [a.toNat] [63] →
      ((s.thr.rd a.toNat).toNat % 8 = 0 → calls (.callr a) (s.thr.rd a.toNat)) ∧
      ((s.thr.rd a.toNat).toNat % 8 ≠ 0 → exec (.callr a) s = .next (s.raise .branchAlign {}))) ∧
    (Claim.Ready s [63] [] →
      ((s.thr.rd 63).toNat % 8 = 0 → goes .ret (s.thr.rd 63)) ∧
      ((s.thr.rd 63).toNat % 8 ≠ 0 → exec .ret s = .next (s.raise .branchAlign {})))

namespace Sys2Proof.Claim

/-- `t` is `s` after `v` has been written to mask operand `d` and the instruction passed: the low bits of a scalar register,
a predicate (p0 and s0 discard the write), or em, where the exited lanes stay clear (R17, R157). -/
structure Masked (s t : State) (d : MaskOp) (v : Word) : Prop where
  only : OnlyThread s t
  regs : ∀ n, t.thr.rd n = match d with
    | .s m => if n = m.toNat ∧ n ≠ 0 then v.setWidth 64 else s.thr.rd n
    | _ => s.thr.rd n
  preds : ∀ n, t.thr.pred n = match d with
    | .p m => if n = m.toNat ∧ n ≠ 0 then v else s.thr.pred n
    | _ => s.thr.pred n
  em : t.thr.em = match d with
    | .em => v &&& ~~~(s.readMask .xm)
    | _ => s.thr.em
  pcs : t.thr.pcs = s.thr.wordAt + 4
  flags : flagsIn t = flagsIn s ∧ t.thr.flags = s.thr.flags
  mem : ∀ a, t.rdByte a = s.rdByte a

end Sys2Proof.Claim

/-- R193, R157: the mask instructions, with every mask operand. (MCNT's destination is s0-s31.) -/
def Sys2Proof.Claim.MaskResults : Prop :=
  ∀ (d a b : MaskOp) (n : BitVec 5) (s : State),
    Claim.Ready s (MaskOp.sreg a ++ MaskOp.sreg b) (MaskOp.sreg d ++ [n.toNat]) →
    let x := s.readMask a
    let y := s.readMask b
    let gives (i : Instr) (v : Word) := ∃ t, exec i s = .next t ∧ Claim.Masked s t d v
    gives (.mmov d a) x ∧ gives (.mand d a b) (x &&& y) ∧ gives (.mor d a b) (x ||| y) ∧ gives (.mxor d a b) (x ^^^ y) ∧
    gives (.mandn d a b) (x &&& ~~~y) ∧
    Claim.Gives s (.mcnt n a) 4 n.toNat (BitVec.ofNat 64 ((List.range 32).countP fun k => x.getLsbD k)) 0

/-- R194: JOIN waits, with nothing else changed, while an earlier lane load has not its value; then em := a under R17. -/
def Sys2Proof.Claim.JoinResults : Prop :=
  ∀ (a : MaskOp) (s : State), Claim.Ready s (MaskOp.sreg a) [] →
    ((∃ g, s.cur = .group g ∧ ∃ p ∈ (s.group g).pend, p.reason = 16 ∧ p.vdst ≠ []) → exec (.join a) s = .next (s.waitFor 20)) ∧
    ((∀ g, s.cur = .group g → ∀ p ∈ (s.group g).pend, p.reason = 16 → p.vdst = []) →
      ∃ t, exec (.join a) s = .next t ∧ Claim.Masked s t .em (s.readMask a))

/-- R193, R194: the mask instructions and JOIN. Completes: mmov, mand, mor, mxor, mandn, mcnt, join. -/
def Obligations.MaskResults : Prop := Sys2Proof.Claim.MaskResults ∧ Sys2Proof.Claim.JoinResults

/-- R159-R161, R163: a prefix at an 8-aligned address that is not its section's last word is held for an instruction marked Y, or
marked I with RNE; before an instruction marked N it is an orphan. Another mode before one marked I is reserved, wherever the
prefix stands: that check is the prefix's own and comes first. In every other place the prefix is an orphan. Completes: pfx. -/
def Obligations.PrefixHeldOrRefused : Prop :=
  ∀ (cap sat : Bool) (rnd : Rnd) (s : State), s.cur ≠ .none →
    let exc (c : Cause) := exec (.pfx cap sat rnd) s = .next (s.raise c {})
    let astray := s.thr.pfx.isSome ∨ s.thr.pcs.toNat % 8 ≥ 4
    (s.lastWord s.thr.pcs = true ∨ astray ∧ rnd = .rne → exc .orphanPrefix) ∧
    (∀ w, s.lastWord s.thr.pcs = false → s.codeWord (s.thr.pcs + 4) = .ok w →
      (pfxClassOf w = .n → exc .orphanPrefix) ∧
      (pfxClassOf w = .i → rnd ≠ .rne → exc .encReserved) ∧
      (astray → pfxClassOf w = .y → exc .orphanPrefix) ∧
      (¬astray → (pfxClassOf w = .y ∨ pfxClassOf w = .i ∧ rnd = .rne) →
        ∃ t, exec (.pfx cap sat rnd) s = .next t ∧ Claim.OnlyThread s t ∧ t.thr = { s.thr with pfx := some ⟨cap, sat, rnd⟩ }))

namespace Sys2Proof.Claim

/-- Group `g` has taken trap `c` with details `i` and is parked where it stood: a record of the cause, the lanes and the
address goes to its context, and its region, its registers, every other group and all of memory are as they were. -/
structure Parked (s t : State) (g : Nat) (c : Cause) (i : TrapInfo) (r : Resume) : Prop where
  parked : (t.group g).sch.parked = true ∧ (t.group g).sch.cause = some c ∧ (t.group g).sch.resume = r
  flm : (t.group g).flm = i.flm
  thread : (t.group g).thr = { (s.group g).thr with pfx := none }
  region : (t.group g).reg = (s.group g).reg
  held : (t.group g).f = (s.group g).f ∧ (t.group g).tl = (s.group g).tl ∧ (t.group g).lanes = (s.group g).lanes ∧
    (t.group g).pend = (s.group g).pend ∧ (t.group g).anvil = (s.group g).anvil ∧ (t.group g).regen = (s.group g).regen
  record : ∃ x : FaultRec, t.faults = s.faults ++ [x] ∧ x.cause = c ∧ x.kind = c.kind ∧ x.flm = i.flm ∧ x.addr = i.addr ∧
    x.aux32 = i.aux ∧ x.pc = i.pc.getD (s.pcOf g) ∧ x.launch = (s.recOf g).id ∧ x.group = (s.group g).gidx

end Sys2Proof.Claim

/-- R179, R361, R214: a trap that is a program error parks the group at its reporting point, where it resumes; one that is
requested (TRAP) resumes after it. Neither discards the region, and nothing else of the machine changes. -/
def Sys2Proof.Claim.TrapsParkTheGroup : Prop :=
  (∀ (s : State) (g : Nat) (c : Cause) (i : TrapInfo), s.cur = .group g → c.kind = 1 →
    Claim.Parked s (s.raise c i) g c i .here ∧ (s.raise c i) = { s with groups := (s.raise c i).groups, faults := (s.raise c i).faults } ∧
    ∀ h, h ≠ g → (s.raise c i).group h = s.group h) ∧
  (∀ (s : State) (g : Nat) (code : BitVec 10), s.cur = .group g →
    ∃ t, exec (.trap code) s = .next t ∧ Claim.Parked s t g .userTrap { aux := code.setWidth 32 } .after ∧
      t = { s with groups := t.groups, faults := t.faults } ∧ ∀ h, h ≠ g → t.group h = s.group h)

/-- R214, R384: BRK parks its group, requested, and stops the team: every other group of it that has not itself executed BRK is
halted as the cycle ends, and no other group is. (That the others halt no sooner, so that two of them may execute BRK in one cycle,
is how the model reads R384's 'in the same cycle'.) -/
def Sys2Proof.Claim.BreakStopsTheTeam : Prop :=
  (∀ (s : State) (g : Nat) (code : BitVec 10), s.cur = .group g →
    let tm := (s.group g).team
    ∃ t, exec (.brk code) s = .next t ∧ Claim.Parked s t g .break_ { aux := code.setWidth 32 } .after ∧
      t = { s with groups := t.groups, teams := t.teams, faults := t.faults } ∧
      (t.team tm).stop = some ((s.team tm).stop.getD [] ++ [g]) ∧ (∀ u, u ≠ tm → t.team u = s.team u) ∧
      ∀ h, h ≠ g → t.group h = s.group h) ∧
  (∀ (s : State) (tm h : Nat) (bs : List Nat), (s.team tm).stop = some bs →
    (s.haltTeam tm).group h = if h ∈ (s.members tm).map Prod.snd ∧ h ∉ bs then Group.halt (s.group h) else s.group h) ∧
  (∀ (s : State) (d tm h : Nat) (bs : List Nat), (Tab.look s.teams tm).isSome → dieOf (s.team tm).core = d → (s.team tm).stop = some bs →
    h ∈ (s.members tm).map Prod.snd → h ∉ bs → ((s.tick d).group h).sch.halted = true)

/-- R179, R214, R361, R384: what a trap that is no page fault, TRAP and BRK do. Completes: trap, brk. -/
def Obligations.TrapsParkTheGroup : Prop := Sys2Proof.Claim.TrapsParkTheGroup ∧ Sys2Proof.Claim.BreakStopsTheTeam

/-- R32, R37, R361: a serviceable trap discards the open region: the group stands at its re-entry point with nothing held,
parked, and its fault counter has advanced; a record goes to its context, which at the eighth such discard in a row is
REGION_LIVELOCK. -/
def Obligations.ServiceableTrapDiscards : Prop :=
  ∀ (s : State) (g : Nat) (c : Cause) (i : TrapInfo), s.cur = .group g → c.kind = 0 → (s.group g).reg.opened = true →
    let x := s.group g
    let t := s.raise c i
    let y := t.group g
    y.thr.pcs = x.reg.entry ∧ y.reg.held = [] ∧ y.reg.pushes = [] ∧ y.reg.atom = false ∧ y.blk = none ∧ y.tl = x.reg.ckTiles ∧
    y.fault = x.fault + 1 ∧ y.soft = x.soft ∧ y.sch.parked = true ∧ y.sch.resume = .region ∧ y.flm = i.flm ∧
    (∃ r : FaultRec, t.faults = s.faults ++ [r] ∧ r.addr = i.addr ∧
      r.cause = if 8 ≤ x.fault + 1 then .regionLivelock else c) ∧
    ∀ a, t.rdByte a = s.rdByte a

namespace Sys2Proof.Claim

/-- The system instructions (R175). -/
def system : Instr → Bool
  | .sysrd _ _ | .syswr _ _ | .eret | .l1inv _ _ | .park _ _ | .unpark _ _ | .halt _ _ | .resume _ _ | .ctxsv _ _ _
  | .ctxld _ _ _ | .preempt _ _ _ | .semacq _ _ _ | .semrel _ _ | .svc _ | .tlbiv _ _ | .tlbia _ _ => true
  | _ => false

/-- An endpoint's event ring `y` is `x` with one more record, written or held, and nothing lost (R414). -/
def Told (x y : EvRing) (r : EventRec) : Prop :=
  y.head = x.head ∧ (y.recs = x.recs ++ [r] ∧ y.held = x.held ∨ y.recs = x.recs ∧ y.held = x.held ++ [r])

/-- A service thread enters its handler (R330): epc, ecause and einfo; PIE := IE, IE := 0, PPL := PL, PL := HOST, every other
bit of sstat kept; pcs := svec. -/
structure Entered (v w : Svc) (epc ecause einfo : DWord) : Prop where
  saved : w.epc = epc ∧ w.ecause = ecause ∧ w.einfo = einfo
  thread : w.thr = { v.thr with pcs := v.svec, pfx := none }
  status : ∀ b, w.sstat.getLsbD b = match b with
    | 0 => false
    | 1 => v.sstat.getLsbD 0
    | 4 => true
    | 5 => v.sstat.getLsbD 4
    | _ => v.sstat.getLsbD b
  kept : w.svec = v.svec ∧ w.escr = v.escr ∧ w.mon = v.mon ∧ w.stopped = v.stopped ∧ w.halted = v.halted

end Sys2Proof.Claim

/-- R330: a service thread enters its handler for a trap with IE = 1, for SVC (whatever IE holds: the model's reading), and for its
oldest pending event with IE = 1; a trap with IE = 0 stops the thread, and a HARD_ERROR event that names it goes to both
endpoints. Completes: svc, handlerEntry. -/
def Obligations.HandlerEntries : Prop :=
  (∀ (s : State) (k : Nat) (c : Cause) (i : TrapInfo), s.cur = .svc k → (s.svc k).sstat.getLsbD 0 = true →
    ∃ w, s.raise c i = s.setSvc k w ∧ Claim.Entered (s.svc k) w (s.svc k).thr.pcs (BitVec.ofNat 64 c.code) i.addr ∧
      w.evs = (s.svc k).evs) ∧
  (∀ (s : State) (k : Nat) (c : Cause) (i : TrapInfo), s.cur = .svc k → (s.svc k).sstat.getLsbD 0 = false →
    let t := s.raise c i
    (t.svc k).stopped = true ∧ (t.svc k).epc = (s.svc k).epc ∧ (t.svc k).ecause = (s.svc k).ecause ∧
    ∃ r : EventRec, Claim.Told s.ctl.evA t.ctl.evA r ∧ Claim.Told s.ctl.evB t.ctl.evB r ∧ r.ty = 1 ∧ r.source = sourceOf 4 k) ∧
  (∀ (s : State) (k : Nat) (code : BitVec 10), s.cur = .svc k →
    ∃ w, exec (.svc code) s = .next (s.setSvc k w) ∧
      Claim.Entered (s.svc k) w ((s.svc k).thr.pcs + 4) (BitVec.ofNat 64 (code.toNat * 2 ^ 16)) 0 ∧ w.evs = (s.svc k).evs) ∧
  (∀ (s : State) (k : Nat) (a : DWord) (rest : List DWord), (s.svc k).evs = a :: rest → (s.svc k).sstat.getLsbD 0 = true →
    (s.svc k).stopped = false → (s.svc k).halted = false →
    ∃ w, exec (.handlerEntry k) s = .next (s.setSvc k w) ∧
      Claim.Entered (s.svc k) w (s.svc k).thr.pcs (BitVec.ofNat 64 (2 ^ 26)) a ∧ w.evs = rest) ∧
  (∀ (s : State) (k : Nat), (s.svc k).sstat.getLsbD 0 = false → exec (.handlerEntry k) s = .next s)

/-- R331: ERET at HOST sets pcs := epc, IE := PIE and PL := PPL, and keeps every other bit and register; epc holds any multiple of 4
that is written to it. Completes: eret. -/
def Obligations.EretReturns : Prop :=
  (∀ (s : State) (k : Nat), s.cur = .svc k → (s.svc k).sstat.getLsbD 4 = true →
    ∃ w, exec .eret s = .next (s.setSvc k w) ∧ w.thr = { (s.svc k).thr with pcs := (s.svc k).epc, pfx := none } ∧
      (∀ b, w.sstat.getLsbD b = match b with
        | 0 => (s.svc k).sstat.getLsbD 1
        | 4 => (s.svc k).sstat.getLsbD 5
        | _ => (s.svc k).sstat.getLsbD b) ∧
      w.epc = (s.svc k).epc ∧ w.ecause = (s.svc k).ecause ∧ w.einfo = (s.svc k).einfo ∧ w.svec = (s.svc k).svec ∧
      w.escr = (s.svc k).escr ∧ w.evs = (s.svc k).evs) ∧
  (∀ (v : Svc) (x : DWord), x.toNat % 4 = 0 → (v.sysWrite .epc x).epc = x)

/-- R175, R327, R329, R328: a group raises PRIVILEGED at every system instruction; a service thread at PART raises it at ERET
and at a SYSWR to svec, and raises SREG_READONLY at a SYSWR to a read-only register; and it raises ENC_RESERVED at each
instruction that needs a team or a lane section. -/
def Obligations.PrivilegeIsChecked : Prop :=
  (∀ (s : State) (g : Nat) (i : Instr), s.cur = .group g → Claim.system i = true → exec i s = .next (s.raise .privileged {})) ∧
  (∀ (s : State) (k : Nat), s.cur = .svc k → (s.svc k).sstat.getLsbD 4 = false →
    exec .eret s = .next (s.raise .privileged {}) ∧
    ∀ a : SReg, Claim.Ready s [a.toNat] [] → exec (.syswr .svec a) s = .next (s.raise .privileged {})) ∧
  (∀ (s : State) (k : Nat) (a : SReg), s.cur = .svc k → Claim.Ready s [a.toNat] [] →
    exec (.syswr .sthread a) s = .next (s.raise .sregReadonly {}) ∧ exec (.syswr .evpend a) s = .next (s.raise .sregReadonly {}) ∧
    exec (.syswr .semstate a) s = .next (s.raise .sregReadonly {})) ∧
  (∀ (s : State) (k : Nat) (d a : SReg) (l : BitVec 3) (n : BitVec 4) (b : BitVec 10) (q : BitVec 3) (w : Word) (e : Bool)
    (c : LrunCount), s.cur = .svc k → Claim.Ready s [] [d.toNat] →
    let off (i : Instr) := exec i s = .next (s.raise .encReserved {})
    off (.lrun e c w) ∧ off (.region w) ∧ off (.bara l n) ∧ off (.barw d l n) ∧ off (.bar d l n) ∧ off (.ringp q) ∧
    off (.ringg q) ∧ off (.qcfg q a w) ∧ off (.stcfg q a) ∧ off (.sgrow b) ∧ off (.sshrink b))

namespace Sys2Proof.Claim

/-- A system register before and after a write of `x` at HOST (`host`) or at PART (R329). -/
structure SysWritten (v w : Svc) (n : SysReg) (host : Bool) (x : DWord) : Prop where
  status : ∀ b, w.sstat.getLsbD b =
    if n = .sstat ∧ (b = 8 ∨ host = true ∧ (b < 2 ∨ b = 5 ∨ 32 ≤ b ∧ b < 48)) then x.getLsbD b else v.sstat.getLsbD b
  epc : w.epc = if n = .epc then x &&& 0xFFFFFFFFFFFFFFFC else v.epc
  ecause : w.ecause = if n = .ecause then x &&& 0x7FFFFFF else v.ecause
  einfo : w.einfo = if n = .einfo then x else v.einfo
  svec : w.svec = if n = .svec then x &&& 0xFFFFFFFFFFFFFFF8 else v.svec
  escr : w.escr = if n = .escr then x else v.escr
  thread : w.thr = v.thr.next 4
  kept : w.evs = v.evs ∧ w.stopped = v.stopped ∧ w.halted = v.halted ∧ w.mon = v.mon

end Sys2Proof.Claim

/-- R329, R327: what SYSRD reads and SYSWR writes. Reserved bits read as zero, svec ignores bits [2:0]; at PART a write of sstat
changes EP alone. (That epc ignores bits [1:0], and that the RW/H fields of sstat are left as they are at PART, are the model's
readings.) Completes: sysrd, syswr. -/
def Obligations.SystemRegisters : Prop :=
  (∀ (s : State) (k : Nat) (d : SReg), s.cur = .svc k → Claim.Ready s [] [d.toNat] →
    let gives (n : SysReg) (v : DWord) := Claim.Gives s (.sysrd d n) 4 d.toNat v 0
    let v := s.svc k
    gives .sstat v.sstat ∧ gives .epc v.epc ∧ gives .ecause v.ecause ∧ gives .einfo v.einfo ∧ gives .svec v.svec ∧
    gives .escr v.escr ∧ gives .sthread (BitVec.ofNat 64 (k % 32)) ∧ gives .evpend (BitVec.ofNat 64 (v.evs.length % 2 ^ 32)) ∧
    (∃ x, gives .semstate x ∧ ∀ j, j < 8 →
      x.extractLsb' (8 * j) 8 = match Tab.look s.sems j with
        | some m => if m.holder then 3 else 1
        | none => (0 : Byte))) ∧
  (∀ (s : State) (k : Nat) (a : SReg) (n : SysReg), s.cur = .svc k → Claim.Ready s [a.toNat] [] →
    n ∈ [SysReg.sstat, .epc, .ecause, .einfo, .svec, .escr] →
    ((s.svc k).sstat.getLsbD 4 = true ∨ n ≠ .svec) →
    ∃ w, exec (.syswr n a) s = .next (s.setSvc k w) ∧
      Claim.SysWritten (s.svc k) w n ((s.svc k).sstat.getLsbD 4) (s.thr.rd a.toNat))

namespace Sys2Proof.Claim

/-- A group of `s` runs, and its open region has not issued its global atomic (R30). -/
structure MayAccess (s : State) (g : Nat) : Prop where
  runs : s.cur = .group g
  atom : (s.group g).reg.atom = false

/-- The group at hand has passed an instruction of `len` bytes and done `f` to itself: its scalar registers, but for `f`'s, its
mode and its committed state are as they were, and so is everything but the group. -/
def Passed (s t : State) (g : Nat) (len : DWord) (f : Group → Group) : Prop :=
  t = s.modGroup g fun x => f { x with thr := x.thr.next len }

/-- A loaded number of `n` bytes, sign- or zero-extended to 64 bits (R199). -/
def extended (n : Nat) (sx : Bool) (v : Nat) : DWord :=
  if sx then (BitVec.ofNat (8 * n) v).signExtend 64 else BitVec.ofNat 64 v

/-- Register `d` of group `g` is to receive `v`: the value is on its way and the register is empty until it lands (R44, R53);
every other register, and all of memory, are as they were. -/
structure Receives (s t : State) (g d : Nat) (v : DWord) (len : DWord) : Prop where
  pending : ∃ p : Pending, p.sdst = some (d, v) ∧ (t.group g).pend = (s.group g).pend ++ [p]
  empty : t.thr.full d = false
  regs : ∀ n, t.thr.rd n = s.thr.rd n
  full : ∀ n, n < 64 → n ≠ d → t.thr.full n = s.thr.full n
  pcs : t.thr.pcs = s.thr.wordAt + len
  modes : t.thr.em = s.thr.em ∧ t.thr.preds = s.thr.preds ∧ t.thr.flags = s.thr.flags
  mem : ∀ a, t.rdByte a = s.rdByte a
  windows : t.teams = s.teams

/-- What an atomic writes over `old`, on w-bit patterns (R200). -/
def atomic (op : AtomOp) (w old c swap : Nat) : Nat :=
  match op with
  | .add => (old + c) % 2 ^ w
  | .min => if (BitVec.ofNat w c).toInt < (BitVec.ofNat w old).toInt then c else old
  | .max => if (BitVec.ofNat w old).toInt < (BitVec.ofNat w c).toInt then c else old
  | .umin => if c < old then c else old
  | .umax => if old < c then c else old
  | .and => old &&& c
  | .or => old ||| c
  | .xor => old ^^^ c
  | .xchg => c
  | .cas => if old = c then swap else old

/-- Memory of `t` holds the `n` bytes of `v` from `pa` on, lowest first, and every other byte is as in `s`. -/
def Stored (s t : State) (pa n v : Nat) : Prop :=
  (∀ j, j < n → t.rdByte (pa + j) = BitVec.ofNat 8 (v / 2 ^ (8 * j))) ∧ ∀ a, a < pa ∨ pa + n ≤ a → t.rdByte a = s.rdByte a

end Sys2Proof.Claim

/-- R198, R199, R44, R328: LD. A service thread's register holds the extended value when the instruction has executed; a group's is
on its way, read over the L1 copy or memory with the group's own stores, or from the team's window with .SP; s0 stays 0.
Completes: ld. -/
def Obligations.LoadResults : Prop :=
  ∀ (sz : MemSize) (sx : Bool) (d a : SReg) (off : Word) (s : State), Claim.Ready s [a.toNat] [d.toNat] →
    let n := sz.bytes
    let addr := s.thr.rd a.toNat + off.signExtend 64
    (∀ k pa, s.cur = .svc k → s.svcAddr k (accLs false) n false true addr = .ok pa →
      Claim.Gives s (.ld sz sx false d a off) 8 d.toNat (Claim.extended n sx (s.rdLe pa n)) 0) ∧
    (∀ g pa e, Claim.MayAccess s g → d ≠ 0 → s.globalCheck g (accLs false) n false [(32, addr)] = .ok [(32, pa, e)] →
      s.loadWaits g n [(32, pa, e)] = false →
      ∃ t, exec (.ld sz sx false d a off) s = .next t ∧
        Claim.Receives s t g d.toNat (Claim.extended n sx (ofLeBytes ((s.l1Sync g).loadG g addr.toNat pa n 0))) 8) ∧
    (∀ g o, Claim.MayAccess s g → d ≠ 0 → s.spadCheck g n [(32, (addr.toNat : Int))] = .ok [(32, o)] →
      ∃ t, exec (.ld sz sx true d a off) s = .next t ∧
        Claim.Receives s t g d.toNat (Claim.extended n sx (ofLeBytes (s.loadS g o n 0))) 8) ∧
    (∀ g sp, Claim.MayAccess s g → d = 0 →
      ((sp = false ∧ ∃ pa e, s.globalCheck g (accLs false) n false [(32, addr)] = .ok [(32, pa, e)] ∧ s.loadWaits g n [(32, pa, e)] = false) ∨
        sp = true ∧ ∃ o, s.spadCheck g n [(32, (addr.toNat : Int))] = .ok [(32, o)]) →
      ∃ t, exec (.ld sz sx sp d a off) s = .next t ∧ t.thr = s.thr.next 8 ∧ t.mem = s.mem ∧ t.teams = s.teams)

/-- R199, R29, R328: ST. A service thread's bytes are in memory, at the address that its translation gives, and no other byte has
changed; a group's store waits in its region's buffer and no byte of memory or of a window has changed. Completes: st. -/
def Obligations.StoreResults : Prop :=
  ∀ (sz : MemSize) (d a : SReg) (off : Word) (s : State), Claim.Ready s [a.toNat, d.toNat] [] →
    let n := sz.bytes
    let addr := s.thr.rd a.toNat + off.signExtend 64
    let v := (s.thr.rd d.toNat).toNat
    (∀ k pa, s.cur = .svc k → s.svcAddr k (accLs true) n false false addr = .ok pa →
      ∃ t, exec (.st sz false d a off) s = .next t ∧ Claim.Stored s t pa n v ∧ t.thr = s.thr.next 8) ∧
    (∀ g pa e, Claim.MayAccess s g → s.globalCheck g (accLs true) n false [(32, addr)] = .ok [(32, pa, e)] →
      storeCount (s.group g).reg.held < 64 →
      ∃ t, exec (.st sz false d a off) s = .next t ∧ Claim.Passed s t g 8 fun x =>
        { x with reg := { x.reg with held := x.reg.held ++ [.store .ls [⟨false, addr, pa, 32, leBytes n v⟩] [] true true (pteSc e)] } }) ∧
    (∀ g o, Claim.MayAccess s g → s.spadCheck g n [(32, (addr.toNat : Int))] = .ok [(32, o)] →
      storeCount (s.group g).reg.held < 64 →
      ∃ t, exec (.st sz true d a off) s = .next t ∧ Claim.Passed s t g 8 fun x =>
        { x with reg := { x.reg with held := x.reg.held ++ [.store .ls [⟨true, addr, 0, 32, leBytes n v⟩] [] true true false] } }) ∧
    (∀ g pa e, Claim.MayAccess s g → s.globalCheck g (accLs true) n false [(32, addr)] = .ok [(32, pa, e)] →
      64 ≤ storeCount (s.group g).reg.held → exec (.st sz false d a off) s = .next (s.raise .storeBufferFull {}))

/-- R200, R30, R92, R328: ATOM. A service thread's performs at once; a group's global one is held for its commit, its
register empty until then; a scratchpad one, which R30 does not bind, performs on the window at issue behind its region's own
stores (log entry 97), and what it overwrote is kept for a discard. With D = s0 the old
value goes nowhere. -/
def Sys2Proof.Claim.AtomicResults : Prop :=
  ∀ (op : AtomOp) (wide : Bool) (d a : SReg) (off : Word) (s : State),
    Claim.Ready s ([a.toNat, d.toNat] ++ if op = .cas then [d.toNat + 1] else []) [] →
    let n := if wide then 8 else 4
    let addr := s.thr.rd a.toNat + off.signExtend 64
    let c := s.thr.rd d.toNat
    let swap := s.thr.rd (d.toNat + 1)
    let new (old : Nat) := Claim.atomic op (8 * n) old (c.toNat % 2 ^ (8 * n)) (swap.toNat % 2 ^ (8 * n))
    (∀ k pa, s.cur = .svc k → s.svcAddr k (accLs true) n false true addr = .ok pa →
      ∃ t, exec (.atom op wide false d a off) s = .next t ∧ Claim.Stored s t pa n (new (s.rdLe pa n)) ∧
        t.thr = (s.thr.wr d.toNat (BitVec.ofNat 64 (s.rdLe pa n))).next 8) ∧
    (∀ g pa e, Claim.MayAccess s g → d ≠ 0 → s.globalCheck g (accLs true) n false [(32, addr)] = .ok [(32, pa, e)] →
      ∃ t r, exec (.atom op wide false d a off) s = .next t ∧ (t.group g).reg.held = (s.group g).reg.held ++ [.atom r] ∧
        r.lanes = [⟨32, addr, pa, c, swap⟩] ∧ r.op = .int op ∧ r.wide = wide ∧ r.sdst = some d.toNat ∧
        (t.group g).reg.atom = true ∧ t.thr.full d.toNat = false ∧ t.thr.pcs = s.thr.wordAt + 8 ∧
        (∀ m, t.thr.rd m = s.thr.rd m) ∧ t.mem = s.mem ∧ t.teams = s.teams) ∧
    (∀ g pa e, Claim.MayAccess s g → d = 0 → s.globalCheck g (accLs true) n false [(32, addr)] = .ok [(32, pa, e)] →
      ∃ t r, exec (.atom op wide false d a off) s = .next t ∧ (t.group g).reg.held = (s.group g).reg.held ++ [.atom r] ∧
        r.lanes = [⟨32, addr, pa, 0, swap⟩] ∧ r.op = .int op ∧ r.wide = wide ∧ t.thr = s.thr.next 8 ∧ t.mem = s.mem ∧ t.teams = s.teams) ∧
    (∀ g o, s.cur = .group g → d ≠ 0 → s.spadCheck g n [(32, (addr.toNat : Int))] = .ok [(32, o)] →
      (∀ b ∈ locksOf o n, (s.lockBit g b).others g = false) → (s.group g).inflight.any ((s.group g).writesWord true o n) = false →
      s.unshown g o n = false →
      let bs := takeBytes (s.team (s.group g).team).spad o n
      let old := ofLeBytes (overlayWrs true o bs ((s.group g).ownWrs false))
      ∃ t, exec (.atom op wide true d a off) s = .next t ∧
        takeBytes (t.team (s.group g).team).spad o n = leBytes n (new old) ∧
        (∀ j, j < o ∨ o + n ≤ j → Tab.get 0 (t.team (s.group g).team).spad j = Tab.get 0 (s.team (s.group g).team).spad j) ∧
        (t.group g).reg.undo = (o, bs) :: (s.group g).reg.undo ∧
        (∃ p : Pending, p.sdst = some (d.toNat, BitVec.ofNat 64 old) ∧ (t.group g).pend = (s.group g).pend ++ [p]) ∧
        t.thr.pcs = s.thr.wordAt + 8 ∧ t.mem = s.mem) ∧
    (∀ g o, s.cur = .group g → s.spadCheck g n [(32, (addr.toNat : Int))] = .ok [(32, o)] →
      (∃ b ∈ locksOf o n, (s.lockBit g b).others g = true) → exec (.atom op wide true d a off) s = .next (s.waitLock g)) ∧
    (∀ g, s.cur = .group g → (s.group g).reg.atom = true → exec (.atom op wide false d a off) s = .next (s.raise .atomicPlacement {}))

/-- R209: SCHUNK. A service thread takes its chunk at once (one team); a group's request is held for its commit, with sD and
s(D + 1) empty until then. -/
def Sys2Proof.Claim.ChunkResults : Prop :=
  (∀ (d a : SReg) (minc : Word) (s : State) (k p q : Nat), s.cur = .svc k → Claim.Ready s [a.toNat] [d.toNat, d.toNat + 1] →
    s.svcAddr k (accLs true) 8 false true (s.thr.rd a.toNat) = .ok p →
    s.svcAddr k (accLs true) 8 false true (s.thr.rd a.toNat + 8) = .ok q →
    let next := s.rdLe p 8
    let rem := s.rdLe q 8 - next
    let c := min rem (max (if minc = 0 then 1 else minc.toNat) (rem / 4))
    ∃ t, exec (.schunk d a minc) s = .next t ∧ Claim.Stored s t p 8 (next + c) ∧
      t.thr = ((s.thr.wr d.toNat (BitVec.ofNat 64 next)).wr (d.toNat + 1) (BitVec.ofNat 64 c)).next 8) ∧
  (∀ (d a : SReg) (minc : Word) (s : State) (g p q : Nat) (e f : DWord), Claim.MayAccess s g →
    Claim.Ready s [a.toNat] [d.toNat, d.toNat + 1] → d.toNat ≠ 0 →
    s.globalCheck g (accLs true) 8 false [(32, s.thr.rd a.toNat)] = .ok [(32, p, e)] →
    s.globalCheck g (accLs true) 8 false [(32, s.thr.rd a.toNat + 8)] = .ok [(32, q, f)] →
    ∃ t r, exec (.schunk d a minc) s = .next t ∧ (t.group g).reg.held = (s.group g).reg.held ++ [.atom r] ∧
      r.op = .schunk minc ∧ r.lanes.map AtLane.pa = [p, q] ∧ t.thr.full d.toNat = false ∧
      (d.toNat + 1 < 64 → t.thr.full (d.toNat + 1) = false) ∧ t.thr.pcs = s.thr.wordAt + 8 ∧ t.mem = s.mem)

/-- R200, R209: ATOM and SCHUNK. Completes: atom, schunk. -/
def Obligations.AtomicResults : Prop := Sys2Proof.Claim.AtomicResults ∧ Sys2Proof.Claim.ChunkResults

/-- R201, R60, R44, R328: SRD of every special register of a group, cyc, cycn and time through a pending value; of a service thread;
and SWR: em at once, flags at the commit, and SREG_READONLY for every other register. Completes: srd, swr. -/
def Obligations.SpecialRegisters : Prop :=
  (∀ (d : SReg) (s : State) (g : Nat), s.cur = .group g → Claim.Ready s [] [d.toNat] →
    let x := s.group g
    let tm := s.team x.team
    let l := s.launch tm.launch
    let gives (n : SpecialReg) (v : DWord) := Claim.Gives s (.srd d n) 4 d.toNat v 0
    let nat (v : Nat) : DWord := BitVec.ofNat 64 v
    gives .teamidx (nat tm.idx) ∧ gives .grpidx (nat x.gidx) ∧ gives .grpcnt (nat l.lr.tgrps) ∧
    gives .coreid (nat (tm.core % 4 + 4 * (tm.core % 72 / 4) + 128 * (tm.core / 72))) ∧
    gives .launchid (nat l.lr.id.toNat) ∧ gives .launchseq (nat tm.launch) ∧
    (∀ k, gives (.crd k) (nat (if tm.stage2 = 4 ∧ 3 ≤ k.toNat then 0 else l.lr.crd tm.idx k.toNat))) ∧ gives .seed l.lr.seed ∧
    gives .drawmode (nat (l.lr.flags.toNat / 16 % 4)) ∧ gives .replayiter (nat ((l.replay.map Prod.snd).getD 0)) ∧
    gives .em (nat x.thr.em.toNat) ∧ gives .flm (nat x.flm.toNat) ∧ gives .xm (nat x.xm.toNat) ∧
    gives .valloc (nat (16 * x.blocks)) ∧ gives .flags (nat x.thr.flags.toNat) ∧
    gives .reentry (nat (x.soft % 4 + 4 * (x.fault % 16))) ∧ gives .regen (nat x.regen.toNat) ∧
    (d ≠ 0 → ∀ n, n ∈ [SpecialReg.cyc, .cycn, .time] → ∃ t, exec (.srd d n) s = .next t ∧
      Claim.Receives s t g d.toNat (nat (match n with
        | .cyc => (s.die (dieOf tm.core)).cyc
        | .cycn => (s.die (dieOf tm.core)).acc / 2 ^ 16
        | _ => (s.die (dieOf tm.core)).time)) 4)) ∧
  (∀ (d : SReg) (s : State) (k : Nat) (n : SpecialReg), s.cur = .svc k → Claim.Ready s [] [d.toNat] →
    Claim.Gives s (.srd d n) 4 d.toNat (match n with
      | .cyc => BitVec.ofNat 64 (s.die 0).cyc
      | .cycn => BitVec.ofNat 64 ((s.die 0).acc / 2 ^ 16)
      | .time => BitVec.ofNat 64 (s.die 0).time
      | .em => s.thr.em.setWidth 64
      | .flags => s.thr.flags.setWidth 64
      | _ => 0) 0) ∧
  (∀ (a : SReg) (s : State), Claim.Ready s [a.toNat] [] →
    let v : Word := (s.thr.rd a.toNat).setWidth 32
    (∃ t, exec (.swr .em a) s = .next t ∧ Claim.Masked s t .em v) ∧
    (∀ g, s.cur = .group g → ∃ t, exec (.swr .flags a) s = .next t ∧ Claim.Passed s t g 4 fun x =>
      { x with reg := { x.reg with fclr := x.reg.fclr ||| v, fset := x.reg.fset &&& ~~~v } }) ∧
    (∀ k, s.cur = .svc k → ∃ t, exec (.swr .flags a) s = .next t ∧ t = s.setSvc k { s.svc k with thr := { s.thr with flags := s.thr.flags &&& ~~~v }.next 4 }) ∧
    (∀ n, n ≠ .em → n ≠ .flags → exec (.swr n a) s = .next (s.raise .sregReadonly {})))

/-- R202, R203, R205, R115: a group's barrier words. BARA holds its arrival for the commit, and waits while the group's earlier
arrival at the barrier waits for its phase (R203); BARW and BAR commit their region and, where the group may leave and the
register that takes LAST is full, write LAST and end the arrival; otherwise the group waits; BAR's arrival is then among what
the commit has handed over. An undeclared level is BARRIER_LEVEL and a poisoned barrier BARRIER_POISONED (R205). Completes:
bara, barw, bar. -/
def Obligations.BarrierWords : Prop :=
  ∀ (d : SReg) (level : BitVec 3) (n : BitVec 4) (s : State) (g : Nat), s.cur = .group g →
    let tm := (s.group g).team
    let k := barKey level.toNat n.toNat
    (s.levelOk tm level.toNat = true → s.mayArrive g k = true → ∃ t, exec (.bara level n) s = .next t ∧ Claim.Passed s t g 4 fun x =>
      { x with reg := { x.reg with held := x.reg.held ++ [.arrive k] } }) ∧
    (s.levelOk tm level.toNat = true → s.mayArrive g k = false → exec (.bara level n) s = .next (s.waitFor 6)) ∧
    (s.levelOk tm level.toNat = false → exec (.bara level n) s = .next (s.raise .barrierLevel {})) ∧
    (s.levelOk tm level.toNat = false →
      exec (.barw d level n) s = .next (s.raise .barrierLevel {}) ∧ exec (.bar d level n) s = .next (s.raise .barrierLevel {})) ∧
    (s.levelOk tm level.toNat = true → s.poisoned tm k = true →
      exec (.barw d level n) s = .next (s.raise .barrierPoisoned {}) ∧
      exec (.bar d level n) s = .next (s.raise .barrierPoisoned {})) ∧
    (s.levelOk tm level.toNat = true → s.poisoned tm k = false →
      ∀ i c, (i, c) ∈ [(Instr.barw d level n, s.commit g), (.bar d level n, (s.hold g (.arrive k)).commit g)] →
      c.barPoison g k = false →
      let x := c.group g
      let last : DWord := if (Tab.look x.arrivals k).isSome ∧ c.isLast g k = true then 1 else 0
      (c.barOver g k = true → (c.group g).thr.full d.toNat = true → ∃ t, exec i s = .next t ∧ (t.group g).thr = (x.thr.wr d.toNat last).next 4 ∧
        Tab.look (t.group g).arrivals k = none ∧ (t.group g).sch.wait = none ∧ t.mem = c.mem ∧ t.teams = c.teams) ∧
      ((c.barOver g k = false ∨ (c.group g).thr.full d.toNat = false) → ∃ t, exec i s = .next t ∧ (t.group g).sch.wait = some (.barrier d.toNat level.toNat n.toNat) ∧
        (t.group g).thr = x.thr ∧ t.mem = c.mem ∧ t.teams = c.teams)) ∧
    ((s.group g).reg.opened = true → Held.arrive k ∈ (((s.hold g (.arrive k)).commit g).group g).inflight)

/-- R112, R113, R206, R207, R328: fences. A group's MFENCE waits until the earlier accesses of its class X that it orders before
later loads have performed: the model's choice is that it waits AT ITS ISSUE, for what earlier commits have handed over, the
TLDs that have their rows to read and the decided result words of its REPLAYs, whatever Y and the scope are (DESIGN CHOICE; log
entry 24; LS.LS at GRP asks nothing of the group's own loads). Then it puts its marker among what the region holds; its EFENCE
commits, and where everything has performed and no error is held it drops the core's L1 copies and passes. A service thread's
accesses are complete, and both only pass. Completes: efence, mfence. -/
def Obligations.Fences : Prop :=
  (∀ (x y : PathClass) (sc : Scope) (s : State) (g : Nat), s.cur = .group g →
    let past := heldOf x (s.group g).inflight = false ∧ (x = .mx → tldAhead (s.group g).anvil = false) ∧
      (x = .rp → ∀ e ∈ s.replays, e.2.g = g → ∀ r ∈ e.2.threads, r.word = [])
    (¬(x = .ls ∧ y = .ls ∧ sc = .grp ∨ past) → exec (.mfence x y sc) s = .next (s.waitFor 31)) ∧
    ((x = .ls ∧ y = .ls ∧ sc = .grp ∨ past) → ∃ t, exec (.mfence x y sc) s = .next t ∧ (t.group g).reg.held = (s.group g).reg.held ++ [.fence x y sc] ∧
      t.thr = s.thr.next 4 ∧ t.mem = s.mem ∧ t.teams = s.teams ∧
      (y = .ls → (x ≠ .ls ∨ sc ≠ .grp ∧ sc ≠ .team) → (t.group g).l1drop = true))) ∧
  (∀ (s : State) (g : Nat), s.cur = .group g →
    let c := (s.commit g).hashCheckpoint g
    c.quiet g = true → (c.group g).impr = none →
    ∃ t, exec .efence s = .next t ∧ (t.group g).thr = (c.group g).thr.next 4 ∧ (t.group g).sch.wait = none ∧
      (t.core (c.coreOf g)).l1 = [] ∧ t.mem = c.mem ∧ t.teams = c.teams) ∧
  (∀ (s : State) (g : Nat), s.cur = .group g →
    let c := (s.commit g).hashCheckpoint g
    c.quiet g = false → ∃ t, exec .efence s = .next t ∧ (t.group g).sch.wait = some .efence ∧ (t.group g).thr = (c.group g).thr) ∧
  (∀ (s : State) (k : Nat) (x y : PathClass) (sc : Scope), s.cur = .svc k →
    (∃ t, exec (.mfence x y sc) s = .next t ∧ Claim.Wrote s t 0 0 0 (s.thr.wordAt + 4)) ∧
    ∃ t, exec .efence s = .next t ∧ Claim.Wrote s t 0 0 0 (s.thr.wordAt + 4))

/-- R99, R208, R114: monitors. ARM watches the N64 at X, already fired where it is at the threshold; WAITM passes, and YIELD goes to
its continuation after its region's commit, when the monitor is not armed or has fired, and disarm it; otherwise the thread
waits. Completes: arm, waitm, yield. -/
def Obligations.Monitors : Prop :=
  (∀ (a b : SReg) (s : State) (k pa : Nat), s.cur = .svc k → Claim.Ready s [a.toNat, b.toNat] [] →
    s.svcAddr k (accLs false) 8 false true (s.thr.rd a.toNat) = .ok pa →
    let m : Monitor := ⟨true, decide ((s.thr.rd b.toNat).toNat ≤ s.rdLe pa 8), false, s.thr.rd a.toNat, pa, s.thr.rd b.toNat⟩
    exec (.arm false a b) s = .next (s.setSvc k { s.svc k with mon := m, thr := s.thr.next 4 })) ∧
  (∀ (a b : SReg) (s : State) (g pa : Nat) (e : DWord), s.cur = .group g → Claim.Ready s [a.toNat, b.toNat] [] →
    s.globalCheck g (accLs false) 8 true [(32, s.thr.rd a.toNat)] = .ok [(32, pa, e)] → s.loadWaits g 8 [(32, pa, e)] = false →
    ∃ t v, exec (.arm false a b) s = .next t ∧ Claim.Passed s t g 4 (fun x =>
      { x with mon := ⟨true, decide ((s.thr.rd b.toNat).toNat ≤ v), false, s.thr.rd a.toNat, pa, s.thr.rd b.toNat⟩ }) ∧
      ((s.group g).inflight = [] → (s.group g).reg.held = [] → v = s.rdLe pa 8)) ∧
  (∀ (a b : SReg) (s : State) (g o : Nat), s.cur = .group g → Claim.Ready s [a.toNat, b.toNat] [] →
    s.spadCheck g 8 [(32, ((s.thr.rd a.toNat).toNat : Int))] = .ok [(32, o)] →
    ∃ t, exec (.arm true a b) s = .next t ∧ Claim.Passed s t g 4 (fun x =>
      { x with mon := ⟨true, decide ((s.thr.rd b.toNat).toNat ≤ ofLeBytes (s.loadS g o 8 0)), true, s.thr.rd a.toNat, 0, s.thr.rd b.toNat⟩ })) ∧
  (∀ (s : State), s.cur ≠ .none →
    ((s.monitor.armed = false ∨ s.monitor.fired = true) → ∃ t, exec .waitm s = .next t ∧ t.monitor.armed = false ∧
      t.thr = s.thr.next 4 ∧ t.mem = s.mem) ∧
    (s.monitor.armed = true → s.monitor.fired = false → exec .waitm s = .next (s.waitMonitor .waitm))) ∧
  (∀ (off : BitVec 22) (s : State), s.cur ≠ .none →
    let c := match s.cur with | .group g => s.commit g | _ => s
    let dest := (c.thr.wordAt &&& 0xFFFFFFFFFFFFFFF8) + 8 * off.signExtend 64
    ((c.monitor.armed = false ∨ c.monitor.fired = true) → ∃ t, exec (.yield off) s = .next t ∧ t.monitor.armed = false ∧
      t.thr = { c.thr with pcs := dest, pfx := none } ∧ t.mem = c.mem) ∧
    (c.monitor.armed = true → c.monitor.fired = false → exec (.yield off) s = .next (c.waitMonitor (.yield dest))))

/-- R22, R210: an accepted RINGP fills the cursor's slot with the current phase and RINGG frees it, and the cursor moves on,
its phase turning at the end of the ring; a ring with no slot to give makes the group wait, after its commit; a group of
another role, or a ring that is not configured, is ROLE_VIOLATION. -/
def Sys2Proof.Claim.StageRings : Prop :=
  ∀ (k : BitVec 3) (s : State) (g : Nat), s.cur = .group g →
    (s.ringOf g k.toNat = none → exec (.ringp k) s = .next (s.raise .roleViolation {}) ∧
      exec (.ringg k) s = .next (s.raise .roleViolation {})) ∧
    (∀ r, s.ringOf g k.toNat = some r →
      (s.roleOf g ≠ r.prod → exec (.ringp k) s = .next (s.raise .roleViolation {})) ∧
      (s.roleOf g ≠ r.cons → exec (.ringg k) s = .next (s.raise .roleViolation {})) ∧
      (let c := s.commit g
        ∀ q, c.ringOf g k.toNat = some q →
        (s.roleOf g = r.prod → c.ringOver g true k.toNat = true → ∃ t u, exec (.ringp k) s = .next t ∧
          t.ringOf g k.toNat = some u ∧ Tab.look u.full q.pcur = some q.pphase ∧
          (q.pcur + 1 < q.slots → u.pcur = q.pcur + 1 ∧ u.pphase = q.pphase) ∧
          (q.slots ≤ q.pcur + 1 → u.pcur = 0 ∧ u.pphase = 1 - q.pphase) ∧ u.ccur = q.ccur ∧ u.cphase = q.cphase ∧
          (t.group g).thr = (c.group g).thr.next 4 ∧ t.mem = c.mem) ∧
        (s.roleOf g = r.cons → c.ringOver g false k.toNat = true → ∃ t u, exec (.ringg k) s = .next t ∧
          t.ringOf g k.toNat = some u ∧ Tab.look q.full q.ccur = some q.cphase ∧ Tab.look u.full q.ccur = none ∧
          (q.ccur + 1 < q.slots → u.ccur = q.ccur + 1 ∧ u.cphase = q.cphase) ∧
          (q.slots ≤ q.ccur + 1 → u.ccur = 0 ∧ u.cphase = 1 - q.cphase) ∧ u.pcur = q.pcur ∧ u.pphase = q.pphase ∧
          (t.group g).thr = (c.group g).thr.next 4 ∧ t.mem = c.mem) ∧
        (s.roleOf g = r.prod → c.ringOver g true k.toNat = false → exec (.ringp k) s = .next (c.park? g (.ring true k.toNat))) ∧
        (s.roleOf g = r.cons → c.ringOver g false k.toNat = false → exec (.ringg k) s = .next (c.park? g (.ring false k.toNat)))))

/-- R211, R212, R213, R46, R59: QCFG and SSHRINK are held for the commit; STCFG writes a full tile's control at once; SGROW has no
effect where the blocks suffice, and otherwise waits with its request in the arbiter, behind those of earlier cycles and, in
its cycle, of lower scheduler and group numbers. -/
def Sys2Proof.Claim.AllocationWords : Prop :=
  ∀ (s : State) (g : Nat), s.cur = .group g →
    (∀ (q : BitVec 3) (a : SReg) (cap : Word), Claim.Ready s [a.toNat] [] →
      let base := (s.thr.rd a.toNat).toNat
      (s.qcfgOk g q.toNat base cap.toNat = true → ∃ t, exec (.qcfg q a cap) s = .next t ∧ Claim.Passed s t g 8 fun x =>
        { x with reg := { x.reg with qcfg := x.reg.qcfg ++ [(q.toNat, base, cap.toNat)] } }) ∧
      ((base % 4 ≠ 0 ∨ 131072 < cap.toNat ∨ 0 < cap.toNat ∧ (s.team (s.group g).team).size < base + 4 * cap.toNat) →
        exec (.qcfg q a cap) s = .next (s.raise .queueConfig {}))) ∧
    (∀ (n : BitVec 3) (a : SReg), Claim.Ready s [a.toNat] [] →
      let v : Word := (s.thr.rd a.toNat).setWidth 32 &&& 0x3FFFF
      (tcBad v = true → exec (.stcfg n a) s = .next (s.raise .tileConfig {})) ∧
      (tcBad v = false → (s.group g).tl.tempty.getLsbD n.toNat = false → ∃ t, exec (.stcfg n a) s = .next t ∧
        Claim.Passed s t g 4 fun x => { x with tl := { x.tl with tc := Tab.set 0 x.tl.tc n.toNat v } })) ∧
    (∀ b : BitVec 10,
      (b.toNat ≤ (s.group g).blocks → ∃ t, exec (.sgrow b) s = .next t ∧ Claim.Passed s t g 4 id) ∧
      ((s.group g).blocks < b.toNat → ∃ t, exec (.sgrow b) s = .next t ∧ (t.group g).sch.wait = some (.sgrow b.toNat) ∧
        t.thr = s.thr ∧ t.mem = s.mem ∧
        let cyc := (s.die (dieOf (s.coreOf g))).cyc
        let ahead (r : RegReq) : Prop := match r with | .sgrow h _ k => cyc = k ∧ (g % 4 < h % 4 ∨ g % 4 = h % 4 ∧ g % 16 < h % 16)
        ∃ pre post, (t.core (s.coreOf g)).arb = pre ++ .sgrow g b.toNat cyc :: post ∧
          pre ++ post = (s.core (s.coreOf g)).arb.filter (fun r => match r with | .sgrow h _ _ => h != g) ∧
          (∀ r ∈ pre, ¬ahead r) ∧ ∀ r ∈ post.head?, ahead r) ∧
      ((s.group g).blocks ≤ b.toNat → ∃ t, exec (.sshrink b) s = .next t ∧ Claim.Passed s t g 4 id) ∧
      (b.toNat < (s.group g).blocks → (s.group g).reg.shrink = none → ∃ t, exec (.sshrink b) s = .next t ∧
        Claim.Passed s t g 4 fun x => { x with reg := { x.reg with shrink := some b.toNat } }))

/-- R210-R213: stage rings, the tile words, and register growth. Completes: ringp, ringg, qcfg, stcfg, sgrow, sshrink. -/
def Obligations.RingsAndAllocations : Prop := Sys2Proof.Claim.StageRings ∧ Sys2Proof.Claim.AllocationWords

/-- R192, R14, R15: LRUN checks its count, then its range, then its pages; where they hold and the role allows the block, the
block runs from lane word k with the scalar registers as they stand, and pcs passes the LRUN. -/
def Sys2Proof.Claim.LaneBlocksStart : Prop :=
  ∀ (e : Bool) (c : LrunCount) (k : Word) (s : State) (g n : Nat), s.cur = .group g →
    (match c with
      | .imm m => n = m.toNat + 1
      | .reg a => Claim.Ready s [a.toNat] [] ∧ n = (s.thr.rd a.toNat).toNat % 2 ^ 32) →
    ((n = 0 ∨ 1024 < n) → exec (.lrun e c k) s = .next (s.raise .lrunCount {})) ∧
    (0 < n → n ≤ 1024 → (s.recOf g).llen < k.toNat + n → exec (.lrun e c k) s = .next (s.raise .laneRange {})) ∧
    (0 < n → n ≤ 1024 → k.toNat + n ≤ (s.recOf g).llen → (∀ p ∈ s.blockPages g k.toNat n, ∃ pa pte, p.2.2 = .ok pa pte) →
      (s.roleOf g ≠ 1 ∨ s.blockCopies g k.toNat n = true) →
      ∃ t, exec (.lrun e c k) s = .next t ∧ Claim.Passed s t g 8 fun x =>
        { x with blk := some ⟨k.toNat, n, e, s.thr.sregs, s.thr.sempty, s.thr.wordAt⟩ })

/-- R195, R196, R49: REGION commits the open region; then, its entry being read (which waits for what a load waits for, R93, R109)
and valid and its registers allocated, the
generation advances and the re-entry point is the REGION word, with nothing held; once the registers are full, which the open
region waits for, w0, w1, … hold the working set in every lane and every other operand-file register is zero. An index beyond the
table and an invalid entry are REGION_TABLE, after the commit. -/
def Sys2Proof.Claim.RegionsStart : Prop :=
  ∀ (idx : Word) (s : State) (g : Nat), s.cur = .group g →
    let set (f : Files) (v : Files) (regs : List Nat) := ∀ j l, l < 32 → Tab.get 0 f.w (vkey j l) =
      match regs[j]? with
      | some r => Tab.get 0 v.v (vkey r l)
      | none => 0
    ((s.group g).reg.waiting = none →
      let c := s.commit g
      let z := c.l1Sync g
      let x := c.group g
      let a := (c.recOf g).rtBase + BitVec.ofNat 64 (32 * idx.toNat)
      ((c.recOf g).rtCount ≤ idx.toNat → exec (.region idx) s = .next (c.raise .regionTable {})) ∧
      (∀ u, idx.toNat < (c.recOf g).rtCount → c.globalCheck g (accLs false) 32 true [(32, a)] = .error u → exec (.region idx) s = .next u) ∧
      (∀ pa e, idx.toNat < (c.recOf g).rtCount → c.globalCheck g (accLs false) 32 true [(32, a)] = .ok [(32, pa, e)] →
        (c.loadWaits g 32 [(32, pa, e)] = true → exec (.region idx) s = .next (c.waitFor 21)) ∧
        (c.loadWaits g 32 [(32, pa, e)] = false →
        let bs := z.coreBytes (c.coreOf g) (c.asidOf g) a.toNat pa 32
        let n := field bs 0 1
        (regionRegs bs = none ↔ field bs 1 7 ≠ 0 ∨ field bs 24 8 ≠ 0 ∨ 16 < n ∨ (∃ k, k < 16 ∧ k < n ∧ 240 ≤ field bs (8 + k) 1) ∨
          ∃ k, k < 16 ∧ n ≤ k ∧ field bs (8 + k) 1 ≠ 0) ∧
        (regionRegs bs = none → exec (.region idx) s = .next (z.raise .regionTable {})) ∧
        ∀ regs, regionRegs bs = some regs → regs = (List.range n).map (fun k => field bs (8 + k) 1) ∧
          ((∃ r ∈ regs, 16 * x.blocks ≤ r) → exec (.region idx) s = .next (z.raise .regUnalloc { flm := x.thr.em })) ∧
          ((∀ r ∈ regs, r < 16 * x.blocks) → x.upset = [] → ∃ t, exec (.region idx) s = .next t ∧
            let y := t.group g
            y.regen = x.regen + 1 ∧ y.reg.opened = true ∧ y.reg.explicit = true ∧ y.reg.entry = x.thr.pcs ∧ y.reg.held = [] ∧
            y.reg.ckTiles = x.tl ∧ t.mem = c.mem ∧ t.teams = c.teams ∧
            (x.setFull regs = true → y.thr = x.thr.next 8 ∧ set y.f x.f regs) ∧
            (x.setFull regs = false → y.reg.waiting = some regs ∧ y.sch.wait = some (.retry 15) ∧ y.thr.pcs = x.thr.pcs))))) ∧
    (∀ regs, (s.group g).reg.waiting = some regs →
      ((s.group g).setFull regs = false → exec (.region idx) s = .next (s.waitFor 15)) ∧
      ((s.group g).setFull regs = true → (s.group g).f.w = [] → (s.group g).upset = [] → ∃ t, exec (.region idx) s = .next t ∧ (t.group g).reg.waiting = none ∧
        (t.group g).thr = (s.group g).thr.next 8 ∧ set (t.group g).f (s.group g).f regs ∧ t.mem = s.mem ∧ t.teams = s.teams))

/-- R192, R196: LRUN starts a block and REGION a region, or each takes its trap. Completes: lrun, region. -/
def Obligations.BlocksAndRegionsStart : Prop := Sys2Proof.Claim.LaneBlocksStart ∧ Sys2Proof.Claim.RegionsStart

/-- R191, R113, R127: EXIT commits, and hands over the output headers and records of the lanes that end; where nothing of the group
is outstanding and no error is held, the group is gone from the machine; otherwise it waits at EXIT, its region committed. A
service thread stops. Completes: exit. -/
def Obligations.ExitEndsTheThread : Prop :=
  (∀ (s : State) (g : Nat), s.cur = .group g →
    let b := ((s.commit g).hashCheckpoint g).modGroup g fun x => { x with blk := none }
    let c := b.modGroup g fun x => { x with inflight := x.inflight ++ b.endRecords g (b.group g).present }
    (c.mayLeave g = true → (c.group g).impr = none → ∃ t, exec .exit s = .next t ∧ Tab.look t.groups g = none) ∧
    (c.mayLeave g = false → exec .exit s = .next (c.park? g .exit))) ∧
  (∀ (s : State) (k : Nat), s.cur = .svc k → exec .exit s = .next (s.setSvc k { s.svc k with stopped := true }))

namespace Sys2Proof.Claim

/-- The system instruction `i` has written status `st` to `d` and passed; before that, its action has made `u` of `s`. -/
def Acts (s u : State) (i : Instr) (d : Nat) (st : DWord) : Prop := exec i s = .next (u.sysDone d st)

/-- The groups that the target pair of sA and s(A + 1) names, with the team (R332); the index 0xFF names them all. -/
def Targets (s : State) (k : Nat) (a : SReg) (t gi : Nat) (gs : List Nat) : Prop :=
  s.target (s.svc k) (s.thr.rd a.toNat) (s.thr.rd (a.toNat + 1)) = some (t, gi) ∧ s.targetGroups t gi = some gs

end Sys2Proof.Claim

/-- R333, R334: PARK, UNPARK, HALT and RESUME on their target, with status OK; UNPARK and RESUME of one group that is not parked or
not halted return WRONG_STATE, and a target that names nothing returns NO_TARGET, with nothing else changed. A parked group
holds nothing of its region; HALT discards nothing. Completes: park, unpark, halt, resume. -/
def Obligations.StateActions : Prop :=
  ∀ (d a : SReg) (s : State) (k : Nat), s.cur = .svc k → Claim.Ready s [a.toNat, a.toNat + 1] [d.toNat] →
    (∀ t gi gs, Claim.Targets s k a t gi gs →
      (∃ u, Claim.Acts s u (.park d a) d.toNat 0 ∧ (∀ g ∈ gs, (u.group g).sch.parked = true) ∧
        (∀ g ∈ gs, (s.group g).sch.parked = false → (s.group g).reg.opened = true → (u.group g).reg.held = []) ∧ (∀ b, u.rdByte b = s.rdByte b)) ∧
      ((gi = 0xFF ∨ ∀ g ∈ gs, (s.group g).sch.parked = true) →
        ∃ u, Claim.Acts s u (.unpark d a) d.toNat 0 ∧ (∀ g ∈ gs, (u.group g).sch.parked = false) ∧
          ∀ g, g ∉ gs → u.group g = s.group g) ∧
      (gi ≠ 0xFF → (∃ g ∈ gs, (s.group g).sch.parked = false) → Claim.Acts s s (.unpark d a) d.toNat 2) ∧
      (∃ u, Claim.Acts s u (.halt d a) d.toNat 0 ∧
        (∀ g, u.group g = if g ∈ gs then Group.halt (s.group g) else s.group g) ∧
        (gi = 0xFF → (u.team t).stop.isSome = true)) ∧
      ((gi = 0xFF ∨ ∀ g ∈ gs, (s.group g).sch.halted = true) →
        ∃ u, Claim.Acts s u (.resume d a) d.toNat 0 ∧
          ∀ g, u.group g = if g ∈ gs then { s.group g with sch := { (s.group g).sch with halted := false } } else s.group g) ∧
      (gi ≠ 0xFF → (∃ g ∈ gs, (s.group g).sch.halted = false) → Claim.Acts s s (.resume d a) d.toNat 2)) ∧
    (s.target (s.svc k) (s.thr.rd a.toNat) (s.thr.rd (a.toNat + 1)) = none →
      Claim.Acts s s (.park d a) d.toNat 1 ∧ Claim.Acts s s (.unpark d a) d.toNat 1 ∧ Claim.Acts s s (.halt d a) d.toNat 1 ∧
      Claim.Acts s s (.resume d a) d.toNat 1)

/-- R333, R334, R373, R374: while a PREEMPT of the thread is not complete, CTXSV and CTXLD wait. CTXSV writes the saved image of a
vacated team to its address and exports the team, which no longer waits in its launch; CTXLD reads an image for a team that is
exported or was never placed, and queues the team at the head of its launch with the image's window: an exported team whose image
says what it was saved with keeps its groups as they are, and any other takes what the image's sections say (how their bytes say it
is free: log entry 32). The refusals: an address that is no multiple of 4,096 is RANGE, a team in another state, or an image of
another team, WRONG_STATE, an image that cannot be accessed FAULT. -/
def Sys2Proof.Claim.SavedImages : Prop :=
  ∀ (d a b : SReg) (s : State) (k : Nat), s.cur = .svc k → Claim.Ready s [a.toNat, a.toNat + 1, b.toNat] [d.toNat] →
    let img := s.thr.rd b.toNat
    let asid := ((s.svc k).sstat.extractLsb' 36 12).toNat
    ((s.svc k).jobs ≠ [] → exec (.ctxsv d a b) s = .next (s.waitFor 31) ∧ exec (.ctxld d a b) s = .next (s.waitFor 31)) ∧
    ((s.svc k).jobs = [] →
    (img.toNat % 4096 ≠ 0 → Claim.Acts s s (.ctxsv d a b) d.toNat 5 ∧ Claim.Acts s s (.ctxld d a b) d.toNat 5) ∧
    (∀ l t, img.toNat % 4096 = 0 → s.targetTeam (s.svc k) (s.thr.rd a.toNat) (s.thr.rd (a.toNat + 1)) = some (l, t) →
      (s.thr.rd a.toNat).toNat / 2 ^ 32 = 0xFF →
      let x := s.team t
      (x.image = none → Claim.Acts s s (.ctxsv d a b) d.toNat 2) ∧
      (∀ area, x.image = some area → x.st = .saved →
        let bs := s.rdBytes area (s.imageLen t)
        (s.vWrite asid 0 img bs = none → Claim.Acts s s (.ctxsv d a b) d.toNat 3) ∧
        (∀ w, s.vWrite asid 0 img bs = some w → ∃ u, Claim.Acts s u (.ctxsv d a b) d.toNat 0 ∧ u.mem = w.mem ∧
          (u.team t).st = .exported ∧ (u.team t).image = none ∧
          (u.launch x.launch).requeued = (s.launch x.launch).requeued.erase x.idx))) ∧
    (∀ l t, img.toNat % 4096 = 0 → (s.thr.rd a.toNat).toNat / 2 ^ 32 = 0xFF →
      s.targetTeam (s.svc k) (s.thr.rd a.toNat) (s.thr.rd (a.toNat + 1)) = some (l, t) →
      let idx := (s.thr.rd (a.toNat + 1)).toNat
      let may := ∀ x, Tab.look s.teams t = some x → x.st = .exported ∨ x.st = .queued ∧ x.started = false
      (¬may → Claim.Acts s s (.ctxld d a b) d.toNat 2) ∧
      (may → s.vRead asid 0 img 64 = none → Claim.Acts s s (.ctxld d a b) d.toNat 3) ∧
      (∀ h, may → s.vRead asid 0 img 64 = some h →
        (s.headerOk h l idx = false → Claim.Acts s s (.ctxld d a b) d.toNat 2) ∧
        (s.headerOk h l idx = true → s.vRead asid 0 img (field h 16 8) = none → Claim.Acts s s (.ctxld d a b) d.toNat 3) ∧
        (∀ bs, s.headerOk h l idx = true → s.vRead asid 0 img (field h 16 8) = some bs →
          let n := field h 12 1
          let secs := cutSections (2 + 33 * n) (bs.drop 64)
          let kept := (s.team t).st = .exported ∧ secs.eraseIdx 1 = (s.contents t).eraseIdx 1
          ∃ u, Claim.Acts s u (.ctxld d a b) d.toNat 0 ∧ (u.team t).st = .saved ∧
            (u.launch l).requeued = idx :: (s.launch l).requeued ∧ u.mem = s.mem ∧
            (∀ j, j < (u.team t).size → j < (secs.getD 1 []).length → Tab.get 0 (u.team t).spad j = (secs.getD 1 []).getD j 0) ∧
            (kept → u.groups = s.groups ∧ (u.team t).groups = (s.team t).groups) ∧
            (¬kept → (u.team t).size = 4096 * (s.launch l).lr.spad ∧ (u.team t).groups = (List.range n).map (fun i => (i, groupKey t i)) ∧
              ∀ i, i < n → u.group (groupKey t i) = readGroupOf t i (secs.getD (2 + i) []) ((secs.drop (2 + n + 32 * i)).take 32))))))

/-- R333, R334, R372, R377: PREEMPT. A count outside 1 to 288 is RANGE and an unknown launch NO_TARGET; otherwise the launch's
cores are vacated in descending coreid and the thread goes on. Where a team is left to be vacated, D is empty until none of those
teams is, and then receives the status. Behind a SWITCH of the virtual function the command waits for its turn with D empty, and the
thread goes on. -/
def Sys2Proof.Claim.Preemption : Prop :=
  ∀ (d a b : SReg) (s : State) (k : Nat), s.cur = .svc k → Claim.Ready s [a.toNat, b.toNat] [d.toNat] →
    let n := (s.thr.rd b.toNat).toNat
    ((n = 0 ∨ 288 < n) → Claim.Acts s s (.preempt d a b) d.toNat 5) ∧
    (0 < n → n ≤ 288 → s.findLaunch (s.svc k) ((s.thr.rd a.toNat).setWidth 32) = none → Claim.Acts s s (.preempt d a b) d.toNat 1) ∧
    (∀ l, 0 < n → n ≤ 288 → s.findLaunch (s.svc k) ((s.thr.rd a.toNat).setWidth 32) = some l →
      let cs := (s.coresHeld fun x => x.launch == l).take n
      let v := s.vacateCores cs
      ((s.vf (s.ctx (s.launch l).ctx).vf).switching = none →
        let st := if v.2 = cs.length then 0 else 5
        let ts := v.1.vacating.filter fun t => !s.vacating.contains t
        ∃ u, exec (.preempt d a b) s = .next u ∧
          (ts = [] → u = v.1.sysDone d.toNat (BitVec.ofNat 64 st)) ∧
          (ts ≠ [] → (u.svc k).jobs = (v.1.svc k).jobs ++ [(d.toNat, st, some ts)] ∧ (d.toNat ≠ 0 → (u.svc k).thr.full d.toNat = false) ∧
            (u.svc k).thr.pcs = (v.1.svc k).thr.wordAt + 4 ∧ u.teams = v.1.teams ∧ u.groups = v.1.groups ∧ u.mem = v.1.mem)) ∧
      ((s.vf (s.ctx (s.launch l).ctx).vf).switching.isSome = true → ∃ u, exec (.preempt d a b) s = .next u ∧
        (u.svc k).jobs = (s.svc k).jobs ++ [(d.toNat, 0, none)] ∧ (d.toNat ≠ 0 → (u.svc k).thr.full d.toNat = false) ∧
        (u.svc k).thr.pcs = s.thr.wordAt + 4 ∧ u.ctl.waiting = s.ctl.waiting ++ [.preempt k d.toNat l n] ∧
        u.teams = s.teams ∧ u.groups = s.groups ∧ u.mem = s.mem) ∧
      ((v.1.svc k).jobs = [(d.toNat, 0, none)] →
        ((s.runPreempt k d.toNat l n).svc k).jobs =
          [(d.toNat, if v.2 = cs.length then 0 else 5, some (v.1.vacating.filter fun t => !s.vacating.contains t))] ∧
        (s.runPreempt k d.toNat l n).teams = v.1.teams)) ∧
    ((s.svc k).jobs = [(d.toNat, 0, none)] → s.endJobs.svc k = s.svc k) ∧
    (∀ st ts, (s.svc k).jobs = [(d.toNat, st, some ts)] →
      ((∀ t ∈ ts, (s.team t).st ≠ .vacating) → (s.endJobs.svc k).jobs = [] ∧ (s.endJobs.svc k).thr = s.thr.wr d.toNat (BitVec.ofNat 64 st)) ∧
      ((∃ t ∈ ts, (s.team t).st = .vacating) → s.endJobs.svc k = s.svc k))

/-- R334, R372, R373, R377: CTXSV, CTXLD and PREEMPT. Completes: ctxsv, ctxld, preempt. -/
def Obligations.ImagesAndPreemption : Prop := Sys2Proof.Claim.SavedImages ∧ Sys2Proof.Claim.Preemption

/-- R335, R333, R415: the configuration semaphore. A slot is taken where it is free, expired, or held by the same endpoint, for the
lease asked, an expired lease that nobody has been told of being told first (LEASE_EXPIRED); the other endpoint's is BUSY; SEMREL frees a slot the endpoint holds and is WRONG_STATE otherwise; a slot above 7
is NO_TARGET and a lease outside 1,000 to 2^36 ns is RANGE. -/
def Sys2Proof.Claim.Semaphore : Prop :=
  ∀ (d a b : SReg) (s : State) (k : Nat), s.cur = .svc k → Claim.Ready s [a.toNat, b.toNat] [d.toNat] →
    let e := (s.svc k).sstat.getLsbD 8
    let slot := (s.thr.rd a.toNat).toNat
    let lease := (s.thr.rd b.toNat).toNat
    let now := (s.die 0).time
    (7 < slot → Claim.Acts s s (.semacq d a b) d.toNat 1 ∧ Claim.Acts s s (.semrel d a) d.toNat 1) ∧
    (slot ≤ 7 → (lease < 1000 ∨ 2 ^ 36 < lease) → Claim.Acts s s (.semacq d a b) d.toNat 5) ∧
    (slot ≤ 7 → 1000 ≤ lease → lease ≤ 2 ^ 36 →
      ((∀ m, Tab.look s.sems slot = some m → m.holder = e ∧ now < m.expiry ∨ m.expiry ≤ now ∧ m.told = true) →
        Claim.Acts s { s with sems := Tab.put s.sems slot ⟨e, now + lease, false⟩ } (.semacq d a b) d.toNat 0) ∧
      (∀ m, Tab.look s.sems slot = some m → m.expiry ≤ now → m.told = false → ∃ u r, Claim.Acts s u (.semacq d a b) d.toNat 0 ∧
        Claim.Told s.ctl.evA u.ctl.evA r ∧ Claim.Told s.ctl.evB u.ctl.evB r ∧ r.ty = 9 ∧
        Tab.look u.sems slot = some ⟨e, now + lease, false⟩ ∧ ∀ j, j ≠ slot → Tab.look u.sems j = Tab.look s.sems j) ∧
      (∀ m, Tab.look s.sems slot = some m → m.holder ≠ e → now < m.expiry → Claim.Acts s s (.semacq d a b) d.toNat 4)) ∧
    (slot ≤ 7 →
      (∀ m, Tab.look s.sems slot = some m → m.holder = e → now < m.expiry →
        Claim.Acts s { s with sems := Tab.del s.sems slot } (.semrel d a) d.toNat 0) ∧
      ((∀ m, Tab.look s.sems slot = some m → m.holder ≠ e ∨ m.expiry ≤ now) → Claim.Acts s s (.semrel d a) d.toNat 2))

/-- R334, R360, R357: L1INV drops the clean copies of the cores it names and nothing else. TLBIV and TLBIA, once the accesses
through a removed entry that regions have committed have performed, leave no entry that they name in any TLB or walk cache,
drop the L1 copies of the removed pages, and discard the regions whose buffers hold an access that was translated through one, or
a TLD that only their commit would let read its rows (log entry 44); until then the thread waits. -/
def Sys2Proof.Claim.MaintenanceWords : Prop :=
  ∀ (a b : SReg) (s : State) (k : Nat), s.cur = .svc k → Claim.Ready s [a.toNat, b.toNat] [] →
    let st := (s.svc k).sstat
    (∀ c, coreOfId (s.thr.rd a.toNat).toNat = c → c < 288 → st.getLsbD 4 = true →
      ∃ t, exec (.l1inv false a) s = .next t ∧ t.thr = s.thr.next 4 ∧ (t.core c).l1 = [] ∧ (∀ j, j ≠ c → t.core j = s.core j) ∧
        t.mem = s.mem ∧ t.groups = s.groups) ∧
    (∃ t, exec (.l1inv true a) s = .next t ∧ t.thr = s.thr.next 4 ∧ t.mem = s.mem ∧ t.groups = s.groups ∧
      ∀ c, t.core c = if c ∈ s.coresOf (st.extractLsb' 32 4).toNat then { s.core c with l1 := [] } else s.core c) ∧
    (∀ i q, (i, q) ∈
        [(Instr.tlbiv a b, (⟨some ((s.thr.rd a.toNat).toNat % 2 ^ 12), 0, some ((s.thr.rd b.toNat).toNat % 2 ^ 58 / 2 ^ 14)⟩ : TlbSel)),
         (.tlbia false a, ⟨some ((s.thr.rd a.toNat).toNat % 2 ^ 12), (st.extractLsb' 32 4).toNat, none⟩),
         (.tlbia true a, ⟨none, (st.extractLsb' 32 4).toNat, none⟩)] →
      (st.getLsbD 4 = true ∨ ∀ x, q.asid = some x → s.partOfAsid x = (st.extractLsb' 32 4).toNat) →
      (s.tlbBusy q = true → exec i s = .next (s.waitFor 31)) ∧
      (s.tlbBusy q = false → ∃ t, exec i s = .next t ∧ t.thr = s.thr.next 4 ∧ t.mem = s.mem ∧
        (∀ e ∈ t.cores, ∀ x ∈ e.2.tlb, q.removes x = false) ∧ (∀ e ∈ t.quadTlb, ∀ x ∈ e.2, q.removes x = false) ∧
        (∀ x ∈ t.evicted, q.removes x = false) ∧
        (∀ e ∈ t.dies, ∀ x ∈ e.2.ptrs, q.removesPtr x = false) ∧
        (∀ e ∈ t.cores, ∀ x ∈ e.2.l1, q.takes s e.1 x.asid (x.vl * 128) = false) ∧
        ∀ g ∈ s.groupsIn q, (s.group g).reg.opened = true →
          ((∃ h ∈ (s.group g).reg.held, ∃ p ∈ h.places (s.group g), q.takes s (s.coreOf g) (s.asidOf g) p = true) ∨
            ∃ c ∈ (s.group g).anvil, q.rows s g true c = true) →
          (t.group g).reg.held = []))

/-- R334, R335, R360: the semaphore words, and L1INV, TLBIV and TLBIA. Completes: l1inv, semacq, semrel, tlbiv, tlbia. -/
def Obligations.SystemUpkeep : Prop := Sys2Proof.Claim.Semaphore ∧ Sys2Proof.Claim.MaintenanceWords

namespace Sys2Proof.Claim

/-! ### Lane words (R14-R16, R163, R216) -/

/-- The lanes a word of the group acts for: em AND its predicate (R16). -/
def lanes (s : State) (g : Nat) (h : LaneHdr) : Word := (s.group g).thr.active h

/-- A lane word of these sources and this destination goes on: a group runs it, its role permits it (R20, R21), its operands
are allocated, in bounds and full, the queue elements and the queue room that it asks for are there, and the words that it reads
carry the codes of their values (R55). -/
structure LaneReady (s : State) (g : Nat) (h : LaneHdr) (cls : LaneClass) (us : Word → List Use) (p : Option Put) : Prop where
  runs : s.cur = .group g
  role : roleOk (s.roleOf g) cls = true
  operands : (s.operandTrap g (lanes s g h) (us (lanes s g h)) p).orElse (s.operandWait g (lanes s g h) (us (lanes s g h)) p) = .ok
  codes : s.useMismatch g (lanes s g h) (us (lanes s g h)) p = none

/-- Source k of a lane, as the word reads it. -/
def source (s : State) (g : Nat) (h : LaneHdr) (us : Word → List Use) (k l : Nat) : Nat :=
  Tab.get 0 ((s.readUses g (lanes s g h) (us (lanes s g h))).2.getD k []) l

/-- `u` is `s` after a lane word has written the result R of each active lane to destination `p` and to z register `z`, and
captured `fl`: inactive lanes' registers, every other register of every file, the scalar stream, memory and the windows'
bytes are as they were. (Results are words from the destination's first register on, lowest first.) -/
structure LaneWrote (s u : State) (g : Nat) (m : Word) (p : Option Put) (z : Nat) (R : Nat → Nat) (fl : Word) : Prop where
  main : ∀ r l, l < 32 → Tab.get 0 (u.group g).f.v (vkey r l) =
    match p.bind fun q => (s.group g).mainDst q l with
    | some i => if m.getLsbD l = true ∧ i ≤ r ∧ r < i + (p.map Put.n).getD 0 then BitVec.ofNat 32 (R l / 2 ^ (32 * (r - i)))
      else Tab.get 0 (s.group g).f.v (vkey r l)
    | none => Tab.get 0 (s.group g).f.v (vkey r l)
  operand : ∀ r l, l < 32 → Tab.get 0 (u.group g).f.w (vkey r l) =
    match p with
    | some ⟨.w i, n⟩ => if m.getLsbD l = true ∧ i.toNat ≤ r ∧ r < i.toNat + n then BitVec.ofNat 32 (R l / 2 ^ (32 * (r - i.toNat)))
      else Tab.get 0 (s.group g).f.w (vkey r l)
    | _ => Tab.get 0 (s.group g).f.w (vkey r l)
  pushed : (u.group g).reg.pushes = (s.group g).reg.pushes ++
    match p with
    | some ⟨.q q, _⟩ => (lanesOf m).map fun l => (q.toNat, BitVec.ofNat 32 (R l))
    | _ => []
  last : ∀ j, Tab.get [] (u.group g).f.zp j = Tab.get [] (s.group g).f.zp j ++
    if j = z ∧ m ≠ 0 then [⟨0, (lanesOf m).map fun l => (vkey z l, BitVec.ofNat 32 (R l))⟩] else []
  flags : (u.group g).reg.fset = (s.group g).reg.fset ||| fl
  thread : (u.group g).thr = (s.group g).thr
  kept : (u.group g).f.vempty = (s.group g).f.vempty ∧ (u.group g).f.i = (s.group g).f.i ∧
    (u.group g).reg.held = (s.group g).reg.held ∧ (u.group g).blk = (s.group g).blk
  mem : u.mem = s.mem
  windows : ∀ t, (u.team t).spad = (s.team t).spad

/-- Instruction `i` answers a next state: each active lane's result is R of the lane, the flags are those that some active lane
raises, where CAP asks for them, and the word has ended (a region-ending block's last word commits). -/
def LaneGives (s : State) (i : Instr) (h : LaneHdr) (g : Nat) (p : Option Put) (z : Nat) (cap : Bool) (R : Nat → Nat) (F : Nat → Word) :
    Prop :=
  ∃ u fl, exec i s = .next (u.laneDone g h) ∧ LaneWrote s u g (lanes s g h) p z R fl ∧
    ∀ b, fl.getLsbD b = true ↔ cap = true ∧ ∃ l, (lanes s g h).getLsbD l = true ∧ (F l).getLsbD b = true

/-- A row that computes lane by lane: who may run it, its fields, element width and z register, and its result and flags from
the sources of one lane. -/
structure Row where
  o : LaneOp
  cls : LaneClass
  rule : LaneRule
  ew : Nat
  z : Nat
  f : List Nat → Nat × Word

/-- The arithmetic rows, each with the result that its table gives (R220, R221, R225-R229, R230-R232). -/
def row : Instr → Option Row
  | .vadd o => some ⟨o, .basic, ruleInt2 intFmts true o, Fmt.width o.fmt, 1, intElems o.fmt o.sat fun a b _ => a + b⟩
  | .vsub o => some ⟨o, .basic, ruleInt2 intFmts true o, Fmt.width o.fmt, 1, intElems o.fmt o.sat fun a b _ => a - b⟩
  | .vmul o => some ⟨o, .basic, ruleInt2 narrowIntFmts true o, Fmt.width o.fmt, 1, intElems o.fmt o.sat fun a b _ => a * b⟩
  | .vmulh o => some ⟨o, .basic, ruleInt2 [.i16, .i32, .n16, .n32] false o, Fmt.width o.fmt, 1,
      intElems o.fmt o.sat fun a b _ => a * b / 2 ^ Fmt.width o.fmt⟩
  | .vmad o => some ⟨o, .basic, ruleInt3 o, Fmt.width o.fmt, 1, intElems o.fmt o.sat fun a b c => a * b + c⟩
  | .vmin o => some ⟨o, .basic, ruleInt2 intFmts false o, Fmt.width o.fmt, 1, intElems o.fmt o.sat fun a b _ => min a b⟩
  | .vmax o => some ⟨o, .basic, ruleInt2 intFmts false o, Fmt.width o.fmt, 1, intElems o.fmt o.sat fun a b _ => max a b⟩
  | .vshl o => some ⟨o, .basic, ruleInt2 [.n8, .n16, .n32, .n64] false o, Fmt.width o.fmt, 1,
      patElems o.fmt fun a b => a <<< (b % Fmt.width o.fmt)⟩
  | .vshr o => some ⟨o, .basic, ruleInt2 [.n8, .n16, .n32, .n64] false o, Fmt.width o.fmt, 1,
      patElems o.fmt fun a b => a >>> (b % Fmt.width o.fmt)⟩
  | .vsar o => some ⟨o, .basic, ruleInt2 [.i8, .i16, .i32, .i64] false o, Fmt.width o.fmt, 1,
      patElems o.fmt fun a b => ((BitVec.ofNat (Fmt.width o.fmt) a).sshiftRight (b % Fmt.width o.fmt)).toNat⟩
  | .vand o => some ⟨o, .basic, ruleLogic2, 32, 1, fun v => (v.getD 0 0 &&& v.getD 1 0, 0)⟩
  | .vor o => some ⟨o, .basic, ruleLogic2, 32, 1, fun v => (v.getD 0 0 ||| v.getD 1 0, 0)⟩
  | .vxor o => some ⟨o, .basic, ruleLogic2, 32, 1, fun v => (v.getD 0 0 ^^^ v.getD 1 0, 0)⟩
  | .vlop3 o => some ⟨o, .basic, ruleLop3, 32, 1, fun v => (lop3 (LaneOp.xfield o 0 8) (v.getD 0 0) (v.getD 1 0) (v.getD 2 0), 0)⟩
  | .vbfe o => some ⟨o, .basic, ruleBfe o, 32, 1, fun v => (bitField (bfPos o) (bfLen o) (LaneOp.xbit o 11) (v.getD 0 0), 0)⟩
  | .vbfi o => some ⟨o, .basic, ruleBfi o, 32, 1, fun v => (insertField (bfPos o) (bfLen o) (v.getD 0 0) (v.getD 1 0), 0)⟩
  | .vpopc o => some ⟨o, .basic, ruleLogic1, 32, 1, fun v => ((List.range 32).countP fun n => (v.getD 0 0).testBit n, 0)⟩
  | .vclz o => some ⟨o, .basic, ruleLogic1, 32, 1, fun v => (if v.getD 0 0 = 0 then 32 else 31 - Nat.log2 (v.getD 0 0), 0)⟩
  | .vmov o => some ⟨o, .basic, ruleMov o, 32, 1, fun v => (v.getD 0 0, 0)⟩
  | .vfadd o => some ⟨o, .other, ruleFlt 2 true, Fmt.width o.fmt, 0, fltElems o.fmt o.rnd o.sat fun a b _ => addVal o.rnd a b⟩
  | .vfsub o => some ⟨o, .other, ruleFlt 2 true, Fmt.width o.fmt, 0, fltElems o.fmt o.rnd o.sat fun a b _ => addVal o.rnd a b.negate⟩
  | .vfmul o => some ⟨o, .other, ruleFlt 2 true, Fmt.width o.fmt, 0, fltElems o.fmt o.rnd o.sat fun a b _ => mulVal a b⟩
  | .vfma o => some ⟨o, .other, ruleFlt 3 true, Fmt.width o.fmt, 0, fltElems o.fmt o.rnd o.sat fun a b c => fmaVal o.rnd a b c⟩
  | .vfmin o => some ⟨o, .other, ruleFlt 2 false, Fmt.width o.fmt, 0, patElems o.fmt (fminmax o.fmt false)⟩
  | .vfmax o => some ⟨o, .other, ruleFlt 2 false, Fmt.width o.fmt, 0, patElems o.fmt (fminmax o.fmt true)⟩
  | .vfclass o => some ⟨o, .other, ruleFlt 1 false, Fmt.width o.fmt, 0, patElems o.fmt fun a _ => fclass o.fmt a⟩
  | .vrcp o => some ⟨o, .other, ruleSfu, 32, 2, fun v => sfu .rcp o.rnd o.sat (toVal .f32 (v.getD 0 0))⟩
  | .vrsq o => some ⟨o, .other, ruleSfu, 32, 2, fun v => sfu .rsq o.rnd o.sat (toVal .f32 (v.getD 0 0))⟩
  | .vsqrt o => some ⟨o, .other, ruleSfu, 32, 2, fun v => sfu .sqrt o.rnd o.sat (toVal .f32 (v.getD 0 0))⟩
  | .vexp2 o => some ⟨o, .other, ruleSfu, 32, 2, fun v => sfu .exp2 o.rnd o.sat (toVal .f32 (v.getD 0 0))⟩
  | .vlog2 o => some ⟨o, .other, ruleSfu, 32, 2, fun v => sfu .log2 o.rnd o.sat (toVal .f32 (v.getD 0 0))⟩
  | .vsin o => some ⟨o, .other, ruleSfu, 32, 2, fun v => sfu .sin o.rnd o.sat (toVal .f32 (v.getD 0 0))⟩
  | .vcos o => some ⟨o, .other, ruleSfu, 32, 2, fun v => sfu .cos o.rnd o.sat (toVal .f32 (v.getD 0 0))⟩
  | .vcvt o => some ⟨o, .other, ruleCvt o, Fmt.width (cvtFrom o), 1, fun v => convert (cvtFrom o) o.fmt o.rnd o.sat (v.getD 0 0)⟩
  | .vpack o => some ⟨o, .other, rulePack o, 32, 1, fun v =>
      let x := convert (packSrc o.fmt) o.fmt o.rnd o.sat (v.getD 0 0)
      let y := convert (packSrc o.fmt) o.fmt o.rnd o.sat (v.getD 1 0)
      let w := Fmt.width o.fmt
      let k := 2 * LaneOp.xfield o 0 2
      (setElem w (k + 1) (setElem w k (v.getD 2 0) x.1) y.1, x.2 ||| y.2)⟩
  | .vunpk o => some ⟨o, .other, ruleUnpk o, Fmt.width o.fmt, 1, fun v =>
      let e := elemAt (Fmt.width o.fmt) (LaneOp.xfield o 0 3) (v.getD 0 0)
      (if Fmt.isFloat o.fmt then (cvtFlt o.fmt .f32 .rne false e).1 else patOf 32 (intOf (Fmt.isI o.fmt) (Fmt.width o.fmt) e), 0)⟩
  | .vqnt o => some ⟨o, .other, ruleQnt o, 32, 1, fun v =>
      let q := divVal (toVal .f32 (v.getD 0 0)) (scaleE8m4 (v.getD 1 0 % 2 ^ 12))
      let e := roundTo (Fmt.elem o.fmt) o.rnd o.sat q.1
      (setElem (Fmt.width (Fmt.elem o.fmt)) (LaneOp.xfield o 0 3) (v.getD 2 0) e.1, q.2 ||| e.2)⟩
  | .vdqnt o => some ⟨o, .other, ruleDqnt o, Fmt.width (Fmt.elem o.fmt), 1, fun v =>
      let t := Fmt.elem o.fmt
      let q := mulVal (toVal t (elemAt (Fmt.width t) (LaneOp.xfield o 0 3) (v.getD 0 0))) (scaleE8m4 (v.getD 1 0 % 2 ^ 12))
      let e := roundTo .f32 o.rnd o.sat q.1
      (e.1, q.2 ||| e.2)⟩
  | _ => none

/-- Sources of a row, by the active lanes. -/
def Row.uses (r : Row) : Word → List Use := usesOf r.rule r.ew r.o

end Sys2Proof.Claim

/-- R216, R218, R220, R221, R225-R232: the lane arithmetic that works lane by lane. Each active lane's result, of its own sources,
reaches its destination and the row's z register; flags are captured where CAP asks; nothing else changes. The floating-point
and conversion rows compute with the model's exact arithmetic. Completes: vadd, vsub, vmul, vmulh, vmad, vmin, vmax, vshl, vshr,
vsar, vand, vor, vxor, vlop3, vbfe, vbfi, vpopc, vclz, vmov, vfadd, vfsub, vfmul, vfma, vfmin, vfmax, vfclass, vrcp, vrsq,
vsqrt, vexp2, vlog2, vsin, vcos, vcvt, vpack, vunpk, vqnt, vdqnt. -/
def Obligations.LaneArithmetic : Prop :=
  ∀ (i : Instr) (r : Claim.Row) (s : State) (g : Nat), Claim.row i = some r →
    Claim.LaneReady s g r.o.h r.cls r.uses (putOf r.rule r.o) →
    let v (l : Nat) := (List.range (r.uses (Claim.lanes s g r.o.h)).length).map fun k => Claim.source s g r.o.h r.uses k l
    Claim.LaneGives s i r.o.h g (putOf r.rule r.o) r.z (LaneOp.cap r.o) (fun l => (r.f (v l)).1) (fun l => (r.f (v l)).2)

/-- R64, R217, R220, R225: packed elements. An integer operation wraps or saturates each element of its own operands' elements;
a floating-point one rounds each; an integer operation's flags hold those of every element, and one on patterns raises none. -/
def Obligations.PackedElements : Prop :=
  ∀ (f : Fmt) (vs : List Nat) (j : Nat), j < Fmt.count f →
    let w := Fmt.width f
    let e (k : Nat) := vs.getD k 0 / 2 ^ (w * j) % 2 ^ w
    (∀ (sat : Bool) (op : Int → Int → Int → Int), vs.length = 3 →
      let i (k : Nat) := intOf (Fmt.isI f) w (e k)
      (intElems f sat op vs).1 / 2 ^ (w * j) % 2 ^ w = (putInt (Fmt.isI f) w sat (op (i 0) (i 1) (i 2))).1 % 2 ^ w ∧
      (putInt (Fmt.isI f) w sat (op (i 0) (i 1) (i 2))).2 &&& (intElems f sat op vs).2 = (putInt (Fmt.isI f) w sat (op (i 0) (i 1) (i 2))).2) ∧
    (∀ (m : Rnd) (sat : Bool) (op : Val → Val → Val → Val × Word), vs.length = 3 →
      (fltElems f m sat op vs).1 / 2 ^ (w * j) % 2 ^ w =
        (roundTo f m sat (op (toVal f (e 0)) (toVal f (e 1)) (toVal f (e 2))).1).1 % 2 ^ w) ∧
    (∀ (op : Nat → Nat → Nat), 2 ≤ vs.length → (patElems f op vs).1 / 2 ^ (w * j) % 2 ^ w = op (e 0) (e 1) % 2 ^ w ∧ (patElems f op vs).2 = 0)

namespace Sys2Proof.Claim

/-- One use of a source by lanes. -/
def use1 (a : Src) (k : ReadKind) (m : Word) : Use := ⟨a, k, 32, 1, m⟩

end Sys2Proof.Claim

/-- R221, R223, R234-R239, R241, R231: the lane words whose result is not of one lane's sources alone: VSEL by the predicate's
bits, VMOVI, VSHFL, VBCST, VRED's tree, VSCAN's running combination, VBALT's mask, VLSR, and VQNT's scale. -/
def Sys2Proof.Claim.LaneSelections : Prop :=
  ∀ (o : LaneOp) (s : State) (g : Nat),
    let m := Claim.lanes s g o.h
    let none_ : Nat → Word := fun _ => 0
    -- VSEL
    (Claim.LaneReady s g o.h .basic (usesOf ruleSel 32 o) (putOf ruleSel o) →
      Claim.LaneGives s (.vsel o) o.h g (putOf ruleSel o) 1 false
        (fun l => Claim.source s g o.h (usesOf ruleSel 32 o)
          (if (s.thr.pred (LaneOp.xfield o 0 3)).getLsbD l = LaneOp.xbit o 3 then 1 else 0) l) none_) ∧
    -- VMOVI
    (∀ (h : LaneHdr) (d : Dst) (imm : Word), Claim.LaneReady s g h .basic (fun _ => []) (some ⟨d, 1⟩) →
      Claim.LaneGives s (.vmovi h d imm) h g (some ⟨d, 1⟩) 1 false (fun _ => imm.toNat) none_) ∧
    -- VSHFL
    (let ia := if LaneOp.xfield o 0 2 = 0 then 1 else 0
     Claim.LaneReady s g o.h .other (s.shflUses o) (putOf (ruleShfl o) o) →
      Claim.LaneGives s (.vshfl o) o.h g (putOf (ruleShfl o) o) 1 false
        (fun l => Claim.source s g o.h (s.shflUses o) ia
          (shflFrom (LaneOp.xfield o 0 2) (LaneOp.xfield o 2 5) l (Claim.source s g o.h (s.shflUses o) 0 l))) none_) ∧
    -- VBCST: lane j's value in every active lane
    (let us : Word → List Use := fun m => [Claim.use1 o.a .raw (if m = 0 then 0 else BitVec.ofNat 32 (2 ^ LaneOp.xfield o 0 5))]
     Claim.LaneReady s g o.h .other us (putOf ruleBcst o) →
      Claim.LaneGives s (.vbcst o) o.h g (putOf ruleBcst o) 1 false (fun _ => Claim.source s g o.h us 0 (LaneOp.xfield o 0 5)) none_) ∧
    -- VRED and VSCAN
    (Claim.LaneReady s g o.h .other (redUses o) (putOf (ruleRed o) o) →
      let r := reduceTree (redOp (LaneOp.xfield o 0 3) o.fmt o.rnd o.sat) m ((s.readUses g m (redUses o m)).2.getD 0 [])
      Claim.LaneGives s (.vred o) o.h g (putOf (ruleRed o) o) 1 (LaneOp.cap o) (fun _ => r.1.getD 0) (fun _ => r.2)) ∧
    (Claim.LaneReady s g o.h .other (redUses o) (putOf (ruleScan o) o) →
      let op := LaneOp.xfield o 0 3
      let t := scanFrom (redOp op o.fmt o.rnd o.sat) (LaneOp.xbit o 3) (redIdentity op o.fmt)
        ((s.readUses g m (redUses o m)).2.getD 0 []) none (lanesOf m)
      Claim.LaneGives s (.vscan o) o.h g (putOf (ruleScan o) o) 1 (LaneOp.cap o) (fun l => Tab.get 0 t.1 l) (fun _ => t.2)) ∧
    -- VBALT: bit l is set where active lane l's value is not zero
    (let us : Word → List Use := fun m => [Claim.use1 o.a .int m]
     Claim.LaneReady s g o.h .other us (putOf ruleBalt o) →
      ∃ w : Word, (∀ l, l < 32 → (w.getLsbD l = true ↔ m.getLsbD l = true ∧ Claim.source s g o.h us 0 l ≠ 0)) ∧
        Claim.LaneGives s (.vbalt o) o.h g (putOf ruleBalt o) 1 false (fun _ => w.toNat) none_) ∧
    -- VLSR
    (Claim.LaneReady s g o.h .basic (fun _ => []) (putOf (ruleLsr o) o) →
      let y (l : Nat) := Tab.get Lane.zero (s.group g).lanes l
      Claim.LaneGives s (.vlsr o) o.h g (putOf (ruleLsr o) o) 1 false (fun l => match LaneOp.xfield o 0 4 with
        | 0 => l
        | 1 => (y l).glid.toNat
        | 2 => (y l).draw.cursor % 2 ^ 32
        | 3 => (y l).draw.count % 2 ^ 32
        | 4 => (y l).draw.fresh % 2 ^ 32
        | _ => (y l).draw.used % 2 ^ 8) none_) ∧
    -- VQNT, scale form
    (Claim.LaneReady s g o.h .other (usesOf (ruleQntScl o) 32 o) (putOf (ruleQntScl o) o) →
      let c := blockScale o.fmt ((lanesOf m).map fun l => Claim.source s g o.h (usesOf (ruleQntScl o) 32 o) 0 l)
      Claim.LaneGives s (.vqntScl o) o.h g (putOf (ruleQntScl o) o) 1 (LaneOp.cap o) (fun _ => c.1) (fun _ => c.2))

/-- R233, R80, R81: VDOT4 and VDOT8: each lane's products are summed exactly and added to its accumulator once. -/
def Sys2Proof.Claim.DotProducts : Prop :=
  ∀ (o : LaneOp) (s : State) (g : Nat) (i : Instr) (r : LaneRule), (i, r) ∈ [(Instr.vdot4 o, ruleDot4 o), (.vdot8 o, ruleDot8 o)] →
    Claim.LaneReady s g o.h .other (dotUses r o) (putOf r o) →
    let v (k l : Nat) := Claim.source s g o.h (dotUses r o) k l
    let d (l : Nat) := dotWord o.fmt (dotB o) o.sat (v 0 l) (v 1 l) (v 2 l)
    Claim.LaneGives s i o.h g (putOf r o) 0 (LaneOp.cap o) (fun l => (d l).1) (fun l => (d l).2)

namespace Sys2Proof.Claim

/-- Node `i` of level `k` of R237's tree: its value, absent where none of its lanes is active, and the flags raised below it. -/
def node (op : Nat → Nat → Nat × Word) (m : Word) (a : Nat → Nat) : Nat → Nat → Option Nat × Word
  | 0, i => (if m.getLsbD i then some (a i) else none, 0)
  | k + 1, i => match node op m a k (2 * i), node op m a k (2 * i + 1) with
    | (some x, f), (some y, g) => (some (op x y).1, (op x y).2 ||| f ||| g)
    | (some x, f), (none, g) => (some x, f ||| g)
    | (none, f), (y, g) => (y, f ||| g)

/-- The accumulator of R238 after lanes `ls`, with the flags raised. -/
def running (op : Nat → Nat → Nat × Word) (a : Nat → Nat) (ls : List Nat) : Option Nat × Word :=
  ls.foldl (fun acc l => match acc.1 with | none => (some (a l), acc.2) | some x => (some (op x (a l)).1, acc.2 ||| (op x (a l)).2)) (none, 0)

/-- An integer result in 32 bits: wrapped, or saturated with SATF (R71). -/
def narrowed (signed sat : Bool) (i : Int) : Nat × Word :=
  let c := max (if signed then -(2 ^ 31) else 0) (min (if signed then 2 ^ 31 - 1 else 2 ^ 32 - 1) i)
  if sat then ((BitVec.ofInt 32 c).toNat, if c = i then 0 else 128) else ((BitVec.ofInt 32 i).toNat, 0)

/-- Element `k` of a word in a format, as an exact value. -/
def elem (f : Fmt) (v k : Nat) : Val := toVal f (v / 2 ^ (Fmt.width f * k) % 2 ^ Fmt.width f)

/-- A finite value as a rational. -/
def rat : Val → ℚ
  | .num s n d => (if s then -1 else 1) * n / d
  | _ => 0

/-- The block sum of the elements of two words (R80): an F32 encoding, with the flags it raises. -/
structure BlockSum (fa fb : Fmt) (a b x : Nat) (f : Word) : Prop where
  nan : (∃ k < Fmt.count fa, (elem fa a k).isNan = true ∨ (elem fb b k).isNan = true) → x = 0x7FC00000
  invalid : (∀ k < Fmt.count fa, (elem fa a k).isNan = false ∧ (elem fb b k).isNan = false) →
    ((∃ k < Fmt.count fa, (mulVal (elem fa a k) (elem fb b k)).1.isNan = true) ∨
      ∀ s, ∃ k < Fmt.count fa, (mulVal (elem fa a k) (elem fb b k)).1 = .inf s) → x = 0x7FC00000 ∧ f = 4
  infinite : ∀ s, (∃ k < Fmt.count fa, (mulVal (elem fa a k) (elem fb b k)).1 = .inf s) →
    (∀ k < Fmt.count fa, (mulVal (elem fa a k) (elem fb b k)).1.isNan = false ∧ (mulVal (elem fa a k) (elem fb b k)).1 ≠ .inf (!s)) →
    x = (if s then 0xFF800000 else 0x7F800000) ∧ f = 0
  finite : (∀ k < Fmt.count fa, ∃ s n d s' n' d', elem fa a k = .num s n d ∧ elem fb b k = .num s' n' d') →
    ∃ (n : Int) (d : Nat), 0 < d ∧ (n : ℚ) / d = ∑ k ∈ Finset.range (Fmt.count fa), rat (elem fa a k) * rat (elem fb b k) ∧
      (n ≠ 0 → (x, f) = roundTo .f32 .rne false (.num (decide (n < 0)) n.natAbs d)) ∧
      (n = 0 → f = 0 ∧ x = if ∀ k < Fmt.count fa, (mulVal (elem fa a k) (elem fb b k)).1.neg? = true then 0x80000000 else 0)

/-- The scale of code `k` times the largest element of a format is at least every magnitude of `xs` (R231). -/
def Covers (t : Fmt) (xs : List Nat) (k : Nat) : Prop :=
  ∀ x ∈ xs, |rat (toVal .f32 x)| ≤ (match t with | .x8a => 448 | .x8b => 57344 | _ => 6) * rat (scaleE8m4 k)

end Sys2Proof.Claim

/-- R231, R235, R237-R239, R80, R81, R71: what the lane words across lanes combine. The tree of VRED and VTOS is that of lane
positions; VSCAN takes lanes in ascending order; their operations, identities and VSHFL's lane are those of the tables; a dot product
adds one exact block sum, rounded once, to its accumulator, or an exact integer one; VQNT's scale is the smallest code that covers
the block. -/
def Sys2Proof.Claim.AcrossLanes : Prop :=
  (∀ op m a, reduceTree op m a = Claim.node op m (Tab.get 0 a) 5 0) ∧
  (∀ op excl ident a m, let t := scanFrom op excl ident a none (lanesOf m)
    t.2 = (Claim.running op (Tab.get 0 a) (lanesOf m)).2 ∧
    ∀ l, l ∈ lanesOf m → Tab.look t.1 l = some (if excl then (Claim.running op (Tab.get 0 a) ((lanesOf m).filter (· < l))).1.getD ident
      else (Claim.running op (Tab.get 0 a) ((lanesOf m).filter (· ≤ l))).1.getD 0)) ∧
  (∀ rnd sat x y, redOp 0 .f32 rnd sat x y =
    let v := addVal rnd (toVal .f32 x) (toVal .f32 y)
    let r := roundTo .f32 rnd sat v.1
    (r.1, v.2 ||| r.2)) ∧
  (∀ rnd sat x y, redOp 1 .f32 rnd sat x y = (fminmax .f32 false x y, 0) ∧ redOp 2 .f32 rnd sat x y = (fminmax .f32 true x y, 0)) ∧
  (∀ f rnd sat x y, (f = .i32 ∨ f = .n32) → x < 2 ^ 32 → y < 2 ^ 32 →
    let i (x : Nat) := intOf (f == .i32) 32 x
    redOp 0 f rnd sat x y = Claim.narrowed (f == .i32) sat (i x + i y) ∧
    ((redOp 1 f rnd sat x y).2 = 0 ∧ i (redOp 1 f rnd sat x y).1 = min (i x) (i y)) ∧
    ((redOp 2 f rnd sat x y).2 = 0 ∧ i (redOp 2 f rnd sat x y).1 = max (i x) (i y)) ∧
    redOp 3 f rnd sat x y = (x &&& y, 0) ∧ redOp 4 f rnd sat x y = (x ||| y, 0) ∧ redOp 5 f rnd sat x y = (x ^^^ y, 0)) ∧
  (∀ f, redIdentity 0 f = 0 ∧ redIdentity 3 f = 0xFFFFFFFF ∧ redIdentity 4 f = 0 ∧ redIdentity 5 f = 0) ∧
  (redIdentity 1 .f32 = 0x7F800000 ∧ redIdentity 1 .i32 = 0x7FFFFFFF ∧ redIdentity 1 .n32 = 0xFFFFFFFF ∧
    redIdentity 2 .f32 = 0xFF800000 ∧ redIdentity 2 .i32 = 0x80000000 ∧ redIdentity 2 .n32 = 0) ∧
  (∀ n l idx, n < 32 → l < 32 → shflFrom 0 n l idx = idx % 32 ∧ shflFrom 1 n l idx = (if n ≤ l then l - n else l) ∧
    shflFrom 2 n l idx = (if l + n < 32 then l + n else l) ∧ shflFrom 3 n l idx = l ^^^ n) ∧
  (∀ fa fb sat a b c, fa ∈ [Fmt.e4m3, .e5m2, .e2m1] → fb ∈ [Fmt.e4m3, .e5m2, .e2m1] → Fmt.count fa = Fmt.count fb →
    ∃ x f, Claim.BlockSum fa fb a b x f ∧
      let v := addVal .rne (toVal .f32 c) (toVal .f32 x)
      let r := roundTo .f32 .rne false v.1
      dotWord fa fb sat a b c = (r.1, f ||| (v.2 ||| r.2))) ∧
  (∀ fa fb sat a b c, fa ∈ [Fmt.i8, .n8] → fb ∈ [Fmt.i8, .n8] →
    dotWord fa fb sat a b c = Claim.narrowed true sat (intOf true 32 c +
      ∑ k ∈ Finset.range 4, intOf (fa == .i8) 8 (a / 2 ^ (8 * k)) * intOf (fb == .i8) 8 (b / 2 ^ (8 * k)))) ∧
  (∀ t xs, t ∈ [Fmt.x8a, .x8b, .x4] → let c := blockScale t xs
    ((∃ x ∈ xs, ∀ s n d, toVal .f32 x ≠ .num s n d) → c = (0xFF0, 4)) ∧
    ((∀ x ∈ xs, ∃ s n d, toVal .f32 x = .num s n d) → c.2 = 0 ∧
      ((∀ x ∈ xs, (toVal .f32 x).isZero = true) → c.1 = 0x7F0) ∧
      ((∃ x ∈ xs, (toVal .f32 x).isZero = false) →
        c.1 ≤ 0xFEF ∧ (∀ k < c.1, ¬Claim.Covers t xs k) ∧ (Claim.Covers t xs c.1 ∨ c.1 = 0xFEF))))

/-- R221, R223, R231, R233-R239, R241: the lane words that look across lanes or elements. Completes: vsel, vmovi, vqntScl, vdot4,
vdot8, vshfl, vbcst, vred, vscan, vbalt, vlsr. -/
def Obligations.LaneSelections : Prop := Sys2Proof.Claim.LaneSelections ∧ Sys2Proof.Claim.DotProducts ∧ Sys2Proof.Claim.AcrossLanes

namespace Sys2Proof.Claim

/-- A compare has written its results: the bits of active lanes of predicate `pd` are its tests (p0 discards them), the z
register and, with DV, the destination hold 1 or 0; the bits of inactive lanes and every other predicate are unchanged. -/
def Compares (s : State) (i : Instr) (o : LaneOp) (g z : Nat) (p : Option Put) (test : Nat → Bool) : Prop :=
  ∃ u w : State, exec i s = .next (u.laneDone g o.h) ∧ LaneWrote s w g (lanes s g o.h) p z (fun l => if test l then 1 else 0) 0 ∧
    u = w.modGroup g (fun x => { x with thr := (u.group g).thr }) ∧
    (u.group g).thr = { (s.group g).thr with preds := (u.group g).thr.preds } ∧
    ∀ n, n < 8 → ∀ l, l < 32 → ((u.group g).thr.pred n).getLsbD l =
      if n = LaneOp.xfield o 0 3 ∧ n ≠ 0 ∧ (lanes s g o.h).getLsbD l = true then test l else ((s.group g).thr.pred n).getLsbD l

end Sys2Proof.Claim

/-- R224, R58: VCMP and VFCMP, with every condition. -/
def Sys2Proof.Claim.LaneCompares : Prop :=
  ∀ (o : LaneOp) (s : State) (g : Nat),
    let w := Fmt.width o.fmt
    let c := LaneOp.xfield o 3 4
    (let us := usesOf (ruleCmp false o) w o
     Claim.LaneReady s g o.h .basic us (putOf (ruleCmp false o) o) →
      let n (k l : Nat) := intOf (Fmt.isI o.fmt) w (Claim.source s g o.h us k l)
      Claim.Compares s (.vcmp o) o g 1 (putOf (ruleCmp false o) o) fun l => match c with
        | 0 => n 0 l == n 1 l
        | 1 => n 0 l != n 1 l
        | 2 => decide (n 0 l < n 1 l)
        | 3 => decide (n 0 l ≤ n 1 l)
        | 4 => decide (n 0 l > n 1 l)
        | _ => decide (n 0 l ≥ n 1 l)) ∧
    (let us := usesOf (ruleCmp true o) w o
     Claim.LaneReady s g o.h .other us (putOf (ruleCmp true o) o) →
      let v (k l : Nat) := Claim.source s g o.h us k l % 2 ^ w
      Claim.Compares s (.vfcmp o) o g 0 (putOf (ruleCmp true o) o) fun l =>
        fcmp o.fmt (match c with | 0 => .eq | 1 => .lt | 2 => .le | _ => .un) (v 0 l) (v 1 l))

/-- R240: VTOS sends one value of its lanes to a full scalar register, which is empty until the value lands; with no active
lane it writes zero at once, and to s0 nothing. -/
def Sys2Proof.Claim.LaneToScalar : Prop :=
  ∀ (o : LaneOp) (s : State) (g : Nat), Claim.LaneReady s g o.h .other (redUses o) none →
    let N := LaneOp.xfield o 0 6
    let m := Claim.lanes s g o.h
    let r := tosValue o m ((s.readUses g m (redUses o m)).2.getD 0 [])
    let v : DWord := if o.fmt = .i32 then BitVec.ofInt 64 (intOf true 32 r.1) else BitVec.ofNat 64 r.1
    (s.thr.full N = false → exec (.vtos o) s = .next (s.waitFor 18)) ∧
    (s.thr.full N = true → ∃ u : State, exec (.vtos o) s = .next (u.laneDone g o.h) ∧
      (u.group g).f.v = (s.group g).f.v ∧ u.mem = s.mem ∧ u.teams = s.teams ∧
      (N = 0 → (u.group g).thr = (s.group g).thr ∧ (u.group g).pend = (s.group g).pend) ∧
      (N ≠ 0 → m = 0 → (u.group g).thr = (s.group g).thr.wr N 0 ∧ (u.group g).pend = (s.group g).pend) ∧
      (N ≠ 0 → m ≠ 0 → u.thr.full N = false ∧ (∀ n, u.thr.rd n = s.thr.rd n) ∧
        ∃ p : Pending, p.sdst = some (N, v) ∧ (u.group g).pend = (s.group g).pend ++ [p]))

/-- R224, R240: lane compares, and VTOS. Completes: vcmp, vfcmp, vtos. -/
def Obligations.LaneComparesAndScalars : Prop := Sys2Proof.Claim.LaneCompares ∧ Sys2Proof.Claim.LaneToScalar

namespace Sys2Proof.Claim

/-- A memory word of a row goes on, with an active lane, in a region that has not issued its global atomic (R30). -/
structure MemReady (s : State) (g : Nat) (o : LaneOp) (r : LaneRule) : Prop where
  word : LaneReady s g o.h .other (usesOf r 32 o) (putOf r o)
  some : lanes s g o.h ≠ 0
  atom : (s.group g).reg.atom = false

/-- The state in which a word has read its sources (only the count of free values may have moved), and the sources. -/
def after (s : State) (g : Nat) (o : LaneOp) (r : LaneRule) : State := (s.readUses g (lanes s g o.h) (usesOf r 32 o (lanes s g o.h))).1
def srcs (s : State) (g : Nat) (o : LaneOp) (r : LaneRule) : List (Tab Nat) :=
  (s.readUses g (lanes s g o.h) (usesOf r 32 o (lanes s g o.h))).2

/-- A memory word answers a next state: it has made `u`, popped the queues it names, and ended. -/
def MemDone (s u : State) (i : Instr) (g : Nat) (o : LaneOp) (r : LaneRule) : Prop :=
  exec i s = .next ((u.popAll g (lanes s g o.h) (usesOf r 32 o (lanes s g o.h))).laneDone g o.h)

/-- Register keys of a lane's destination, with the words of `v`. -/
def landing (s : State) (g : Nat) (o : LaneOp) (regs l v : Nat) : List (Nat × Word) :=
  cutRegs (((s.group g).mainDst ⟨o.d, regs⟩ l).getD 0) l v regs

/-- Nothing but the group's pending values, their empty registers, its stale-copy mark, the core's clean lines, events and the
count of free values has changed: memory, windows, the scalar stream and every register's value are as they were. -/
structure OnlyPending (s u : State) (g : Nat) (p : Pending) : Prop where
  pend : (u.group g).pend.map Pending.vdst = (s.group g).pend.map Pending.vdst ++ [p.vdst]
  last : (u.group g).pend.getLast?.map Pending.zdst = some p.zdst
  empty : ∀ e ∈ p.vdst, Tab.get false (u.group g).f.vempty e.1 = true
  regs : (u.group g).f.v = (s.group g).f.v ∧ (u.group g).f.i = (s.group g).f.i ∧ (u.group g).f.w = (s.group g).f.w
  thread : (u.group g).thr = (s.group g).thr
  region : (u.group g).reg.held = (s.group g).reg.held
  mem : u.mem = s.mem
  windows : u.teams = s.teams

end Sys2Proof.Claim

/-- R242, R245, R248, R91, R93, R109: VLD, VLDU and VLDS put each active lane's value, of the bytes at its own address, on its way
to its destination registers, lowest address in the lowest register; VLDU makes one access, whose value every active lane
receives; a scratchpad value goes to z3 as well. VLDLK sends its word to its destination and to z3 when it takes its words' lock
bits, all in one step. A load waits behind its group's earlier atomics on its words and, on an SC page, behind its earlier SC
accesses. Completes: vld, vldu, vlds, vldlk. -/
def Obligations.LaneLoads : Prop :=
  ∀ (o : LaneOp) (s : State) (g : Nat),
    let m := Claim.lanes s g o.h
    let n := memBytes o
    let ext (b : List Byte) := extWord n (memSx o) (ofLeBytes b)
    (∀ ps, Claim.MemReady s g o (ruleVld o) →
      let t := Claim.after s g o (ruleVld o)
      let ads := globalAds o m (Claim.srcs s g o (ruleVld o))
      t.globalCheck g { path := some 0 } n false ads = .ok ps →
      (t.loadWaits g n ps = true → exec (.vld o) s = .next (t.waitFor 21)) ∧ (t.loadWaits g n ps = false →
      let bs := (((t.poolErrors (ps.map fun p => p.2.1)).l1Sync g).loadLanes g n (memCh o == 0) ads ps).2
      ∃ u p, Claim.MemDone s u (.vld o) g o (ruleVld o) ∧ Claim.OnlyPending s u g p ∧ p.zdst = [] ∧
        p.vdst = (bs.map fun b => Claim.landing s g o (memRegs o) b.1 (ext b.2)).flatten)) ∧
    (∀ ps, Claim.MemReady s g o (ruleVldu o) →
      let t := Claim.after s g o (ruleVldu o)
      let ads := globalAds o m (Claim.srcs s g o (ruleVldu o))
      t.globalCheck g { path := some 0 } n false ads = .ok ps → t.loadWaits g n ps = false →
      let bs := (((t.poolErrors ((ps.take 1).map fun p => p.2.1)).l1Sync g).loadLanes g n (memCh o == 0) ads (ps.take 1)).2
      ∃ u p, Claim.MemDone s u (.vldu o) g o (ruleVldu o) ∧ Claim.OnlyPending s u g p ∧ p.zdst = [] ∧
        p.vdst = (ps.map fun q => Claim.landing s g o (memRegs o) q.1 (ext (bs.headD (0, [])).2)).flatten) ∧
    (∀ offs, Claim.MemReady s g o (ruleVlds o) →
      let t := Claim.after s g o (ruleVlds o)
      t.spadCheck g n (spadAds o m (Claim.srcs s g o (ruleVlds o))) = .ok offs →
      let bs := (t.loadSpads g n offs).2
      ((s.group g).reg.divFrom = [] → bs = offs.map fun a => (a.1, s.loadS g a.2 n 0)) ∧
      ∃ u p, Claim.MemDone s u (.vlds o) g o (ruleVlds o) ∧ Claim.OnlyPending s u g p ∧
        p.vdst = (bs.map fun b => Claim.landing s g o (memRegs o) b.1 (ext b.2)).flatten ∧
        p.zdst = bs.map fun b => (vkey 3 b.1, BitVec.ofNat 32 (ext b.2))) ∧
    (∀ offs, Claim.MemReady s g o (ruleVldlk o) →
      let t := Claim.after s g o (ruleVldlk o)
      t.spadCheck g 4 (spadAds o m (Claim.srcs s g o (ruleVldlk o))) = .ok offs →
      ((∃ a ∈ offs, (s.lockBit g (lockOf a.2)).others g = true) → exec (.vldlk o) s = .next (t.waitLock g)) ∧
      ((∀ a ∈ offs, (s.lockBit g (lockOf a.2)).others g = false) → let bs := (t.loadSpads g n offs).2
        ∃ u p, Claim.MemDone s u (.vldlk o) g o (ruleVldlk o) ∧ Claim.OnlyPending s u g p ∧
        p.vdst = (bs.map fun b => Claim.landing s g o 1 b.1 (ext b.2)).flatten ∧
        p.zdst = (bs.map fun b => (vkey 3 b.1, BitVec.ofNat 32 (ext b.2))) ∧
        (∀ a ∈ offs, s.lockBit g (lockOf a.2) = .free → u.lockBit g (lockOf a.2) = .tentative g (s.group g).regen) ∧
        ∀ b, (∀ a ∈ offs, lockOf a.2 ≠ b) → u.lockBit g b = s.lockBit g b))

/-- R107, R246, R248, R29: VST, VSTS and VSTUL put one store in their region's buffer, with the bytes of every writing lane at the
address its operands give, in ascending lane order; no byte of memory or of a window has changed. VSTUL of a bit that is not the
group's is LOCK_NOT_HELD, and a full buffer STORE_BUFFER_FULL. Completes: vst, vsts, vstul. -/
def Obligations.LaneStores : Prop :=
  ∀ (o : LaneOp) (s : State) (g : Nat),
    let m := Claim.lanes s g o.h
    let w := (s.group g).writers m
    let holds (i : Instr) (r : LaneRule) (h : Held) :=
      (storeCount (s.group g).reg.held < 64 → ∃ u, Claim.MemDone s u i g o r ∧
        u = (Claim.after s g o r).modGroup g fun x => { x with reg := { x.reg with held := x.reg.held ++ [h] } }) ∧
      (64 ≤ storeCount (s.group g).reg.held →
        exec i s = .next ((Claim.after s g o r).raise .storeBufferFull { flm := s.thr.em }))
    (∀ ps, Claim.MemReady s g o (ruleVst o) →
      let vs := Claim.srcs s g o (ruleVst o)
      (Claim.after s g o (ruleVst o)).globalCheck g { write := true, path := some 0 } (memBytes o) false (globalAds o w vs) = .ok ps →
      holds (.vst o) (ruleVst o) (.store .ls (ps.map fun p => ⟨false, Tab.get 0 (globalAds o w vs) p.1, p.2.1, p.1, leBytes (memBytes o) (laneData vs p.1)⟩)
        [] true true (ps.any fun p => pteSc p.2.2))) ∧
    (∀ offs, Claim.MemReady s g o (ruleVsts o) →
      let vs := Claim.srcs s g o (ruleVsts o)
      (Claim.after s g o (ruleVsts o)).spadCheck g (memBytes o) (spadAds o w vs) = .ok offs →
      holds (.vsts o) (ruleVsts o) (.store .ls (offs.map fun a => ⟨true, BitVec.ofNat 64 a.2, 0, a.1, leBytes (memBytes o) (laneData vs a.1)⟩)
        [] true true false)) ∧
    (∀ offs, Claim.MemReady s g o (ruleVstul o) →
      let vs := Claim.srcs s g o (ruleVstul o)
      (Claim.after s g o (ruleVstul o)).spadCheck g 4 (spadAds o m vs) = .ok offs →
      ((∃ a ∈ offs, (s.lockBit g (lockOf a.2)).mine g = false) →
        ∃ f, exec (.vstul o) s = .next ((Claim.after s g o (ruleVstul o)).raise .lockNotHeld { flm := f })) ∧
      ((∀ a ∈ offs, (s.lockBit g (lockOf a.2)).mine g = true) →
        holds (.vstul o) (ruleVstul o) (.store .ls ((offs.filter fun a => w.getLsbD a.1).map fun a =>
          ⟨true, BitVec.ofNat 64 a.2, 0, a.1, leBytes 4 (laneData vs a.1)⟩) ((offs.map fun a => lockOf a.2).dedup) true true false)))

namespace Sys2Proof.Claim

/-- A window's byte as the group's own atomics see it: with its own buffered and handed-over stores (R92; log entry 97). -/
def ownByte (s : State) (g j : Nat) : Byte :=
  (overlayWrs true j [Tab.get 0 (s.team (s.group g).team).spad j] ((s.group g).ownWrs false)).headD 0

/-- Lanes' atomics on words of k bytes, one after the other, over a window: each lane's old value, and the window after the last. -/
def ladder (q : ReqOp) (wide : Bool) (k : Nat) : List AtLane → (Nat → Byte) → List (Nat × Nat) × (Nat → Byte)
  | [], v => ([], v)
  | a :: as_, v =>
    let old := ofLeBytes ((List.range k).map fun j => v (a.pa + j))
    let new := leBytes k (atomNew q wide old a.opnd.toNat a.swap.toNat)
    let r := ladder q wide k as_ fun j => if a.pa ≤ j ∧ j < a.pa + k then new.getD (j - a.pa) 0 else v j
    ((a.lane, old) :: r.1, r.2)

end Sys2Proof.Claim

/-- R249-R251, R30, R92, R16: VATOM and VFATOM. A global one is held for its commit, its destinations with RET empty until then; a
second of its region is ATOMIC_PLACEMENT. One on the scratchpad, which R30 does not bind, performs at issue, lane by lane in
ascending order, behind its region's own stores (log entry 97), the old values on their way to z3 and, with RET, to the
destination. In a deterministic launch VFATOM.ADD of global words goes to the launch's deterministic window, and is DET_RETURN
with RET. Where only helper lanes are active nothing is written. Completes: vatom, vfatom. -/
def Obligations.LaneAtomics : Prop :=
  ∀ (o : LaneOp) (s : State) (g : Nat),
    let m := Claim.lanes s g o.h
    let w := (s.group g).writers m
    let k := if memSz o = 3 then 8 else 4
    ∀ i r q cas, (i, r, q, cas) ∈ [(Instr.vatom o, ruleVatom [2, 3] 10 o, ReqOp.int (atomOpOf (memOp o)), memOp o == 9),
        (.vfatom o, ruleVatom [2] 3 o, .flt (memOp o), false)] →
      Claim.LaneReady s g o.h .other (usesOf r 32 o) (putOf r o) → m ≠ 0 →
      let det := q = .flt 0 ∧ (s.recOf g).flags.getLsbD 0 = true
      let t := Claim.after s g o r
      let vs := Claim.srcs s g o r
      (w = 0 → Claim.MemDone s t i g o r) ∧
      (∀ ps, w ≠ 0 → (s.group g).reg.atom = false → memSx o = false → ¬det →
        t.globalCheck g { write := true, path := some 0 } (memBytes o) false (globalAds o w vs) = .ok ps →
        ∃ u a, Claim.MemDone s u i g o r ∧ (u.group g).reg.held = (s.group g).reg.held ++ [.atom a] ∧ a.op = q ∧
          a.lanes = ps.map (fun p => atLane o cas vs p.1 (Tab.get 0 (globalAds o w vs) p.1) p.2.1) ∧ (u.group g).reg.atom = true ∧
          (memRet o = true → ∀ k ∈ (s.group g).putKeys ⟨o.d, memRegs o⟩ w, Tab.get false (u.group g).f.vempty k = true) ∧
          (u.group g).f.v = (s.group g).f.v ∧ (u.group g).thr = (s.group g).thr ∧ u.mem = s.mem ∧ u.teams = s.teams) ∧
      (w ≠ 0 → (s.group g).reg.atom = true → memSx o = false → ¬det → exec i s = .next (t.raise .atomicPlacement { flm := w })) ∧
      (∀ offs, w ≠ 0 → memSx o = true → t.spadCheck g (memBytes o) (spadAds o w vs) = .ok offs →
        (∀ a ∈ offs, ∀ b ∈ locksOf a.2 k, (s.lockBit g b).others g = false) → (s.group g).inflight = [] →
        (∀ a ∈ offs, s.unshown g a.2 k = false) →
        let run := Claim.ladder q (memSz o == 3) k (offs.map fun a => atLane o cas vs a.1 (BitVec.ofNat 64 a.2) a.2) (Claim.ownByte s g)
        ∃ u p, Claim.MemDone s u i g o r ∧ u.mem = s.mem ∧ (u.group g).thr = (s.group g).thr ∧ (u.group g).f.v = (s.group g).f.v ∧
          (u.group g).pend.map Pending.vdst = (s.group g).pend.map Pending.vdst ++ [p] ∧
          p = (if memRet o = true then (run.1.map fun e => Claim.landing s g o (memRegs o) e.1 e.2).flatten else []) ∧
          (u.group g).pend.getLast?.map Pending.zdst = some (run.1.map fun e => (vkey 3 e.1, BitVec.ofNat 32 e.2)) ∧
          (∀ e ∈ p, Tab.get false (u.group g).f.vempty e.1 = true) ∧
          (∀ a ∈ offs, ∀ j, a.2 ≤ j → j < a.2 + k → Tab.get 0 (u.team (s.group g).team).spad j = run.2 j) ∧
          ∀ j, (∀ a ∈ offs, j < a.2 ∨ a.2 + k ≤ j) → Tab.get 0 (u.team (s.group g).team).spad j = Tab.get 0 (s.team (s.group g).team).spad j) ∧
      (w ≠ 0 → memSx o = false → det → memRet o = true → exec i s = .next (t.raise .detReturn { flm := w })) ∧
      (∀ ps, w ≠ 0 → (s.group g).reg.atom = false → memSx o = false → det → memRet o = false →
        (∀ e ∈ globalAds o w vs, (s.recOf g).inWindow e.2 = true) →
        t.globalCheck g { write := true, path := some 0 } (memBytes o) false (globalAds o w vs) = .ok ps →
        ∃ u a, Claim.MemDone s u i g o r ∧ (u.group g).reg.held = (s.group g).reg.held ++ [.atom a] ∧ a.op = .det ∧ u.mem = s.mem)

/-- R16, R247, R252, R253: with no active lane VPREF and the other memory words only end; VPREF with active lanes keeps lines and
changes nothing else; VSETI and VINCI write the index register of every active lane and leave every other as it was. Completes:
vpref, vseti, vinci. -/
def Obligations.PrefetchAndIndex : Prop :=
  (∀ (o : LaneOp) (s : State) (g : Nat), Claim.LaneReady s g o.h .other (usesOf (ruleVpref o) 32 o) (putOf (ruleVpref o) o) →
    ∃ u : State, exec (.vpref o) s = .next (u.laneDone g o.h) ∧ (u.group g).f = (s.group g).f ∧ (u.group g).thr = (s.group g).thr ∧
      (u.group g).reg = (s.group g).reg ∧ u.mem = s.mem ∧ ∀ t, (u.team t).spad = (s.team t).spad) ∧
  (∀ (o : LaneOp) (s : State) (g : Nat) (i : Instr) (r : LaneRule),
    (i, r) ∈ [(Instr.vld o, ruleVld o), (.vst o, ruleVst o), (.vlds o, ruleVlds o), (.vsts o, ruleVsts o), (.vldlk o, ruleVldlk o),
      (.vstul o, ruleVstul o), (.vatom o, ruleVatom [2, 3] 10 o), (.vfatom o, ruleVatom [2] 3 o), (.vldu o, ruleVldu o),
      (.vpref o, ruleVpref o)] →
    Claim.LaneReady s g o.h .other (usesOf r 32 o) (putOf r o) → Claim.lanes s g o.h = 0 → exec i s = .next (s.laneDone g o.h)) ∧
  (∀ (h : LaneHdr) (n : BitVec 2) (s : State) (g : Nat) (i : Instr) (src : Option Src) (f : Nat → Nat → Nat),
    let us (m : Word) : List Use := match src with | some a => [Claim.use1 a .raw m] | none => []
    ((∃ v, i = .vinci h n v) → (s.group g).mismatch (idxKeys n.toNat (lanesOf (Claim.lanes s g h))) = none) →
    ((∃ a, i = .vseti h n (.reg a) ∧ src = some a ∧ ∀ w x, f w x = x % 2 ^ 24) ∨
     (∃ b len, i = .vseti h n (.imm b len) ∧ src = none ∧ ∀ w x, f w x = b.toNat * 2 ^ 8 + len.toNat * 2 ^ 16) ∨
     (∃ a, i = .vinci h n (.reg a) ∧ src = some a ∧ ∀ w x, f w x = w - w % 256 + (w + x) % 256) ∨
     (∃ k : Byte, i = .vinci h n (.imm k) ∧ src = none ∧ ∀ w x, f w x = w - w % 256 + (w + k.toNat) % 256)) →
    Claim.LaneReady s g h .basic us none →
    ∃ u : State, exec i s = .next (u.laneDone g h) ∧ u.mem = s.mem ∧ (u.group g).f.v = (s.group g).f.v ∧ (u.group g).thr = (s.group g).thr ∧
      ∀ k l, l < 32 → Tab.get 0 (u.group g).f.i (vkey k l) =
        if k = n.toNat ∧ (Claim.lanes s g h).getLsbD l = true then
          BitVec.ofNat 32 (f (Tab.get 0 (s.group g).f.i (vkey k l)).toNat (Claim.source s g h us 0 l))
        else Tab.get 0 (s.group g).f.i (vkey k l))

/-- R122, R254, R255, R121, R124: VDRAW gives each active lane the value that its draw state, its input vector and the launch's
mode decide, on its way to the destination, and advances the lane's draw state. A lane at its capacity is DRAW_LIMIT, and one
with 32 entries in its buffer DRAW_BUFFER_FULL (where both occur, the first: log entry 112); with no input vector, and in RECORD
mode, no input is read, and a read that faults or waits stops the word. VOUTCOME records the outcome of each active lane. Nothing
else of the lanes changes. -/
def Sys2Proof.Claim.DrawsAndOutcomes : Prop :=
  ∀ (o : LaneOp) (s : State) (g : Nat),
    let m := Claim.lanes s g o.h
    let lane (t : State) (l : Nat) : Lane := Tab.get Lane.zero (t.group g).lanes l
    let r := s.recOf g
    let site := LaneOp.xfield o 0 12
    (Claim.LaneReady s g o.h .other (fun _ => []) (putOf (ruleDraw o) o) →
      (m = 0 → exec (.vdraw o) s = .next (s.laneDone g o.h)) ∧
      ((∃ l, m.getLsbD l = true ∧ r.cap ≤ (lane s l).draw.count) → ∃ f : Word,
        (∀ l, l < 32 → f.getLsbD l = (m.getLsbD l && decide (r.cap ≤ (lane s l).draw.count))) ∧
        exec (.vdraw o) s = .next (s.raise .drawLimit { flm := f })) ∧
      ((∀ l, m.getLsbD l = true → (lane s l).draw.count < r.cap) → (∃ l, m.getLsbD l = true ∧ 32 ≤ (lane s l).draw.buf.length) → ∃ f : Word,
        (∀ l, l < 32 → f.getLsbD l = (m.getLsbD l && decide (32 ≤ (lane s l).draw.buf.length))) ∧
        exec (.vdraw o) s = .next (s.raise .drawBufferFull { flm := f })) ∧
      ((r.ivBase = 0 ∨ r.drawMode = 0) → s.drawInputs g (lanesOf m) = .ok (s, [], [])) ∧
      (∀ u, m ≠ 0 → (∀ l, m.getLsbD l = true → (lane s l).draw.count < r.cap ∧ (lane s l).draw.buf.length < 32) →
        s.drawInputs g (lanesOf m) = .error u → exec (.vdraw o) s = .next u) ∧
      (∀ t ns es, m ≠ 0 → (∀ l, m.getLsbD l = true → (lane s l).draw.count < r.cap ∧ (lane s l).draw.buf.length < 32) →
        s.drawInputs g (lanesOf m) = .ok (t, ns, es) →
        let d (l : Nat) := Draw.draw (lane s l).draw r.drawMode (Tab.get 0 ns l) site
          (freshDraw r.seed (lane s l).glid site (Tab.get 0 (lane s l).draw.occ site)) fun k => Tab.get 0 (Tab.get [] es l) k
        ∃ u p, exec (.vdraw o) s = .next (State.laneDone u g o.h) ∧
          (∀ l, l < 32 → lane u l = if m.getLsbD l = true then { lane s l with draw := (d l).1 } else lane s l) ∧
          (u.group g).pend.map Pending.vdst = (s.group g).pend.map Pending.vdst ++ [p] ∧
          p = ((lanesOf m).map fun l => cutRegs (((s.group g).mainDst ⟨o.d, 1⟩ l).getD 0) l (d l).2 1).flatten ∧
          (u.group g).f.v = (s.group g).f.v ∧ (u.group g).thr = (s.group g).thr ∧ u.mem = s.mem ∧ u.teams = s.teams)) ∧
    (Claim.LaneReady s g o.h .other (usesOf ruleOutcome 32 o) none →
      ∃ u, exec (.voutcome o) s = .next (State.laneDone u g o.h) ∧ u.mem = s.mem ∧ (u.group g).f = (s.group g).f ∧
        (u.group g).thr = (s.group g).thr ∧
        ∀ l, l < 32 → lane u l = if m.getLsbD l = true then
            { lane s l with draw := { (lane s l).draw with
                outcome := BitVec.ofNat 32 (Claim.source s g o.h (usesOf ruleOutcome 32 o) 0 l), oset := true } }
          else lane s l)

/-- R119, R122: what one draw does in each mode. RECORD (0) always takes the fresh value; LINEAR (1) takes the entry of its number
while the vector has it; SITE takes the first unused entry of its site and occurrence in the window of eight, marks it used, and
the cursor then passes every used entry in front of it. Every draw counts, counts its site's occurrence and buffers its entry. -/
def Sys2Proof.Claim.DrawModes : Prop :=
  ∀ (d : Draw) (mode n site fresh : Nat) (entry : Nat → Nat),
    let r := Draw.draw d mode n site fresh entry
    r.1.count = d.count + 1 ∧ r.1.buf.length = d.buf.length + 1 ∧ Tab.get 0 r.1.occ site = Tab.get 0 d.occ site + 1 ∧
    (∀ k, k ≠ site → Tab.get 0 r.1.occ k = Tab.get 0 d.occ k) ∧ r.1.outcome = d.outcome ∧ r.1.oset = d.oset ∧
    let out (fl : Nat) : Prop := r.1.buf = d.buf ++ [BitVec.ofNat 64
      (r.2 % 2 ^ 32 + 2 ^ 32 * (site % 2 ^ 12) + 2 ^ 44 * (Tab.get 0 d.occ site % 2 ^ 12) + 2 ^ 56 * fl)]
    let flags (e : Nat) : Nat := 2 * (e / 2 ^ 57 % 2) + 4 * (e / 2 ^ 58 % 2)
    (mode = 0 → r.2 = fresh ∧ r.1.fresh = d.fresh + 1 ∧ r.1.cursor = d.cursor ∧ r.1.used = d.used ∧ out 1) ∧
    (mode = 1 → d.count < n → r.2 = entry d.count % 2 ^ 32 ∧ r.1.fresh = d.fresh ∧ r.1.cursor = d.cursor ∧ r.1.used = d.used ∧
      out (flags (entry d.count))) ∧
    (mode = 1 → n ≤ d.count → r.2 = fresh ∧ r.1.fresh = d.fresh + 1 ∧ r.1.cursor = d.cursor ∧ r.1.used = d.used ∧ out 1) ∧
    (2 ≤ mode →
      let hit (j : Nat) : Prop := d.cursor + j < n ∧ d.used / 2 ^ j % 2 = 0 ∧ entry (d.cursor + j) / 2 ^ 32 % 2 ^ 12 = site ∧
        entry (d.cursor + j) / 2 ^ 44 % 2 ^ 12 = Tab.get 0 d.occ site % 2 ^ 12
      (∀ j, j < 8 → hit j → (∀ i, i < j → ¬hit i) → r.2 = entry (d.cursor + j) % 2 ^ 32 ∧ r.1.fresh = d.fresh ∧
        out (flags (entry (d.cursor + j))) ∧
        let m := d.used ||| 2 ^ j
        (d.used < 2 ^ 8 → ∃ k, (∀ i, i < k → m / 2 ^ i % 2 = 1) ∧ m / 2 ^ k % 2 = 0 ∧ r.1.cursor = d.cursor + k ∧ r.1.used = m / 2 ^ k)) ∧
      ((∀ j, j < 8 → ¬hit j) → r.2 = fresh ∧ r.1.fresh = d.fresh + 1 ∧ r.1.cursor = d.cursor ∧ r.1.used = d.used ∧ out 1))

/-- R122, R254, R255: what a draw does in each mode, and VDRAW and VOUTCOME. Completes: vdraw, voutcome. -/
def Obligations.DrawsAndOutcomes : Prop := Sys2Proof.Claim.DrawsAndOutcomes ∧ Sys2Proof.Claim.DrawModes

/-- R24, R256-R262: VCALL and VRET. After its commit, and once its live registers are full, a call whose site, targets, registers
and stacks pass their checks and whose Anvil commands have completed dissolves the group: it is gone, and every active lane is
in the bin of its target with its key and its live registers; VCALL pushes its continuation and the record of the lanes it finds
inactive, VRET pops the top entry and leaves the rest; those inactive lanes wait, each with its continuation, on a record that
counts the active ones (of VRET, log entry 94). With no active lane the word only ends its block. A call site that is not valid,
a VRET of a lane with nothing to return to, a target or continuation that is no function, a register beyond the allocation and a
full stack trap. Completes: vcall, vret. -/
def Obligations.CallsAndReturns : Prop :=
  ∀ (o : LaneOp) (s : State) (g : Nat) (call : Bool),
    let i : Instr := if call then .vcall o else .vret o
    let x := s.group g
    let m := Claim.lanes s g o.h
    Claim.LaneReady s g o.h .call (callUses x call o) none →
    let c := s.commit g
    let q := s.recOf g
    let site := LaneOp.xfield o 0 12
    let r := (c.readUses g m (callUses x call o m)).1
    let at_ (k l : Nat) := Tab.get 0 ((c.readUses g m (callUses x call o m)).2.getD k []) l
    let top (l : Nat) := (Tab.get Lane.zero x.lanes l).stack.head?
    let y := c.group g
    let lane (l : Nat) := Tab.get Lane.zero y.lanes l
    let tgt (l : Nat) := if call then at_ 0 l else ((top l).getD (0, none)).1
    let cont (l : Nat) := if call then at_ 1 l else ((top l).getD (0, none)).1
    let key (l : Nat) := if LaneOp.xbit o 12 = true then 0 else at_ (if call then 2 else 0) l
    (m = 0 → exec i s = .next (c.modGroup g fun x => { x with blk := none })) ∧
    (m ≠ 0 → (q.csCount ≤ site ∨ q.csBase = 0) → exec i s = .next (c.raise .callTable { flm := m })) ∧
    (∀ ps, m ≠ 0 → site < q.csCount → q.csBase ≠ 0 →
      c.tableRead g ((lanesOf m).map fun l => (l, q.csBase + BitVec.ofNat 64 (32 * site))) = .ok ps →
      siteRegs (c.rdBytes (ps.headD (0, 0, 0)).2.1 32) = none → exec i s = .next (c.raise .callTable { flm := m })) ∧
    (∀ u, m ≠ 0 → c.callSite g site m = .error u → exec i s = .next u) ∧
    (∀ regs, m ≠ 0 → c.callSite g site m = .ok regs →
      (c.callReady g x.present regs = false → exec i s = .next (c.waitFor 11)) ∧
      (c.callReady g x.present regs = true → x.mismatch (liveKeys regs x.present) = none → call = false → (∃ l, l < 32 ∧ x.present.getLsbD l = true ∧ top l = none) →
        ∃ f : Word, (∀ l, l < 32 → f.getLsbD l = (x.present.getLsbD l && decide (top l = none))) ∧
          exec i s = .next (c.raise .retEmpty { flm := f })) ∧
      (c.callReady g x.present regs = true → x.mismatch (liveKeys regs x.present) = none → (call = true ∨ ∀ l, l < 32 → x.present.getLsbD l = true → top l ≠ none) →
        (∀ l, l < 32 → m.getLsbD l = true → y.present.getLsbD l = true) →
        let reads := r.fnsRead g ((lanesOf m).map (fun l => (l, tgt l)) ++ (lanesOf x.present).map fun l => (l, cont l))
        (∀ u, reads = .error u → exec i s = .next u) ∧ (reads = .ok () →
        let fits (l : Nat) := ∃ e b a, c.function (c.launchOf g) (tgt l) = some (e, b, a) ∧ ∀ q ∈ regs, q < 16 * b
        let back (l : Nat) := call = true → (c.function (c.launchOf g) (cont l)).isSome = true
        ((∃ l, l < 32 ∧ (m.getLsbD l = true ∧ ¬fits l ∨ y.present.getLsbD l = true ∧ ¬back l)) →
          ∃ f, exec i s = .next (r.raise .callTarget { flm := f })) ∧
        ((∀ l, l < 32 → m.getLsbD l = true → fits l) → (∀ l, l < 32 → y.present.getLsbD l = true → back l) →
          ((∃ q ∈ regs, 16 * y.blocks ≤ q) → ∃ f, exec i s = .next (r.raise .regUnalloc { flm := f })) ∧
          ((∀ q ∈ regs, q < 16 * y.blocks) → call = true → (∃ l, l < 32 ∧ m.getLsbD l = true ∧ 8 ≤ (lane l).stack.length) →
            ∃ f, exec i s = .next (r.raise .callDepth { flm := f })) ∧
          ((∀ q ∈ regs, q < 16 * y.blocks) → (call = true → ∀ l, l < 32 → m.getLsbD l = true → (lane l).stack.length < 8) →
            (c.team y.team).recs.length < 64 →
            (y.mayDissolve = false → exec i s = .next (r.waitFor 11)) ∧
            (y.mayDissolve = true → ∃ u, exec i s = .next u ∧ Tab.look u.groups g = none ∧
              (∀ l, l < 32 → m.getLsbD l = true → ∀ e b a, c.function (c.launchOf g) (tgt l) = some (e, b, a) →
                ∃ n q, Tab.look (u.team y.team).bins (binKey e b a) = some n ∧ q ∈ n.lanes ∧ q.lane.glid = (lane l).glid ∧
                  q.regs = regs.map (fun r => (r, Tab.get 0 y.f.v (vkey r l))) ∧ q.key = key l % 2 ^ 16 ∧
                  (call = false → q.lane.stack = (lane l).stack.drop 1) ∧
                  (call = true → y.present &&& ~~~m = 0 → q.lane.stack = (cont l, none) :: (lane l).stack)) ∧
              (call = true → y.present &&& ~~~m ≠ 0 → ∃ k w, Tab.look (u.team y.team).recs k = some w ∧ w.count = count32 m ∧
                (∀ l, l < 32 → m.getLsbD l = true → ∀ e b a, c.function (c.launchOf g) (tgt l) = some (e, b, a) →
                  ∃ n q, Tab.look (u.team y.team).bins (binKey e b a) = some n ∧ q ∈ n.lanes ∧ q.lane.glid = (lane l).glid ∧
                    q.lane.stack = (cont l, some k) :: (lane l).stack) ∧
                ∀ l, l < 32 → y.present.getLsbD l = true → m.getLsbD l = false →
                  ∃ q, (cont l, q) ∈ w.waiting ∧ q.lane.glid = (lane l).glid ∧ q.key = key l % 2 ^ 16 ∧
                    q.lane.stack = (lane l).stack ∧ q.regs = regs.map fun r => (r, Tab.get 0 y.f.v (vkey r l)))))))))

/-- R144-R147, R263, R265, R17: VORDB takes the token of each active lane's pixel when no earlier fragment of it is still to release
its own, or to be emitted (log entry 102), and the token that a commit of the lane's has released has gone (log entry 46), and
waits until then; VORDE marks the tokens its lanes hold for release at the commit; a lane without a fragment is ORDER_CONTEXT.
VEXIT moves its lanes from em to xm at once, and the last one ends the group. Completes: vordb, vorde, vexit. -/
def Obligations.OrderAndExit : Prop :=
  ∀ (o : LaneOp) (s : State) (g : Nat),
    let m := Claim.lanes s g o.h
    let x := s.group g
    let frag (t : State) (l : Nat) := (Tab.get Lane.zero (t.group g).lanes l).frag
    (Claim.LaneReady s g o.h .other (fun _ => []) none →
      let cls := (s.recOf g).flags.toNat / 64 % 4
      let earlier (l : Nat) := x.released l = true ∨ ∃ f, frag s l = some f ∧ orderWaits cls (s.rasterDue (s.launchOf g)) (s.fragsOf (s.launchOf g)) f = true
      ((∃ l, l < 32 ∧ m.getLsbD l = true ∧ frag s l = none) →
        (∃ f, exec (.vordb o) s = .next (s.raise .orderContext { flm := f })) ∧
        ∃ f, exec (.vorde o) s = .next (s.raise .orderContext { flm := f })) ∧
      ((∀ l, l < 32 → m.getLsbD l = true → frag s l ≠ none) →
        ((∀ l, l < 32 → m.getLsbD l = true → ¬earlier l) →
          ∃ u, exec (.vordb o) s = .next (State.laneDone u g o.h) ∧ u.mem = s.mem ∧ (u.group g).thr = x.thr ∧ (u.group g).f = x.f ∧
            ∀ l, l < 32 → frag u l = if m.getLsbD l = true then
              (frag s l).map fun f => if f.helper = true ∨ 2 ≤ cls then f else { f with token := true, done := false } else frag s l) ∧
        ((∃ l, l < 32 ∧ m.getLsbD l = true ∧ earlier l) → ∃ u, exec (.vordb o) s = .next u ∧
          (u.group g).sch.wait = some (.retry 9) ∧ (u.group g).sch.orderFrom.isSome = true ∧ (u.group g).lanes = x.lanes ∧ u.mem = s.mem) ∧
        (∃ u, exec (.vorde o) s = .next (State.laneDone u g o.h) ∧ u.mem = s.mem ∧ (u.group g).lanes = x.lanes ∧ (u.group g).thr = x.thr ∧
          ∀ l, l < 32 → (u.group g).reg.orde.getLsbD l =
            (x.reg.orde.getLsbD l || (m.getLsbD l && match frag s l with | some f => f.token | none => false))))) ∧
    (Claim.LaneReady s g o.h .basic (fun _ => []) none →
      (x.xm ||| m ≠ 0xFFFFFFFF →
        ∃ u, exec (.vexit o) s = .next (State.laneDone u g o.h) ∧ (u.group g).xm = x.xm ||| m ∧ (u.group g).thr.em = x.thr.em &&& ~~~m ∧
          (u.group g).reg.exited = x.reg.exited ||| m ∧ u.mem = s.mem ∧ (u.group g).f = x.f) ∧
      (x.xm ||| m = 0xFFFFFFFF → m ≠ 0 →
        exec (.vexit o) s = .next ((s.modGroup g fun x =>
          { x with xm := x.xm ||| m, thr := { x.thr with em := x.thr.em &&& ~~~m },
                   reg := { x.reg with exited := x.reg.exited ||| m } }).startExit g)))

/-- R138, R264: mesh output. VMCNT of the lowest active lane declares the team's counts once, within the extension's limits; VMVTX
and VMPRIM hold their words for the commit, those of lanes within the counts; the excess is MESH_BOUND under MESHTRAP, with flm
its lanes, and raises MESH_OVERFLOW (flags bit 1, at the commit) otherwise; counts beyond the limits, a second declaration and
an attribute word that the draw does not have are MESH_BOUND whatever MESHTRAP holds; outside a mesh team every one of them is
MESH_BOUND. Completes: vmcnt, vmvtx, vmprim. -/
def Obligations.MeshOutput : Prop :=
  ∀ (o : LaneOp) (s : State) (g : Nat),
    let m := Claim.lanes s g o.h
    let tm := s.team (s.group g).team
    let us (k : BitVec 13) : Word → List Use := usesOf (ruleMesh k) 32 o
    let v (k : BitVec 13) (j l : Nat) := Claim.source s g o.h (us k) j l
    let l0 := (lanesOf m).headD 0
    let done (i : Instr) (k : BitVec 13) (u : State) := exec i s = .next ((u.popAll g m (us k m)).laneDone g o.h)
    let k := LaneOp.xfield o 0 6
    let bound (i : Instr) (q : BitVec 13) (lanes : Nat → Bool) := ∃ w : Word, (∀ l, l < 32 → w.getLsbD l = (m.getLsbD l && lanes l)) ∧
      exec i s = .next ((s.readUses g m (us q m)).1.raise .meshBound { flm := w })
    let flagged (u : State) (lanes : Nat → Bool) :=
      (u.group g).reg.fset = (s.group g).reg.fset ||| (if ∃ l ∈ lanesOf m, lanes l = true then 2 else 0)
    (∀ i q, (i, q) ∈ [(Instr.vmcnt o, (0 : BitVec 13)), (.vmvtx o, 0x3F), (.vmprim o, 0)] →
      Claim.LaneReady s g o.h .other (us q) none →
      (m = 0 → exec i s = .next (s.laneDone g o.h)) ∧
      (m ≠ 0 → tm.stage2 ≠ 2 → exec i s = .next (s.raise .meshBound { flm := m }))) ∧
    (m ≠ 0 → tm.stage2 = 2 →
      (Claim.LaneReady s g o.h .other (us 0) none → v 0 0 l0 ≤ (s.extOf g).maxV → v 0 1 l0 ≤ (s.extOf g).maxP → tm.mesh = none →
        ∃ u, done (.vmcnt o) 0 u ∧ (u.team (s.group g).team).mesh = some (v 0 0 l0, v 0 1 l0) ∧ (u.group g).reg.meshDecl = true ∧ u.mem = s.mem) ∧
      (Claim.LaneReady s g o.h .other (us 0) none → ((s.extOf g).maxV < v 0 0 l0 ∨ (s.extOf g).maxP < v 0 1 l0 ∨ tm.mesh.isSome = true) →
        bound (.vmcnt o) 0 (· == l0)) ∧
      (Claim.LaneReady s g o.h .other (us 0x3F) none → (s.extOf g).attrW ≤ k → bound (.vmvtx o) 0x3F fun _ => true) ∧
      (Claim.LaneReady s g o.h .other (us 0x3F) none → k < (s.extOf g).attrW →
        let excess (l : Nat) : Bool := decide ((tm.mesh.getD (0, 0)).1 ≤ v 0x3F 0 l)
        (((s.recOf g).meshTrap = false ∨ ∀ l ∈ lanesOf m, excess l = false) → ∃ u, done (.vmvtx o) 0x3F u ∧ u.mem = s.mem ∧ flagged u excess ∧
          (u.group g).reg.meshV = (s.group g).reg.meshV ++ ((lanesOf m).filter fun l => !excess l).map fun l =>
            (v 0x3F 0 l * 64 + k, BitVec.ofNat 32 (v 0x3F 1 l))) ∧
        ((s.recOf g).meshTrap = true → (∃ l ∈ lanesOf m, excess l = true) → bound (.vmvtx o) 0x3F excess)) ∧
      (Claim.LaneReady s g o.h .other (us 0) none →
        let excess (l : Nat) : Bool := decide ((tm.mesh.getD (0, 0)).2 ≤ v 0 0 l)
        let bad (l : Nat) : Bool := excess l || (List.range 3).any fun j => decide ((tm.mesh.getD (0, 0)).1 ≤ v 0 1 l / 2 ^ (8 * j) % 256)
        ((s.recOf g).meshTrap = true → (∃ l ∈ lanesOf m, bad l = true) → bound (.vmprim o) 0 bad) ∧
        (((s.recOf g).meshTrap = false ∨ ∀ l ∈ lanesOf m, bad l = false) → ∃ u, done (.vmprim o) 0 u ∧ u.mem = s.mem ∧ flagged u bad ∧
          (u.group g).reg.meshP = (s.group g).reg.meshP ++ ((lanesOf m).filter fun l => !excess l).map fun l =>
            (v 0 0 l, BitVec.ofNat 32 (v 0 1 l % 2 ^ 24)))))

namespace Sys2Proof.Claim

/-- A lane word answers a next state: it has made `u`, popped the queues its sources name, and ended. -/
def Done (s u : State) (i : Instr) (g : Nat) (h : LaneHdr) (us : Word → List Use) : Prop :=
  exec i s = .next ((u.popAll g (lanes s g h) (us (lanes s g h))).laneDone g h)

/-- `u` is `s` with command `i` at the end of the group's Anvil queue, made with its active lanes, its control or format word and
its rows; what it writes is empty from now on. No tile's contents, no register's value, no byte has changed. -/
structure Queued (s u : State) (g : Nat) (i : Instr) (m fw : Word) (rows : List (DWord × List (Nat × Nat))) : Prop where
  queue : ∃ c : AnvilCmd, (u.group g).anvil = (s.group g).anvil ++ [c] ∧ c.word = i ∧ c.act = m ∧ c.fw = fw ∧ c.rows = rows ∧
    c.committed = false ∧ c.started = false ∧ ∀ p ∈ c.writes, Tiles.isEmpty (u.group g).tl p = true
  tiles : (u.group g).tl.t = (s.group g).tl.t ∧ (u.group g).tl.a = (s.group g).tl.a ∧ (u.group g).tl.tc = (s.group g).tl.tc
  regs : (u.group g).f.v = (s.group g).f.v ∧ (u.group g).thr = (s.group g).thr
  mem : u.mem = s.mem
  windows : u.teams = s.teams

/-- The control word of the tile that an Anvil word names; an accumulator has none. -/
def tileCtl (s : State) (g : Nat) : TOp → Word
  | .t n => (s.group g).tl.ctl n
  | .a _ => 0

end Sys2Proof.Claim

/-- R267-R278: the nine Anvil words. With no active lane they only end. Past its own checks each one is the last command of its
group's queue, which holds 8 and is otherwise waited for; what it writes is empty; TST's entry is held for the commit; TTOV and
ATOV leave their registers empty until their words arrive. Completes: tld, tst, tzero, tmma, tmmas, ttov, vtot, atov, vtoa. -/
def Obligations.AnvilWords : Prop :=
  ∀ (o : LaneOp) (s : State) (g : Nat),
    let m := Claim.lanes s g o.h
    let x := s.group g
    let none_ : Word → List Use := fun _ => []
    let mv (tile load : Bool) : Word → List Use := usesOf (ruleTmov tile load o) 32 o
    let dst_ (tile : Bool) : Option Put := putOf (ruleTmov tile true o) o
    let l0 := (lanesOf m).headD 0
    (∀ i us d, (i, us, d) ∈ [(Instr.tld o, xferUses o, (none : Option Put)), (.tst o, xferUses o, none), (.tzero o, none_, none),
        (.tmma o, s.mmaUses o, none), (.tmmas o, s.mmaUses o, none), (.ttov o, mv true true, dst_ true), (.vtot o, mv true false, none),
        (.atov o, mv false true, dst_ false), (.vtoa o, mv false false, none)] →
      Claim.LaneReady s g o.h .anvil us d → m = 0 → exec i s = .next (s.laneDone g o.h)) ∧
    (∀ tst rows, let i : Instr := if tst then .tst o else .tld o
      let src := Claim.source s g o.h (xferUses o)
      let t := (s.readUses g m (xferUses o m)).1
      let tc := Claim.tileCtl s g (topOf o)
      let sparse := !LaneOp.xbit o 3 && tcSn tc != 0
      Claim.LaneReady s g o.h .anvil (xferUses o) none → m ≠ 0 → x.reg.atom = false →
      (tst = true → SrcReg.fe o.a.reg = true → Tiles.isEmpty x.tl (topOf o) = false) →
      t.xferCheck g m o tc tst (BitVec.ofNat 64 (src 0 l0)) (intOf true 32 (src 1 l0)) = .ok rows →
      (sparse = true → tst = false → masksOk tc (rows.flatMap fun r => t.xferRead g (LaneOp.xbit o 4) r.2) = true) →
      (8 ≤ x.anvil.length → exec i s = .next (t.waitFor 22)) ∧
      (x.anvil.length < 8 → (tst = true → storeCount x.reg.held < 64) → ∃ u, Claim.Done s u i g o.h (xferUses o) ∧
        Claim.Queued s u g i m tc rows ∧ (u.group g).reg.held = x.reg.held ++ if tst then [.tst x.nextCmd] else [])) ∧
    (Claim.LaneReady s g o.h .anvil none_ none → m ≠ 0 → x.anvil.length < 8 →
      ∃ u, Claim.Done s u (.tzero o) g o.h none_ ∧ Claim.Queued s u g (.tzero o) m 0 []) ∧
    (∀ sparse, let i : Instr := if sparse then .tmmas o else .tmma o
      let src := Claim.source s g o.h (s.mmaUses o)
      let w : Word := BitVec.ofNat 32 (src 0 l0)
      let ta := x.tl.ctl (LaneOp.xfield o 2 3)
      let tb := x.tl.ctl (LaneOp.xfield o 5 3)
      Claim.LaneReady s g o.h .anvil (s.mmaUses o) none → m ≠ 0 →
      (SrcReg.fe o.a.reg = true → ∀ p ∈ TOp.a (LaneOp.xfield o 0 2) :: mmaTiles o (pairB sparse (tcCols ta) (tcWidth ta)),
        Tiles.isEmpty x.tl p = false) →
      ((∃ l ∈ lanesOf m, (BitVec.ofNat 32 (src 0 l) : Word) ≠ w) → ∃ t f, exec i s = .next (State.raise t .formatDiverge { flm := f })) ∧
      ((∀ l ∈ lanesOf m, (BitVec.ofNat 32 (src 0 l) : Word) = w) →
        (fwFits w o sparse ta tb = false → ∃ t, exec i s = .next (State.raise t .formatInvalid { flm := m })) ∧
        (fwFits w o sparse ta tb = true → shapesOk x.tl o sparse w = true → (sparse = true → sparseOk ta = true) → x.anvil.length < 8 →
          ∃ u, Claim.Done s u i g o.h (s.mmaUses o) ∧ Claim.Queued s u g i m w []))) ∧
    (∀ i tile load, (i, tile, load) ∈ [(Instr.ttov o, true, true), (.vtot o, true, false), (.atov o, false, true), (.vtoa o, false, false)] →
      let tc := if tile then x.tl.ctl (LaneOp.xfield o 0 3) else 0
      Claim.LaneReady s g o.h .anvil (mv tile load) (if load then dst_ tile else none) → m ≠ 0 →
      (tile = true → tcSn tc ≠ 0 → ∃ t, exec i s = .next (State.raise t .tileConfig { flm := m })) ∧
      ((tile = true → tcSn tc = 0) → x.anvil.length < 8 → ∃ u, Claim.Done s u i g o.h (mv tile load) ∧ Claim.Queued s u g i m tc [] ∧
        (load = true → ∀ k ∈ x.putKeys ⟨o.d, moveN o⟩ m, Tab.get false (u.group g).f.vempty k = true)))

/-- R106, R279-R288: STAGE, CPYRED, CPYNET, RTRACE and REPLAY are held for their region's commit, with what their sources name;
RTRACE checks its slots and its counter first. RRES leaves its registers empty for the relaunches that it covers, and writes 0
where it covers none. RTRACE.SHADE stands at the end of a region; after its commit, its live registers being full and its Anvil
commands complete, it dissolves its group, and each active lane waits on its ray, which is released behind what the group has
handed over before it. Completes: stage, cpyred, cpynet, replay, rtrace, rres, rtraceShade. -/
def Obligations.EngineWords : Prop :=
  ∀ (o : LaneOp) (s : State) (g : Nat),
    let m := Claim.lanes s g o.h
    let x := s.group g
    let vs (r : LaneRule) := (s.readUses g m (usesOf r 32 o m)).2
    let kept (u : State) : Prop := (u.group g).thr = x.thr ∧ (u.group g).f = x.f ∧ u.mem = s.mem ∧ u.teams = s.teams
    (∀ i cls r c, (i, cls, r, c) ∈
        [(Instr.stage o, LaneClass.bellows, ruleBare, Cmd.stage),
         (.cpyred o, .bellows, ruleCpyred o, .cpyred (LaneOp.xfield o 0 2) o.fmt o.sat (snapVal m (vs (ruleCpyred o)) 0)
           ((snapVal m (vs (ruleCpyred o)) 1).setWidth 32)),
         (.cpynet o, .bellows, ruleCpynet o, .cpynet (snapVal m (vs (ruleCpynet o)) 0) (snapVal m (vs (ruleCpynet o)) 1)),
         (.replay o, .other, ruleReplay o, .replay (snapVal m (vs (ruleReplay o)) 0))] →
      Claim.LaneReady s g o.h cls (usesOf r 32 o) none →
      (m = 0 → exec i s = .next (s.laneDone g o.h)) ∧
      (m ≠ 0 → ∃ u, exec i s = .next (State.laneDone u g o.h) ∧ (u.group g).reg.held = x.reg.held ++ [.cmd c] ∧ kept u)) ∧
    (Claim.LaneReady s g o.h .other (usesOf (ruleRtrace false o) 32 o) none → m ≠ 0 →
      let a (l : Nat) : DWord := BitVec.ofNat 64 (Tab.get 0 ((vs (ruleRtrace false o)).getD 0 []) l)
      let c := snapVal m (vs (ruleRtrace false o)) 1
      ((2 ^ 58 ≤ c.toNat ∨ ∃ l ∈ lanesOf m, 2 ^ 58 ≤ (a l).toNat) → ∃ t i, exec (.rtrace o) s = .next (State.raise t .addrRange i)) ∧
      (c.toNat < 2 ^ 58 → (∀ l ∈ lanesOf m, (a l).toNat < 2 ^ 58) → (c.toNat % 8 ≠ 0 ∨ ∃ l ∈ lanesOf m, (a l).toNat % 128 ≠ 0) →
        ∃ t i, exec (.rtrace o) s = .next (State.raise t .misaligned i)) ∧
      (c.toNat < 2 ^ 58 → (∀ l ∈ lanesOf m, (a l).toNat < 2 ^ 58) → c.toNat % 8 = 0 → (∀ l ∈ lanesOf m, (a l).toNat % 128 = 0) →
        ∃ u, Claim.Done s u (.rtrace o) g o.h (usesOf (ruleRtrace false o) 32 o) ∧
          (u.group g).reg.held = x.reg.held ++ [.cmd (.rtrace ((lanesOf m).map fun l => ((Tab.get Lane.zero x.lanes l).glid, a l)) c)] ∧
          kept u)) ∧
    (Claim.LaneReady s g o.h .other (fun _ => []) (putOf ruleRres o) → m ≠ 0 →
      (s.uncovered g = [] → exec (.rres o) s = .next ((s.writeDst g ⟨o.d, 1⟩ ((lanesOf m).map fun l => (l, 0))).laneDone g o.h)) ∧
      (s.uncovered g ≠ [] → ∃ u p, exec (.rres o) s = .next (State.laneDone u g o.h) ∧
        (u.group g).pend.map Pending.rres = x.pend.map Pending.rres ++ [some (s.uncovered g)] ∧
        (u.group g).pend.map Pending.vdst = x.pend.map Pending.vdst ++ [p] ∧ p.map Prod.fst = x.putKeys ⟨o.d, 1⟩ m ∧
        (∀ k ∈ x.putKeys ⟨o.d, 1⟩ m, Tab.get false (u.group g).f.vempty k = true) ∧ (u.group g).f.v = x.f.v ∧ u.mem = s.mem)) ∧
    (Claim.LaneReady s g o.h .other (shadeUses x o) none → m ≠ 0 →
      let vs := (s.readUses g m (shadeUses x o m)).2
      let c := (s.readUses g m (shadeUses x o m)).1.commit g
      let a (l : Nat) : DWord := BitVec.ofNat 64 (Tab.get 0 (vs.getD 0 []) l)
      let y := c.group g
      (s.shadePlaced g = false → exec (.rtraceShade o) s = .next (s.raise .tracePlacement { flm := m })) ∧
      (∀ regs, s.shadePlaced g = true → (∀ l ∈ lanesOf m, (a l).toNat < 2 ^ 58 ∧ (a l).toNat % 128 = 0) →
        c.callSite g (LaneOp.xfield o 2 11) m = .ok regs →
        ((∃ q ∈ regs, q < 8) → exec (.rtraceShade o) s = .next (c.raise .callTable { flm := m })) ∧
        ((∀ q ∈ regs, 8 ≤ q) → c.callReady g x.present regs = false → exec (.rtraceShade o) s = .next (c.waitFor 11)) ∧
        ((∀ q ∈ regs, 8 ≤ q ∧ q < 16 * y.blocks) → c.callReady g x.present regs = true → y.mayDissolve = true →
          x.mismatch (liveKeys regs x.present) = none →
          c.fnsRead g ((lanesOf x.present).map fun l => (l, Tab.get 0 (vs.getD 2 []) l)) = .ok () →
          (∀ l, l < 32 → y.present.getLsbD l = true → (c.function (c.launchOf g) (Tab.get 0 (vs.getD 2 []) l)).isSome = true) →
          (∀ l ∈ lanesOf m, (Tab.get Lane.zero y.lanes l).stack.length < 8) → (c.team y.team).recs.length < 64 →
          ∃ u n z ks, exec (.rtraceShade o) s = .next u ∧ Tab.look u.groups g = none ∧ Tab.look u.groups n = some z ∧
            Held.cmd (.shade ks) ∈ z.inflight ∧ ∀ l ∈ lanesOf m, ∃ k r t q, k ∈ ks ∧ Tab.look u.rays k = some r ∧
            r.slot = a l ∧ r.shade = some (t, q) ∧ t = snapVal m vs 1 ∧ r.st = .held ∧ r.first = true ∧ r.team = y.team ∧
            q.lane.glid = (Tab.get Lane.zero y.lanes l).glid ∧ q.regs = regs.map (fun k => (k, Tab.get 0 y.f.v (vkey k l))) ∧
            q.lane.stack.head?.map Prod.fst = some (Tab.get 0 (vs.getD 2 []) l))))

namespace Sys2Proof.Claim

/-- The group has gone on from `c` past its wait, at `u`: LAST for a barrier, the ring's next slot, the next instruction, the
target of a YIELD; after EXIT it is gone. -/
def Resumed (c u : State) (g : Nat) : Wait → Prop
  | .barrier d l n => c.barPoison g (barKey l n) = false →
      (u.group g).thr = ((c.group g).thr.wr d (if (Tab.look (c.group g).arrivals (barKey l n)).isSome && c.isLast g (barKey l n) then 1 else 0)).next 4
  | .ring p k => ∀ r, c.ringOf g k = some r → (u.group g).thr = (c.group g).thr.next 4 ∧ u.ringOf g k = some (r.advance p)
  | .waitm | .sgrow _ => (u.group g).thr = (c.group g).thr.next 4 ∧ (u.group g).sch.wait = none
  | .yield a => (u.group g).thr = (c.group g).thr.jump a
  | .efence => (c.group g).impr = none → (u.group g).thr = (c.group g).thr.next 4 ∧ (u.core (c.coreOf g)).l1 = []
  | .exit => (c.group g).impr = none → Tab.look u.groups g = none
  | _ => True

end Sys2Proof.Claim

/-- R34, R351, R32, R33, R55, R330, R382: in one cycle of its die a scheduler issues once, from the ready group that no other ready
group comes before (promoted, class, residency); the cycle ends when every scheduler and service core with a thread to issue has
issued and been sampled, and each group that was ready in it and did not issue counts one cycle more. A group whose wait is over
goes on past it, and with the instruction after it in the same issue; a traced group may have to wait for its record (log entry
34). A soft error in one of a group's registers discards its region, and the third in a row ends its team. A service core takes
the thread after the last, which enters its handler for a pending event; thread 0 starts another. A group that has been ready
for 256 cycles is promoted, before its die's next cycle. The model's choices: one unit's issue in each step, the end of a cycle,
and the thread after the last (log entry 35); the upset that an ISSUE names (log entry 105); how a thread is started (log entry
93). Completes: issue, promotion. -/
def Obligations.IssueAndWaits : Prop :=
  (∀ (core sch : Nat) (soft : Option Word) (s : State), let u : IssueUnit := .sched core sch
    let d := dieOf core
    let n := 4 * core + sch
    (s.cycleOf u = none → exec (.issue u soft) s = .next s) ∧
    (core < 288 → sch < 4 → (s.die d).stopped = false → s.edgeDue d = false → s.readyOn core sch ≠ [] → n ∉ (s.die d).busy →
      s.cycleOf u = some s) ∧
    (core < 288 → sch < 4 → (s.die d).stopped = false → s.edgeDue d = false → (s.readyOn core sch = [] ∨ n ∈ (s.die d).busy) →
      s.cycleOf u = if s.cycleDone d = true ∧ s.clockOk d = true ∧ s.sampleDue d = false then some (s.tick d) else none) ∧
    (s.clockOk d = true → core < 288 → ((s.tick d).die d).cyc = (s.die d).cyc + 1 ∧ ((s.tick d).die d).busy = [] ∧
      ∀ g x, Tab.look s.groups g = some x → dieOf (s.team x.team).core = d →
        ((s.tick d).group g).sch.ready = if s.groupReady g x = true ∧ s.issuedNow g x = false then x.sch.ready + 1 else 0)) ∧
  (∀ (core sch : Nat) (soft : Option Word) (s t : State), core < 288 → sch < 4 → s.cycleOf (.sched core sch) = some t →
    (t.die (dieOf core)).stopped = false → t.edgeDue (dieOf core) = false →
    let rs := t.readyOn core sch
    let e : Instr := .issue (.sched core sch) soft
    (rs = [] → exec e s = .next t) ∧
    (rs ≠ [] → ∃ g ∈ rs, (∀ h ∈ rs, t.issuesBefore h g = false) ∧ ∃ u, exec e s = .next u ∧
      (soft = none → t.traceHeld g = true → u.cur = .none ∧ (u.group g).sch.wait = some (.retry 25) ∧ (u.group g).thr.pcs = (t.group g).thr.pcs ∧ u.mem = t.mem) ∧
      (soft = none → t.traceHeld g = false → (t.group g).sch.wait = none → u.cur = .group g ∧ u.groups = t.groups ∧ u.teams = t.teams ∧ u.mem = t.mem ∧
        4 * core + sch ∈ (u.die (dieOf core)).busy) ∧
      (∀ w, soft = none → t.traceHeld g = false → (t.group g).sch.wait = some w →
        u.cur = (if u.goes g = true then .group g else .none) ∧ (w ≠ .exit → u.mem = t.mem) ∧ Claim.Resumed t u g w) ∧
      (∀ r, soft = some r → (t.group g).soft < 2 → (t.group g).reg.opened = true →
        u.cur = .none ∧ (u.group g).soft = (t.group g).soft + 1 ∧ (u.group g).reg.held = [] ∧ (u.group g).thr.pcs = (t.group g).reg.entry) ∧
      (∀ r, soft = some r → 2 ≤ (t.group g).soft → (t.team (t.group g).team).over? = false →
        (u.team (t.group g).team).st = .terminated ∧ ∃ x ∈ u.faults, x.cause = .hardError ∧ x.aux32 = r))) ∧
  (∀ (core : Nat) (s t : State), core < 4 → s.cycleOf (.service core) = some t → (t.die 0).stopped = false → t.edgeDue 0 = false →
    let e : Instr := .issue (.service core) none
    ((∀ k ∈ t.svcOrder core, t.svcReady k = false) → exec e s = .next t) ∧
    (∀ k, (t.svcOrder core).find? t.svcReady = some k → ∃ u, exec e s = .next u ∧
      (∀ a rest, (t.svc k).evs = a :: rest → (t.svc k).due = true →
        Claim.Entered (t.svc k) (u.svc k) (t.svc k).thr.pcs (BitVec.ofNat 64 (2 ^ 26)) a ∧ (u.svc k).evs = rest) ∧
      ((t.svc k).due = false → (t.svc k).wait = none → u.cur = .svc k ∧ u.svcs = t.svcs ∧ u.groups = t.groups ∧ u.mem = t.mem))) ∧
  (∀ (core : Nat) (w : Word) (s : State), let k := 8 * core + w.toNat % 8
    core < 4 → k ≠ 0 → (s.svc 0).stopped = false → (s.svc 0).halted = false → (s.svc k).stopped = true →
    ∃ u, exec (.issue (.service core) (some w)) s = .next u ∧ (u.svc k).stopped = false ∧ (u.svc k).sstat.getLsbD 4 = true ∧
      (u.svc k).wait = none ∧ (∀ j, j ≠ k → u.svc j = s.svc j) ∧ u.groups = s.groups ∧ u.mem = s.mem) ∧
  (∀ (g : Nat) (s : State), (Tab.look s.groups g).isSome = true → s.groupReady g (s.group g) = true → (s.group g).sch.promoted = none →
    256 ≤ (s.group g).sch.ready →
    ∃ u, exec (.promotion g) s = .next u ∧ (u.group g).sch.promoted = some (s.die (dieOf (s.coreOf g))).cyc ∧ u.teams = s.teams ∧
      ∀ h, h ≠ g → u.group h = s.group h)

namespace Sys2Proof.Claim

/-- What a flit brings enters the core domain of die `d` now: its clock runs, and nothing that came before waits (R399). -/
def Enters (s : State) (d : Nat) (f : Flit) : Prop :=
  (s.die d).stopped = false ∧ ((s.die d).fifo.filter (s.flitLive d)).head?.all (· == f) = true

/-- A flit waits at die `d`, behind its restart and what came before it; nothing else has happened. -/
def FlitWaits (s u : State) (d : Nat) (f : Flit) : Prop :=
  f ∈ (u.die d).fifo ∧ u.groups = s.groups ∧ u.teams = s.teams ∧ u.rays = s.rays ∧ u.notices = s.notices ∧ u.mem = s.mem

end Sys2Proof.Claim

/-- R28, R53, R91, R93, R98, R99, R107, R109, R209, R286, R388, R389, R394, R399, R409: what a group has handed over performs when
nothing in front of it forbids it, its core's clock runs where the effect is in the core, and no retraining link holds it, and
waits otherwise; a store then changes its own bytes alone. Values land in their registers, which are full again; those that
reach a die whose clock is stopped wait, and enter in the order of their arrival. A unit applies a request, whole, to the words
its lanes name; where the gate of a replay opens, it opens for the rest. A VLDLK tries again after its eight cycles, and a
monitor fires once its N64 has reached the threshold. Completes: storePerformed, longLatencyWrite, atomicRequest, orderGate,
vldlkRetry, monitorFire. -/
def Obligations.AccessesPerform : Prop :=
  (∀ (g n : Nat) (s : State) (h : Held), (s.group g).inflight[n]? = some h →
    let e : Instr := .storePerformed g n
    let ready := (s.team (s.group g).team).onCore = true ∧ (h.inCore = true → s.still (s.coreOf g) = false) ∧ s.linkHeld h = false ∧
      s.mayPerform g ((s.group g).inflight.take n) h = true
    (¬ready → exec e s = .next s) ∧
    (ready → ∃ u, exec e s = .next u ∧
      (∀ p ws ls b c d, h = .store p ws ls b c d →
        (u.group g).inflight = (s.group g).inflight.eraseIdx n ∧ (∀ j, j ≠ (s.group g).team → (u.team j).spad = (s.team j).spad) ∧
        (∀ a, (∀ w ∈ ws, w.spad = true ∨ a < w.pa ∨ w.pa + w.data.length ≤ a) → u.rdByte a = s.rdByte a) ∧
        (∀ w, ws = [w] → w.spad = false → s.isBad w.pa w.data.length = false → u.rdBytes w.pa w.data.length = w.data) ∧
        (∀ w, ws = [w] → w.spad = true → takeBytes (u.team (s.group g).team).spad w.va.toNat w.data.length = w.data)) ∧
      (∀ r, h = .atom r → r.g = g → r.op ≠ .det → (u.group g).outAt = (s.group g).outAt + r.parts.length ∧ u.mem = s.mem) ∧
      (∀ ks, h = .cmd (.shade ks) → ∀ k ∈ ks, ∀ r : Ray, Tab.look s.rays k = some r → r.st = RayState.held →
        Tab.look u.rays k = some { r with st := .queued }) ∧
      (h = .cmd .stage → (s.team (s.group g).team).stage < 2 ^ 56 - 1 → (u.team (s.group g).team).stage = (s.team (s.group g).team).stage + 1) ∧
      (∀ k, h = .arrive k → s.poisoned (s.group g).team k = false → Tab.look (u.group g).arrivals k = some (s.phaseOf (s.group g).team k)))) ∧
  (∀ (g n : Nat) (s : State) (p : Pending), (s.group g).pend.find? (fun q => q.id == n) = some p → p.rres = none → p.bad = [] →
    let d := dieOf (s.coreOf g)
    (¬Claim.Enters s d (.value g n) → ∃ u, exec (.longLatencyWrite (.group g) n) s = .next u ∧ Claim.FlitWaits s u d (.value g n)) ∧
    (Claim.Enters s d (.value g n) → ∃ u, exec (.longLatencyWrite (.group g) n) s = .next u ∧ u.mem = s.mem ∧ u.teams = s.teams ∧
      (u.group g).pend = (s.group g).pend.filter (fun q => q.id != p.id) ∧
      (∀ x ∈ p.vdst, Tab.get false (u.group g).f.vempty x.1 = false) ∧
      ((p.vdst.map Prod.fst).Nodup → ∀ x ∈ p.vdst, Tab.get 0 (u.group g).f.v x.1 = x.2) ∧
      (∀ k, k ∉ p.vdst.map Prod.fst → Tab.get 0 (u.group g).f.v k = Tab.get 0 (s.group g).f.v k) ∧
      (u.group g).thr = match p.sdst with | some (d, v) => (s.group g).thr.wr d v | none => (s.group g).thr)) ∧
  (∀ (u n : Nat) (s : State) (r : AtReq), (Tab.get [] s.units u)[n]? = some r → earlierOwn (Tab.get [] s.units u) n r.g = false →
    let held := r.lanes.any fun a => s.linkHolds a.pa r.size
    (s.gate r.launch u r.req = .pass → held = false → ∃ t, exec (.atomicRequest u n) s = .next t ∧
      ((s.launch r.launch).rr.mode = 0 →
        (∀ m, r.op ≠ .schunk m) → (∀ k, (∀ a ∈ r.lanes, k < a.pa ∨ a.pa + r.size ≤ k) → t.rdByte k = s.rdByte k) ∧
          ∀ a, r.lanes = [a] → s.isBad a.pa r.size = false →
            t.rdLe a.pa r.size = atomNew r.op r.wide (s.rdLe a.pa r.size) a.opnd.toNat a.swap.toNat % 2 ^ (8 * r.size)) ∧
      ((s.launch r.launch).rr.mode = 0 → ∀ m a b, r.op = .schunk m → r.lanes = [a, b] → s.isBad a.pa 8 = false → s.isBad b.pa 8 = false →
        t.rdLe a.pa 8 = (s.rdLe a.pa 8 + chunk (s.rdLe a.pa 8) (s.rdLe b.pa 8) m.toNat (s.liveTeams r.launch)) % 2 ^ 64)) ∧
    ((s.gate r.launch u r.req ≠ .pass ∨ held = true) → exec (.atomicRequest u n) s = .next s)) ∧
  (∀ (u n : Nat) (s : State) (r : AtReq), (Tab.get [] s.units u)[n]? = some r →
    (∀ w, s.gate r.launch u r.req = .opens w → ∃ t, exec (.orderGate u n) s = .next t ∧
      (Tab.get RrLog.zero (t.launch r.launch).logs u).stopped = true ∧ t.units = s.units) ∧
    ((∀ w, s.gate r.launch u r.req ≠ .opens w) → exec (.orderGate u n) s = .next s)) ∧
  (∀ (g : Nat) (s : State), (s.group g).sch.wait = some (.retry 14) → (s.group g).sch.retryAt ≤ (s.die (dieOf (s.coreOf g))).cyc →
    s.still (s.coreOf g) = false → exec (.vldlkRetry g) s = .next (s.modGroup g fun y => { y with sch := { y.sch with wait := none } })) ∧
  (∀ (g : Nat) (s : State), (Tab.look s.groups g).isSome = true → (s.group g).mon.armed = true → ∃ u, exec (.monitorFire (.group g)) s = .next u ∧
    ((u.group g).mon.fired = true ↔ (s.group g).mon.fired = true ∨ (s.group g).mon.thr.toNat ≤ s.watched (some g) (s.group g).team (s.group g).mon) ∧
    (u.group g).thr = (s.group g).thr ∧ ∀ h, h ≠ g → u.group h = s.group h)

/-- R25, R26, R46-R48, R203, R394, R399, R400, R13: while a core's clock runs, a bin that has received no lane for 512 cycles is
ready since then; the first ready bin whose resources are there forms its group, of its first 32 lanes in order, at its entry
point. The arbiter grants its first request whole, and its group goes on, or waits, the two kinds of request in the order of
their arrival; a deadlock among groups in SGROW vacates the latest team; a write that lands in a quarantined block counts down,
and the last frees it. The agent counts arrivals and completes a phase with the last one; a notice brings it. Completes:
swageHoldExpiry, swageGroupFormation, registerGrant, sgrowDeadlockPreempt, quarantineRelease, barrierArrival, barrierNotice. -/
def Obligations.TeamEvents : Prop :=
  (∀ (t key : Nat) (s : State) (b : Bin), Tab.look (s.team t).bins key = some b →
    ((s.team t).st = .running → s.still (s.team t).core = false → b.ready = none → b.lanes ≠ [] → b.lastAt + 512 ≤ s.cycOf t →
      ∃ u, exec (.swageHoldExpiry t key) s = .next u ∧ Tab.look (u.team t).bins key = some { b with ready := some (b.lastAt + 512) } ∧
        u.groups = s.groups ∧ u.mem = s.mem) ∧
    ((b.ready.isSome = true ∨ s.cycOf t < b.lastAt + 512) → exec (.swageHoldExpiry t key) s = .next s) ∧
    (∀ i, (s.team t).freeIdx = some i → (s.team t).st = .running → s.still (s.team t).core = false →
      (∀ e ∈ s.teams, e.2.core = (s.team t).core → e.2.st = .running → ∀ k ∈ e.2.bins, Bin.holdOver k.2 (s.cycOf e.1) = false) → s.canForm t b = true →
      (∀ e ∈ (s.team t).bins, Bin.before e.2 b = true → s.canForm t e.2 = false) →
      (∀ e ∈ s.askingBins (s.team t).core, e.1 ≠ t → (s.binKeyOf e.1 e.2).before (s.binKeyOf t b) = false) →
      (∀ j, s.growGrant (s.team t).core = some j → j.before (s.binKeyOf t b) = false) →
      ∃ u, exec (.swageGroupFormation t key) s = .next u ∧
        let x := u.group (groupKey t i)
        let ls := (b.lanes.take 32).zipIdx
        x.team = t ∧ x.gidx = i ∧ x.thr.pcs = b.entry ∧ x.blocks = b.blocks ∧ x.thr.em = BitVec.ofNat 32 (2 ^ ls.length - 1) ∧
        x.xm = ~~~x.thr.em ∧ (∀ e ∈ ls, Tab.get Lane.zero x.lanes e.2 =
          if (s.team t).stage2 = 4 ∧ e.1.lane.entry = 0 then { e.1.lane with entry := b.entry } else e.1.lane) ∧
        (u.core (s.team t).core).used = (s.core (s.team t).core).used + b.blocks ∧ Tab.look (u.team t).groups i = some (groupKey t i) ∧
        u.mem = s.mem ∧ ∀ h, h ≠ groupKey t i → u.group h = s.group h) ∧
    (s.formNext t b = false → exec (.swageGroupFormation t key) s = .next s)) ∧
  (∀ (core : Nat) (s : State), let e : Instr := .registerGrant core
    ((s.core core).arb = [] → exec e s = .next s) ∧
    (s.still core = true → exec e s = .next s) ∧
    (∀ g b c rest, (s.core core).arb = .sgrow g b c :: rest → (s.group g).sch.wait = some (.sgrow b) → s.coreOf g = core →
      let n := b - (s.group g).blocks
      (512 < (s.core core).used + n → exec e s = .next s) ∧
      ((∃ k ∈ s.askingBins core, s.formFirst k.1 k.2 = true ∧ (s.binKeyOf k.1 k.2).before (c, g % 4, g % 16) = true) → exec e s = .next s) ∧
      ((s.core core).used + n ≤ 512 → s.still core = false → s.holdDue core = false →
        (∀ k ∈ s.askingBins core, s.formFirst k.1 k.2 = true → (s.binKeyOf k.1 k.2).before (c, g % 4, g % 16) = false) → ∃ u, exec e s = .next u ∧ (u.group g).blocks = max (s.group g).blocks b ∧
        (u.group g).thr = (s.group g).thr.next 4 ∧ (u.group g).sch.wait = none ∧ (u.core core).used = (s.core core).used + n ∧ (u.core core).arb = rest ∧ u.mem = s.mem))) ∧
  (∀ (core a : Nat) (s : State), let ts := s.runningOn core
    let t := s.latestTeam ts
    let p := s.partOfTeam t
    s.groupsOn core ≠ [] → ts ≠ [] → (∀ e ∈ s.groupsOn core, e.2.growing = true) → (s.core core).quar = [] → s.arbFree core = false →
    s.roomFor p [t] (s.imageAreas p) = some [(t, a)] →
    ∃ u, exec (.sgrowDeadlockPreempt core) s = .next u ∧ (u.team t).st = .vacating ∧ (u.team t).image = some a) ∧
  (∀ (core n b w : Nat) (s : State), (s.core core).quar[n]? = some (b, w) → s.still core = false → ∃ u, exec (.quarantineRelease core n) s = .next u ∧
    (u.core core).quar = (if w ≤ 1 then (s.core core).quar.eraseIdx n else (s.core core).quar.set n (b, w - 1)) ∧
    (u.core core).used = (if w ≤ 1 then (s.core core).used - 1 else (s.core core).used) ∧ u.groups = s.groups ∧ u.mem = s.mem) ∧
  (∀ (n : Nat) (s : State) (m : BarMsg), s.arrivals[n]? = some m →
    let k := xKey m.level m.unit m.n
    let b := (s.launch m.launch).xbar k
    let ps := s.participants m.launch m.level m.unit
    ((s.team (teamKey m.launch m.team)).over? = true ∨ b.poisoned = true →
      exec (.barrierArrival n) s = .next { s with arrivals := s.arrivals.eraseIdx n }) ∧
    ((s.team (teamKey m.launch m.team)).over? = false → b.poisoned = false → ∃ u, exec (.barrierArrival n) s = .next u ∧
      u.arrivals = s.arrivals.eraseIdx n ∧
      ((∃ i ∈ ps, i ∉ b.arrived ++ [m.team]) → ((u.launch m.launch).xbar k).phase = b.phase ∧
        ((u.launch m.launch).xbar k).arrived = b.arrived ++ [m.team] ∧ u.notices = s.notices) ∧
      ((∀ i ∈ ps, i ∈ b.arrived ++ [m.team]) → ((u.launch m.launch).xbar k).phase = b.phase + 1 ∧
        ((u.launch m.launch).xbar k).arrived = [] ∧ u.notices = s.notices ++ ps.map fun i => ⟨m.launch, m.level, m.unit, m.n, i, b.phase + 1⟩))) ∧
  (∀ (n : Nat) (s : State) (m : BarMsg), s.notices[n]? = some m →
    let t := teamKey m.launch m.team
    let d := dieOf (s.team t).core
    ((s.team t).onCore = true → ¬Claim.Enters s d (.notice m) → ∃ u, exec (.barrierNotice n) s = .next u ∧ Claim.FlitWaits s u d (.notice m)) ∧
    (((s.team t).onCore = false ∨ Claim.Enters s d (.notice m)) → ∃ u, exec (.barrierNotice n) s = .next u ∧
      u.notices = s.notices.eraseIdx n ∧ u.phaseOf t (barKey m.level m.n) = max (s.phaseOf t (barKey m.level m.n)) m.phase))

/-- R101-R103, R268, R273, R276, R277, R281, R283, R394, R405, R406: while its core's clock runs, the first queued command that may
run completes and leaves the queue, a TLD once it has read its words: a product's active rows take the rounded sums of their
blocks, TZERO's operand is zero. A gated command starts when its phase has completed; a poisoned barrier cancels it and every
later one. A copy moves its words, one a step in a free order (log entry 56), and then stamps, unless a retraining link holds it
(log entry 92); a copy fault goes to the context and ends the team. A reduction whose number is the expected one updates its
elements, one a step, and then stamps. A network copy is sent when no earlier one of its class and admission waits, and then
stamps its confirmation or its failure, which ends no team; a peer's write reaches the context of its job. Completes:
anvilCommandComplete, gatedCommandStart, copyComplete, copyFault, reductionApply, cpynetTransmit, cpynetConfirm, cpynetFail,
rmaWriteReceive. -/
def Obligations.EngineEvents : Prop :=
  (∀ (g : Nat) (s : State), let x := s.group g
    ((pickCmd [] x.anvil = none ∨ s.still (s.coreOf g) = true) → exec (.anvilCommandComplete g) s = .next s) ∧
    (∀ c o, pickCmd [] x.anvil = some c → s.still (s.coreOf g) = false → c.toRead ≠ [] → c.word = .tld o →
      (∀ a ∈ c.wordsAt, LaneOp.xbit o 4 = true ∨ s.linkHolds a 4 = false) → ∃ u w, exec (.anvilCommandComplete g) s = .next u ∧ w ∈ c.toRead ∧
        u.mem = s.mem ∧ (u.group g).tl = x.tl ∧ (u.group g).anvil = x.anvil.map fun d => if d.id = c.id then
          { d with got := Tab.put d.got w (BitVec.ofNat 32 (ofLeBytes (s.xferRead g (LaneOp.xbit o 4) [(c.wordsAt.getD w 0, 4)]))) } else d) ∧
    (∀ c, pickCmd [] x.anvil = some c → s.still (s.coreOf g) = false → c.toRead = [] → ∃ u, exec (.anvilCommandComplete g) s = .next u ∧ u.mem = s.mem ∧
      (u.group g).anvil.map (fun d => (d.id, d.word)) = (x.anvil.filter (fun d => d.id != c.id)).map (fun d => (d.id, d.word)) ∧
      (∀ o n, c.word = .tzero o → topOf o = .a n → ∀ k, Tab.get 0 (u.group g).tl.a k = if k / 1024 = n then 0 else Tab.get 0 x.tl.a k) ∧
      (∀ o sparse, c.word = (if sparse then .tmmas o else .tmma o) → (fwSn c.fw != 0) = sparse →
        let w := fwWidth c.fw
        let a := LaneOp.xfield o 2 3
        let b := LaneOp.xfield o 5 3
        let y := c.view x.tl
        let ra (i : Nat) := if sparse then y.sparseRow a i c.kdim w (8 * fwSn c.fw) else y.denseRow a i c.kdim w
        let rb (j : Nat) := if pairB sparse c.kdim w then y.denseRow b j (c.kdim / 2) w ++ y.denseRow (b + 1) j (c.kdim / 2) w
          else y.denseRow b j c.kdim w
        ∀ n i j, i < 32 → j < 32 → (u.group g).tl.acc n i j =
          if n = LaneOp.xfield o 0 2 ∧ c.act.getLsbD i = true then
            BitVec.ofNat 32 (mmaElem c (LaneOp.xfield o 8 2) o.sat (ra i) (rb j) i j (y.acc n i j).toNat).1
          else x.tl.acc n i j)) ∧
    (∀ c, firstGated x.anvil = some c →
      (((s.team x.team).onCore = false ∨ s.still (s.coreOf g) = true ∨ s.gateOf g c = .wait) → exec (.gatedCommandStart g) s = .next s) ∧
      ((s.team x.team).onCore = true → s.still (s.coreOf g) = false → s.gateOf g c = .go → ∃ u, exec (.gatedCommandStart g) s = .next u ∧
        (u.group g).anvil = x.anvil.map fun d => if d.id = c.id then { d with started := true } else d) ∧
      ((s.team x.team).onCore = true → s.still (s.coreOf g) = false → s.gateOf g c = .poison → pickCmd [] (x.anvil.takeWhile fun d => d.id != c.id) = none → ∃ u, exec (.gatedCommandStart g) s = .next u ∧ u.mem = s.mem ∧
        ∀ d ∈ x.anvil.dropWhile (fun d => d.id != c.id), ∀ e ∈ (u.group g).anvil, e.id ≠ d.id))) ∧
  (∀ (t n : Nat) (s : State), (s.team t).over? = false →
    let ends (e : Instr) (b : Bad) : Prop := ∃ u, exec e s = .next u ∧ (u.team t).st = .terminated ∧ ∃ r ∈ u.faults, r.cause = b.1 ∧ r.addr = b.2.1
    (∀ e c j x left, Tab.look (s.team t).copies n = some (.sched e c j x left) →
      let k := (s.team t).idx
      let waits := s.copyHeld t x j left = true ∨ s.still (s.team t).core = true
      (waits → exec (.copyComplete t n) s = .next s) ∧
      (∀ b, s.copyStep t x e c j left = .error b → (¬waits → ends (.copyComplete t n) b) ∧ ends (.copyFault t n .none) b) ∧
      (∀ v, s.copyStep t x e c j left = .ok v → exec (.copyFault t n .none) s = .next s) ∧
      (¬waits →
        (∀ w bs, s.copyPick x left = some w → s.copyRead t 1 x.sspad (x.src k j w) 4 = .ok bs →
          (∀ v ws, s.copyStep t x e c j left = .ok (v, some ws) → ∃ u, exec (.copyComplete t n) s = .next u ∧ u.mem = v.mem ∧
            ws = (left.getD (List.range x.count)).erase w ∧ Tab.look (u.team t).copies n = some (.sched e c j x (some ws))) ∧
          (x.dspad = true → (x.dst k j w).toNat + 4 ≤ (s.team t).size → bs.length = 4 → ∃ u, exec (.copyComplete t n) s = .next u ∧ u.mem = s.mem ∧
            takeBytes (u.team t).spad (x.dst k j w).toNat 4 = bs)) ∧
        (∀ v, s.copyPick x left = none → s.copyStep t x e c j left = .ok (v, none) → ∃ u, exec (.copyComplete t n) s = .next u ∧ u.mem = v.mem ∧
          Tab.look (u.team t).copies n = none ∧
          (x.stspad = true → takeBytes (u.team t).spad x.stampa.toNat 8 = leBytes 8 ((c + 1) * 256 + e))))) ∧
    (∀ c, Tab.look (s.team t).copies n = some c → ∀ k cause, (k, cause) ∈ [(CopyErr.memory, Cause.copyMemory), (.cxl, .copyCxl)] →
      (s.copyAddr t c cause = none → exec (.copyFault t n k) s = .next s) ∧
      ∀ a, s.copyAddr t c cause = some a → ends (.copyFault t n k) (cause, a, none) ∧
        ∃ sp, (sp, a) ∈ s.copyAts t c ∧ (sp = true → cause ≠ .copyCxl)) ∧
    (∀ g d v late b x, Tab.look (s.team t).copies n = some (.net g d v x b late) →
      let waits := s.still (s.team t).core = true ∨ s.time (dieOf (s.team t).core) < x.relt ∨ s.copyBehind t x.sspad x.src x.bytes = true ∨
        s.netBehind t x = true ∨ s.netYields t x = true
      (b = false → waits → exec (.cpynetTransmit t n) s = .next s) ∧
      (∀ bs, b = false → ¬waits → s.copyRead t 1 x.sspad x.src x.bytes = .ok bs →
        ∃ u, exec (.cpynetTransmit t n) s = .next u ∧ Tab.look (u.team t).copies n = some (.net g d v x true late) ∧ u.mem = s.mem) ∧
      (∀ f, b = false → ¬waits → s.copyRead t 1 x.sspad x.src x.bytes = .error f → ends (.cpynetTransmit t n) f) ∧
      (∀ e failed, (e, failed) ∈ [(Instr.cpynetConfirm t n, false), (.cpynetFail t n, true)] → b = true → s.still (s.team t).core = false →
        (x.lstamp = 0 → ∃ u, exec e s = .next u ∧ Tab.look (u.team t).copies n = none ∧ u.mem = s.mem ∧ (u.team t).st = (s.team t).st ∧
          (failed = true → ∃ r ∈ u.faults, r.cause = .netFail ∧ r.aux32 = 0 ∧ r.aux64 = d)) ∧
        (x.lstamp ≠ 0 → x.lspad = true → x.lstamp.toNat + 8 ≤ (s.team t).size → ∃ u, exec e s = .next u ∧
          Tab.look (u.team t).copies n = none ∧ takeBytes (u.team t).spad x.lstamp.toNat 8 =
            leBytes 8 (v ||| (if late then 0x4000000000000000 else 0) ||| (if failed then 0x8000000000000000 else 0) : DWord).toNat)))) ∧
  (∀ (l r : Nat) (s : State) (x : Reduction), Tab.look (s.launch l).reds r = some x →
    let want := Tab.get 0 (s.launch l).rexp x.region
    (want < x.n → exec (.reductionApply l r) s = .next s) ∧
    (x.n < want → (s.team x.team).over? = false → ∃ u, exec (.reductionApply l r) s = .next u ∧ (u.team x.team).st = .terminated ∧
      ∃ f ∈ u.faults, f.cause = .reduceSeq) ∧
    let asid := (s.ctx (s.launch l).ctx).asid
    let waits := (s.launch l).redBusy r x.region = true ∨ s.redHeld asid x = true
    (x.n = want → waits → exec (.reductionApply l r) s = .next s) ∧
    (x.n = want → ¬waits →
      (∀ b, s.redStep asid x = .error b → (s.team x.team).over? = false → ∃ u, exec (.reductionApply l r) s = .next u ∧
        (u.team x.team).st = .terminated ∧ ∃ f ∈ u.faults, f.cause = b.1) ∧
      (∀ k a c, s.redPick x = some k → let n := elemBytes x.fmt
        let core := (s.team x.team).core
        s.copyRange core asid 2 false (x.at_ x.src k) n = .ok [(a, n)] → s.copyRange core asid 2 true (x.at_ x.dst k) n = .ok [(c, n)] →
        ∃ u, exec (.reductionApply l r) s = .next u ∧ u.rdBytes c n = reduceBytes x.op x.fmt x.sat 1 (s.rdBytes c n) (s.rdBytes a n) ∧
          (∀ b, (b < c ∨ c + n ≤ b) → u.rdByte b = s.rdByte b) ∧
          Tab.look (u.launch l).reds r = some { x with left := some ((x.left.getD (List.range (x.bytes / n))).erase k) }) ∧
      (∀ v, s.redPick x = none → s.redStep asid x = .ok (v, none) → ∃ u, exec (.reductionApply l r) s = .next u ∧ u.mem = v.mem ∧
        Tab.get 0 (u.launch l).rexp x.region = (x.n + 1) % 2 ^ 32 ∧ Tab.look (u.launch l).reds r = none))) ∧
  (∀ (job : BitVec 24) (addr : DWord) (data : List Byte) (s : State), let e : Instr := .rmaWriteReceive job addr data
    ((∀ c ∈ s.ctxs, c.2.job ≠ job.toNat) → exec e s = .next s) ∧
    (∀ k c, s.ctxs.find? (fun c => c.2.job == job.toNat) = some (k, c) →
      (∀ b, s.copyRange 0 c.asid 1 true addr data.length = .error b → exec e s = .next s) ∧
      (s.heldC 0 c.asid addr data.length = true → exec e s = .next s) ∧
      (∀ pa, s.heldC 0 c.asid addr data.length = false → s.copyRange 0 c.asid 1 true addr data.length = .ok [(pa, data.length)] → ∃ u, exec e s = .next u ∧
        u.rdBytes pa data.length = data ∧ ∀ a, (a < pa ∨ pa + data.length ≤ a) → u.rdByte a = s.rdByte a)))

/-- R152, R285, R286, R290, R305, R307, R394, R399: while its core's clock runs, an engine of the launch's partition reads a queued
ray's record, on path TR, and then runs its steps; a read that fails is served, or loses the ray, and a retraining link holds
every access. A step's FETCH reads the words of its node one by one. A step that ends at a FETCH leaves the ray running; one
that ends at DONE writes the record with STATUS 1 or 2. A CALLBACK ray is queued again once its STATUS byte is 0. A count adds 1
to the counter's home, or is dropped with RAY_LOST; a shaded ray's lane enters its team's bin of the function that its hit
selects, while the team runs, or waits on the way to a die whose clock is stopped. Completes: traversalStep, rayResume,
callbackResume, rayCount, hitDelivery. -/
def Obligations.RayEvents : Prop :=
  ∀ (k core : Nat) (s : State) (r : Ray), Tab.look s.rays k = some r →
    let asid := s.asidL r.launch
    (∀ e, (e = Instr.traversalStep k core ∧ r.first = true ∨ e = .rayResume k core ∧ r.first = false) → r.st = .queued →
      let q : Ray := { r with core := core }
      ((s.servesLaunch core r.launch = false ∨ s.still core = true ∨ s.trHolds q r.slot 128 = true) → exec e s = .next s) ∧
      (s.servesLaunch core r.launch = true → s.still core = false → s.trHolds q r.slot 128 = false →
        (∀ b, s.trRead core asid r.slot 128 = .error b → serviced b = true → ∃ u, exec e s = .next u ∧
          Tab.look u.rays k = some { r with core := core, st := .waiting } ∧
          ∃ f, u.faults = s.faults ++ [f] ∧ f.cause = b.1 ∧ f.waiter = some (.ray k) ∧ f.aux64 = r.slot) ∧
        (∀ b, s.trRead core asid r.slot 128 = .error b → serviced b = false → r.shade = none → ∃ u, exec e s = .next u ∧
          Tab.look u.rays k = none ∧ ∃ f, u.faults = s.faults ++ [f] ∧ f.cause = .rayLost ∧ f.addr = r.slot) ∧
        (∀ bs, s.trRead core asid r.slot 128 = .ok bs →
          let y : Ray := { r with core := core, words := wordsOf bs 32, got := [] }
          let v := s.keepTr core asid r.slot
          let z := y.setStatus 0
          let n := min 64 z.spillDepth
          (r.first = true → exec e s = .next ((v.rayTaken r).setRay k
            { y.init (s.launch r.launch).lr.id (r.word 22) with st := .running, first := false })) ∧
          (r.first = false → z.legal = true → ∀ es, v.unspill asid z (z.spillDepth - n) n = .ok es →
            exec e s = .next (v.setRay k { z.setDepth (z.spillDepth - n) with st := .running, stack := es })) ∧
          ∃ u, exec e s = .next u ∧ (r.shade = none → u.teams = s.teams)))) ∧
    (r.st = .running → r.core = core →
      let ws := s.nodeWords r
      let left := (List.range ws.length).filter fun w => (Tab.look r.got w).isNone
      ((s.still core = true ∨ s.stepHeld r ws = true) → exec (.traversalStep k core) s = .next s) ∧
      (s.still core = false → s.stepHeld r ws = false → left ≠ [] → ∃ u w, w ∈ left ∧ exec (.traversalStep k core) s = .next u ∧ u.mem = s.mem ∧
        Tab.look u.rays k = some { r with got := Tab.put r.got w (BitVec.ofNat 32 (s.rdLe (ws.getD w 0) 4)) }) ∧
      (s.still core = false → s.stepHeld r ws = false → left = [] → r.legal = true →
        let e := TStep.run 65 true r.progpc ⟨s.bump (s.launch r.launch).ctx 7, asid, r, none, [], none, false⟩
        (∀ x, e = .cut x → ∃ u, exec (.traversalStep k core) s = .next u ∧ Tab.look u.rays k = some { x.r with st := .running } ∧ u.mem = x.s.mem) ∧
        (∀ x, e = .done x →
          let y := Ray.setStatus (x.r.setDword 8 r.progpc) (if x.r.hitt = 0x7F800000 then 2 else 1)
          ∀ v, x.s.trWrite y.core asid y.slot y.bytes = .ok v → ∃ u, exec (.traversalStep k core) s = .next u ∧ u.mem = v.mem ∧
            Tab.look u.rays k = some { y with stack := [], st := if y.shade.isSome then .delivering else .counting }))) ∧
    (r.st = .callback → s.still r.core = false → ∀ pa pte, s.translateC r.core asid (r.slot.toNat + 61) { path := some 4 } = .ok pa pte →
      (s.rdByte pa = 0 → exec (.callbackResume k) s = .next (s.setRay k { r.setStatus 0 with st := .queued })) ∧
      (s.rdByte pa ≠ 0 → exec (.callbackResume k) s = .next s)) ∧
    (r.st = .counting → (s.still r.core = true ∨ s.trHolds r r.counter 8 = true) → exec (.rayCount k) s = .next s) ∧
    (r.st = .counting → s.still r.core = false → s.trHolds r r.counter 8 = false →
      (∀ b, s.trRange r.core asid true r.counter 8 = .error b → serviced b = false → r.status ≠ 6 →
        ∃ u, exec (.rayCount k) s = .next u ∧ u.mem = s.mem ∧ Tab.look u.rays k = none ∧
          ∃ f, u.faults = s.faults ++ [f] ∧ f.cause = .rayLost ∧ f.addr = r.counter) ∧
      (∀ pa, s.trRange r.core asid true r.counter 8 = .ok [(pa, 8)] → ∃ u, exec (.rayCount k) s = .next u ∧
        u.rdLe pa 8 = (s.rdLe pa 8 + 1) % 2 ^ 64 ∧ (∀ a, (a < pa ∨ pa + 8 ≤ a) → u.rdByte a = s.rdByte a) ∧
        Tab.look u.rays k = if r.status = 6 then some { r with st := .callback } else none)) ∧
    (∀ t y, r.st = .delivering → r.shade = some (t, y) →
      ((s.team r.team).st = .terminated → exec (.hitDelivery k) s = .next (s.dropRay k)) ∧
      ((s.team r.team).st ≠ .running → (s.team r.team).st ≠ .terminated → exec (.hitDelivery k) s = .next s) ∧
      let d := dieOf (s.team r.team).core
      ((s.team r.team).st = .running → ¬Claim.Enters s d (.hit k) → ∃ u, exec (.hitDelivery k) s = .next u ∧ Claim.FlitWaits s u d (.hit k)) ∧
      (∀ f e b a, (s.team r.team).st = .running → Claim.Enters s d (.hit k) → (s.team r.team).launch = r.launch → s.shaderOf r t = some f →
        s.function r.launch f = some (e, b, a) → ∃ u, exec (.hitDelivery k) s = .next u ∧ Tab.look u.rays k = none ∧
          ∃ n, Tab.look (u.team r.team).bins (binKey e b a) = some n ∧ r.carried y ∈ n.lanes))

/-- R287, R131-R134: Dusk reads the block of a REPLAY that has been released; a block it cannot read or that breaks its layout fails
the replay with REPLAY_BLOCK; a valid one makes a relaunch whose threads are the block's (all of code 5 where its record is not
aligned); a retraining link holds what Dusk reads and writes. A thread's result word is decided once its lane has ended: a fault
code, or its ratio, divergence, counts and acceptance; and then written. Completes: duskRelaunch, resultWord. -/
def Obligations.ReplayEvents : Prop :=
  ∀ (n : Nat) (s : State) (r : Replay), Tab.look s.replays n = some r →
    let c := (s.launch r.launch).ctx
    let asid := (s.ctx c).asid
    let e : Instr := .duskRelaunch n
    ((r.started = true ∨ r.released = false ∨ s.duskHeld asid r = true) → exec e s = .next s) ∧
    (r.started = false → r.released = true → s.duskHeld asid r = false →
      let bytes := (s.cmdDone r.g).vRead asid 5 r.blk 64
      ((r.blk.toNat % 8 ≠ 0 ∨ bytes = none ∨ ∃ bs, bytes = some bs ∧ (parseBlock bs).ok = false) → ∃ u, exec e s = .next u ∧
        Tab.look u.replays n = some { r with started := true, failed := true } ∧ ∃ f ∈ u.faults, f.cause = .replayBlock ∧ f.aux64 = r.blk) ∧
      (∀ bs, r.failed = false → r.blk.toNat % 8 = 0 → bytes = some bs → (parseBlock bs).ok = true → ∃ u x, exec e s = .next u ∧ Tab.look u.replays n = some x ∧
        x.started = true ∧ x.failed = false ∧ x.bytes = bs ∧ x.relaunch = some s.nextSeq ∧ x.threads.length = (parseBlock bs).count ∧
        ((parseBlock bs).lrec.toNat % 64 ≠ 0 → x.threads = List.replicate (parseBlock bs).count (RThread.bad 5)) ∧
        u.nextSeq = s.nextSeq + 1 ∧ ∃ l, Tab.look u.launches s.nextSeq = some l ∧ l.replay = some (n, (parseBlock bs).iter) ∧ l.ctx = c)) ∧
    (∀ i x, r.threads[i]? = some x →
      let word (bs : List Byte) (acc : Bool) : Prop := ∃ u y, exec (.resultWord n i) s = .next u ∧ Tab.look u.replays n = some y ∧
        y.acc = r.acc + (if acc then 1 else 0) ∧ y.threads[i]? = some { x with done := true, word := bs } ∧ u.mem = s.mem
      let l := r.relaunch.getD 0
      let q := (s.launch l).lr
      let t := s.team (teamKey l (i / max 1 (32 * q.tgrps)))
      let res := (parseBlock r.bytes).res + BitVec.ofNat 64 (16 * i)
      (x.done = true → (x.word = [] ∨ s.vHolds asid res 16 = true) → exec (.resultWord n i) s = .next s) ∧
      (x.done = true → x.word ≠ [] → s.vHolds asid res 16 = false → ∃ u y, exec (.resultWord n i) s = .next u ∧ Tab.look u.replays n = some y ∧
        y.threads[i]? = some { x with word := [] } ∧
        ∀ w, s.vWrite asid 5 res x.word = some w → u.mem = w.mem) ∧
      (x.done = false → x.fault ≠ 0 → word (resultBytes 0 0 0 0 (16 * x.fault) 0) false) ∧
      (x.done = false → x.fault = 0 → t.st = .terminated → word (resultBytes 0 0 0 0 64 0) false) ∧
      (x.done = false → x.fault = 0 → t.st ≠ .terminated →
        let held := s.vHolds asid (q.recBase + BitVec.ofNat 64 (48 * x.glid.toNat)) 48 || s.vHolds asid (slotAt q.ovBase q.cap x.glid) (8 + 8 * q.cap)
        ((x.placed = false ∨ s.laneLives l x.glid = true ∨ s.recPending l x.glid = true ∨ held = true) → exec (.resultWord n i) s = .next s) ∧
        (x.placed = true → s.laneLives l x.glid = false → s.recPending l x.glid = false → held = false →
          (∀ f, s.resultOf r x = .error f → word (resultBytes 0 0 0 0 (16 * f) 0) false) ∧
          ∀ bs a, s.resultOf r x = .ok (bs, a) → word bs a)))

/-- R251, R341, R344, R345, R347: a queue that may take its next entry dispatches it when its wait is over: HEAD moves on, and a
launch of the next sequence number exists, which a broken record rejects. A team starts on the core that the rules give, its
groups at their entry point with their lanes' ids. Quench follows the last team of a deterministic launch, and the completion
stamp follows everything that the launch has released. Completes: quench, queueDispatch, teamPlacement, launchComplete. -/
def Obligations.LaunchEvents : Prop :=
  (∀ (c q : Nat) (s : State), let e : Instr := .queueDispatch c q
    (s.queueFree c q = false → exec e s = .next s) ∧
    (s.queueFree c q = true →
      (∀ bs, s.headEntry c q = some bs → s.entryReady c bs = false → (s.queueOf c q).reached = false → exec e s = .next s) ∧
      ((s.headEntry c q = none ∨ ∃ bs, s.headEntry c q = some bs ∧ (s.entryReady c bs = true ∨ (s.queueOf c q).reached = true)) → ∃ u l, exec e s = .next u ∧
        (u.queueOf c q).head = ((s.queueOf c q).head + 1) % max 1 (s.queueOf c q).size ∧ u.nextSeq = s.nextSeq + 1 ∧
        Tab.look u.launches s.nextSeq = some l ∧ l.ctx = c ∧ l.queue = q ∧
        ((s.headEntry c q = none ∨ ∃ bs, s.headEntry c q = some bs ∧ entryOk (s.queueOf c q).frame bs = false) →
          l.rejected = true ∧ l.done = true ∧ ∃ f ∈ u.faults, f.cause = .launchInvalid)))) ∧
  (∀ (l core i : Nat) (s : State), let x := s.launch l
    let e : Instr := .teamPlacement l core
    let t := teamKey l i
    ((x.done = true ∨ x.rejected = true ∨ s.waitingTeams l = [] ∨ s.ctxActive x.ctx = false ∨ s.firstInLine l = false) → exec e s = .next s) ∧
    (x.done = false → x.rejected = false → s.waitingTeams l ≠ [] → s.ctxActive x.ctx = true → s.firstInLine l = true → x.lr.split = false →
      (s.nextFor l core = none → exec e s = .next s) ∧
      (s.nextFor l core = some i → Tab.look s.teams t = none → x.replay = none → x.lr.tgrps ≤ 16 → ∃ u, exec e s = .next u ∧
        (u.team t).st = .running ∧ (u.team t).core = core ∧ (u.team t).size = 4096 * x.lr.spad ∧
        ∀ j, j < x.lr.tgrps → let g := u.group (groupKey t j)
          g.team = t ∧ g.thr.pcs = x.entryOf x.firstStage ∧ g.thr.em = x.lr.presentMask ∧ g.blocks = x.lr.blocks ∧
          ∀ k, k < 32 → (Tab.get Lane.zero g.lanes k).glid = BitVec.ofNat 32 ((i * x.lr.tgrps + j) * 32 + k)))) ∧
  (∀ (l : Nat) (s : State), let x := s.launch l
    (Tab.look s.launches l).isSome = true → x.quenched = false → x.rejected = false → x.teamsOver = true → x.fixed = [] →
    s.teams.all (fun e => e.2.launch != l || e.2.over?) = true → s.units.all (fun e => e.2.all fun r => r.launch != l) = true →
    ∃ u, exec (.quench l) s = .next u ∧ (u.launch l).quenched = true ∧ u.teams = s.teams ∧ (x.lr.detWords = 0 → u.mem = s.mem)) ∧
  (∀ (l : Nat) (s : State), let x := s.launch l
    ((x.done = true ∨ s.launchIdle l = false) → exec (.launchComplete l) s = .next s) ∧
    ((Tab.look s.launches l).isSome = true → x.done = false → s.launchIdle l = true → ∃ u, exec (.launchComplete l) s = .next u ∧
      (u.launch l).done = true ∧
      (x.replay = none → x.rr.mode = 0 → x.doneA ≠ 0 → ∀ pa pte, s.translate (s.asidL l) x.doneA.toNat { write := true } = .ok pa pte →
        u.rdLe pa 8 = (stampValue x.doneV x.level (x.deadline != 0 && decide (x.deadline.toNat < (s.die 0).time)) (x.rejected || x.failed)).toNat)))

/-- R137-R143, R147, R358, R363-R365, R383, R384: a walk that ends fills the TLB of each core that asked for it, or tells the groups
that it failed; a fault record enters its context's ring under its source's next number, or joins the outstanding record of its
page, or waits while the ring is full. The output of a mesh team is routed (its triangles come from outside: log entry 30); a
covered quad puts four lanes in its core's bin and takes the maximum in its pixel's visibility word (whose address is log
entries 30 and 69); a pixel team takes its window; a VORDB that has waited as long as its watchdog raises ORDER_STALL, once in a
wait (log entry 46); a scheduler is sampled once in a sampled cycle, when its die's units have issued; a stopped team's stop is
over when its groups have stopped. Completes: pageWalk, faultRecord, orderStall, meshOutputClassify, fragmentQuadEmit,
pixelTeamForm, sample, teamStop. -/
def Obligations.UnitEvents : Prop :=
  (∀ (die n : Nat) (s : State) (w : Walk), ((s.die die).walks.take 64)[n]? = some w → s.walkHeld die w.asid (w.vpn * 2 ^ 14) = true →
    exec (.pageWalk die n) s = .next s) ∧
  (∀ (die n : Nat) (s : State) (w : Walk), ((s.die die).walks.take 64)[n]? = some w → s.walkHeld die w.asid (w.vpn * 2 ^ 14) = false → ∃ u, exec (.pageWalk die n) s = .next u ∧
    (u.die die).walks = (s.die die).walks.eraseIdx n ∧ u.mem = s.mem ∧
    (∀ p lv, s.walkOn die w.asid (w.vpn * 2 ^ 14) = .ok (p, lv) → ∀ x ∈ w.who, leafEntry w.asid w.part w.vpn p lv ∈ (u.core x.2).tlb) ∧
    (∀ c k, s.walkOn die w.asid (w.vpn * 2 ^ 14) = .error (c, k) → ∀ x ∈ w.who, (Tab.look s.groups x.1).isSome = true →
      (w.vpn, c, k) ∈ (u.group x.1).walks)) ∧
  (∀ (n : Nat) (s : State) (r : FaultRec), s.faults[n]? = some r →
    let x := s.ctx r.ctx
    let e : Instr := .faultRecord n
    ((∃ q ∈ s.faults.take n, q.source = r.source) → exec e s = .next s) ∧
    ((∀ q ∈ s.faults.take n, q.source ≠ r.source) →
      ((r.waiter.isSome = true ∧ ∃ o ∈ x.out, Outstanding.covers o r = true) → ∃ u, exec e s = .next u ∧ u.faults = s.faults.eraseIdx n ∧ u.mem = s.mem ∧
        (u.ctx r.ctx).frTail = x.frTail) ∧
      ((r.waiter = none ∨ ∀ o ∈ x.out, Outstanding.covers o r = false) →
        (ringRoom x.frHead x.frTail x.frSize = false → exec e s = .next s) ∧
        (∀ pa, ringRoom x.frHead x.frTail x.frSize = true → s.ctxPa r.ctx (ringAt x.frBase x.frTail x.frSize 64) true = some pa →
          ∃ u, exec e s = .next u ∧ u.faults = s.faults.eraseIdx n ∧ (u.ctx r.ctx).frTail = (x.frTail + 1) % 2 ^ 32 ∧
            u.rdBytes pa 64 = FaultRec.bytes { r with seq := Tab.get 0 s.seqs r.source % 2 ^ 32 } ∧
            Tab.get 0 u.seqs r.source = Tab.get 0 s.seqs r.source + 1)))) ∧
  (∀ (t : Nat) (tris : List TriInfo) (s : State), let x := s.team t
    ((x.stage2 ≠ 2 ∨ x.st ≠ .ended) → exec (.meshOutputClassify t tris) s = .next s) ∧
    (x.stage2 = 2 → x.st = .ended → (∀ k ∈ x.survivors, ∃ i ∈ tris, TriInfo.prim i = k) → ∃ u, exec (.meshOutputClassify t tris) s = .next u ∧
      (u.team t).stage2 = 3 ∧ u.mem = s.mem ∧
      let e := (s.launch x.launch).ext.getD ⟨0, 0, 0, 0, 0, 0, 0, 0, 0, 0⟩
      (u.launch x.launch).fixed = (s.launch x.launch).fixed ++ (s.routed t tris false).map (primId e.maxP x.idx))) ∧
  (∀ (l fn b : Nat) (e a : DWord) (f : FragQuad) (s : State),
    ((s.quadOk l f = false ∨ s.still f.core = true) → exec (.fragmentQuadEmit l f) s = .next s) ∧
    (∀ q pa pte, s.quadOk l f = true → s.still f.core = false → f.last = false → q < 4 → f.cover = BitVec.ofNat 4 (2 ^ q) →
      let base := (((s.launch l).ext).getD ⟨0, 0, 0, 0, 0, 0, 0, 0, 0, 0⟩).visBase
      base ≠ 0 → s.translateC f.core (s.asidL l) (visAddr base (f.px + q % 2) (f.py + q / 2)).toNat { write := true, path := some 0 } = .ok pa pte →
      ∃ u, exec (.fragmentQuadEmit l f) s = .next u ∧ u.rdLe pa 8 = max (s.rdLe pa 8) ((f.keys.getD q 0).toNat * 2 ^ 32 + f.prim.toNat) ∧
        ∀ a, (a < pa ∨ pa + 8 ≤ a) → u.rdByte a = s.rdByte a) ∧
    (s.quadOk l f = true → s.still f.core = false → f.cover ≠ 0 → f.last = false → (∀ e, (s.launch l).ext = some e → e.visBase = 0) → (s.launch l).frags + 4 ≤ 2 ^ 31 → s.pixelFn l f.material = some fn →
      s.function l fn = some (e, b, a) →
      let t := teamKey l ((s.launch l).lr.teams + f.core)
      ((Tab.look s.teams t).isSome = true → (s.team t).launch = l) →
      ∃ u n, exec (.fragmentQuadEmit l f) s = .next u ∧ (u.launch l).frags = (s.launch l).frags + 4 ∧ u.mem = s.mem ∧
        Tab.look (u.team t).bins (binKey e b a) = some n ∧ ∀ k, k < 4 → fragLane f (s.launch l).frags k ∈ n.lanes)) ∧
  (∀ (l core base : Nat) (s : State), let t := teamKey l ((s.launch l).lr.teams + core)
    (Tab.look s.teams t).isSome = true → windowBase (s.core core).wins (4096 * (s.launch l).lr.spad) = some base → (s.team t).stage2 = 4 →
    (s.team t).st = .queued → s.ctxActive (s.launch l).ctx = true → ∃ u, exec (.pixelTeamForm l core) s = .next u ∧ (u.team t).st = .running ∧
      (u.team t).base = base ∧ (u.team t).size = 4096 * (s.launch l).lr.spad ∧ u.mem = s.mem) ∧
  (∀ (g c : Nat) (s : State), (s.group g).sch.orderFrom = some c →
    let l := s.launch (s.launchOf g)
    let w := c + 2 ^ (s.queueOf l.ctx l.queue).wdog
    (((s.group g).sch.stalled = true ∨ (s.die (s.orderDie g)).cyc < w) → exec (.orderStall g) s = .next s) ∧
    ((s.group g).sch.stalled = false → w ≤ (s.die (s.orderDie g)).cyc → ∃ u, exec (.orderStall g) s = .next u ∧
      (u.group g).sch.stalled = true ∧ ∃ f, u.faults = s.faults ++ [f] ∧ f.cause = .orderStall ∧ f.flm = (s.group g).thr.em)) ∧
  (∀ (core sch g : Nat) (t : Trace) (s : State), s.traceOf core = some t → s.nextSlot core sch = some g →
    let d := s.die (dieOf core)
    let done := ∃ h, Tab.look (s.core core).lastSlot sch = some (h, d.cyc)
    ((t.sper = 0 ∨ d.cyc % 2 ^ t.sper ≠ 0 ∨ done ∨ s.cycleDone (dieOf core) = false ∨ s.still core = true) → exec (.sample core sch) s = .next s) ∧
    (t.sper ≠ 0 → d.cyc % 2 ^ t.sper = 0 → ¬done → s.cycleDone (dieOf core) = true → s.still core = false → ∃ u, exec (.sample core sch) s = .next u ∧
      Tab.look (u.core core).lastSlot sch = some (g, d.cyc) ∧ u.groups.map Prod.fst = s.groups.map Prod.fst)) ∧
  (∀ (t : Nat) (brks : List Nat) (s : State), (s.team t).stop = some brks →
    let all_ := ∀ x ∈ (s.team t).groups, (s.group x.2).sch.halted = true ∨ (s.group x.2).sch.parked = true
    (¬all_ → exec (.teamStop t) s = .next s) ∧
    (all_ → ∃ u, exec (.teamStop t) s = .next u ∧ (u.team t).stop = none ∧ (u.team t).groups = (s.team t).groups))

namespace Sys2Proof.Claim

/-- `u` is `s` with one event of type `ty` from `source` with `data` in both endpoint rings, in which nothing of the groups, the
teams and the memory has changed (R414, R415). -/
structure Raised (s u : State) (source ty : Nat) (data : Nat) : Prop where
  event : ∃ x : EventRec, Told s.ctl.evA u.ctl.evA x ∧ Told s.ctl.evB u.ctl.evB x ∧ x.source = source ∧ x.ty = ty ∧
    x.data = BitVec.ofNat 64 data ∧ x.seq = Tab.get 0 s.evSeqs source
  kept : u.groups = s.groups ∧ u.teams = s.teams ∧ u.mem = s.mem

/-- Event `e` answers such a state, of which `p` holds. -/
def Raises (s : State) (e : Instr) (source ty data : Nat) (p : State → Prop) : Prop :=
  ∃ u, exec e s = .next u ∧ Raised s u source ty data ∧ p u

end Sys2Proof.Claim

/-- R395, R396, R398, R404, R409, R415, R419, R420: a relock of 2,400 to 2,450 ns ends with the new frequency, TIME at its end and a
CLOCK event, once no earlier restart and nothing on its way to or from a barrier agent is still due (log entry 107). The first expiry of a lease, a change of a link, a link that has retrained for 2 ms, a pool error, corrected errors, a
thermal trip and a power step each raise their event, corrected errors of a unit once in a second; a pool error that a copy or a reduction meets stops it at one of
the accesses it has at hand (a free choice, log entry 92); a PTP message sets its die's rate within 500 ppm; a patrol scrub changes
nothing. What names no unit, or is out of its range, has no effect. -/
def Sys2Proof.Claim.DeviceEvents : Prop :=
  ∀ s : State,
    (∀ d dur t0 f rest, (s.die d).relock = some t0 → (s.die d).steps = f :: rest →
      ((dur < 2400 ∨ 2450 < dur) → exec (.relockComplete d dur) s = .next s) ∧
      (s.mayRestart d (t0 + dur) = false → exec (.relockComplete d dur) s = .next s) ∧
      (d < 4 → 2400 ≤ dur → dur ≤ 2450 → (s.die d).time ≤ t0 + dur → s.mayRestart d (t0 + dur) = true →
        Claim.Raises s (.relockComplete d dur) (sourceOf 8 d) 2 (d + 2 ^ 8 * (s.die d).mhz + 2 ^ 24 * f + 2 ^ 40 * dur) fun u =>
          (u.die d).mhz = f ∧ (u.die d).time = t0 + dur ∧ (u.die d).steps = rest ∧ (rest = [] → (u.die d).relock = none))) ∧
    (∀ n m, Tab.look s.sems n = some m →
      ((m.told = true ∨ (s.die 0).time < m.expiry) → exec (.leaseExpired n) s = .next s) ∧
      (m.told = false → m.expiry ≤ (s.die 0).time →
        Claim.Raises s (.leaseExpired n) (sourceOf 11 0) 9 (n % 8 + if m.holder then 8 else 0) fun u =>
          Tab.look u.sems n = some { m with told := true })) ∧
    (∀ port d ppm, let e : Instr := .ptpEventMessage port d ppm
      ((8 ≤ port ∨ 4 ≤ d ∨ s.link (16 + port) ≠ .up ∨ ppm < -500 ∨ 500 < ppm) → exec e s = .next s) ∧
      (port < 8 → d < 4 → s.link (16 + port) = .up → -500 ≤ ppm → ppm ≤ 500 → exec e s = .next (s.setDie d { s.die d with ppm := ppm }))) ∧
    (∀ port kind dpa, let data := port.toNat + 2 ^ 4 * kind.toNat + 2 ^ 8 * dpa.toNat
      (3 ≤ kind.toNat → ∀ v, exec (.poolError port kind dpa v) s = .next s) ∧
      (kind.toNat < 3 →
        Claim.Raises s (.poolError port kind dpa .none) (sourceOf 10 port.toNat) 3 data (fun _ => True) ∧
        (∀ g, (Tab.look s.groups g).isSome = true → (s.group g).impr = none → ∃ u, exec (.poolError port kind dpa (.writeBack g)) s = .next u ∧
          (u.group g).impr = some (.cxlWbError, 0, 0) ∧ u.mem = s.mem) ∧
        (∀ g n, ∃ u, exec (.poolError port kind dpa (.read g n)) s = .next u ∧ u.mem = s.mem ∧
          ∀ p ∈ (u.group g).pend, p.id = n → p.reason = 16 → p.bad ≠ []) ∧
        let v := s.event (sourceOf 10 port.toNat) 3 (port.toNat / 4) (BitVec.ofNat 64 data)
        let cause : Cause := if kind = 0 then .copyMemory else .copyCxl
        (∀ t n c, Tab.look (s.team t).copies n = some c → (s.team t).over? = false →
          (v.copyAddr t c cause = none → exec (.poolError port kind dpa (.copy t n)) s = .next v) ∧
          (∀ a, v.copyAddr t c cause = some a → ∃ u, exec (.poolError port kind dpa (.copy t n)) s = .next u ∧
            (u.team t).st = .terminated ∧ ∃ f ∈ u.faults, f.cause = cause ∧ f.addr = a)) ∧
        (∀ l r x, Tab.look (s.launch l).reds r = some x → (s.team x.team).over? = false →
          (x.n ≠ Tab.get 0 (s.launch l).rexp x.region → exec (.poolError port kind dpa (.reduction l r)) s = .next v) ∧
          (x.n = Tab.get 0 (s.launch l).rexp x.region → ∃ u, exec (.poolError port kind dpa (.reduction l r)) s = .next u ∧
            (u.team x.team).st = .terminated ∧ ∃ f ∈ u.faults, f.cause = cause ∧ f.path = 2 ∧ f.aux64 = x.desc)))) ∧
    (∀ port t, Tab.look s.links (BitVec.toNat (w := 4) port) = some (.retraining, t) →
      (t + 2000000 ≤ (s.die (port.toNat / 4)).time →
        Claim.Raises s (.linkDown port) (sourceOf 10 port.toNat) 4 port.toNat fun u => u.link port.toNat = .down) ∧
      ((s.die (port.toNat / 4)).time < t + 2000000 → exec (.linkDown port) s = .next s)) ∧
    (∀ port, s.link (BitVec.toNat (w := 4) port) ≠ .retraining → exec (.linkDown port) s = .next s) ∧
    (∀ cxl port st, let p := BitVec.toNat (w := 4) port
      let k := if cxl then p else 16 + p
      ((cxl = false ∧ 8 ≤ p ∨ cxl = true ∧ s.link p = .down ∨ s.link k = st) → exec (.linkStateChange cxl port st) s = .next s) ∧
      ((cxl = true ∨ p < 8) → (cxl = true → s.link p ≠ .down) → s.link k ≠ st →
        Claim.Raises s (.linkStateChange cxl port st) (sourceOf (if cxl then 10 else 9) p) 4
          (p + 2 ^ 8 * match st with | .down => 0 | .up => 1 | .retraining => 2) fun u => u.link k = st)) ∧
    (∀ src count mem, let second := Tab.look s.ctl.corrected (BitVec.toNat (w := 32) src) = some (s.time (dieOfSource src) / 1000000000)
      ((count = 0 ∨ 3 < BitVec.toNat (w := 8) mem ∨ second) → exec (.corrected src count mem) s = .next s) ∧
      (count ≠ 0 → mem.toNat ≤ 3 → ¬second → Claim.Raises s (.corrected src count mem) src.toNat 5 (count.toNat + 2 ^ 32 * mem.toNat) fun _ => True)) ∧
    (∀ d, exec (.hearthPatrolScrub d) s = .next s) ∧
    (∀ watts d mhz, let x := s.die (BitVec.toNat (w := 2) d)
      let low := decide (s.ctl.capW < BitVec.toNat (w := 16) watts)
      ((mhzOk mhz = false ∨ mhz = x.finalMhz ∨ low ≠ decide (mhz < x.finalMhz)) → exec (.power watts d mhz) s = .next s) ∧
      (mhzOk mhz = true → mhz ≠ x.finalMhz → low = decide (mhz < x.finalMhz) → ∃ w, Claim.Raises s (.power watts d mhz) (sourceOf 12 0) 6 w fun u =>
        (u.die d.toNat).finalMhz = mhz ∧ (x.busy = [] → (u.die d.toNat).relock.isSome = true) ∧ w % 2 ^ 16 = watts.toNat)) ∧
    (∀ d, ((4 ≤ d ∨ (s.die d).tripped = true) → exec (.thermalTrip d) s = .next s) ∧
      (d < 4 → (s.die d).tripped = false → ∃ w, Claim.Raises s (.thermalTrip d) (sourceOf 12 0) 6 w fun u => (u.die d).tripped = true))

/-- R363, R414, R416, R417, R327: a driver that advances HEAD makes room, and the host's request advances the rollback counter, never
past the running image's SVN (how the request comes is the model's choice, log entry 36). At boot the ROM enters the first valid slot, the active one
before the other: Hearth and the decoders are clear, and service thread 0 starts at HOST at address 0 of the image (which address is its entry is the model's reading, log entry 12);
with no valid slot the module stays dark. Without a pending boot nothing happens. -/
def Sys2Proof.Claim.BootAndHeads : Prop :=
  ∀ s : State,
    (s.ctl.bootPending = false → exec .boot s = .next s) ∧
    (s.ctl.bootPending = true →
      (s.bootSlot = none → ∃ u, exec .boot s = .next u ∧ u.ctl.bootFailed = true ∧ u.ctl.bootPending = false ∧ u.svcs = s.svcs ∧ u.mem = s.mem) ∧
      (∀ k i, s.bootSlot = some k → Tab.look s.ctl.flash k = some i → s.imageOk i = true ∧ ∃ u, exec .boot s = .next u ∧
        u.ctl.bootPending = false ∧ u.ctl.running = some k ∧ u.ctl.image = i.body ∧ u.decoders = [] ∧
        (∀ a, inHearth a = true → u.rdByte a = 0) ∧ (∀ a, inHearth a = false → u.rdByte a = s.rdByte a) ∧
        (u.svc 0).stopped = false ∧ (u.svc 0).sstat.getLsbD 4 = true ∧ (u.svc 0).thr.pcs = 0) ∧
      ∀ i, Tab.look s.ctl.flash s.ctl.activeSlot = some i → s.imageOk i = true → s.bootSlot = some s.ctl.activeSlot) ∧
    (∀ c h, (Tab.look s.ctxs c).isSome = true →
      (∃ u, exec (.ringHeadAdvance (.fault c) h) s = .next u ∧ (u.ctx c).frHead = h.toNat ∧ u.mem = s.mem) ∧
      (∃ u, exec (.ringHeadAdvance (.event c) h) s = .next u ∧ (u.ctx c).evHead = h.toNat ∧
        ((s.ctx c).evHeld = [] → u.mem = s.mem) ∧ (u.ctx c).evHeld.length ≤ (s.ctx c).evHeld.length)) ∧
    (∀ c h, Tab.look s.ctxs c = none → exec (.ringHeadAdvance (.fault c) h) s = .next s ∧ exec (.ringHeadAdvance (.event c) h) s = .next s) ∧
    (∀ b h, ∃ u, exec (.ringHeadAdvance (.endpoint b) h) s = .next u ∧ (if b then u.ctl.evB else u.ctl.evA).head = h.toNat ∧ u.mem = s.mem) ∧
    (∀ h, ∃ u, exec (.ringHeadAdvance .rollback h) s = .next u ∧ u.mem = s.mem ∧
      (∀ k i, s.ctl.running = some k → Tab.look s.ctl.flash k = some i →
        u.ctl.rollback = if s.ctl.rollback < h.toNat ∧ h.toNat ≤ i.svn then h.toNat else s.ctl.rollback))

/-- R395, R398, R404, R409, R414-R416, R419, R420: events of the device, its boot and its rings. Completes: relockComplete,
leaseExpired, ptpEventMessage, poolError, linkDown, corrected, hearthPatrolScrub, power, thermalTrip, boot, ringHeadAdvance,
linkStateChange. -/
def Obligations.DeviceAndBootEvents : Prop := Sys2Proof.Claim.DeviceEvents ∧ Sys2Proof.Claim.BootAndHeads

namespace Sys2Proof.Claim

/-- The service serves a request (R411-R413, R416): it has booted, the feature word is there or the command comes before it, the
issuer may issue it, no earlier request of its sender waits, its slot is held by its endpoint, and its bytes outside its arguments
are zero. -/
structure Served (s : State) (q : Req) (early : Bool) (who : Issuer) (slot : Option Nat) (named : List (Nat × Nat)) : Prop where
  boot : s.ctl.bootPending = false ∧ s.ctl.bootFailed = false
  turn : s.behindOwn q = false
  feature : early = true ∨ s.ctl.feature.isSome = true
  issuer : s.issuerOk q who = true
  slot : ∀ n, slot = some n → ∃ m, Tab.look s.sems n = some m ∧ m.heldBy q.endpointB (s.die 0).time = true
  args : reqArgsOk q named = true

/-- Request `q` gets status `st`, at a state of which `p` holds. -/
def Answers (s : State) (e : Instr) (q : Req) (st : Nat) (p : State → Prop) : Prop :=
  ∃ u res, exec e s = .next u ∧ u.ctl.resps = s.ctl.resps ++ [⟨q.endpointB, q.seq, q.cmd, st, res⟩] ∧ p u

/-- A command of request `q`: whether it comes before the feature word, who issues it, its slot and its argument bytes
(R411, R412). -/
def Command (q : Req) (e : Instr) (early : Bool) (who : Issuer) (slot : Option Nat) (named : List (Nat × Nat)) : Prop :=
  (e, early, who, slot, named) ∈ ([(.ring q, false, .context, none, [(16, 2)]), (.resolve q, false, .contextOrHost, none, [(16, 4), (20, 1)]),
   (.unparkCmd q, false, .contextOrHost, none, [(16, 4), (20, 4), (24, 1)]), (.killteam q, false, .contextOrHost, none, [(16, 4), (20, 4)]),
   (.killlaunch q, false, .contextOrHost, none, [(16, 4)]), (.switch q, false, .guestOrHost, none, [(16, 2)]),
   (.preemptvf q, false, .host, none, [(16, 1), (20, 4)]), (.haltsvc q, false, .host, none, [(16, 1)]),
   (.resumesvc q, false, .host, none, [(16, 1)]), (.trace q, false, .host, some 6, [(16, 8)]), (.rrset q, false, .context, none, [(16, 8)]),
   (.profopen q, false, .context, none, [(16, 8)]), (.profread q, false, .context, none, [(16, 8)]),
   (.profclose q, false, .context, none, [(16, 8)]), (.clkset q, false, .host, some 4, [(16, 1), (18, 2)]),
   (.partcfg q, false, .host, some 0, [(16, 1), (17, 1), (18, 2), (20, 4), (24, 8), (32, 8), (40, 8)]),
   (.hearthcfg q, false, .host, some 1, [(16, 1), (17, 1), (18, 1), (19, 1)]),
   (.poolcfg q, false, .host, some 2, [(16, 1), (17, 1), (18, 1), (19, 1), (24, 8), (32, 8), (40, 8), (48, 2)]),
   (.peerset q, false, .context, none, [(16, 2), (24, 32)]),
   (.netadmit q, false, .host, some 3, [(16, 1), (17, 1), (18, 1), (19, 1), (20, 4), (24, 8), (32, 4)]),
   (.asidset q, false, .host, some 5, [(16, 2), (24, 8)]),
   (.ctxcreate q, false, .guestOrHost, none, [(16, 1), (18, 2), (20, 3), (24, 8), (32, 4), (36, 4), (40, 8), (48, 8), (56, 2)]),
   (.featneg q, true, .host, none, [(16, 2), (24, 8), (32, 8)]), (.attest q, true, .any, none, [(16, 32), (48, 8)]),
   (.imgstage q, false, .host, some 7, [(16, 8), (24, 4)]), (.powercap q, false, .host, some 4, [(16, 2)]),
   (.lease q, false, .host, none, [(16, 1), (24, 8)]), (.unlease q, false, .host, none, [(16, 1)])] :
    List (Instr × Bool × Issuer × Option Nat × List (Nat × Nat)))

end Sys2Proof.Claim

/-- R410-R413, R416, R335: before boot a request waits, and so does one behind an earlier request of its sender; a module that
failed to boot, one without its feature word (but for FEATNEG and ATTEST) and a wrong issuer answer REFUSED, a slot that the
endpoint does not hold NOT_OWNER, and a byte outside the arguments RANGE, in this order (the order is the model's choice, log
entry 36); an unknown command is REFUSED. A refusal changes nothing but its response. Completes: unknownServiceCommand. -/
def Obligations.ServiceRefusals : Prop :=
  ∀ (q : Req) (s : State),
    let replies (e : Instr) (st : Nat) := exec e s = .next (s.reply q st [])
    (∀ e early who slot named, Claim.Command q e early who slot named →
      let owns := ∀ n, slot = some n → ∃ m, Tab.look s.sems n = some m ∧ m.heldBy q.endpointB (s.die 0).time = true
      let open_ := s.ctl.bootFailed = false ∧ (early = true ∨ s.ctl.feature.isSome = true) ∧ s.issuerOk q who = true
      let turn := s.ctl.bootPending = false ∧ s.behindOwn q = false
      (s.ctl.bootPending = true → exec e s = .next s) ∧
      (s.ctl.bootPending = false → s.behindOwn q = true → exec e s = .next (s.pend q false)) ∧
      (turn → ¬open_ → replies e 6) ∧
      (turn → open_ → ¬owns → replies e 7) ∧
      (turn → open_ → owns → reqArgsOk q named = false → replies e 5)) ∧
    (s.ctl.bootPending = true → exec (.unknownServiceCommand q) s = .next s) ∧
    (s.ctl.bootPending = false → s.behindOwn q = true → exec (.unknownServiceCommand q) s = .next (s.pend q false)) ∧
    (s.ctl.bootPending = false → s.behindOwn q = false → replies (.unknownServiceCommand q) 6) ∧
    s.pend q false = { s with ctl := { s.ctl with waiting := s.ctl.waiting ++ [.req q false] } } ∧
    (∀ st, let u := s.reply q st []
      u = { s with ctl := { s.ctl with resps := u.ctl.resps } } ∧
      u.ctl.resps = s.ctl.resps ++ [⟨q.endpointB, q.seq, q.cmd, st, List.replicate 24 0⟩])

/-- R341, R365, R368, R369, R372, R376, R377, R385-R387, R405: the commands of contexts and guests, and those on teams and service
threads, each with its effect and status OK. PREEMPTVF vacates cores of the active context from the highest coreid down, as many as
fit, and answers how many; RANGE where not all fit. Which context is active first is log entry 48, which of several records RESOLVE
takes log entry 47: the model's choices. -/
def Sys2Proof.Claim.ContextCommands : Prop :=
  ∀ (q : Req) (s : State),
    let c := q.ctx.toNat
    let a (o n : Nat) := field q.args (o - 16) n
    let free := (s.vf (s.reqVf q)).switching = none
    let ok (e : Instr) (p : State → Prop) : Prop := ∀ early who slot named, Claim.Command q e early who slot named →
      Claim.Served s q early who slot named → Claim.Answers s e q 0 p
    (∀ pa, a 16 2 < (s.ctx c).qCount → s.ctxPa c ((s.ctx c).qtBase + BitVec.ofNat 64 (64 * a 16 2)) false = some pa → s.isBad pa 64 = false →
      queueDescOk (s.rdBytes pa 64) = true → ok (.ring q) fun u =>
        (u.queueOf c (a 16 2)).valid = true ∧ (u.queueOf c (a 16 2)).tail = field (s.rdBytes pa 64) 20 4 ∧
        (u.queueOf c (a 16 2)).size = field (s.rdBytes pa 64) 8 4 ∧ u.mem = s.mem) ∧
    (∀ o, free → a 20 1 ≤ 1 → (s.ctx c).out.find? (fun o => o.seq == a 16 4) = some o → (a 20 1 = 1 ∨ o.cause ≠ .pageFault ∨ o.pfkind ≠ 1) →
      ok (.resolve q) fun u => (o.groups = [] → o.rays = [] → (u.ctx c).out = (s.ctx c).out.erase o ∧ u.groups = s.groups) ∧
        (∀ g, a 20 1 = 0 → o.groups = [g] → o.rays = [] → (Tab.look s.groups g).isSome = true → (u.group g).sch.parked = false)) ∧
    (∀ l g, free → s.ctxLaunch c (a 16 4) = some l → let t := teamKey l (a 20 4)
      (Tab.look s.teams t).isSome = true → (s.team t).over? = false → (s.team t).st ≠ .exported → a 24 1 ≠ 0xFF → s.targetGroups t (a 24 1) = some [g] →
      (s.group g).sch.parked = true → ok (.unparkCmd q) fun u => (u.group g).sch.parked = false ∧ ∀ h, h ≠ g → u.group h = s.group h) ∧
    (∀ l, free → s.ctxLaunch c (a 16 4) = some l →
      (a 20 4 < (s.launch l).lr.teams → (s.team (teamKey l (a 20 4))).over? = false →
        ((Tab.look s.teams (teamKey l (a 20 4))).isSome = true → (s.team (teamKey l (a 20 4))).launch = l) → ok (.killteam q) fun u =>
        (u.team (teamKey l (a 20 4))).st = .terminated ∧ (u.launch l).failed = true) ∧
      ok (.killlaunch q) fun u => ∀ i, i < (s.launch l).lr.teams → (u.team (teamKey l i)).over? = true) ∧
    ((Tab.look s.ctxs (a 16 2)).isSome = true → (fromHost q = true ∨ (s.ctx (a 16 2)).vf = q.vf.toNat) → (s.vf (s.ctx (a 16 2)).vf).switching = none →
      (s.vf (s.ctx (a 16 2)).vf).active = none → ok (.switch q) fun u => (u.vf (s.ctx (a 16 2)).vf).switching = some (a 16 2)) ∧
    (a 16 1 ≤ 63 → 0 < a 20 4 → a 20 4 ≤ 288 → (s.vf (a 16 1)).switching = none →
      ((s.vf (a 16 1)).active = none → ok (.preemptvf q) fun u => u.teams = s.teams) ∧
      (∀ x v k early who slot named, (s.vf (a 16 1)).active = some x → let cs := (s.coresOfCtx x).take (a 20 4)
        s.vacateCores cs = (v, k) → Claim.Command q (.preemptvf q) early who slot named → Claim.Served s q early who slot named →
        ∃ u, exec (.preemptvf q) s = .next u ∧ u.teams = v.teams ∧ u.groups = v.groups ∧ u.mem = v.mem ∧ k ≤ cs.length ∧
          u.ctl.resps = v.ctl.resps ++ [⟨q.endpointB, q.seq, q.cmd, if k = cs.length then 0 else 5, leBytes 4 k ++ List.replicate 20 0⟩] ∧
          ((s.teams.map Prod.fst).Nodup → (∀ p ∈ s.rays, p.2.st ≠ .running) → ∀ t y, Tab.look s.teams t = some y →
            (u.team t).st = if y.st = .running ∧ y.core ∈ cs.take k then .vacating else y.st)) ∧
      (∀ x, s.coresOfCtx x = ((List.range 288).filter fun c => s.teams.any fun (_, t) =>
        t.st == .running && t.core == c && (s.launch t.launch).ctx == x).reverse)) ∧
    (a 16 1 < 32 → (s.svc (a 16 1)).stopped = false → ok (.haltsvc q) fun u => (u.svc (a 16 1)).halted = true ∧
      (u.svc (a 16 1)).stop = some ((s.svc (a 16 1)).inHandler, (s.svc (a 16 1)).ecause, (s.svc (a 16 1)).thr.pcs) ∧ u.groups = s.groups) ∧
    (a 16 1 < 32 → (s.svc (a 16 1)).halted = true → ok (.resumesvc q) fun u => (u.svc (a 16 1)).halted = false ∧ u.groups = s.groups) ∧
    (∀ bs, s.reqRead q (BitVec.ofNat 64 (a 16 8)) 64 = some bs → rrDescOk bs = true → ok (.rrset q) fun u =>
      (u.ctx c).rr = parseRr bs ∧ u.launches = s.launches) ∧
    (∀ bs, s.reqRead q (BitVec.ofNat 64 (a 16 8)) 192 = some bs → (∀ k, k < 16 → field bs (4 * k + 2) 2 = 0) → ok (.profopen q) fun u =>
      ∃ p ∈ (u.ctx c).profs, p.addr = BitVec.ofNat 64 (a 16 8) ∧ p.cnt = [] ∧ p.sel = (List.range 16).map fun k => field bs (4 * k) 2) ∧
    (∀ p w, (s.ctx c).profs.find? (fun p => p.addr == BitVec.ofNat 64 (a 16 8)) = some p →
      s.reqWrite q (BitVec.ofNat 64 (a 16 8) + 64) (s.profWords p) = some w →
      (ok (.profread q) fun u => u.mem = w.mem ∧ (u.ctx c).profs = (s.ctx c).profs) ∧
      ok (.profclose q) fun u => u.mem = w.mem ∧ ∀ x ∈ (u.ctx c).profs, x.addr ≠ BitVec.ofNat 64 (a 16 8)) ∧
    (a 16 2 < 4096 → a 43 1 = 0 → (a 45 1 < 64 ∨ a 45 1 = 0xFF) → a 46 10 = 0 → ok (.peerset q) fun u =>
      Tab.look (u.ctx c).peers (a 16 2) = some ⟨(q.args.drop 8).take 16, a 40 3, a 44 1, a 45 1⟩) ∧
    ((fromHost q = true ∨ a 16 1 = q.vf.toNat) → a 16 1 < 64 → a 18 2 < 4096 → a 24 8 % 64 = 0 → pow2In 16 65536 (a 32 4) = true →
      pow2In 16 65536 (a 36 4) = true → 0 < a 56 2 → a 56 2 ≤ 4096 → (s.vfPart (a 16 1)).isSome = true → (s.vf (a 16 1)).ctxs.length < 64 →
      ok (.ctxcreate q) fun u => ∃ n, Tab.look s.ctxs n = none ∧ (Tab.look u.ctxs n).isSome = true ∧ (u.ctx n).vf = a 16 1 ∧ (u.ctx n).asid = a 18 2 ∧
        n ∈ (u.vf (a 16 1)).ctxs ∧ ((s.vf (a 16 1)).active = none → (u.vf (a 16 1)).active = some n))

/-- R353, R355, R375, R379, R395, R406, R408, R412, R413, R417, R418, R420: the commands of the host, each with its effect and status
OK; IMGSTAGE writes the slot that does not run (log entry 36); FEATNEG accepts no bit that the module does not offer, once. -/
def Sys2Proof.Claim.HostCommands : Prop :=
  ∀ (q : Req) (s : State),
    let a (o n : Nat) := field q.args (o - 16) n
    let ok (e : Instr) (p : State → Prop) : Prop := ∀ early who slot named, Claim.Command q e early who slot named →
      Claim.Served s q early who slot named → Claim.Answers s e q 0 p
    ((Tab.look s.ctxs q.ctx.toNat).isSome = true → let p := (s.vf (s.reqVf q)).part
      (a 16 8 = 0 → ok (.trace q) fun u => (u.part p).trace = none ∧ u.mem = s.mem) ∧
      (a 16 8 ≠ 0 → s.isBad (a 16 8) 64 = false → s.traceDescOk p (s.rdBytes (a 16 8) 64) = true → ok (.trace q) fun u =>
        (u.part p).trace = some (parseTrace (s.rdBytes (a 16 8) 64)))) ∧
    (a 16 1 < 4 → mhzOk (a 18 2) = true → ok (.clkset q) fun u => (u.die (a 16 1)).finalMhz = a 18 2 ∧ u.groups = s.groups ∧
      (a 18 2 ≠ (s.die (a 16 1)).finalMhz → (s.die (a 16 1)).busy = [] → (u.die (a 16 1)).relock.isSome = true)) ∧
    (800 ≤ a 16 2 → a 16 2 ≤ 2000 → ok (.powercap q) fun u => u.ctl.capW = a 16 2 ∧ u.groups = s.groups) ∧
    (let quads := onesOf (a 24 8 + 2 ^ 64 * a 17 1) 72
     let vfs := onesOf (a 32 8) 64
     a 16 1 < 16 → (a 20 4 = 0 ∨ s.ownsPa (a 16 1) (a 40 8) (a 20 4 * 2 ^ 20) (some true) = true) → s.taken (a 16 1) quads vfs = false →
      s.inUse (a 16 1) quads vfs = false → ok (.partcfg q) fun u => (u.part (a 16 1)).quads = quads ∧ (u.part (a 16 1)).vfs = vfs ∧
        (u.part (a 16 1)).saveBase = a 40 8 ∧ (u.part (a 16 1)).saveMib = a 20 4 ∧ ∀ v ∈ vfs, (u.vf v).part = a 16 1 ∧ (u.vf v).quota = a 18 2) ∧
    (a 16 1 < 4 → a 17 1 < 8 → a 18 1 < 16 → a 19 1 < 3 → ok (.hearthcfg q) fun u =>
      Tab.look u.hearth (a 16 1 * 8 + a 17 1) = (if a 19 1 = 0 then none else some (a 18 1, a 19 1 == 1)) ∧ u.mem = s.mem) ∧
    (a 16 1 < 16 → a 17 1 < 8 → a 18 1 < 16 → a 19 1 < 4 → a 24 8 % 2 ^ 28 = 0 → a 32 8 % 2 ^ 28 = 0 → a 24 8 + a 32 8 ≤ 2 ^ 44 →
      (a 19 1 % 2 = 1 → s.poolClash (a 16 1 * 8 + a 17 1) (a 18 1) (a 24 8) (a 32 8) = false) → ok (.poolcfg q) fun u =>
        Tab.look u.decoders (a 16 1 * 8 + a 17 1) = (if a 19 1 % 2 = 1 then some ⟨a 18 1, a 24 8, a 32 8, a 40 8, a 48 2⟩ else none) ∧
        (2 ≤ a 19 1 → u.link (a 16 1) ≠ .down)) ∧
    (s.capable 12 = true → a 16 1 < 64 → a 18 1 < 8 → a 19 1 < 16 → a 24 8 ≤ 2 ^ 26 →
      (∀ k, k < 8 → a 17 1 / 2 ^ k % 2 = 1 → s.admitted (a 16 1) k + 25 * a 20 4 ≤ 800) → ok (.netadmit q) fun u =>
        Tab.look u.admits (a 16 1) = if a 20 4 = 0 then none else some ⟨a 17 1, a 18 1, a 19 1, a 20 4, a 24 8, a 32 4⟩) ∧
    (a 16 2 < 4096 → ok (.asidset q) fun u =>
      u.asidEntry (a 16 2) = BitVec.ofNat 64 (a 24 8) &&& 0x000FFFFFFFFFC01F ∧ ∀ n, n ≠ a 16 2 → u.asidEntry n = s.asidEntry n) ∧
    (s.ctl.feature = none → ok (.featneg q) fun u => ∃ w, u.ctl.feature = some w ∧ w &&& ~~~offered = 0 ∧
      ∀ k, k < 16 → w.getLsbD k = (BitVec.ofNat 16 (a 16 2)).getLsbD k) ∧
    (∀ w, s.takeFree.reqWrite q (BitVec.ofNat 64 (a 48 8)) (s.report (q.args.take 32)) = some w → ok (.attest q) fun u => u.mem = w.mem) ∧
    (∀ bs, s.reqRead q (BitVec.ofNat 64 (a 16 8)) (a 24 4) = some bs → let k := 1 - s.ctl.running.getD s.ctl.activeSlot
      ok (.imgstage q) fun u => Tab.look u.ctl.flash k = some (parseImage bs) ∧ u.ctl.activeSlot = k ∧ u.ctl.image = s.ctl.image) ∧
    (a 16 1 ≤ 7 → 1000 ≤ a 24 8 → a 24 8 ≤ 2 ^ 36 →
      (∀ m, Tab.look s.sems (a 16 1) = some m → m.holder = q.endpointB ∨ m.expiry ≤ (s.die 0).time) → ok (.lease q) fun u =>
        ∃ m, Tab.look u.sems (a 16 1) = some m ∧ m.heldBy q.endpointB (u.die 0).time = true ∧ m.expiry = (s.die 0).time + a 24 8) ∧
    (∀ m, a 16 1 ≤ 7 → Tab.look s.sems (a 16 1) = some m → m.heldBy q.endpointB (s.die 0).time = true → ok (.unlease q) fun u =>
      Tab.look u.sems (a 16 1) = none)

/-- R412: the service commands of contexts, guests and the host. Completes: ring, resolve, unparkCmd, killteam, killlaunch, switch,
preemptvf, haltsvc, resumesvc, trace, rrset, profopen, profread, profclose, clkset, partcfg, hearthcfg, poolcfg, peerset,
netadmit, asidset, ctxcreate, featneg, attest, imgstage, powercap, lease, unlease. -/
def Obligations.ServiceCommands : Prop := Sys2Proof.Claim.ContextCommands ∧ Sys2Proof.Claim.HostCommands

/-! ### The machine as a whole -/

/-- R329, R341, R396, R414, R416: right after reset the mask ROM has yet to run; no launch has been submitted and the next takes
number 1; CYC, the accumulator of CYCN and TIME of every die are 0; every source's records start at 0; no feature word is
accepted; every service thread stands at HOST with PPL = HOST, and no thread runs. Memory, windows and service registers are in the
form that every step keeps. -/
def Obligations.ResetState : Prop :=
  let s := State.reset
  (s.ctl.bootPending = true ∧ s.ctl.feature = none ∧ s.nextSeq = 1 ∧ s.cur = .none) ∧
  (∀ l, Tab.look s.launches l = none) ∧
  (∀ d, (s.die d).cyc = 0 ∧ (s.die d).acc = 0 ∧ (s.die d).time = 0) ∧
  (∀ u, Tab.get 0 s.seqs u = 0 ∧ Tab.get 0 s.evSeqs u = 0) ∧
  (∀ t, (s.svc t).stopped = true ∧ (s.svc t).sstat = 0x30) ∧
  (s.memOk = true ∧ s.windowsOk = true ∧ s.svcOk = true)

/-- R155-R160, R165-R170, R174-R176: words written out field by field, highest field first, decode to what they stand for. -/
def Obligations.DecodesSpecWords : Prop :=
  let v (n : Byte) : Src := ⟨.v n false, 0⟩
  let h : LaneHdr := ⟨true, 5, 1, false⟩
  -- PFX CAP, no SAT, RTZ; ADD.W s1, s2, s3; ADDI s4, s5, -1; BR +8
  decode (.one (0b00000000000000000#17 ++ 1#1 ++ 0#1 ++ 0b001#3 ++ 0b00000000#8 ++ 0b10#2)) = .ok (.pfx true false .rtz) ∧
  decode (.one (0b0001#4 ++ 3#6 ++ 2#6 ++ 1#6 ++ 0x04#8 ++ 0b00#2)) = .ok (.add ⟨false, true⟩ 1 2 3) ∧
  decode (.one (0b1111111111#10 ++ 5#6 ++ 4#6 ++ 0x18#8 ++ 0b00#2)) = .ok (.addi 4 5 0x3FF) ∧
  decode (.one (8#22 ++ 0x38#8 ++ 0b00#2)) = .ok (.br 8) ∧
  -- LD.64 s6, [s7 + 16]; BRC.LT s1, -8
  decode (.two (0b0000000011#10 ++ 7#6 ++ 6#6 ++ 0x50#8 ++ 0b01#2) 16#32) = .ok (.ld .b64 false false 6 7 16) ∧
  decode (.two (0b0000000010#10 ++ 1#6 ++ 0#6 ++ 0x39#8 ++ 0b01#2) 0xFFFFFFF8#32) = .ok (.brc .lt 1 0xFFFFFFF8) ∧
  -- SYSWR svec, s9; ERET
  decode (.one (4#10 ++ 9#6 ++ 0#6 ++ 0xE1#8 ++ 0b00#2)) = .ok (.syswr .svec 9) ∧
  decode (.one (0#22 ++ 0xE2#8 ++ 0b00#2)) = .ok .eret ∧
  -- VFMA F32 v8, v1, v2, s3 with pred p1
  decode (.lane (0#13 ++ 0#1 ++ 0#3 ++ 0#5 ++ 0#1 ++ 1#3 ++ (0b10#2 ++ 67#8 ++ 0#1 ++ 0#2) ++ (0b00#2 ++ 2#8 ++ 0#1 ++ 0#2) ++
    (0b00#2 ++ 1#8 ++ 0#1 ++ 0#2) ++ (0b00#2 ++ 8#8) ++ 5#10 ++ 1#2 ++ 0x023#9)) =
    .ok (.vfma ⟨h, .v 8, v 1, v 2, ⟨.s 3 false, 0⟩, .f32, .rne, false, 0⟩) ∧
  -- VMOVI v9, 0x12345678
  decode (.lane (0#7 ++ 0b000100#6 ++ 0#1 ++ 0#3 ++ 0#5 ++ 0#1 ++ 1#3 ++ 0b1000110100010#13 ++ 0b1011001111000#13 ++ 0#13 ++
    (0b00#2 ++ 9#8) ++ 5#10 ++ 1#2 ++ 0x01A#9)) = .ok (.vmovi h (.v 9) 0x12345678)

/-- A decoded instruction is well formed, and the words of a well-formed instruction decode to it, with every operand at every
value its fields admit. -/
def Obligations.EncodeDecode : Prop :=
  (∀ i c, i.wf = true → encode i = some c → decode c = .ok i) ∧ (∀ c i, decode c = .ok i → i.wf = true)

/-- R154, R164: a decoded instruction has no other words: where a word's length selector is that of its length, encoding what it
decodes to gives the word back, so that no two words stand for one instruction. -/
def Obligations.WordsAreCanonical : Prop :=
  ∀ c i, (match c with | .one w => w.extractLsb' 0 2 ≠ 1 | .two w _ => w.extractLsb' 0 2 = 1 | .lane _ => True) →
    decode c = .ok i → encode i = some c

namespace Sys2Proof.Claim

/-- A word of the code of the thread at hand, at virtual address `a`: in a page its core holds a translation of, not poisoned; a
service thread's inside its image. `lane` says whether a lane word is fetched. -/
def CodeAt (s : State) (lane : Bool) (a : DWord) (w : Word) : Prop :=
  match s.cur with
  | .none => False
  | .group g => a.toNat < 2 ^ 58 ∧ ∃ pa pte, s.translateG g (s.asidOf g) a.toNat { xs := !lane, xl := lane } = .ok pa pte ∧
      s.linkHolds pa 4 = false ∧ s.isBad pa 4 = false ∧ w.toNat = s.rdLe pa 4
  | .svc _ => lane = false ∧ a.toNat + 4 ≤ s.ctl.image.length ∧ w.toNat = ofLeBytes ((s.ctl.image.drop a.toNat).take 4)

/-- A scalar stream is about to issue: outside a block, and for a service thread no word is a system word it may not run. -/
def ScalarNext (s : State) (w : Word) : Prop :=
  match s.cur with
  | .none => False
  | .group g => (s.group g).blk = none ∧ ¬(w.extractLsb' 0 2 = 0 ∧ w.extractLsb' 6 4 = 0xE)
  | .svc _ => True

/-- The state in which a scalar instruction executes: a group outside a region has begun an implicit one (R197). -/
def Opened (s : State) (i : Instr) : State :=
  match s.cur with
  | .group g => (match i with | .region _ => s | _ => s.openImplicit g)
  | _ => s

end Sys2Proof.Claim

/-- R154, R159-R165, R192, R197: when the words at the program counter of the thread that is to issue decode to an instruction, the
step is that instruction's execution, followed by the end of the step (waits that end, trace records); after a prefix, the same
step executes the instruction after it. -/
def Obligations.StepRunsDecoded : Prop :=
  (∀ s w i, Claim.ScalarNext s w → w.extractLsb' 0 2 ≠ 1 → Claim.CodeAt s false s.thr.wordAt w → decode (.one w) = .ok i →
    s.fetch = .ok (i, Claim.Opened s i)) ∧
  (∀ s w w1 i, Claim.ScalarNext s w → w.extractLsb' 0 2 = 1 → s.lastWord s.thr.wordAt = false → Claim.CodeAt s false s.thr.wordAt w →
    Claim.CodeAt s false (s.thr.wordAt + 4) w1 → decode (.two w w1) = .ok i → s.fetch = .ok (i, Claim.Opened s i)) ∧
  (∀ s g w i, s.cur = .group g → (s.group g).blk ≠ none →
    (∀ k : Fin 3, Claim.CodeAt s true (s.pcOf g + BitVec.ofNat 64 (4 * k.val)) (w.extractLsb' (32 * k.val) 32)) →
    decode (.lane w) = .ok i → s.fetch = .ok (i, s)) ∧
  (∀ s e t u i v, s.nextEvent = some (e, t) → isEvent e = true → exec e t = .next u → u.cur ≠ .none → u.begun.fetch = .ok (i, v) →
    (∀ w, exec i v = .next w → (∀ c q r, i ≠ .pfx c q r) → step s = .next (w.finish t u u.cur (some i))) ∧
    (∀ w, exec i v = .next w → (∃ c q r, i = .pfx c q r) →
      (w.thr.pfx = none → step s = .next (w.finish t u u.cur (some i))) ∧
      (w.thr.pfx ≠ none → ∀ j x y, w.fetch = .ok (j, x) → exec j x = .next y → step s = .next (y.finish t u u.cur (some j)))))

/-- Every step keeps the canonical form of memory: addresses rise and no listed byte is what an unlisted one reads as. -/
def Obligations.StepKeepsMemoryForm : Prop := ∀ s t, s.memOk = true → step s = .next t → t.memOk = true

/-- R329: every step keeps the reserved fields of every service thread's sstat, ecause and svec zero. -/
def Obligations.StepKeepsServiceRegisters : Prop := ∀ s t, s.svcOk = true → step s = .next t → t.svcOk = true
end

