-- ==== Sys2Proof/Laws/Tab.lean ====
section
/-! SUPPORT. Laws of the sparse tables: what a key reads as after an entry is listed, dropped or written, and that a write
keeps the canonical form. -/

namespace Sys2Proof.Machine

variable {α : Type}

/-! ### What a key reads as -/

theorem Tab.look_del_self (t : Tab α) (n : Nat) : Tab.look (Tab.del t n) n = none := by
  induction t with
  | nil => rfl
  | cons e t ih =>
    obtain ⟨k, v⟩ := e
    by_cases h : k = n <;> simp [Tab.del, Tab.look, h, ih]

theorem Tab.look_del_ne (t : Tab α) {n m : Nat} (h : m ≠ n) : Tab.look (Tab.del t n) m = Tab.look t m := by
  induction t with
  | nil => rfl
  | cons e t ih =>
    obtain ⟨k, v⟩ := e
    by_cases hk : k = n
    · subst hk; simp [Tab.del, Tab.look, ih, Ne.symm h]
    · by_cases hm : k = m
      · subst hm; simp [Tab.del, Tab.look, hk]
      · simp [Tab.del, Tab.look, hk, hm, ih]

theorem Tab.look_ins_self (t : Tab α) (n : Nat) (x : α) (h : Tab.look t n = none) : Tab.look (Tab.ins n x t) n = some x := by
  induction t with
  | nil => simp [Tab.ins, Tab.look]
  | cons e t ih =>
    obtain ⟨k, v⟩ := e
    by_cases hk : k = n
    · simp [Tab.look, hk] at h
    · simp only [Tab.look, hk, if_false] at h
      by_cases hl : n < k <;> simp [Tab.ins, Tab.look, hl, hk, ih h]

theorem Tab.look_ins_ne (t : Tab α) {n m : Nat} (x : α) (h : m ≠ n) : Tab.look (Tab.ins n x t) m = Tab.look t m := by
  induction t with
  | nil => simp [Tab.ins, Tab.look, Ne.symm h]
  | cons e t ih =>
    obtain ⟨k, v⟩ := e
    by_cases hl : n < k
    · simp [Tab.ins, Tab.look, hl, Ne.symm h]
    · by_cases hm : k = m
      · subst hm; simp [Tab.ins, Tab.look, hl]
      · simp [Tab.ins, Tab.look, hl, hm, ih]

@[simp] theorem Tab.look_put_self (t : Tab α) (n : Nat) (x : α) : Tab.look (Tab.put t n x) n = some x :=
  Tab.look_ins_self _ _ _ (Tab.look_del_self t n)

theorem Tab.look_put_ne (t : Tab α) {n m : Nat} (x : α) (h : m ≠ n) : Tab.look (Tab.put t n x) m = Tab.look t m := by
  rw [Tab.put, Tab.look_ins_ne _ _ h, Tab.look_del_ne _ h]

@[simp] theorem Tab.get_put_self (d : α) (t : Tab α) (n : Nat) (x : α) : Tab.get d (Tab.put t n x) n = x := by
  simp [Tab.get]

theorem Tab.get_put_ne (d : α) (t : Tab α) {n m : Nat} (x : α) (h : m ≠ n) :
    Tab.get d (Tab.put t n x) m = Tab.get d t m := by
  simp [Tab.get, Tab.look_put_ne _ _ h]

/-! ### Order of keys -/

theorem Tab.mem_del {t : Tab α} {n : Nat} {e : Nat × α} (h : e ∈ Tab.del t n) : e ∈ t ∧ e.1 ≠ n := by
  induction t with
  | nil => simp [Tab.del] at h
  | cons c t ih =>
    obtain ⟨k, v⟩ := c
    by_cases hk : k = n
    · simp only [Tab.del, hk, if_true] at h
      exact ⟨List.mem_cons_of_mem _ (ih h).1, (ih h).2⟩
    · simp only [Tab.del, hk, if_false, List.mem_cons] at h
      rcases h with rfl | h
      · exact ⟨List.mem_cons_self, hk⟩
      · exact ⟨List.mem_cons_of_mem _ (ih h).1, (ih h).2⟩

theorem Tab.del_pairwise {t : Tab α} (n : Nat) (h : t.Pairwise fun a b => a.1 < b.1) :
    (Tab.del t n).Pairwise fun a b => a.1 < b.1 := by
  induction t with
  | nil => simp [Tab.del]
  | cons c t ih =>
    obtain ⟨k, v⟩ := c
    rw [List.pairwise_cons] at h
    by_cases hk : k = n
    · simpa [Tab.del, hk] using ih h.2
    · simp only [Tab.del, hk, if_false, List.pairwise_cons]
      exact ⟨fun e he => h.1 e (Tab.mem_del he).1, ih h.2⟩

theorem Tab.mem_ins {t : Tab α} {n : Nat} {x : α} {e : Nat × α} (h : e ∈ Tab.ins n x t) : e = (n, x) ∨ e ∈ t := by
  induction t with
  | nil => simpa [Tab.ins] using h
  | cons c t ih =>
    obtain ⟨k, v⟩ := c
    by_cases hl : n < k
    · simpa [Tab.ins, hl] using h
    · simp only [Tab.ins, hl, if_false, List.mem_cons] at h
      rcases h with h | h
      · exact .inr (by simp [h])
      · exact (ih h).imp id (List.mem_cons_of_mem _)

theorem Tab.ins_pairwise {t : Tab α} (n : Nat) (x : α) (h : t.Pairwise fun a b => a.1 < b.1) (hn : ∀ e ∈ t, e.1 ≠ n) :
    (Tab.ins n x t).Pairwise fun a b => a.1 < b.1 := by
  induction t with
  | nil => simp [Tab.ins]
  | cons c t ih =>
    obtain ⟨k, v⟩ := c
    rw [List.pairwise_cons] at h
    have hk : k ≠ n := hn (k, v) List.mem_cons_self
    by_cases hl : n < k
    · simp only [Tab.ins, hl, if_true, List.pairwise_cons]
      refine ⟨fun e he => ?_, h.1, h.2⟩
      rcases List.mem_cons.mp he with rfl | he
      · exact hl
      · exact lt_trans hl (h.1 e he)
    · simp only [Tab.ins, hl, if_false, List.pairwise_cons]
      refine ⟨fun e he => ?_, ih h.2 fun e he => hn e (List.mem_cons_of_mem _ he)⟩
      rcases Tab.mem_ins he with rfl | he
      · show k < n; omega
      · exact h.1 e he

variable [DecidableEq α]

/-- A written key reads as written. -/
@[simp] theorem Tab.get_set_self (d : α) (t : Tab α) (n : Nat) (x : α) : Tab.get d (Tab.set d t n x) n = x := by
  by_cases h : x = d <;> simp [Tab.set, h, Tab.get, Tab.look_del_self]

/-- A write leaves every other key alone. -/
theorem Tab.get_set_ne (d : α) (t : Tab α) {n m : Nat} (x : α) (h : m ≠ n) :
    Tab.get d (Tab.set d t n x) m = Tab.get d t m := by
  by_cases hx : x = d
  · simp [Tab.set, hx, Tab.get, Tab.look_del_ne _ h]
  · simp [Tab.set, hx, Tab.get_put_ne _ _ _ h]

/-! ### The canonical form -/

/-- The canonical form, said of the whole list. -/
theorem Tab.wf_iff (d : α) (t : Tab α) :
    Tab.wf d t = true ↔ t.Pairwise (fun a b => a.1 < b.1) ∧ ∀ e ∈ t, e.2 ≠ d := by
  induction t with
  | nil => simp [Tab.wf]
  | cons e t ih =>
    obtain ⟨k, v⟩ := e
    cases t with
    | nil => simp [Tab.wf]
    | cons e' t =>
      obtain ⟨k', v'⟩ := e'
      simp only [Tab.wf, Bool.and_eq_true, decide_eq_true_eq, bne_iff_ne, ne_eq, ih, List.pairwise_cons, List.mem_cons,
        forall_eq_or_imp]
      constructor
      · rintro ⟨⟨h1, h2⟩, ⟨h3, h4⟩, h5, h6⟩
        exact ⟨⟨⟨h1, fun a ha => lt_trans h1 (h3 a ha)⟩, h3, h4⟩, h2, h5, h6⟩
      · rintro ⟨⟨⟨h1, -⟩, h3, h4⟩, h2, h5, h6⟩
        exact ⟨⟨h1, h2⟩, ⟨h3, h4⟩, h5, h6⟩

/-- A write keeps the canonical form. -/
theorem Tab.wf_set {d : α} {t : Tab α} (n : Nat) (x : α) (h : Tab.wf d t = true) : Tab.wf d (Tab.set d t n x) = true := by
  rw [Tab.wf_iff] at h ⊢
  by_cases hx : x = d
  · simp only [Tab.set, hx, if_true]
    exact ⟨Tab.del_pairwise n h.1, fun e he => h.2 e (Tab.mem_del he).1⟩
  · simp only [Tab.set, hx, if_false, Tab.put]
    refine ⟨Tab.ins_pairwise n x (Tab.del_pairwise n h.1) fun e he => (Tab.mem_del he).2, fun e he => ?_⟩
    rcases Tab.mem_ins he with rfl | he
    · exact hx
    · exact h.2 e (Tab.mem_del he).1

/-- Dropping entries keeps the canonical form. -/
theorem Tab.wf_filter {d : α} {t : Tab α} (p : Nat × α → Bool) (h : Tab.wf d t = true) : Tab.wf d (t.filter p) = true := by
  rw [Tab.wf_iff] at h ⊢
  exact ⟨h.1.filter p, fun e he => h.2 e (List.mem_of_mem_filter he)⟩

end Sys2Proof.Machine
end

