-- ==== Sys2Proof/Laws/State.lean ====
section
/-! SUPPORT. What every update of the state leaves and what it writes: one lemma per field per update, and per record. -/

namespace Sys2Proof.Machine

/-! ### Fields of the state after an update of a record -/

@[simp] theorem State.setDie_mem (s : State) (d : Nat) (x : Die) : (s.setDie d x).mem = s.mem := rfl
@[simp] theorem State.setDie_bad (s : State) (d : Nat) (x : Die) : (s.setDie d x).bad = s.bad := rfl
@[simp] theorem State.setDie_cores (s : State) (d : Nat) (x : Die) : (s.setDie d x).cores = s.cores := rfl
@[simp] theorem State.setDie_quadTlb (s : State) (d : Nat) (x : Die) : (s.setDie d x).quadTlb = s.quadTlb := rfl
@[simp] theorem State.setDie_evicted (s : State) (d : Nat) (x : Die) : (s.setDie d x).evicted = s.evicted := rfl
@[simp] theorem State.setDie_groups (s : State) (d : Nat) (x : Die) : (s.setDie d x).groups = s.groups := rfl
@[simp] theorem State.setDie_teams (s : State) (d : Nat) (x : Die) : (s.setDie d x).teams = s.teams := rfl
@[simp] theorem State.setDie_launches (s : State) (d : Nat) (x : Die) : (s.setDie d x).launches = s.launches := rfl
@[simp] theorem State.setDie_nextSeq (s : State) (d : Nat) (x : Die) : (s.setDie d x).nextSeq = s.nextSeq := rfl
@[simp] theorem State.setDie_rays (s : State) (d : Nat) (x : Die) : (s.setDie d x).rays = s.rays := rfl
@[simp] theorem State.setDie_replays (s : State) (d : Nat) (x : Die) : (s.setDie d x).replays = s.replays := rfl
@[simp] theorem State.setDie_units (s : State) (d : Nat) (x : Die) : (s.setDie d x).units = s.units := rfl
@[simp] theorem State.setDie_arrivals (s : State) (d : Nat) (x : Die) : (s.setDie d x).arrivals = s.arrivals := rfl
@[simp] theorem State.setDie_notices (s : State) (d : Nat) (x : Die) : (s.setDie d x).notices = s.notices := rfl
@[simp] theorem State.setDie_svcs (s : State) (d : Nat) (x : Die) : (s.setDie d x).svcs = s.svcs := rfl
@[simp] theorem State.setDie_sems (s : State) (d : Nat) (x : Die) : (s.setDie d x).sems = s.sems := rfl
@[simp] theorem State.setDie_asids (s : State) (d : Nat) (x : Die) : (s.setDie d x).asids = s.asids := rfl
@[simp] theorem State.setDie_hearth (s : State) (d : Nat) (x : Die) : (s.setDie d x).hearth = s.hearth := rfl
@[simp] theorem State.setDie_ctxs (s : State) (d : Nat) (x : Die) : (s.setDie d x).ctxs = s.ctxs := rfl
@[simp] theorem State.setDie_vfs (s : State) (d : Nat) (x : Die) : (s.setDie d x).vfs = s.vfs := rfl
@[simp] theorem State.setDie_parts (s : State) (d : Nat) (x : Die) : (s.setDie d x).parts = s.parts := rfl
@[simp] theorem State.setDie_decoders (s : State) (d : Nat) (x : Die) : (s.setDie d x).decoders = s.decoders := rfl
@[simp] theorem State.setDie_links (s : State) (d : Nat) (x : Die) : (s.setDie d x).links = s.links := rfl
@[simp] theorem State.setDie_admits (s : State) (d : Nat) (x : Die) : (s.setDie d x).admits = s.admits := rfl
@[simp] theorem State.setDie_ctl (s : State) (d : Nat) (x : Die) : (s.setDie d x).ctl = s.ctl := rfl
@[simp] theorem State.setDie_faults (s : State) (d : Nat) (x : Die) : (s.setDie d x).faults = s.faults := rfl
@[simp] theorem State.setDie_seqs (s : State) (d : Nat) (x : Die) : (s.setDie d x).seqs = s.seqs := rfl
@[simp] theorem State.setDie_evSeqs (s : State) (d : Nat) (x : Die) : (s.setDie d x).evSeqs = s.evSeqs := rfl
@[simp] theorem State.setDie_cur (s : State) (d : Nat) (x : Die) : (s.setDie d x).cur = s.cur := rfl
@[simp] theorem State.setDie_agenda (s : State) (d : Nat) (x : Die) : (s.setDie d x).agenda = s.agenda := rfl
@[simp] theorem State.setDie_turn (s : State) (d : Nat) (x : Die) : (s.setDie d x).turn = s.turn := rfl
@[simp] theorem State.setDie_evTurn (s : State) (d : Nat) (x : Die) : (s.setDie d x).evTurn = s.evTurn := rfl
@[simp] theorem State.setDie_issueNext (s : State) (d : Nat) (x : Die) : (s.setDie d x).issueNext = s.issueNext := rfl
@[simp] theorem State.setDie_served (s : State) (d : Nat) (x : Die) : (s.setDie d x).served = s.served := rfl
@[simp] theorem State.setDie_free (s : State) (d : Nat) (x : Die) : (s.setDie d x).free = s.free := rfl

@[simp] theorem State.setCore_mem (s : State) (k : Nat) (x : Core) : (s.setCore k x).mem = s.mem := rfl
@[simp] theorem State.setCore_bad (s : State) (k : Nat) (x : Core) : (s.setCore k x).bad = s.bad := rfl
@[simp] theorem State.setCore_dies (s : State) (k : Nat) (x : Core) : (s.setCore k x).dies = s.dies := rfl
@[simp] theorem State.setCore_quadTlb (s : State) (k : Nat) (x : Core) : (s.setCore k x).quadTlb = s.quadTlb := rfl
@[simp] theorem State.setCore_evicted (s : State) (k : Nat) (x : Core) : (s.setCore k x).evicted = s.evicted := rfl
@[simp] theorem State.setCore_groups (s : State) (k : Nat) (x : Core) : (s.setCore k x).groups = s.groups := rfl
@[simp] theorem State.setCore_teams (s : State) (k : Nat) (x : Core) : (s.setCore k x).teams = s.teams := rfl
@[simp] theorem State.setCore_launches (s : State) (k : Nat) (x : Core) : (s.setCore k x).launches = s.launches := rfl
@[simp] theorem State.setCore_nextSeq (s : State) (k : Nat) (x : Core) : (s.setCore k x).nextSeq = s.nextSeq := rfl
@[simp] theorem State.setCore_rays (s : State) (k : Nat) (x : Core) : (s.setCore k x).rays = s.rays := rfl
@[simp] theorem State.setCore_replays (s : State) (k : Nat) (x : Core) : (s.setCore k x).replays = s.replays := rfl
@[simp] theorem State.setCore_units (s : State) (k : Nat) (x : Core) : (s.setCore k x).units = s.units := rfl
@[simp] theorem State.setCore_arrivals (s : State) (k : Nat) (x : Core) : (s.setCore k x).arrivals = s.arrivals := rfl
@[simp] theorem State.setCore_notices (s : State) (k : Nat) (x : Core) : (s.setCore k x).notices = s.notices := rfl
@[simp] theorem State.setCore_svcs (s : State) (k : Nat) (x : Core) : (s.setCore k x).svcs = s.svcs := rfl
@[simp] theorem State.setCore_sems (s : State) (k : Nat) (x : Core) : (s.setCore k x).sems = s.sems := rfl
@[simp] theorem State.setCore_asids (s : State) (k : Nat) (x : Core) : (s.setCore k x).asids = s.asids := rfl
@[simp] theorem State.setCore_hearth (s : State) (k : Nat) (x : Core) : (s.setCore k x).hearth = s.hearth := rfl
@[simp] theorem State.setCore_ctxs (s : State) (k : Nat) (x : Core) : (s.setCore k x).ctxs = s.ctxs := rfl
@[simp] theorem State.setCore_vfs (s : State) (k : Nat) (x : Core) : (s.setCore k x).vfs = s.vfs := rfl
@[simp] theorem State.setCore_parts (s : State) (k : Nat) (x : Core) : (s.setCore k x).parts = s.parts := rfl
@[simp] theorem State.setCore_decoders (s : State) (k : Nat) (x : Core) : (s.setCore k x).decoders = s.decoders := rfl
@[simp] theorem State.setCore_links (s : State) (k : Nat) (x : Core) : (s.setCore k x).links = s.links := rfl
@[simp] theorem State.setCore_admits (s : State) (k : Nat) (x : Core) : (s.setCore k x).admits = s.admits := rfl
@[simp] theorem State.setCore_ctl (s : State) (k : Nat) (x : Core) : (s.setCore k x).ctl = s.ctl := rfl
@[simp] theorem State.setCore_faults (s : State) (k : Nat) (x : Core) : (s.setCore k x).faults = s.faults := rfl
@[simp] theorem State.setCore_seqs (s : State) (k : Nat) (x : Core) : (s.setCore k x).seqs = s.seqs := rfl
@[simp] theorem State.setCore_evSeqs (s : State) (k : Nat) (x : Core) : (s.setCore k x).evSeqs = s.evSeqs := rfl
@[simp] theorem State.setCore_cur (s : State) (k : Nat) (x : Core) : (s.setCore k x).cur = s.cur := rfl
@[simp] theorem State.setCore_agenda (s : State) (k : Nat) (x : Core) : (s.setCore k x).agenda = s.agenda := rfl
@[simp] theorem State.setCore_turn (s : State) (k : Nat) (x : Core) : (s.setCore k x).turn = s.turn := rfl
@[simp] theorem State.setCore_evTurn (s : State) (k : Nat) (x : Core) : (s.setCore k x).evTurn = s.evTurn := rfl
@[simp] theorem State.setCore_issueNext (s : State) (k : Nat) (x : Core) : (s.setCore k x).issueNext = s.issueNext := rfl
@[simp] theorem State.setCore_served (s : State) (k : Nat) (x : Core) : (s.setCore k x).served = s.served := rfl
@[simp] theorem State.setCore_free (s : State) (k : Nat) (x : Core) : (s.setCore k x).free = s.free := rfl

@[simp] theorem State.setGroup_mem (s : State) (g : Nat) (x : Group) : (s.setGroup g x).mem = s.mem := rfl
@[simp] theorem State.setGroup_bad (s : State) (g : Nat) (x : Group) : (s.setGroup g x).bad = s.bad := rfl
@[simp] theorem State.setGroup_dies (s : State) (g : Nat) (x : Group) : (s.setGroup g x).dies = s.dies := rfl
@[simp] theorem State.setGroup_cores (s : State) (g : Nat) (x : Group) : (s.setGroup g x).cores = s.cores := rfl
@[simp] theorem State.setGroup_quadTlb (s : State) (g : Nat) (x : Group) : (s.setGroup g x).quadTlb = s.quadTlb := rfl
@[simp] theorem State.setGroup_evicted (s : State) (g : Nat) (x : Group) : (s.setGroup g x).evicted = s.evicted := rfl
@[simp] theorem State.setGroup_teams (s : State) (g : Nat) (x : Group) : (s.setGroup g x).teams = s.teams := rfl
@[simp] theorem State.setGroup_launches (s : State) (g : Nat) (x : Group) : (s.setGroup g x).launches = s.launches := rfl
@[simp] theorem State.setGroup_nextSeq (s : State) (g : Nat) (x : Group) : (s.setGroup g x).nextSeq = s.nextSeq := rfl
@[simp] theorem State.setGroup_rays (s : State) (g : Nat) (x : Group) : (s.setGroup g x).rays = s.rays := rfl
@[simp] theorem State.setGroup_replays (s : State) (g : Nat) (x : Group) : (s.setGroup g x).replays = s.replays := rfl
@[simp] theorem State.setGroup_units (s : State) (g : Nat) (x : Group) : (s.setGroup g x).units = s.units := rfl
@[simp] theorem State.setGroup_arrivals (s : State) (g : Nat) (x : Group) : (s.setGroup g x).arrivals = s.arrivals := rfl
@[simp] theorem State.setGroup_notices (s : State) (g : Nat) (x : Group) : (s.setGroup g x).notices = s.notices := rfl
@[simp] theorem State.setGroup_svcs (s : State) (g : Nat) (x : Group) : (s.setGroup g x).svcs = s.svcs := rfl
@[simp] theorem State.setGroup_sems (s : State) (g : Nat) (x : Group) : (s.setGroup g x).sems = s.sems := rfl
@[simp] theorem State.setGroup_asids (s : State) (g : Nat) (x : Group) : (s.setGroup g x).asids = s.asids := rfl
@[simp] theorem State.setGroup_hearth (s : State) (g : Nat) (x : Group) : (s.setGroup g x).hearth = s.hearth := rfl
@[simp] theorem State.setGroup_ctxs (s : State) (g : Nat) (x : Group) : (s.setGroup g x).ctxs = s.ctxs := rfl
@[simp] theorem State.setGroup_vfs (s : State) (g : Nat) (x : Group) : (s.setGroup g x).vfs = s.vfs := rfl
@[simp] theorem State.setGroup_parts (s : State) (g : Nat) (x : Group) : (s.setGroup g x).parts = s.parts := rfl
@[simp] theorem State.setGroup_decoders (s : State) (g : Nat) (x : Group) : (s.setGroup g x).decoders = s.decoders := rfl
@[simp] theorem State.setGroup_links (s : State) (g : Nat) (x : Group) : (s.setGroup g x).links = s.links := rfl
@[simp] theorem State.setGroup_admits (s : State) (g : Nat) (x : Group) : (s.setGroup g x).admits = s.admits := rfl
@[simp] theorem State.setGroup_ctl (s : State) (g : Nat) (x : Group) : (s.setGroup g x).ctl = s.ctl := rfl
@[simp] theorem State.setGroup_faults (s : State) (g : Nat) (x : Group) : (s.setGroup g x).faults = s.faults := rfl
@[simp] theorem State.setGroup_seqs (s : State) (g : Nat) (x : Group) : (s.setGroup g x).seqs = s.seqs := rfl
@[simp] theorem State.setGroup_evSeqs (s : State) (g : Nat) (x : Group) : (s.setGroup g x).evSeqs = s.evSeqs := rfl
@[simp] theorem State.setGroup_cur (s : State) (g : Nat) (x : Group) : (s.setGroup g x).cur = s.cur := rfl
@[simp] theorem State.setGroup_agenda (s : State) (g : Nat) (x : Group) : (s.setGroup g x).agenda = s.agenda := rfl
@[simp] theorem State.setGroup_turn (s : State) (g : Nat) (x : Group) : (s.setGroup g x).turn = s.turn := rfl
@[simp] theorem State.setGroup_evTurn (s : State) (g : Nat) (x : Group) : (s.setGroup g x).evTurn = s.evTurn := rfl
@[simp] theorem State.setGroup_issueNext (s : State) (g : Nat) (x : Group) : (s.setGroup g x).issueNext = s.issueNext := rfl
@[simp] theorem State.setGroup_served (s : State) (g : Nat) (x : Group) : (s.setGroup g x).served = s.served := rfl
@[simp] theorem State.setGroup_free (s : State) (g : Nat) (x : Group) : (s.setGroup g x).free = s.free := rfl

@[simp] theorem State.setTeam_mem (s : State) (t : Nat) (x : Team) : (s.setTeam t x).mem = s.mem := rfl
@[simp] theorem State.setTeam_bad (s : State) (t : Nat) (x : Team) : (s.setTeam t x).bad = s.bad := rfl
@[simp] theorem State.setTeam_dies (s : State) (t : Nat) (x : Team) : (s.setTeam t x).dies = s.dies := rfl
@[simp] theorem State.setTeam_cores (s : State) (t : Nat) (x : Team) : (s.setTeam t x).cores = s.cores := rfl
@[simp] theorem State.setTeam_quadTlb (s : State) (t : Nat) (x : Team) : (s.setTeam t x).quadTlb = s.quadTlb := rfl
@[simp] theorem State.setTeam_evicted (s : State) (t : Nat) (x : Team) : (s.setTeam t x).evicted = s.evicted := rfl
@[simp] theorem State.setTeam_groups (s : State) (t : Nat) (x : Team) : (s.setTeam t x).groups = s.groups := rfl
@[simp] theorem State.setTeam_launches (s : State) (t : Nat) (x : Team) : (s.setTeam t x).launches = s.launches := rfl
@[simp] theorem State.setTeam_nextSeq (s : State) (t : Nat) (x : Team) : (s.setTeam t x).nextSeq = s.nextSeq := rfl
@[simp] theorem State.setTeam_rays (s : State) (t : Nat) (x : Team) : (s.setTeam t x).rays = s.rays := rfl
@[simp] theorem State.setTeam_replays (s : State) (t : Nat) (x : Team) : (s.setTeam t x).replays = s.replays := rfl
@[simp] theorem State.setTeam_units (s : State) (t : Nat) (x : Team) : (s.setTeam t x).units = s.units := rfl
@[simp] theorem State.setTeam_arrivals (s : State) (t : Nat) (x : Team) : (s.setTeam t x).arrivals = s.arrivals := rfl
@[simp] theorem State.setTeam_notices (s : State) (t : Nat) (x : Team) : (s.setTeam t x).notices = s.notices := rfl
@[simp] theorem State.setTeam_svcs (s : State) (t : Nat) (x : Team) : (s.setTeam t x).svcs = s.svcs := rfl
@[simp] theorem State.setTeam_sems (s : State) (t : Nat) (x : Team) : (s.setTeam t x).sems = s.sems := rfl
@[simp] theorem State.setTeam_asids (s : State) (t : Nat) (x : Team) : (s.setTeam t x).asids = s.asids := rfl
@[simp] theorem State.setTeam_hearth (s : State) (t : Nat) (x : Team) : (s.setTeam t x).hearth = s.hearth := rfl
@[simp] theorem State.setTeam_ctxs (s : State) (t : Nat) (x : Team) : (s.setTeam t x).ctxs = s.ctxs := rfl
@[simp] theorem State.setTeam_vfs (s : State) (t : Nat) (x : Team) : (s.setTeam t x).vfs = s.vfs := rfl
@[simp] theorem State.setTeam_parts (s : State) (t : Nat) (x : Team) : (s.setTeam t x).parts = s.parts := rfl
@[simp] theorem State.setTeam_decoders (s : State) (t : Nat) (x : Team) : (s.setTeam t x).decoders = s.decoders := rfl
@[simp] theorem State.setTeam_links (s : State) (t : Nat) (x : Team) : (s.setTeam t x).links = s.links := rfl
@[simp] theorem State.setTeam_admits (s : State) (t : Nat) (x : Team) : (s.setTeam t x).admits = s.admits := rfl
@[simp] theorem State.setTeam_ctl (s : State) (t : Nat) (x : Team) : (s.setTeam t x).ctl = s.ctl := rfl
@[simp] theorem State.setTeam_faults (s : State) (t : Nat) (x : Team) : (s.setTeam t x).faults = s.faults := rfl
@[simp] theorem State.setTeam_seqs (s : State) (t : Nat) (x : Team) : (s.setTeam t x).seqs = s.seqs := rfl
@[simp] theorem State.setTeam_evSeqs (s : State) (t : Nat) (x : Team) : (s.setTeam t x).evSeqs = s.evSeqs := rfl
@[simp] theorem State.setTeam_cur (s : State) (t : Nat) (x : Team) : (s.setTeam t x).cur = s.cur := rfl
@[simp] theorem State.setTeam_agenda (s : State) (t : Nat) (x : Team) : (s.setTeam t x).agenda = s.agenda := rfl
@[simp] theorem State.setTeam_turn (s : State) (t : Nat) (x : Team) : (s.setTeam t x).turn = s.turn := rfl
@[simp] theorem State.setTeam_evTurn (s : State) (t : Nat) (x : Team) : (s.setTeam t x).evTurn = s.evTurn := rfl
@[simp] theorem State.setTeam_issueNext (s : State) (t : Nat) (x : Team) : (s.setTeam t x).issueNext = s.issueNext := rfl
@[simp] theorem State.setTeam_served (s : State) (t : Nat) (x : Team) : (s.setTeam t x).served = s.served := rfl
@[simp] theorem State.setTeam_free (s : State) (t : Nat) (x : Team) : (s.setTeam t x).free = s.free := rfl

@[simp] theorem State.setLaunch_mem (s : State) (l : Nat) (x : Launch) : (s.setLaunch l x).mem = s.mem := rfl
@[simp] theorem State.setLaunch_bad (s : State) (l : Nat) (x : Launch) : (s.setLaunch l x).bad = s.bad := rfl
@[simp] theorem State.setLaunch_dies (s : State) (l : Nat) (x : Launch) : (s.setLaunch l x).dies = s.dies := rfl
@[simp] theorem State.setLaunch_cores (s : State) (l : Nat) (x : Launch) : (s.setLaunch l x).cores = s.cores := rfl
@[simp] theorem State.setLaunch_quadTlb (s : State) (l : Nat) (x : Launch) : (s.setLaunch l x).quadTlb = s.quadTlb := rfl
@[simp] theorem State.setLaunch_evicted (s : State) (l : Nat) (x : Launch) : (s.setLaunch l x).evicted = s.evicted := rfl
@[simp] theorem State.setLaunch_groups (s : State) (l : Nat) (x : Launch) : (s.setLaunch l x).groups = s.groups := rfl
@[simp] theorem State.setLaunch_teams (s : State) (l : Nat) (x : Launch) : (s.setLaunch l x).teams = s.teams := rfl
@[simp] theorem State.setLaunch_nextSeq (s : State) (l : Nat) (x : Launch) : (s.setLaunch l x).nextSeq = s.nextSeq := rfl
@[simp] theorem State.setLaunch_rays (s : State) (l : Nat) (x : Launch) : (s.setLaunch l x).rays = s.rays := rfl
@[simp] theorem State.setLaunch_replays (s : State) (l : Nat) (x : Launch) : (s.setLaunch l x).replays = s.replays := rfl
@[simp] theorem State.setLaunch_units (s : State) (l : Nat) (x : Launch) : (s.setLaunch l x).units = s.units := rfl
@[simp] theorem State.setLaunch_arrivals (s : State) (l : Nat) (x : Launch) : (s.setLaunch l x).arrivals = s.arrivals := rfl
@[simp] theorem State.setLaunch_notices (s : State) (l : Nat) (x : Launch) : (s.setLaunch l x).notices = s.notices := rfl
@[simp] theorem State.setLaunch_svcs (s : State) (l : Nat) (x : Launch) : (s.setLaunch l x).svcs = s.svcs := rfl
@[simp] theorem State.setLaunch_sems (s : State) (l : Nat) (x : Launch) : (s.setLaunch l x).sems = s.sems := rfl
@[simp] theorem State.setLaunch_asids (s : State) (l : Nat) (x : Launch) : (s.setLaunch l x).asids = s.asids := rfl
@[simp] theorem State.setLaunch_hearth (s : State) (l : Nat) (x : Launch) : (s.setLaunch l x).hearth = s.hearth := rfl
@[simp] theorem State.setLaunch_ctxs (s : State) (l : Nat) (x : Launch) : (s.setLaunch l x).ctxs = s.ctxs := rfl
@[simp] theorem State.setLaunch_vfs (s : State) (l : Nat) (x : Launch) : (s.setLaunch l x).vfs = s.vfs := rfl
@[simp] theorem State.setLaunch_parts (s : State) (l : Nat) (x : Launch) : (s.setLaunch l x).parts = s.parts := rfl
@[simp] theorem State.setLaunch_decoders (s : State) (l : Nat) (x : Launch) : (s.setLaunch l x).decoders = s.decoders := rfl
@[simp] theorem State.setLaunch_links (s : State) (l : Nat) (x : Launch) : (s.setLaunch l x).links = s.links := rfl
@[simp] theorem State.setLaunch_admits (s : State) (l : Nat) (x : Launch) : (s.setLaunch l x).admits = s.admits := rfl
@[simp] theorem State.setLaunch_ctl (s : State) (l : Nat) (x : Launch) : (s.setLaunch l x).ctl = s.ctl := rfl
@[simp] theorem State.setLaunch_faults (s : State) (l : Nat) (x : Launch) : (s.setLaunch l x).faults = s.faults := rfl
@[simp] theorem State.setLaunch_seqs (s : State) (l : Nat) (x : Launch) : (s.setLaunch l x).seqs = s.seqs := rfl
@[simp] theorem State.setLaunch_evSeqs (s : State) (l : Nat) (x : Launch) : (s.setLaunch l x).evSeqs = s.evSeqs := rfl
@[simp] theorem State.setLaunch_cur (s : State) (l : Nat) (x : Launch) : (s.setLaunch l x).cur = s.cur := rfl
@[simp] theorem State.setLaunch_agenda (s : State) (l : Nat) (x : Launch) : (s.setLaunch l x).agenda = s.agenda := rfl
@[simp] theorem State.setLaunch_turn (s : State) (l : Nat) (x : Launch) : (s.setLaunch l x).turn = s.turn := rfl
@[simp] theorem State.setLaunch_evTurn (s : State) (l : Nat) (x : Launch) : (s.setLaunch l x).evTurn = s.evTurn := rfl
@[simp] theorem State.setLaunch_issueNext (s : State) (l : Nat) (x : Launch) : (s.setLaunch l x).issueNext = s.issueNext := rfl
@[simp] theorem State.setLaunch_served (s : State) (l : Nat) (x : Launch) : (s.setLaunch l x).served = s.served := rfl
@[simp] theorem State.setLaunch_free (s : State) (l : Nat) (x : Launch) : (s.setLaunch l x).free = s.free := rfl

@[simp] theorem State.setSvc_mem (s : State) (t : Nat) (x : Svc) : (s.setSvc t x).mem = s.mem := rfl
@[simp] theorem State.setSvc_bad (s : State) (t : Nat) (x : Svc) : (s.setSvc t x).bad = s.bad := rfl
@[simp] theorem State.setSvc_dies (s : State) (t : Nat) (x : Svc) : (s.setSvc t x).dies = s.dies := rfl
@[simp] theorem State.setSvc_cores (s : State) (t : Nat) (x : Svc) : (s.setSvc t x).cores = s.cores := rfl
@[simp] theorem State.setSvc_quadTlb (s : State) (t : Nat) (x : Svc) : (s.setSvc t x).quadTlb = s.quadTlb := rfl
@[simp] theorem State.setSvc_evicted (s : State) (t : Nat) (x : Svc) : (s.setSvc t x).evicted = s.evicted := rfl
@[simp] theorem State.setSvc_groups (s : State) (t : Nat) (x : Svc) : (s.setSvc t x).groups = s.groups := rfl
@[simp] theorem State.setSvc_teams (s : State) (t : Nat) (x : Svc) : (s.setSvc t x).teams = s.teams := rfl
@[simp] theorem State.setSvc_launches (s : State) (t : Nat) (x : Svc) : (s.setSvc t x).launches = s.launches := rfl
@[simp] theorem State.setSvc_nextSeq (s : State) (t : Nat) (x : Svc) : (s.setSvc t x).nextSeq = s.nextSeq := rfl
@[simp] theorem State.setSvc_rays (s : State) (t : Nat) (x : Svc) : (s.setSvc t x).rays = s.rays := rfl
@[simp] theorem State.setSvc_replays (s : State) (t : Nat) (x : Svc) : (s.setSvc t x).replays = s.replays := rfl
@[simp] theorem State.setSvc_units (s : State) (t : Nat) (x : Svc) : (s.setSvc t x).units = s.units := rfl
@[simp] theorem State.setSvc_arrivals (s : State) (t : Nat) (x : Svc) : (s.setSvc t x).arrivals = s.arrivals := rfl
@[simp] theorem State.setSvc_notices (s : State) (t : Nat) (x : Svc) : (s.setSvc t x).notices = s.notices := rfl
@[simp] theorem State.setSvc_sems (s : State) (t : Nat) (x : Svc) : (s.setSvc t x).sems = s.sems := rfl
@[simp] theorem State.setSvc_asids (s : State) (t : Nat) (x : Svc) : (s.setSvc t x).asids = s.asids := rfl
@[simp] theorem State.setSvc_hearth (s : State) (t : Nat) (x : Svc) : (s.setSvc t x).hearth = s.hearth := rfl
@[simp] theorem State.setSvc_ctxs (s : State) (t : Nat) (x : Svc) : (s.setSvc t x).ctxs = s.ctxs := rfl
@[simp] theorem State.setSvc_vfs (s : State) (t : Nat) (x : Svc) : (s.setSvc t x).vfs = s.vfs := rfl
@[simp] theorem State.setSvc_parts (s : State) (t : Nat) (x : Svc) : (s.setSvc t x).parts = s.parts := rfl
@[simp] theorem State.setSvc_decoders (s : State) (t : Nat) (x : Svc) : (s.setSvc t x).decoders = s.decoders := rfl
@[simp] theorem State.setSvc_links (s : State) (t : Nat) (x : Svc) : (s.setSvc t x).links = s.links := rfl
@[simp] theorem State.setSvc_admits (s : State) (t : Nat) (x : Svc) : (s.setSvc t x).admits = s.admits := rfl
@[simp] theorem State.setSvc_ctl (s : State) (t : Nat) (x : Svc) : (s.setSvc t x).ctl = s.ctl := rfl
@[simp] theorem State.setSvc_faults (s : State) (t : Nat) (x : Svc) : (s.setSvc t x).faults = s.faults := rfl
@[simp] theorem State.setSvc_seqs (s : State) (t : Nat) (x : Svc) : (s.setSvc t x).seqs = s.seqs := rfl
@[simp] theorem State.setSvc_evSeqs (s : State) (t : Nat) (x : Svc) : (s.setSvc t x).evSeqs = s.evSeqs := rfl
@[simp] theorem State.setSvc_cur (s : State) (t : Nat) (x : Svc) : (s.setSvc t x).cur = s.cur := rfl
@[simp] theorem State.setSvc_agenda (s : State) (t : Nat) (x : Svc) : (s.setSvc t x).agenda = s.agenda := rfl
@[simp] theorem State.setSvc_turn (s : State) (t : Nat) (x : Svc) : (s.setSvc t x).turn = s.turn := rfl
@[simp] theorem State.setSvc_evTurn (s : State) (t : Nat) (x : Svc) : (s.setSvc t x).evTurn = s.evTurn := rfl
@[simp] theorem State.setSvc_issueNext (s : State) (t : Nat) (x : Svc) : (s.setSvc t x).issueNext = s.issueNext := rfl
@[simp] theorem State.setSvc_served (s : State) (t : Nat) (x : Svc) : (s.setSvc t x).served = s.served := rfl
@[simp] theorem State.setSvc_free (s : State) (t : Nat) (x : Svc) : (s.setSvc t x).free = s.free := rfl

@[simp] theorem State.setCtx_mem (s : State) (c : Nat) (x : Ctx) : (s.setCtx c x).mem = s.mem := rfl
@[simp] theorem State.setCtx_bad (s : State) (c : Nat) (x : Ctx) : (s.setCtx c x).bad = s.bad := rfl
@[simp] theorem State.setCtx_dies (s : State) (c : Nat) (x : Ctx) : (s.setCtx c x).dies = s.dies := rfl
@[simp] theorem State.setCtx_cores (s : State) (c : Nat) (x : Ctx) : (s.setCtx c x).cores = s.cores := rfl
@[simp] theorem State.setCtx_quadTlb (s : State) (c : Nat) (x : Ctx) : (s.setCtx c x).quadTlb = s.quadTlb := rfl
@[simp] theorem State.setCtx_evicted (s : State) (c : Nat) (x : Ctx) : (s.setCtx c x).evicted = s.evicted := rfl
@[simp] theorem State.setCtx_groups (s : State) (c : Nat) (x : Ctx) : (s.setCtx c x).groups = s.groups := rfl
@[simp] theorem State.setCtx_teams (s : State) (c : Nat) (x : Ctx) : (s.setCtx c x).teams = s.teams := rfl
@[simp] theorem State.setCtx_launches (s : State) (c : Nat) (x : Ctx) : (s.setCtx c x).launches = s.launches := rfl
@[simp] theorem State.setCtx_nextSeq (s : State) (c : Nat) (x : Ctx) : (s.setCtx c x).nextSeq = s.nextSeq := rfl
@[simp] theorem State.setCtx_rays (s : State) (c : Nat) (x : Ctx) : (s.setCtx c x).rays = s.rays := rfl
@[simp] theorem State.setCtx_replays (s : State) (c : Nat) (x : Ctx) : (s.setCtx c x).replays = s.replays := rfl
@[simp] theorem State.setCtx_units (s : State) (c : Nat) (x : Ctx) : (s.setCtx c x).units = s.units := rfl
@[simp] theorem State.setCtx_arrivals (s : State) (c : Nat) (x : Ctx) : (s.setCtx c x).arrivals = s.arrivals := rfl
@[simp] theorem State.setCtx_notices (s : State) (c : Nat) (x : Ctx) : (s.setCtx c x).notices = s.notices := rfl
@[simp] theorem State.setCtx_svcs (s : State) (c : Nat) (x : Ctx) : (s.setCtx c x).svcs = s.svcs := rfl
@[simp] theorem State.setCtx_sems (s : State) (c : Nat) (x : Ctx) : (s.setCtx c x).sems = s.sems := rfl
@[simp] theorem State.setCtx_asids (s : State) (c : Nat) (x : Ctx) : (s.setCtx c x).asids = s.asids := rfl
@[simp] theorem State.setCtx_hearth (s : State) (c : Nat) (x : Ctx) : (s.setCtx c x).hearth = s.hearth := rfl
@[simp] theorem State.setCtx_vfs (s : State) (c : Nat) (x : Ctx) : (s.setCtx c x).vfs = s.vfs := rfl
@[simp] theorem State.setCtx_parts (s : State) (c : Nat) (x : Ctx) : (s.setCtx c x).parts = s.parts := rfl
@[simp] theorem State.setCtx_decoders (s : State) (c : Nat) (x : Ctx) : (s.setCtx c x).decoders = s.decoders := rfl
@[simp] theorem State.setCtx_links (s : State) (c : Nat) (x : Ctx) : (s.setCtx c x).links = s.links := rfl
@[simp] theorem State.setCtx_admits (s : State) (c : Nat) (x : Ctx) : (s.setCtx c x).admits = s.admits := rfl
@[simp] theorem State.setCtx_ctl (s : State) (c : Nat) (x : Ctx) : (s.setCtx c x).ctl = s.ctl := rfl
@[simp] theorem State.setCtx_faults (s : State) (c : Nat) (x : Ctx) : (s.setCtx c x).faults = s.faults := rfl
@[simp] theorem State.setCtx_seqs (s : State) (c : Nat) (x : Ctx) : (s.setCtx c x).seqs = s.seqs := rfl
@[simp] theorem State.setCtx_evSeqs (s : State) (c : Nat) (x : Ctx) : (s.setCtx c x).evSeqs = s.evSeqs := rfl
@[simp] theorem State.setCtx_cur (s : State) (c : Nat) (x : Ctx) : (s.setCtx c x).cur = s.cur := rfl
@[simp] theorem State.setCtx_agenda (s : State) (c : Nat) (x : Ctx) : (s.setCtx c x).agenda = s.agenda := rfl
@[simp] theorem State.setCtx_turn (s : State) (c : Nat) (x : Ctx) : (s.setCtx c x).turn = s.turn := rfl
@[simp] theorem State.setCtx_evTurn (s : State) (c : Nat) (x : Ctx) : (s.setCtx c x).evTurn = s.evTurn := rfl
@[simp] theorem State.setCtx_issueNext (s : State) (c : Nat) (x : Ctx) : (s.setCtx c x).issueNext = s.issueNext := rfl
@[simp] theorem State.setCtx_served (s : State) (c : Nat) (x : Ctx) : (s.setCtx c x).served = s.served := rfl
@[simp] theorem State.setCtx_free (s : State) (c : Nat) (x : Ctx) : (s.setCtx c x).free = s.free := rfl

@[simp] theorem State.setPart_mem (s : State) (p : Nat) (x : Part) : (s.setPart p x).mem = s.mem := rfl
@[simp] theorem State.setPart_bad (s : State) (p : Nat) (x : Part) : (s.setPart p x).bad = s.bad := rfl
@[simp] theorem State.setPart_dies (s : State) (p : Nat) (x : Part) : (s.setPart p x).dies = s.dies := rfl
@[simp] theorem State.setPart_cores (s : State) (p : Nat) (x : Part) : (s.setPart p x).cores = s.cores := rfl
@[simp] theorem State.setPart_quadTlb (s : State) (p : Nat) (x : Part) : (s.setPart p x).quadTlb = s.quadTlb := rfl
@[simp] theorem State.setPart_evicted (s : State) (p : Nat) (x : Part) : (s.setPart p x).evicted = s.evicted := rfl
@[simp] theorem State.setPart_groups (s : State) (p : Nat) (x : Part) : (s.setPart p x).groups = s.groups := rfl
@[simp] theorem State.setPart_teams (s : State) (p : Nat) (x : Part) : (s.setPart p x).teams = s.teams := rfl
@[simp] theorem State.setPart_launches (s : State) (p : Nat) (x : Part) : (s.setPart p x).launches = s.launches := rfl
@[simp] theorem State.setPart_nextSeq (s : State) (p : Nat) (x : Part) : (s.setPart p x).nextSeq = s.nextSeq := rfl
@[simp] theorem State.setPart_rays (s : State) (p : Nat) (x : Part) : (s.setPart p x).rays = s.rays := rfl
@[simp] theorem State.setPart_replays (s : State) (p : Nat) (x : Part) : (s.setPart p x).replays = s.replays := rfl
@[simp] theorem State.setPart_units (s : State) (p : Nat) (x : Part) : (s.setPart p x).units = s.units := rfl
@[simp] theorem State.setPart_arrivals (s : State) (p : Nat) (x : Part) : (s.setPart p x).arrivals = s.arrivals := rfl
@[simp] theorem State.setPart_notices (s : State) (p : Nat) (x : Part) : (s.setPart p x).notices = s.notices := rfl
@[simp] theorem State.setPart_svcs (s : State) (p : Nat) (x : Part) : (s.setPart p x).svcs = s.svcs := rfl
@[simp] theorem State.setPart_sems (s : State) (p : Nat) (x : Part) : (s.setPart p x).sems = s.sems := rfl
@[simp] theorem State.setPart_asids (s : State) (p : Nat) (x : Part) : (s.setPart p x).asids = s.asids := rfl
@[simp] theorem State.setPart_hearth (s : State) (p : Nat) (x : Part) : (s.setPart p x).hearth = s.hearth := rfl
@[simp] theorem State.setPart_ctxs (s : State) (p : Nat) (x : Part) : (s.setPart p x).ctxs = s.ctxs := rfl
@[simp] theorem State.setPart_vfs (s : State) (p : Nat) (x : Part) : (s.setPart p x).vfs = s.vfs := rfl
@[simp] theorem State.setPart_decoders (s : State) (p : Nat) (x : Part) : (s.setPart p x).decoders = s.decoders := rfl
@[simp] theorem State.setPart_links (s : State) (p : Nat) (x : Part) : (s.setPart p x).links = s.links := rfl
@[simp] theorem State.setPart_admits (s : State) (p : Nat) (x : Part) : (s.setPart p x).admits = s.admits := rfl
@[simp] theorem State.setPart_ctl (s : State) (p : Nat) (x : Part) : (s.setPart p x).ctl = s.ctl := rfl
@[simp] theorem State.setPart_faults (s : State) (p : Nat) (x : Part) : (s.setPart p x).faults = s.faults := rfl
@[simp] theorem State.setPart_seqs (s : State) (p : Nat) (x : Part) : (s.setPart p x).seqs = s.seqs := rfl
@[simp] theorem State.setPart_evSeqs (s : State) (p : Nat) (x : Part) : (s.setPart p x).evSeqs = s.evSeqs := rfl
@[simp] theorem State.setPart_cur (s : State) (p : Nat) (x : Part) : (s.setPart p x).cur = s.cur := rfl
@[simp] theorem State.setPart_agenda (s : State) (p : Nat) (x : Part) : (s.setPart p x).agenda = s.agenda := rfl
@[simp] theorem State.setPart_turn (s : State) (p : Nat) (x : Part) : (s.setPart p x).turn = s.turn := rfl
@[simp] theorem State.setPart_evTurn (s : State) (p : Nat) (x : Part) : (s.setPart p x).evTurn = s.evTurn := rfl
@[simp] theorem State.setPart_issueNext (s : State) (p : Nat) (x : Part) : (s.setPart p x).issueNext = s.issueNext := rfl
@[simp] theorem State.setPart_served (s : State) (p : Nat) (x : Part) : (s.setPart p x).served = s.served := rfl
@[simp] theorem State.setPart_free (s : State) (p : Nat) (x : Part) : (s.setPart p x).free = s.free := rfl

@[simp] theorem State.setVf_mem (s : State) (v : Nat) (x : Vf) : (s.setVf v x).mem = s.mem := rfl
@[simp] theorem State.setVf_bad (s : State) (v : Nat) (x : Vf) : (s.setVf v x).bad = s.bad := rfl
@[simp] theorem State.setVf_dies (s : State) (v : Nat) (x : Vf) : (s.setVf v x).dies = s.dies := rfl
@[simp] theorem State.setVf_cores (s : State) (v : Nat) (x : Vf) : (s.setVf v x).cores = s.cores := rfl
@[simp] theorem State.setVf_quadTlb (s : State) (v : Nat) (x : Vf) : (s.setVf v x).quadTlb = s.quadTlb := rfl
@[simp] theorem State.setVf_evicted (s : State) (v : Nat) (x : Vf) : (s.setVf v x).evicted = s.evicted := rfl
@[simp] theorem State.setVf_groups (s : State) (v : Nat) (x : Vf) : (s.setVf v x).groups = s.groups := rfl
@[simp] theorem State.setVf_teams (s : State) (v : Nat) (x : Vf) : (s.setVf v x).teams = s.teams := rfl
@[simp] theorem State.setVf_launches (s : State) (v : Nat) (x : Vf) : (s.setVf v x).launches = s.launches := rfl
@[simp] theorem State.setVf_nextSeq (s : State) (v : Nat) (x : Vf) : (s.setVf v x).nextSeq = s.nextSeq := rfl
@[simp] theorem State.setVf_rays (s : State) (v : Nat) (x : Vf) : (s.setVf v x).rays = s.rays := rfl
@[simp] theorem State.setVf_replays (s : State) (v : Nat) (x : Vf) : (s.setVf v x).replays = s.replays := rfl
@[simp] theorem State.setVf_units (s : State) (v : Nat) (x : Vf) : (s.setVf v x).units = s.units := rfl
@[simp] theorem State.setVf_arrivals (s : State) (v : Nat) (x : Vf) : (s.setVf v x).arrivals = s.arrivals := rfl
@[simp] theorem State.setVf_notices (s : State) (v : Nat) (x : Vf) : (s.setVf v x).notices = s.notices := rfl
@[simp] theorem State.setVf_svcs (s : State) (v : Nat) (x : Vf) : (s.setVf v x).svcs = s.svcs := rfl
@[simp] theorem State.setVf_sems (s : State) (v : Nat) (x : Vf) : (s.setVf v x).sems = s.sems := rfl
@[simp] theorem State.setVf_asids (s : State) (v : Nat) (x : Vf) : (s.setVf v x).asids = s.asids := rfl
@[simp] theorem State.setVf_hearth (s : State) (v : Nat) (x : Vf) : (s.setVf v x).hearth = s.hearth := rfl
@[simp] theorem State.setVf_ctxs (s : State) (v : Nat) (x : Vf) : (s.setVf v x).ctxs = s.ctxs := rfl
@[simp] theorem State.setVf_parts (s : State) (v : Nat) (x : Vf) : (s.setVf v x).parts = s.parts := rfl
@[simp] theorem State.setVf_decoders (s : State) (v : Nat) (x : Vf) : (s.setVf v x).decoders = s.decoders := rfl
@[simp] theorem State.setVf_links (s : State) (v : Nat) (x : Vf) : (s.setVf v x).links = s.links := rfl
@[simp] theorem State.setVf_admits (s : State) (v : Nat) (x : Vf) : (s.setVf v x).admits = s.admits := rfl
@[simp] theorem State.setVf_ctl (s : State) (v : Nat) (x : Vf) : (s.setVf v x).ctl = s.ctl := rfl
@[simp] theorem State.setVf_faults (s : State) (v : Nat) (x : Vf) : (s.setVf v x).faults = s.faults := rfl
@[simp] theorem State.setVf_seqs (s : State) (v : Nat) (x : Vf) : (s.setVf v x).seqs = s.seqs := rfl
@[simp] theorem State.setVf_evSeqs (s : State) (v : Nat) (x : Vf) : (s.setVf v x).evSeqs = s.evSeqs := rfl
@[simp] theorem State.setVf_cur (s : State) (v : Nat) (x : Vf) : (s.setVf v x).cur = s.cur := rfl
@[simp] theorem State.setVf_agenda (s : State) (v : Nat) (x : Vf) : (s.setVf v x).agenda = s.agenda := rfl
@[simp] theorem State.setVf_turn (s : State) (v : Nat) (x : Vf) : (s.setVf v x).turn = s.turn := rfl
@[simp] theorem State.setVf_evTurn (s : State) (v : Nat) (x : Vf) : (s.setVf v x).evTurn = s.evTurn := rfl
@[simp] theorem State.setVf_issueNext (s : State) (v : Nat) (x : Vf) : (s.setVf v x).issueNext = s.issueNext := rfl
@[simp] theorem State.setVf_served (s : State) (v : Nat) (x : Vf) : (s.setVf v x).served = s.served := rfl
@[simp] theorem State.setVf_free (s : State) (v : Nat) (x : Vf) : (s.setVf v x).free = s.free := rfl

@[simp] theorem State.modGroup_mem (s : State) (k : Nat) (f : Group → Group) : (s.modGroup k f).mem = s.mem := rfl
@[simp] theorem State.modGroup_bad (s : State) (k : Nat) (f : Group → Group) : (s.modGroup k f).bad = s.bad := rfl
@[simp] theorem State.modGroup_dies (s : State) (k : Nat) (f : Group → Group) : (s.modGroup k f).dies = s.dies := rfl
@[simp] theorem State.modGroup_cores (s : State) (k : Nat) (f : Group → Group) : (s.modGroup k f).cores = s.cores := rfl
@[simp] theorem State.modGroup_quadTlb (s : State) (k : Nat) (f : Group → Group) : (s.modGroup k f).quadTlb = s.quadTlb := rfl
@[simp] theorem State.modGroup_evicted (s : State) (k : Nat) (f : Group → Group) : (s.modGroup k f).evicted = s.evicted := rfl
@[simp] theorem State.modGroup_teams (s : State) (k : Nat) (f : Group → Group) : (s.modGroup k f).teams = s.teams := rfl
@[simp] theorem State.modGroup_launches (s : State) (k : Nat) (f : Group → Group) : (s.modGroup k f).launches = s.launches := rfl
@[simp] theorem State.modGroup_nextSeq (s : State) (k : Nat) (f : Group → Group) : (s.modGroup k f).nextSeq = s.nextSeq := rfl
@[simp] theorem State.modGroup_rays (s : State) (k : Nat) (f : Group → Group) : (s.modGroup k f).rays = s.rays := rfl
@[simp] theorem State.modGroup_replays (s : State) (k : Nat) (f : Group → Group) : (s.modGroup k f).replays = s.replays := rfl
@[simp] theorem State.modGroup_units (s : State) (k : Nat) (f : Group → Group) : (s.modGroup k f).units = s.units := rfl
@[simp] theorem State.modGroup_arrivals (s : State) (k : Nat) (f : Group → Group) : (s.modGroup k f).arrivals = s.arrivals := rfl
@[simp] theorem State.modGroup_notices (s : State) (k : Nat) (f : Group → Group) : (s.modGroup k f).notices = s.notices := rfl
@[simp] theorem State.modGroup_svcs (s : State) (k : Nat) (f : Group → Group) : (s.modGroup k f).svcs = s.svcs := rfl
@[simp] theorem State.modGroup_sems (s : State) (k : Nat) (f : Group → Group) : (s.modGroup k f).sems = s.sems := rfl
@[simp] theorem State.modGroup_asids (s : State) (k : Nat) (f : Group → Group) : (s.modGroup k f).asids = s.asids := rfl
@[simp] theorem State.modGroup_hearth (s : State) (k : Nat) (f : Group → Group) : (s.modGroup k f).hearth = s.hearth := rfl
@[simp] theorem State.modGroup_ctxs (s : State) (k : Nat) (f : Group → Group) : (s.modGroup k f).ctxs = s.ctxs := rfl
@[simp] theorem State.modGroup_vfs (s : State) (k : Nat) (f : Group → Group) : (s.modGroup k f).vfs = s.vfs := rfl
@[simp] theorem State.modGroup_parts (s : State) (k : Nat) (f : Group → Group) : (s.modGroup k f).parts = s.parts := rfl
@[simp] theorem State.modGroup_decoders (s : State) (k : Nat) (f : Group → Group) : (s.modGroup k f).decoders = s.decoders := rfl
@[simp] theorem State.modGroup_links (s : State) (k : Nat) (f : Group → Group) : (s.modGroup k f).links = s.links := rfl
@[simp] theorem State.modGroup_admits (s : State) (k : Nat) (f : Group → Group) : (s.modGroup k f).admits = s.admits := rfl
@[simp] theorem State.modGroup_ctl (s : State) (k : Nat) (f : Group → Group) : (s.modGroup k f).ctl = s.ctl := rfl
@[simp] theorem State.modGroup_faults (s : State) (k : Nat) (f : Group → Group) : (s.modGroup k f).faults = s.faults := rfl
@[simp] theorem State.modGroup_seqs (s : State) (k : Nat) (f : Group → Group) : (s.modGroup k f).seqs = s.seqs := rfl
@[simp] theorem State.modGroup_evSeqs (s : State) (k : Nat) (f : Group → Group) : (s.modGroup k f).evSeqs = s.evSeqs := rfl
@[simp] theorem State.modGroup_cur (s : State) (k : Nat) (f : Group → Group) : (s.modGroup k f).cur = s.cur := rfl
@[simp] theorem State.modGroup_agenda (s : State) (k : Nat) (f : Group → Group) : (s.modGroup k f).agenda = s.agenda := rfl
@[simp] theorem State.modGroup_turn (s : State) (k : Nat) (f : Group → Group) : (s.modGroup k f).turn = s.turn := rfl
@[simp] theorem State.modGroup_evTurn (s : State) (k : Nat) (f : Group → Group) : (s.modGroup k f).evTurn = s.evTurn := rfl
@[simp] theorem State.modGroup_issueNext (s : State) (k : Nat) (f : Group → Group) : (s.modGroup k f).issueNext = s.issueNext := rfl
@[simp] theorem State.modGroup_served (s : State) (k : Nat) (f : Group → Group) : (s.modGroup k f).served = s.served := rfl
@[simp] theorem State.modGroup_free (s : State) (k : Nat) (f : Group → Group) : (s.modGroup k f).free = s.free := rfl

@[simp] theorem State.modTeam_mem (s : State) (k : Nat) (f : Team → Team) : (s.modTeam k f).mem = s.mem := rfl
@[simp] theorem State.modTeam_bad (s : State) (k : Nat) (f : Team → Team) : (s.modTeam k f).bad = s.bad := rfl
@[simp] theorem State.modTeam_dies (s : State) (k : Nat) (f : Team → Team) : (s.modTeam k f).dies = s.dies := rfl
@[simp] theorem State.modTeam_cores (s : State) (k : Nat) (f : Team → Team) : (s.modTeam k f).cores = s.cores := rfl
@[simp] theorem State.modTeam_quadTlb (s : State) (k : Nat) (f : Team → Team) : (s.modTeam k f).quadTlb = s.quadTlb := rfl
@[simp] theorem State.modTeam_evicted (s : State) (k : Nat) (f : Team → Team) : (s.modTeam k f).evicted = s.evicted := rfl
@[simp] theorem State.modTeam_groups (s : State) (k : Nat) (f : Team → Team) : (s.modTeam k f).groups = s.groups := rfl
@[simp] theorem State.modTeam_launches (s : State) (k : Nat) (f : Team → Team) : (s.modTeam k f).launches = s.launches := rfl
@[simp] theorem State.modTeam_nextSeq (s : State) (k : Nat) (f : Team → Team) : (s.modTeam k f).nextSeq = s.nextSeq := rfl
@[simp] theorem State.modTeam_rays (s : State) (k : Nat) (f : Team → Team) : (s.modTeam k f).rays = s.rays := rfl
@[simp] theorem State.modTeam_replays (s : State) (k : Nat) (f : Team → Team) : (s.modTeam k f).replays = s.replays := rfl
@[simp] theorem State.modTeam_units (s : State) (k : Nat) (f : Team → Team) : (s.modTeam k f).units = s.units := rfl
@[simp] theorem State.modTeam_arrivals (s : State) (k : Nat) (f : Team → Team) : (s.modTeam k f).arrivals = s.arrivals := rfl
@[simp] theorem State.modTeam_notices (s : State) (k : Nat) (f : Team → Team) : (s.modTeam k f).notices = s.notices := rfl
@[simp] theorem State.modTeam_svcs (s : State) (k : Nat) (f : Team → Team) : (s.modTeam k f).svcs = s.svcs := rfl
@[simp] theorem State.modTeam_sems (s : State) (k : Nat) (f : Team → Team) : (s.modTeam k f).sems = s.sems := rfl
@[simp] theorem State.modTeam_asids (s : State) (k : Nat) (f : Team → Team) : (s.modTeam k f).asids = s.asids := rfl
@[simp] theorem State.modTeam_hearth (s : State) (k : Nat) (f : Team → Team) : (s.modTeam k f).hearth = s.hearth := rfl
@[simp] theorem State.modTeam_ctxs (s : State) (k : Nat) (f : Team → Team) : (s.modTeam k f).ctxs = s.ctxs := rfl
@[simp] theorem State.modTeam_vfs (s : State) (k : Nat) (f : Team → Team) : (s.modTeam k f).vfs = s.vfs := rfl
@[simp] theorem State.modTeam_parts (s : State) (k : Nat) (f : Team → Team) : (s.modTeam k f).parts = s.parts := rfl
@[simp] theorem State.modTeam_decoders (s : State) (k : Nat) (f : Team → Team) : (s.modTeam k f).decoders = s.decoders := rfl
@[simp] theorem State.modTeam_links (s : State) (k : Nat) (f : Team → Team) : (s.modTeam k f).links = s.links := rfl
@[simp] theorem State.modTeam_admits (s : State) (k : Nat) (f : Team → Team) : (s.modTeam k f).admits = s.admits := rfl
@[simp] theorem State.modTeam_ctl (s : State) (k : Nat) (f : Team → Team) : (s.modTeam k f).ctl = s.ctl := rfl
@[simp] theorem State.modTeam_faults (s : State) (k : Nat) (f : Team → Team) : (s.modTeam k f).faults = s.faults := rfl
@[simp] theorem State.modTeam_seqs (s : State) (k : Nat) (f : Team → Team) : (s.modTeam k f).seqs = s.seqs := rfl
@[simp] theorem State.modTeam_evSeqs (s : State) (k : Nat) (f : Team → Team) : (s.modTeam k f).evSeqs = s.evSeqs := rfl
@[simp] theorem State.modTeam_cur (s : State) (k : Nat) (f : Team → Team) : (s.modTeam k f).cur = s.cur := rfl
@[simp] theorem State.modTeam_agenda (s : State) (k : Nat) (f : Team → Team) : (s.modTeam k f).agenda = s.agenda := rfl
@[simp] theorem State.modTeam_turn (s : State) (k : Nat) (f : Team → Team) : (s.modTeam k f).turn = s.turn := rfl
@[simp] theorem State.modTeam_evTurn (s : State) (k : Nat) (f : Team → Team) : (s.modTeam k f).evTurn = s.evTurn := rfl
@[simp] theorem State.modTeam_issueNext (s : State) (k : Nat) (f : Team → Team) : (s.modTeam k f).issueNext = s.issueNext := rfl
@[simp] theorem State.modTeam_served (s : State) (k : Nat) (f : Team → Team) : (s.modTeam k f).served = s.served := rfl
@[simp] theorem State.modTeam_free (s : State) (k : Nat) (f : Team → Team) : (s.modTeam k f).free = s.free := rfl

@[simp] theorem State.modCore_mem (s : State) (k : Nat) (f : Core → Core) : (s.modCore k f).mem = s.mem := rfl
@[simp] theorem State.modCore_bad (s : State) (k : Nat) (f : Core → Core) : (s.modCore k f).bad = s.bad := rfl
@[simp] theorem State.modCore_dies (s : State) (k : Nat) (f : Core → Core) : (s.modCore k f).dies = s.dies := rfl
@[simp] theorem State.modCore_quadTlb (s : State) (k : Nat) (f : Core → Core) : (s.modCore k f).quadTlb = s.quadTlb := rfl
@[simp] theorem State.modCore_evicted (s : State) (k : Nat) (f : Core → Core) : (s.modCore k f).evicted = s.evicted := rfl
@[simp] theorem State.modCore_groups (s : State) (k : Nat) (f : Core → Core) : (s.modCore k f).groups = s.groups := rfl
@[simp] theorem State.modCore_teams (s : State) (k : Nat) (f : Core → Core) : (s.modCore k f).teams = s.teams := rfl
@[simp] theorem State.modCore_launches (s : State) (k : Nat) (f : Core → Core) : (s.modCore k f).launches = s.launches := rfl
@[simp] theorem State.modCore_nextSeq (s : State) (k : Nat) (f : Core → Core) : (s.modCore k f).nextSeq = s.nextSeq := rfl
@[simp] theorem State.modCore_rays (s : State) (k : Nat) (f : Core → Core) : (s.modCore k f).rays = s.rays := rfl
@[simp] theorem State.modCore_replays (s : State) (k : Nat) (f : Core → Core) : (s.modCore k f).replays = s.replays := rfl
@[simp] theorem State.modCore_units (s : State) (k : Nat) (f : Core → Core) : (s.modCore k f).units = s.units := rfl
@[simp] theorem State.modCore_arrivals (s : State) (k : Nat) (f : Core → Core) : (s.modCore k f).arrivals = s.arrivals := rfl
@[simp] theorem State.modCore_notices (s : State) (k : Nat) (f : Core → Core) : (s.modCore k f).notices = s.notices := rfl
@[simp] theorem State.modCore_svcs (s : State) (k : Nat) (f : Core → Core) : (s.modCore k f).svcs = s.svcs := rfl
@[simp] theorem State.modCore_sems (s : State) (k : Nat) (f : Core → Core) : (s.modCore k f).sems = s.sems := rfl
@[simp] theorem State.modCore_asids (s : State) (k : Nat) (f : Core → Core) : (s.modCore k f).asids = s.asids := rfl
@[simp] theorem State.modCore_hearth (s : State) (k : Nat) (f : Core → Core) : (s.modCore k f).hearth = s.hearth := rfl
@[simp] theorem State.modCore_ctxs (s : State) (k : Nat) (f : Core → Core) : (s.modCore k f).ctxs = s.ctxs := rfl
@[simp] theorem State.modCore_vfs (s : State) (k : Nat) (f : Core → Core) : (s.modCore k f).vfs = s.vfs := rfl
@[simp] theorem State.modCore_parts (s : State) (k : Nat) (f : Core → Core) : (s.modCore k f).parts = s.parts := rfl
@[simp] theorem State.modCore_decoders (s : State) (k : Nat) (f : Core → Core) : (s.modCore k f).decoders = s.decoders := rfl
@[simp] theorem State.modCore_links (s : State) (k : Nat) (f : Core → Core) : (s.modCore k f).links = s.links := rfl
@[simp] theorem State.modCore_admits (s : State) (k : Nat) (f : Core → Core) : (s.modCore k f).admits = s.admits := rfl
@[simp] theorem State.modCore_ctl (s : State) (k : Nat) (f : Core → Core) : (s.modCore k f).ctl = s.ctl := rfl
@[simp] theorem State.modCore_faults (s : State) (k : Nat) (f : Core → Core) : (s.modCore k f).faults = s.faults := rfl
@[simp] theorem State.modCore_seqs (s : State) (k : Nat) (f : Core → Core) : (s.modCore k f).seqs = s.seqs := rfl
@[simp] theorem State.modCore_evSeqs (s : State) (k : Nat) (f : Core → Core) : (s.modCore k f).evSeqs = s.evSeqs := rfl
@[simp] theorem State.modCore_cur (s : State) (k : Nat) (f : Core → Core) : (s.modCore k f).cur = s.cur := rfl
@[simp] theorem State.modCore_agenda (s : State) (k : Nat) (f : Core → Core) : (s.modCore k f).agenda = s.agenda := rfl
@[simp] theorem State.modCore_turn (s : State) (k : Nat) (f : Core → Core) : (s.modCore k f).turn = s.turn := rfl
@[simp] theorem State.modCore_evTurn (s : State) (k : Nat) (f : Core → Core) : (s.modCore k f).evTurn = s.evTurn := rfl
@[simp] theorem State.modCore_issueNext (s : State) (k : Nat) (f : Core → Core) : (s.modCore k f).issueNext = s.issueNext := rfl
@[simp] theorem State.modCore_served (s : State) (k : Nat) (f : Core → Core) : (s.modCore k f).served = s.served := rfl
@[simp] theorem State.modCore_free (s : State) (k : Nat) (f : Core → Core) : (s.modCore k f).free = s.free := rfl

@[simp] theorem State.modLaunch_mem (s : State) (k : Nat) (f : Launch → Launch) : (s.modLaunch k f).mem = s.mem := rfl
@[simp] theorem State.modLaunch_bad (s : State) (k : Nat) (f : Launch → Launch) : (s.modLaunch k f).bad = s.bad := rfl
@[simp] theorem State.modLaunch_dies (s : State) (k : Nat) (f : Launch → Launch) : (s.modLaunch k f).dies = s.dies := rfl
@[simp] theorem State.modLaunch_cores (s : State) (k : Nat) (f : Launch → Launch) : (s.modLaunch k f).cores = s.cores := rfl
@[simp] theorem State.modLaunch_quadTlb (s : State) (k : Nat) (f : Launch → Launch) : (s.modLaunch k f).quadTlb = s.quadTlb := rfl
@[simp] theorem State.modLaunch_evicted (s : State) (k : Nat) (f : Launch → Launch) : (s.modLaunch k f).evicted = s.evicted := rfl
@[simp] theorem State.modLaunch_groups (s : State) (k : Nat) (f : Launch → Launch) : (s.modLaunch k f).groups = s.groups := rfl
@[simp] theorem State.modLaunch_teams (s : State) (k : Nat) (f : Launch → Launch) : (s.modLaunch k f).teams = s.teams := rfl
@[simp] theorem State.modLaunch_nextSeq (s : State) (k : Nat) (f : Launch → Launch) : (s.modLaunch k f).nextSeq = s.nextSeq := rfl
@[simp] theorem State.modLaunch_rays (s : State) (k : Nat) (f : Launch → Launch) : (s.modLaunch k f).rays = s.rays := rfl
@[simp] theorem State.modLaunch_replays (s : State) (k : Nat) (f : Launch → Launch) : (s.modLaunch k f).replays = s.replays := rfl
@[simp] theorem State.modLaunch_units (s : State) (k : Nat) (f : Launch → Launch) : (s.modLaunch k f).units = s.units := rfl
@[simp] theorem State.modLaunch_arrivals (s : State) (k : Nat) (f : Launch → Launch) : (s.modLaunch k f).arrivals = s.arrivals := rfl
@[simp] theorem State.modLaunch_notices (s : State) (k : Nat) (f : Launch → Launch) : (s.modLaunch k f).notices = s.notices := rfl
@[simp] theorem State.modLaunch_svcs (s : State) (k : Nat) (f : Launch → Launch) : (s.modLaunch k f).svcs = s.svcs := rfl
@[simp] theorem State.modLaunch_sems (s : State) (k : Nat) (f : Launch → Launch) : (s.modLaunch k f).sems = s.sems := rfl
@[simp] theorem State.modLaunch_asids (s : State) (k : Nat) (f : Launch → Launch) : (s.modLaunch k f).asids = s.asids := rfl
@[simp] theorem State.modLaunch_hearth (s : State) (k : Nat) (f : Launch → Launch) : (s.modLaunch k f).hearth = s.hearth := rfl
@[simp] theorem State.modLaunch_ctxs (s : State) (k : Nat) (f : Launch → Launch) : (s.modLaunch k f).ctxs = s.ctxs := rfl
@[simp] theorem State.modLaunch_vfs (s : State) (k : Nat) (f : Launch → Launch) : (s.modLaunch k f).vfs = s.vfs := rfl
@[simp] theorem State.modLaunch_parts (s : State) (k : Nat) (f : Launch → Launch) : (s.modLaunch k f).parts = s.parts := rfl
@[simp] theorem State.modLaunch_decoders (s : State) (k : Nat) (f : Launch → Launch) : (s.modLaunch k f).decoders = s.decoders := rfl
@[simp] theorem State.modLaunch_links (s : State) (k : Nat) (f : Launch → Launch) : (s.modLaunch k f).links = s.links := rfl
@[simp] theorem State.modLaunch_admits (s : State) (k : Nat) (f : Launch → Launch) : (s.modLaunch k f).admits = s.admits := rfl
@[simp] theorem State.modLaunch_ctl (s : State) (k : Nat) (f : Launch → Launch) : (s.modLaunch k f).ctl = s.ctl := rfl
@[simp] theorem State.modLaunch_faults (s : State) (k : Nat) (f : Launch → Launch) : (s.modLaunch k f).faults = s.faults := rfl
@[simp] theorem State.modLaunch_seqs (s : State) (k : Nat) (f : Launch → Launch) : (s.modLaunch k f).seqs = s.seqs := rfl
@[simp] theorem State.modLaunch_evSeqs (s : State) (k : Nat) (f : Launch → Launch) : (s.modLaunch k f).evSeqs = s.evSeqs := rfl
@[simp] theorem State.modLaunch_cur (s : State) (k : Nat) (f : Launch → Launch) : (s.modLaunch k f).cur = s.cur := rfl
@[simp] theorem State.modLaunch_agenda (s : State) (k : Nat) (f : Launch → Launch) : (s.modLaunch k f).agenda = s.agenda := rfl
@[simp] theorem State.modLaunch_turn (s : State) (k : Nat) (f : Launch → Launch) : (s.modLaunch k f).turn = s.turn := rfl
@[simp] theorem State.modLaunch_evTurn (s : State) (k : Nat) (f : Launch → Launch) : (s.modLaunch k f).evTurn = s.evTurn := rfl
@[simp] theorem State.modLaunch_issueNext (s : State) (k : Nat) (f : Launch → Launch) : (s.modLaunch k f).issueNext = s.issueNext := rfl
@[simp] theorem State.modLaunch_served (s : State) (k : Nat) (f : Launch → Launch) : (s.modLaunch k f).served = s.served := rfl
@[simp] theorem State.modLaunch_free (s : State) (k : Nat) (f : Launch → Launch) : (s.modLaunch k f).free = s.free := rfl

/-! ### Records after an update of a record -/

@[simp] theorem State.die_setDie (s : State) (k : Nat) (x : Die) : (s.setDie k x).die k = x := by
  simp [State.die, State.setDie]
theorem State.die_setDie_ne (s : State) {k j : Nat} (x : Die) (h : j ≠ k) : (s.setDie k x).die j = s.die j := by
  simp [State.die, State.setDie, Tab.get_put_ne _ _ _ h]
@[simp] theorem State.core_setDie (s : State) (k j : Nat) (x : Die) : (s.setDie k x).core j = s.core j := rfl
@[simp] theorem State.group_setDie (s : State) (k j : Nat) (x : Die) : (s.setDie k x).group j = s.group j := rfl
@[simp] theorem State.team_setDie (s : State) (k j : Nat) (x : Die) : (s.setDie k x).team j = s.team j := rfl
@[simp] theorem State.launch_setDie (s : State) (k j : Nat) (x : Die) : (s.setDie k x).launch j = s.launch j := rfl
@[simp] theorem State.svc_setDie (s : State) (k j : Nat) (x : Die) : (s.setDie k x).svc j = s.svc j := rfl
@[simp] theorem State.ctx_setDie (s : State) (k j : Nat) (x : Die) : (s.setDie k x).ctx j = s.ctx j := rfl
@[simp] theorem State.part_setDie (s : State) (k j : Nat) (x : Die) : (s.setDie k x).part j = s.part j := rfl
@[simp] theorem State.vf_setDie (s : State) (k j : Nat) (x : Die) : (s.setDie k x).vf j = s.vf j := rfl

@[simp] theorem State.core_setCore (s : State) (k : Nat) (x : Core) : (s.setCore k x).core k = x := by
  simp [State.core, State.setCore]
theorem State.core_setCore_ne (s : State) {k j : Nat} (x : Core) (h : j ≠ k) : (s.setCore k x).core j = s.core j := by
  simp [State.core, State.setCore, Tab.get_put_ne _ _ _ h]
@[simp] theorem State.die_setCore (s : State) (k j : Nat) (x : Core) : (s.setCore k x).die j = s.die j := rfl
@[simp] theorem State.group_setCore (s : State) (k j : Nat) (x : Core) : (s.setCore k x).group j = s.group j := rfl
@[simp] theorem State.team_setCore (s : State) (k j : Nat) (x : Core) : (s.setCore k x).team j = s.team j := rfl
@[simp] theorem State.launch_setCore (s : State) (k j : Nat) (x : Core) : (s.setCore k x).launch j = s.launch j := rfl
@[simp] theorem State.svc_setCore (s : State) (k j : Nat) (x : Core) : (s.setCore k x).svc j = s.svc j := rfl
@[simp] theorem State.ctx_setCore (s : State) (k j : Nat) (x : Core) : (s.setCore k x).ctx j = s.ctx j := rfl
@[simp] theorem State.part_setCore (s : State) (k j : Nat) (x : Core) : (s.setCore k x).part j = s.part j := rfl
@[simp] theorem State.vf_setCore (s : State) (k j : Nat) (x : Core) : (s.setCore k x).vf j = s.vf j := rfl

@[simp] theorem State.group_setGroup (s : State) (k : Nat) (x : Group) : (s.setGroup k x).group k = x := by
  simp [State.group, State.setGroup]
theorem State.group_setGroup_ne (s : State) {k j : Nat} (x : Group) (h : j ≠ k) : (s.setGroup k x).group j = s.group j := by
  simp [State.group, State.setGroup, Tab.get_put_ne _ _ _ h]
@[simp] theorem State.die_setGroup (s : State) (k j : Nat) (x : Group) : (s.setGroup k x).die j = s.die j := rfl
@[simp] theorem State.core_setGroup (s : State) (k j : Nat) (x : Group) : (s.setGroup k x).core j = s.core j := rfl
@[simp] theorem State.team_setGroup (s : State) (k j : Nat) (x : Group) : (s.setGroup k x).team j = s.team j := rfl
@[simp] theorem State.launch_setGroup (s : State) (k j : Nat) (x : Group) : (s.setGroup k x).launch j = s.launch j := rfl
@[simp] theorem State.svc_setGroup (s : State) (k j : Nat) (x : Group) : (s.setGroup k x).svc j = s.svc j := rfl
@[simp] theorem State.ctx_setGroup (s : State) (k j : Nat) (x : Group) : (s.setGroup k x).ctx j = s.ctx j := rfl
@[simp] theorem State.part_setGroup (s : State) (k j : Nat) (x : Group) : (s.setGroup k x).part j = s.part j := rfl
@[simp] theorem State.vf_setGroup (s : State) (k j : Nat) (x : Group) : (s.setGroup k x).vf j = s.vf j := rfl

@[simp] theorem State.team_setTeam (s : State) (k : Nat) (x : Team) : (s.setTeam k x).team k = x := by
  simp [State.team, State.setTeam]
theorem State.team_setTeam_ne (s : State) {k j : Nat} (x : Team) (h : j ≠ k) : (s.setTeam k x).team j = s.team j := by
  simp [State.team, State.setTeam, Tab.get_put_ne _ _ _ h]
@[simp] theorem State.die_setTeam (s : State) (k j : Nat) (x : Team) : (s.setTeam k x).die j = s.die j := rfl
@[simp] theorem State.core_setTeam (s : State) (k j : Nat) (x : Team) : (s.setTeam k x).core j = s.core j := rfl
@[simp] theorem State.group_setTeam (s : State) (k j : Nat) (x : Team) : (s.setTeam k x).group j = s.group j := rfl
@[simp] theorem State.launch_setTeam (s : State) (k j : Nat) (x : Team) : (s.setTeam k x).launch j = s.launch j := rfl
@[simp] theorem State.svc_setTeam (s : State) (k j : Nat) (x : Team) : (s.setTeam k x).svc j = s.svc j := rfl
@[simp] theorem State.ctx_setTeam (s : State) (k j : Nat) (x : Team) : (s.setTeam k x).ctx j = s.ctx j := rfl
@[simp] theorem State.part_setTeam (s : State) (k j : Nat) (x : Team) : (s.setTeam k x).part j = s.part j := rfl
@[simp] theorem State.vf_setTeam (s : State) (k j : Nat) (x : Team) : (s.setTeam k x).vf j = s.vf j := rfl

@[simp] theorem State.launch_setLaunch (s : State) (k : Nat) (x : Launch) : (s.setLaunch k x).launch k = x := by
  simp [State.launch, State.setLaunch]
theorem State.launch_setLaunch_ne (s : State) {k j : Nat} (x : Launch) (h : j ≠ k) : (s.setLaunch k x).launch j = s.launch j := by
  simp [State.launch, State.setLaunch, Tab.get_put_ne _ _ _ h]
@[simp] theorem State.die_setLaunch (s : State) (k j : Nat) (x : Launch) : (s.setLaunch k x).die j = s.die j := rfl
@[simp] theorem State.core_setLaunch (s : State) (k j : Nat) (x : Launch) : (s.setLaunch k x).core j = s.core j := rfl
@[simp] theorem State.group_setLaunch (s : State) (k j : Nat) (x : Launch) : (s.setLaunch k x).group j = s.group j := rfl
@[simp] theorem State.team_setLaunch (s : State) (k j : Nat) (x : Launch) : (s.setLaunch k x).team j = s.team j := rfl
@[simp] theorem State.svc_setLaunch (s : State) (k j : Nat) (x : Launch) : (s.setLaunch k x).svc j = s.svc j := rfl
@[simp] theorem State.ctx_setLaunch (s : State) (k j : Nat) (x : Launch) : (s.setLaunch k x).ctx j = s.ctx j := rfl
@[simp] theorem State.part_setLaunch (s : State) (k j : Nat) (x : Launch) : (s.setLaunch k x).part j = s.part j := rfl
@[simp] theorem State.vf_setLaunch (s : State) (k j : Nat) (x : Launch) : (s.setLaunch k x).vf j = s.vf j := rfl

@[simp] theorem State.svc_setSvc (s : State) (k : Nat) (x : Svc) : (s.setSvc k x).svc k = x := by
  simp [State.svc, State.setSvc]
theorem State.svc_setSvc_ne (s : State) {k j : Nat} (x : Svc) (h : j ≠ k) : (s.setSvc k x).svc j = s.svc j := by
  simp [State.svc, State.setSvc, Tab.get_put_ne _ _ _ h]
@[simp] theorem State.die_setSvc (s : State) (k j : Nat) (x : Svc) : (s.setSvc k x).die j = s.die j := rfl
@[simp] theorem State.core_setSvc (s : State) (k j : Nat) (x : Svc) : (s.setSvc k x).core j = s.core j := rfl
@[simp] theorem State.group_setSvc (s : State) (k j : Nat) (x : Svc) : (s.setSvc k x).group j = s.group j := rfl
@[simp] theorem State.team_setSvc (s : State) (k j : Nat) (x : Svc) : (s.setSvc k x).team j = s.team j := rfl
@[simp] theorem State.launch_setSvc (s : State) (k j : Nat) (x : Svc) : (s.setSvc k x).launch j = s.launch j := rfl
@[simp] theorem State.ctx_setSvc (s : State) (k j : Nat) (x : Svc) : (s.setSvc k x).ctx j = s.ctx j := rfl
@[simp] theorem State.part_setSvc (s : State) (k j : Nat) (x : Svc) : (s.setSvc k x).part j = s.part j := rfl
@[simp] theorem State.vf_setSvc (s : State) (k j : Nat) (x : Svc) : (s.setSvc k x).vf j = s.vf j := rfl

@[simp] theorem State.ctx_setCtx (s : State) (k : Nat) (x : Ctx) : (s.setCtx k x).ctx k = x := by
  simp [State.ctx, State.setCtx]
theorem State.ctx_setCtx_ne (s : State) {k j : Nat} (x : Ctx) (h : j ≠ k) : (s.setCtx k x).ctx j = s.ctx j := by
  simp [State.ctx, State.setCtx, Tab.get_put_ne _ _ _ h]
@[simp] theorem State.die_setCtx (s : State) (k j : Nat) (x : Ctx) : (s.setCtx k x).die j = s.die j := rfl
@[simp] theorem State.core_setCtx (s : State) (k j : Nat) (x : Ctx) : (s.setCtx k x).core j = s.core j := rfl
@[simp] theorem State.group_setCtx (s : State) (k j : Nat) (x : Ctx) : (s.setCtx k x).group j = s.group j := rfl
@[simp] theorem State.team_setCtx (s : State) (k j : Nat) (x : Ctx) : (s.setCtx k x).team j = s.team j := rfl
@[simp] theorem State.launch_setCtx (s : State) (k j : Nat) (x : Ctx) : (s.setCtx k x).launch j = s.launch j := rfl
@[simp] theorem State.svc_setCtx (s : State) (k j : Nat) (x : Ctx) : (s.setCtx k x).svc j = s.svc j := rfl
@[simp] theorem State.part_setCtx (s : State) (k j : Nat) (x : Ctx) : (s.setCtx k x).part j = s.part j := rfl
@[simp] theorem State.vf_setCtx (s : State) (k j : Nat) (x : Ctx) : (s.setCtx k x).vf j = s.vf j := rfl

@[simp] theorem State.part_setPart (s : State) (k : Nat) (x : Part) : (s.setPart k x).part k = x := by
  simp [State.part, State.setPart]
theorem State.part_setPart_ne (s : State) {k j : Nat} (x : Part) (h : j ≠ k) : (s.setPart k x).part j = s.part j := by
  simp [State.part, State.setPart, Tab.get_put_ne _ _ _ h]
@[simp] theorem State.die_setPart (s : State) (k j : Nat) (x : Part) : (s.setPart k x).die j = s.die j := rfl
@[simp] theorem State.core_setPart (s : State) (k j : Nat) (x : Part) : (s.setPart k x).core j = s.core j := rfl
@[simp] theorem State.group_setPart (s : State) (k j : Nat) (x : Part) : (s.setPart k x).group j = s.group j := rfl
@[simp] theorem State.team_setPart (s : State) (k j : Nat) (x : Part) : (s.setPart k x).team j = s.team j := rfl
@[simp] theorem State.launch_setPart (s : State) (k j : Nat) (x : Part) : (s.setPart k x).launch j = s.launch j := rfl
@[simp] theorem State.svc_setPart (s : State) (k j : Nat) (x : Part) : (s.setPart k x).svc j = s.svc j := rfl
@[simp] theorem State.ctx_setPart (s : State) (k j : Nat) (x : Part) : (s.setPart k x).ctx j = s.ctx j := rfl
@[simp] theorem State.vf_setPart (s : State) (k j : Nat) (x : Part) : (s.setPart k x).vf j = s.vf j := rfl

@[simp] theorem State.vf_setVf (s : State) (k : Nat) (x : Vf) : (s.setVf k x).vf k = x := by
  simp [State.vf, State.setVf]
theorem State.vf_setVf_ne (s : State) {k j : Nat} (x : Vf) (h : j ≠ k) : (s.setVf k x).vf j = s.vf j := by
  simp [State.vf, State.setVf, Tab.get_put_ne _ _ _ h]
@[simp] theorem State.die_setVf (s : State) (k j : Nat) (x : Vf) : (s.setVf k x).die j = s.die j := rfl
@[simp] theorem State.core_setVf (s : State) (k j : Nat) (x : Vf) : (s.setVf k x).core j = s.core j := rfl
@[simp] theorem State.group_setVf (s : State) (k j : Nat) (x : Vf) : (s.setVf k x).group j = s.group j := rfl
@[simp] theorem State.team_setVf (s : State) (k j : Nat) (x : Vf) : (s.setVf k x).team j = s.team j := rfl
@[simp] theorem State.launch_setVf (s : State) (k j : Nat) (x : Vf) : (s.setVf k x).launch j = s.launch j := rfl
@[simp] theorem State.svc_setVf (s : State) (k j : Nat) (x : Vf) : (s.setVf k x).svc j = s.svc j := rfl
@[simp] theorem State.ctx_setVf (s : State) (k j : Nat) (x : Vf) : (s.setVf k x).ctx j = s.ctx j := rfl
@[simp] theorem State.part_setVf (s : State) (k j : Nat) (x : Vf) : (s.setVf k x).part j = s.part j := rfl

@[simp] theorem State.group_modGroup (s : State) (k : Nat) (f : Group → Group) : (s.modGroup k f).group k = f (s.group k) := by
  simp [State.modGroup]
theorem State.group_modGroup_ne (s : State) {k j : Nat} (f : Group → Group) (h : j ≠ k) : (s.modGroup k f).group j = s.group j :=
  State.group_setGroup_ne s _ h
@[simp] theorem State.die_modGroup (s : State) (k j : Nat) (f : Group → Group) : (s.modGroup k f).die j = s.die j := rfl
@[simp] theorem State.core_modGroup (s : State) (k j : Nat) (f : Group → Group) : (s.modGroup k f).core j = s.core j := rfl
@[simp] theorem State.team_modGroup (s : State) (k j : Nat) (f : Group → Group) : (s.modGroup k f).team j = s.team j := rfl
@[simp] theorem State.launch_modGroup (s : State) (k j : Nat) (f : Group → Group) : (s.modGroup k f).launch j = s.launch j := rfl
@[simp] theorem State.svc_modGroup (s : State) (k j : Nat) (f : Group → Group) : (s.modGroup k f).svc j = s.svc j := rfl
@[simp] theorem State.ctx_modGroup (s : State) (k j : Nat) (f : Group → Group) : (s.modGroup k f).ctx j = s.ctx j := rfl
@[simp] theorem State.part_modGroup (s : State) (k j : Nat) (f : Group → Group) : (s.modGroup k f).part j = s.part j := rfl
@[simp] theorem State.vf_modGroup (s : State) (k j : Nat) (f : Group → Group) : (s.modGroup k f).vf j = s.vf j := rfl

@[simp] theorem State.team_modTeam (s : State) (k : Nat) (f : Team → Team) : (s.modTeam k f).team k = f (s.team k) := by
  simp [State.modTeam]
theorem State.team_modTeam_ne (s : State) {k j : Nat} (f : Team → Team) (h : j ≠ k) : (s.modTeam k f).team j = s.team j :=
  State.team_setTeam_ne s _ h
@[simp] theorem State.die_modTeam (s : State) (k j : Nat) (f : Team → Team) : (s.modTeam k f).die j = s.die j := rfl
@[simp] theorem State.core_modTeam (s : State) (k j : Nat) (f : Team → Team) : (s.modTeam k f).core j = s.core j := rfl
@[simp] theorem State.group_modTeam (s : State) (k j : Nat) (f : Team → Team) : (s.modTeam k f).group j = s.group j := rfl
@[simp] theorem State.launch_modTeam (s : State) (k j : Nat) (f : Team → Team) : (s.modTeam k f).launch j = s.launch j := rfl
@[simp] theorem State.svc_modTeam (s : State) (k j : Nat) (f : Team → Team) : (s.modTeam k f).svc j = s.svc j := rfl
@[simp] theorem State.ctx_modTeam (s : State) (k j : Nat) (f : Team → Team) : (s.modTeam k f).ctx j = s.ctx j := rfl
@[simp] theorem State.part_modTeam (s : State) (k j : Nat) (f : Team → Team) : (s.modTeam k f).part j = s.part j := rfl
@[simp] theorem State.vf_modTeam (s : State) (k j : Nat) (f : Team → Team) : (s.modTeam k f).vf j = s.vf j := rfl

@[simp] theorem State.core_modCore (s : State) (k : Nat) (f : Core → Core) : (s.modCore k f).core k = f (s.core k) := by
  simp [State.modCore]
theorem State.core_modCore_ne (s : State) {k j : Nat} (f : Core → Core) (h : j ≠ k) : (s.modCore k f).core j = s.core j :=
  State.core_setCore_ne s _ h
@[simp] theorem State.die_modCore (s : State) (k j : Nat) (f : Core → Core) : (s.modCore k f).die j = s.die j := rfl
@[simp] theorem State.group_modCore (s : State) (k j : Nat) (f : Core → Core) : (s.modCore k f).group j = s.group j := rfl
@[simp] theorem State.team_modCore (s : State) (k j : Nat) (f : Core → Core) : (s.modCore k f).team j = s.team j := rfl
@[simp] theorem State.launch_modCore (s : State) (k j : Nat) (f : Core → Core) : (s.modCore k f).launch j = s.launch j := rfl
@[simp] theorem State.svc_modCore (s : State) (k j : Nat) (f : Core → Core) : (s.modCore k f).svc j = s.svc j := rfl
@[simp] theorem State.ctx_modCore (s : State) (k j : Nat) (f : Core → Core) : (s.modCore k f).ctx j = s.ctx j := rfl
@[simp] theorem State.part_modCore (s : State) (k j : Nat) (f : Core → Core) : (s.modCore k f).part j = s.part j := rfl
@[simp] theorem State.vf_modCore (s : State) (k j : Nat) (f : Core → Core) : (s.modCore k f).vf j = s.vf j := rfl

@[simp] theorem State.launch_modLaunch (s : State) (k : Nat) (f : Launch → Launch) : (s.modLaunch k f).launch k = f (s.launch k) := by
  simp [State.modLaunch]
theorem State.launch_modLaunch_ne (s : State) {k j : Nat} (f : Launch → Launch) (h : j ≠ k) : (s.modLaunch k f).launch j = s.launch j :=
  State.launch_setLaunch_ne s _ h
@[simp] theorem State.die_modLaunch (s : State) (k j : Nat) (f : Launch → Launch) : (s.modLaunch k f).die j = s.die j := rfl
@[simp] theorem State.core_modLaunch (s : State) (k j : Nat) (f : Launch → Launch) : (s.modLaunch k f).core j = s.core j := rfl
@[simp] theorem State.group_modLaunch (s : State) (k j : Nat) (f : Launch → Launch) : (s.modLaunch k f).group j = s.group j := rfl
@[simp] theorem State.team_modLaunch (s : State) (k j : Nat) (f : Launch → Launch) : (s.modLaunch k f).team j = s.team j := rfl
@[simp] theorem State.svc_modLaunch (s : State) (k j : Nat) (f : Launch → Launch) : (s.modLaunch k f).svc j = s.svc j := rfl
@[simp] theorem State.ctx_modLaunch (s : State) (k j : Nat) (f : Launch → Launch) : (s.modLaunch k f).ctx j = s.ctx j := rfl
@[simp] theorem State.part_modLaunch (s : State) (k j : Nat) (f : Launch → Launch) : (s.modLaunch k f).part j = s.part j := rfl
@[simp] theorem State.vf_modLaunch (s : State) (k j : Nat) (f : Launch → Launch) : (s.modLaunch k f).vf j = s.vf j := rfl

/-! ### The thread at hand -/

theorem State.thr_group {s : State} {g : Nat} (h : s.cur = .group g) : s.thr = (s.group g).thr := by simp [State.thr, h]
theorem State.thr_svc {s : State} {t : Nat} (h : s.cur = .svc t) : s.thr = (s.svc t).thr := by simp [State.thr, h]

theorem State.setThr_group {s : State} {g : Nat} (h : s.cur = .group g) (x : Thread) :
    s.setThr x = s.modGroup g fun y => { y with thr := x } := by simp [State.setThr, h]
theorem State.setThr_svc {s : State} {t : Nat} (h : s.cur = .svc t) (x : Thread) :
    s.setThr x = s.setSvc t { s.svc t with thr := x } := by simp [State.setThr, h]

@[simp] theorem State.setThr_mem (s : State) (x : Thread) : (s.setThr x).mem = s.mem := by
  unfold State.setThr; split <;> rfl
@[simp] theorem State.modThr_mem (s : State) (f : Thread → Thread) : (s.modThr f).mem = s.mem :=
  State.setThr_mem s _
@[simp] theorem State.capture_mem (s : State) (f : Word) : (s.capture f).mem = s.mem := by
  unfold State.capture; split <;> first | rfl | exact State.modThr_mem s _
@[simp] theorem State.setThr_bad (s : State) (x : Thread) : (s.setThr x).bad = s.bad := by
  unfold State.setThr; split <;> rfl
@[simp] theorem State.modThr_bad (s : State) (f : Thread → Thread) : (s.modThr f).bad = s.bad :=
  State.setThr_bad s _
@[simp] theorem State.capture_bad (s : State) (f : Word) : (s.capture f).bad = s.bad := by
  unfold State.capture; split <;> first | rfl | exact State.modThr_bad s _
@[simp] theorem State.setThr_dies (s : State) (x : Thread) : (s.setThr x).dies = s.dies := by
  unfold State.setThr; split <;> rfl
@[simp] theorem State.modThr_dies (s : State) (f : Thread → Thread) : (s.modThr f).dies = s.dies :=
  State.setThr_dies s _
@[simp] theorem State.capture_dies (s : State) (f : Word) : (s.capture f).dies = s.dies := by
  unfold State.capture; split <;> first | rfl | exact State.modThr_dies s _
@[simp] theorem State.setThr_cores (s : State) (x : Thread) : (s.setThr x).cores = s.cores := by
  unfold State.setThr; split <;> rfl
@[simp] theorem State.modThr_cores (s : State) (f : Thread → Thread) : (s.modThr f).cores = s.cores :=
  State.setThr_cores s _
@[simp] theorem State.capture_cores (s : State) (f : Word) : (s.capture f).cores = s.cores := by
  unfold State.capture; split <;> first | rfl | exact State.modThr_cores s _
@[simp] theorem State.setThr_quadTlb (s : State) (x : Thread) : (s.setThr x).quadTlb = s.quadTlb := by
  unfold State.setThr; split <;> rfl
@[simp] theorem State.setThr_evicted (s : State) (x : Thread) : (s.setThr x).evicted = s.evicted := by
  unfold State.setThr; split <;> rfl
@[simp] theorem State.modThr_quadTlb (s : State) (f : Thread → Thread) : (s.modThr f).quadTlb = s.quadTlb :=
  State.setThr_quadTlb s _
@[simp] theorem State.modThr_evicted (s : State) (f : Thread → Thread) : (s.modThr f).evicted = s.evicted :=
  State.setThr_evicted s _
@[simp] theorem State.capture_quadTlb (s : State) (f : Word) : (s.capture f).quadTlb = s.quadTlb := by
  unfold State.capture; split <;> first | rfl | exact State.modThr_quadTlb s _
@[simp] theorem State.capture_evicted (s : State) (f : Word) : (s.capture f).evicted = s.evicted := by
  unfold State.capture; split <;> first | rfl | exact State.modThr_evicted s _
@[simp] theorem State.setThr_teams (s : State) (x : Thread) : (s.setThr x).teams = s.teams := by
  unfold State.setThr; split <;> rfl
@[simp] theorem State.modThr_teams (s : State) (f : Thread → Thread) : (s.modThr f).teams = s.teams :=
  State.setThr_teams s _
@[simp] theorem State.capture_teams (s : State) (f : Word) : (s.capture f).teams = s.teams := by
  unfold State.capture; split <;> first | rfl | exact State.modThr_teams s _
@[simp] theorem State.setThr_launches (s : State) (x : Thread) : (s.setThr x).launches = s.launches := by
  unfold State.setThr; split <;> rfl
@[simp] theorem State.modThr_launches (s : State) (f : Thread → Thread) : (s.modThr f).launches = s.launches :=
  State.setThr_launches s _
@[simp] theorem State.capture_launches (s : State) (f : Word) : (s.capture f).launches = s.launches := by
  unfold State.capture; split <;> first | rfl | exact State.modThr_launches s _
@[simp] theorem State.setThr_nextSeq (s : State) (x : Thread) : (s.setThr x).nextSeq = s.nextSeq := by
  unfold State.setThr; split <;> rfl
@[simp] theorem State.modThr_nextSeq (s : State) (f : Thread → Thread) : (s.modThr f).nextSeq = s.nextSeq :=
  State.setThr_nextSeq s _
@[simp] theorem State.capture_nextSeq (s : State) (f : Word) : (s.capture f).nextSeq = s.nextSeq := by
  unfold State.capture; split <;> first | rfl | exact State.modThr_nextSeq s _
@[simp] theorem State.setThr_rays (s : State) (x : Thread) : (s.setThr x).rays = s.rays := by
  unfold State.setThr; split <;> rfl
@[simp] theorem State.modThr_rays (s : State) (f : Thread → Thread) : (s.modThr f).rays = s.rays :=
  State.setThr_rays s _
@[simp] theorem State.capture_rays (s : State) (f : Word) : (s.capture f).rays = s.rays := by
  unfold State.capture; split <;> first | rfl | exact State.modThr_rays s _
@[simp] theorem State.setThr_replays (s : State) (x : Thread) : (s.setThr x).replays = s.replays := by
  unfold State.setThr; split <;> rfl
@[simp] theorem State.modThr_replays (s : State) (f : Thread → Thread) : (s.modThr f).replays = s.replays :=
  State.setThr_replays s _
@[simp] theorem State.capture_replays (s : State) (f : Word) : (s.capture f).replays = s.replays := by
  unfold State.capture; split <;> first | rfl | exact State.modThr_replays s _
@[simp] theorem State.setThr_units (s : State) (x : Thread) : (s.setThr x).units = s.units := by
  unfold State.setThr; split <;> rfl
@[simp] theorem State.modThr_units (s : State) (f : Thread → Thread) : (s.modThr f).units = s.units :=
  State.setThr_units s _
@[simp] theorem State.capture_units (s : State) (f : Word) : (s.capture f).units = s.units := by
  unfold State.capture; split <;> first | rfl | exact State.modThr_units s _
@[simp] theorem State.setThr_arrivals (s : State) (x : Thread) : (s.setThr x).arrivals = s.arrivals := by
  unfold State.setThr; split <;> rfl
@[simp] theorem State.modThr_arrivals (s : State) (f : Thread → Thread) : (s.modThr f).arrivals = s.arrivals :=
  State.setThr_arrivals s _
@[simp] theorem State.capture_arrivals (s : State) (f : Word) : (s.capture f).arrivals = s.arrivals := by
  unfold State.capture; split <;> first | rfl | exact State.modThr_arrivals s _
@[simp] theorem State.setThr_notices (s : State) (x : Thread) : (s.setThr x).notices = s.notices := by
  unfold State.setThr; split <;> rfl
@[simp] theorem State.modThr_notices (s : State) (f : Thread → Thread) : (s.modThr f).notices = s.notices :=
  State.setThr_notices s _
@[simp] theorem State.capture_notices (s : State) (f : Word) : (s.capture f).notices = s.notices := by
  unfold State.capture; split <;> first | rfl | exact State.modThr_notices s _
@[simp] theorem State.setThr_sems (s : State) (x : Thread) : (s.setThr x).sems = s.sems := by
  unfold State.setThr; split <;> rfl
@[simp] theorem State.modThr_sems (s : State) (f : Thread → Thread) : (s.modThr f).sems = s.sems :=
  State.setThr_sems s _
@[simp] theorem State.capture_sems (s : State) (f : Word) : (s.capture f).sems = s.sems := by
  unfold State.capture; split <;> first | rfl | exact State.modThr_sems s _
@[simp] theorem State.setThr_asids (s : State) (x : Thread) : (s.setThr x).asids = s.asids := by
  unfold State.setThr; split <;> rfl
@[simp] theorem State.modThr_asids (s : State) (f : Thread → Thread) : (s.modThr f).asids = s.asids :=
  State.setThr_asids s _
@[simp] theorem State.capture_asids (s : State) (f : Word) : (s.capture f).asids = s.asids := by
  unfold State.capture; split <;> first | rfl | exact State.modThr_asids s _
@[simp] theorem State.setThr_hearth (s : State) (x : Thread) : (s.setThr x).hearth = s.hearth := by
  unfold State.setThr; split <;> rfl
@[simp] theorem State.modThr_hearth (s : State) (f : Thread → Thread) : (s.modThr f).hearth = s.hearth :=
  State.setThr_hearth s _
@[simp] theorem State.capture_hearth (s : State) (f : Word) : (s.capture f).hearth = s.hearth := by
  unfold State.capture; split <;> first | rfl | exact State.modThr_hearth s _
@[simp] theorem State.setThr_ctxs (s : State) (x : Thread) : (s.setThr x).ctxs = s.ctxs := by
  unfold State.setThr; split <;> rfl
@[simp] theorem State.modThr_ctxs (s : State) (f : Thread → Thread) : (s.modThr f).ctxs = s.ctxs :=
  State.setThr_ctxs s _
@[simp] theorem State.capture_ctxs (s : State) (f : Word) : (s.capture f).ctxs = s.ctxs := by
  unfold State.capture; split <;> first | rfl | exact State.modThr_ctxs s _
@[simp] theorem State.setThr_vfs (s : State) (x : Thread) : (s.setThr x).vfs = s.vfs := by
  unfold State.setThr; split <;> rfl
@[simp] theorem State.modThr_vfs (s : State) (f : Thread → Thread) : (s.modThr f).vfs = s.vfs :=
  State.setThr_vfs s _
@[simp] theorem State.capture_vfs (s : State) (f : Word) : (s.capture f).vfs = s.vfs := by
  unfold State.capture; split <;> first | rfl | exact State.modThr_vfs s _
@[simp] theorem State.setThr_parts (s : State) (x : Thread) : (s.setThr x).parts = s.parts := by
  unfold State.setThr; split <;> rfl
@[simp] theorem State.modThr_parts (s : State) (f : Thread → Thread) : (s.modThr f).parts = s.parts :=
  State.setThr_parts s _
@[simp] theorem State.capture_parts (s : State) (f : Word) : (s.capture f).parts = s.parts := by
  unfold State.capture; split <;> first | rfl | exact State.modThr_parts s _
@[simp] theorem State.setThr_decoders (s : State) (x : Thread) : (s.setThr x).decoders = s.decoders := by
  unfold State.setThr; split <;> rfl
@[simp] theorem State.modThr_decoders (s : State) (f : Thread → Thread) : (s.modThr f).decoders = s.decoders :=
  State.setThr_decoders s _
@[simp] theorem State.capture_decoders (s : State) (f : Word) : (s.capture f).decoders = s.decoders := by
  unfold State.capture; split <;> first | rfl | exact State.modThr_decoders s _
@[simp] theorem State.setThr_links (s : State) (x : Thread) : (s.setThr x).links = s.links := by
  unfold State.setThr; split <;> rfl
@[simp] theorem State.modThr_links (s : State) (f : Thread → Thread) : (s.modThr f).links = s.links :=
  State.setThr_links s _
@[simp] theorem State.capture_links (s : State) (f : Word) : (s.capture f).links = s.links := by
  unfold State.capture; split <;> first | rfl | exact State.modThr_links s _
@[simp] theorem State.setThr_admits (s : State) (x : Thread) : (s.setThr x).admits = s.admits := by
  unfold State.setThr; split <;> rfl
@[simp] theorem State.modThr_admits (s : State) (f : Thread → Thread) : (s.modThr f).admits = s.admits :=
  State.setThr_admits s _
@[simp] theorem State.capture_admits (s : State) (f : Word) : (s.capture f).admits = s.admits := by
  unfold State.capture; split <;> first | rfl | exact State.modThr_admits s _
@[simp] theorem State.setThr_ctl (s : State) (x : Thread) : (s.setThr x).ctl = s.ctl := by
  unfold State.setThr; split <;> rfl
@[simp] theorem State.modThr_ctl (s : State) (f : Thread → Thread) : (s.modThr f).ctl = s.ctl :=
  State.setThr_ctl s _
@[simp] theorem State.capture_ctl (s : State) (f : Word) : (s.capture f).ctl = s.ctl := by
  unfold State.capture; split <;> first | rfl | exact State.modThr_ctl s _
@[simp] theorem State.setThr_faults (s : State) (x : Thread) : (s.setThr x).faults = s.faults := by
  unfold State.setThr; split <;> rfl
@[simp] theorem State.modThr_faults (s : State) (f : Thread → Thread) : (s.modThr f).faults = s.faults :=
  State.setThr_faults s _
@[simp] theorem State.capture_faults (s : State) (f : Word) : (s.capture f).faults = s.faults := by
  unfold State.capture; split <;> first | rfl | exact State.modThr_faults s _
@[simp] theorem State.setThr_seqs (s : State) (x : Thread) : (s.setThr x).seqs = s.seqs := by
  unfold State.setThr; split <;> rfl
@[simp] theorem State.modThr_seqs (s : State) (f : Thread → Thread) : (s.modThr f).seqs = s.seqs :=
  State.setThr_seqs s _
@[simp] theorem State.capture_seqs (s : State) (f : Word) : (s.capture f).seqs = s.seqs := by
  unfold State.capture; split <;> first | rfl | exact State.modThr_seqs s _
@[simp] theorem State.setThr_evSeqs (s : State) (x : Thread) : (s.setThr x).evSeqs = s.evSeqs := by
  unfold State.setThr; split <;> rfl
@[simp] theorem State.modThr_evSeqs (s : State) (f : Thread → Thread) : (s.modThr f).evSeqs = s.evSeqs :=
  State.setThr_evSeqs s _
@[simp] theorem State.capture_evSeqs (s : State) (f : Word) : (s.capture f).evSeqs = s.evSeqs := by
  unfold State.capture; split <;> first | rfl | exact State.modThr_evSeqs s _
@[simp] theorem State.setThr_cur (s : State) (x : Thread) : (s.setThr x).cur = s.cur := by
  unfold State.setThr; split <;> rfl
@[simp] theorem State.modThr_cur (s : State) (f : Thread → Thread) : (s.modThr f).cur = s.cur :=
  State.setThr_cur s _
@[simp] theorem State.capture_cur (s : State) (f : Word) : (s.capture f).cur = s.cur := by
  unfold State.capture; split <;> first | rfl | exact State.modThr_cur s _
@[simp] theorem State.setThr_agenda (s : State) (x : Thread) : (s.setThr x).agenda = s.agenda := by
  unfold State.setThr; split <;> rfl
@[simp] theorem State.modThr_agenda (s : State) (f : Thread → Thread) : (s.modThr f).agenda = s.agenda :=
  State.setThr_agenda s _
@[simp] theorem State.capture_agenda (s : State) (f : Word) : (s.capture f).agenda = s.agenda := by
  unfold State.capture; split <;> first | rfl | exact State.modThr_agenda s _
@[simp] theorem State.setThr_turn (s : State) (x : Thread) : (s.setThr x).turn = s.turn := by
  unfold State.setThr; split <;> rfl
@[simp] theorem State.modThr_turn (s : State) (f : Thread → Thread) : (s.modThr f).turn = s.turn :=
  State.setThr_turn s _
@[simp] theorem State.capture_turn (s : State) (f : Word) : (s.capture f).turn = s.turn := by
  unfold State.capture; split <;> first | rfl | exact State.modThr_turn s _
@[simp] theorem State.setThr_evTurn (s : State) (x : Thread) : (s.setThr x).evTurn = s.evTurn := by
  unfold State.setThr; split <;> rfl
@[simp] theorem State.modThr_evTurn (s : State) (f : Thread → Thread) : (s.modThr f).evTurn = s.evTurn :=
  State.setThr_evTurn s _
@[simp] theorem State.capture_evTurn (s : State) (f : Word) : (s.capture f).evTurn = s.evTurn := by
  unfold State.capture; split <;> first | rfl | exact State.modThr_evTurn s _
@[simp] theorem State.setThr_issueNext (s : State) (x : Thread) : (s.setThr x).issueNext = s.issueNext := by
  unfold State.setThr; split <;> rfl
@[simp] theorem State.modThr_issueNext (s : State) (f : Thread → Thread) : (s.modThr f).issueNext = s.issueNext :=
  State.setThr_issueNext s _
@[simp] theorem State.capture_issueNext (s : State) (f : Word) : (s.capture f).issueNext = s.issueNext := by
  unfold State.capture; split <;> first | rfl | exact State.modThr_issueNext s _
@[simp] theorem State.setThr_served (s : State) (x : Thread) : (s.setThr x).served = s.served := by
  unfold State.setThr; split <;> rfl
@[simp] theorem State.modThr_served (s : State) (f : Thread → Thread) : (s.modThr f).served = s.served :=
  State.setThr_served s _
@[simp] theorem State.capture_served (s : State) (f : Word) : (s.capture f).served = s.served := by
  unfold State.capture; split <;> first | rfl | exact State.modThr_served s _
@[simp] theorem State.setThr_free (s : State) (x : Thread) : (s.setThr x).free = s.free := by
  unfold State.setThr; split <;> rfl
@[simp] theorem State.modThr_free (s : State) (f : Thread → Thread) : (s.modThr f).free = s.free :=
  State.setThr_free s _
@[simp] theorem State.capture_free (s : State) (f : Word) : (s.capture f).free = s.free := by
  unfold State.capture; split <;> first | rfl | exact State.modThr_free s _

/-- Where there is a thread, it reads back as written. -/
theorem State.thr_setThr {s : State} (x : Thread) (h : s.cur ≠ .none) : (s.setThr x).thr = x := by
  cases hc : s.cur with
  | none => exact absurd hc h
  | group g => simp [State.setThr, State.thr, hc]
  | svc t => simp [State.setThr, State.thr, hc]

theorem State.thr_modThr {s : State} (f : Thread → Thread) (h : s.cur ≠ .none) : (s.modThr f).thr = f s.thr :=
  State.thr_setThr _ h

/-! ### Scalar registers and predicates (R43, R58) -/

@[simp] theorem Thread.rd_zero (t : Thread) : t.rd 0 = 0 := rfl
@[simp] theorem Thread.wr_zero (t : Thread) (v : DWord) : t.wr 0 v = t := rfl
theorem Thread.rd_wr_self (t : Thread) {n : Nat} (v : DWord) (h : n ≠ 0) : (t.wr n v).rd n = v := by
  simp [Thread.rd, Thread.wr, h]
theorem Thread.rd_wr_ne (t : Thread) {n m : Nat} (v : DWord) (h : m ≠ n) : (t.wr n v).rd m = t.rd m := by
  unfold Thread.wr; split
  · rfl
  · by_cases hm : m = 0 <;> simp [Thread.rd, hm, Tab.get_set_ne _ _ _ h]
@[simp] theorem Thread.rd_next (t : Thread) (len : DWord) (n : Nat) : (t.next len).rd n = t.rd n := rfl
@[simp] theorem Thread.rd_jump (t : Thread) (a : DWord) (n : Nat) : (t.jump a).rd n = t.rd n := rfl
@[simp] theorem Thread.pcs_next (t : Thread) (len : DWord) : (t.next len).pcs = t.wordAt + len := rfl
@[simp] theorem Thread.pcs_jump (t : Thread) (a : DWord) : (t.jump a).pcs = a := rfl
@[simp] theorem Thread.em_wr (t : Thread) (n : Nat) (v : DWord) : (t.wr n v).em = t.em := by unfold Thread.wr; split <;> rfl
@[simp] theorem Thread.preds_wr (t : Thread) (n : Nat) (v : DWord) : (t.wr n v).preds = t.preds := by unfold Thread.wr; split <;> rfl
@[simp] theorem Thread.flags_wr (t : Thread) (n : Nat) (v : DWord) : (t.wr n v).flags = t.flags := by unfold Thread.wr; split <;> rfl
@[simp] theorem Thread.pcs_wr (t : Thread) (n : Nat) (v : DWord) : (t.wr n v).pcs = t.pcs := by unfold Thread.wr; split <;> rfl
@[simp] theorem Thread.pfx_wr (t : Thread) (n : Nat) (v : DWord) : (t.wr n v).pfx = t.pfx := by unfold Thread.wr; split <;> rfl
@[simp] theorem Thread.wordAt_wr (t : Thread) (n : Nat) (v : DWord) : (t.wr n v).wordAt = t.wordAt := by simp [Thread.wordAt]
@[simp] theorem Thread.pred_zero (t : Thread) : t.pred 0 = 0xFFFFFFFF := rfl
@[simp] theorem Thread.setPred_zero (t : Thread) (v : Word) : t.setPred 0 v = t := rfl
theorem Thread.pred_setPred_self (t : Thread) {n : Nat} (v : Word) (h : n ≠ 0) : (t.setPred n v).pred n = v := by
  simp [Thread.pred, Thread.setPred, h]
theorem Thread.pred_setPred_ne (t : Thread) {n m : Nat} (v : Word) (h : m ≠ n) : (t.setPred n v).pred m = t.pred m := by
  unfold Thread.setPred; split
  · rfl
  · by_cases hm : m = 0 <;> simp [Thread.pred, hm, Tab.get_set_ne _ _ _ h]

end Sys2Proof.Machine
end

