-- ==== Sys2Proof/Laws/Memory.lean ====
section
/-! SUPPORT. Laws of memory and of scratchpad windows: a read after a write to the same place gives the value written, a
write leaves every other place alone, and every operation that writes keeps the canonical form (log entry 8). -/

namespace Sys2Proof.Machine

/-! ### Tables of bytes -/

theorem putBytes_wf {m : List Host.Cell} (a : Nat) (bs : List Byte) (h : Memory.wf m = true) :
    Memory.wf (putBytes m a bs) = true := by
  induction bs generalizing m a with
  | nil => exact h
  | cons b bs ih => exact ih (a + 1) (Tab.wf_set a b h)

theorem get_putBytes_out {m : List Host.Cell} {a k : Nat} {bs : List Byte} (h : k < a ∨ a + bs.length ≤ k) :
    Tab.get 0 (putBytes m a bs) k = Tab.get 0 m k := by
  induction bs generalizing m a with
  | nil => rfl
  | cons b bs ih =>
    simp only [List.length_cons] at h
    rw [putBytes, ih (by omega), Tab.get_set_ne _ _ _ (by omega)]

theorem get_putBytes_in {m : List Host.Cell} {a k : Nat} {bs : List Byte} (h : a ≤ k ∧ k < a + bs.length) :
    Tab.get 0 (putBytes m a bs) k = bs.getD (k - a) 0 := by
  induction bs generalizing m a with
  | nil => simp at h; omega
  | cons b bs ih =>
    simp only [List.length_cons] at h
    rw [putBytes]
    by_cases he : k = a
    · subst he
      rw [get_putBytes_out (by omega), Tab.get_set_self]; simp
    · rw [ih (by omega)]
      obtain ⟨j, rfl⟩ : ∃ j, k = a + 1 + j := ⟨k - (a + 1), by omega⟩
      rw [show a + 1 + j - (a + 1) = j by omega, show a + 1 + j - a = j + 1 by omega, List.getD_cons_succ]

theorem takeBytes_length (m : List Host.Cell) (a n : Nat) : (takeBytes m a n).length = n := by
  induction n generalizing a with
  | zero => rfl
  | succ n ih => simp [takeBytes, ih]

/-- Bytes read back as they were written. -/
theorem takeBytes_putBytes (m : List Host.Cell) (a : Nat) (bs : List Byte) :
    takeBytes (putBytes m a bs) a bs.length = bs := by
  apply List.ext_getElem (by simp [takeBytes_length])
  have key : ∀ (m : List Host.Cell) (a n i : Nat) (h : i < (takeBytes m a n).length),
      (takeBytes m a n)[i] = Tab.get 0 m (a + i) := by
    intro m a n
    induction n generalizing a with
    | zero => intro i h; simp [takeBytes] at h
    | succ n ih =>
      intro i h
      cases i with
      | zero => rfl
      | succ i => simp only [takeBytes, List.getElem_cons_succ]; rw [ih]; congr 1; omega
  intro i h1 h2
  rw [key, get_putBytes_in (by omega)]
  simp [List.getD_eq_getElem?_getD, h2]

/-! ### Physical memory -/

@[simp] theorem State.fireMonitors_mem (s : State) (t : Option Nat) (a n : Nat) : (s.fireMonitors t a n).mem = s.mem := rfl
@[simp] theorem State.wrBytes_mem (s : State) (pa : Nat) (bs : List Byte) : (s.wrBytes pa bs).mem = putBytes s.mem pa bs := rfl
@[simp] theorem State.putSpad_mem (s : State) (t off : Nat) (bs : List Byte) : (s.putSpad t off bs).mem = s.mem := rfl
@[simp] theorem State.passUndo_mem (s : State) (t off : Nat) (bs : List Byte) : (s.passUndo t off bs).mem = s.mem := by
  unfold State.passUndo; split <;> rfl
@[simp] theorem State.passUndo_teams (s : State) (t off : Nat) (bs : List Byte) : (s.passUndo t off bs).teams = s.teams := by
  unfold State.passUndo; split <;> rfl
@[simp] theorem State.wrSpad_mem (s : State) (t off : Nat) (bs : List Byte) : (s.wrSpad t off bs).mem = s.mem :=
  State.passUndo_mem _ _ _ _

/-- A byte inside what was written. -/
theorem State.rdByte_wrBytes_in (s : State) {pa k : Nat} {bs : List Byte} (h : pa ≤ k ∧ k < pa + bs.length) :
    (s.wrBytes pa bs).rdByte k = bs.getD (k - pa) 0 := get_putBytes_in h

/-- A byte outside what was written. -/
theorem State.rdByte_wrBytes_out (s : State) {pa k : Nat} {bs : List Byte} (h : k < pa ∨ pa + bs.length ≤ k) :
    (s.wrBytes pa bs).rdByte k = s.rdByte k := get_putBytes_out h

theorem State.rdBytes_eq (s : State) (pa n : Nat) : s.rdBytes pa n = takeBytes s.mem pa n := by
  induction n generalizing pa with
  | zero => rfl
  | succ n ih => simp [State.rdBytes, takeBytes, State.rdByte, ih]

theorem State.rdBytes_wrBytes (s : State) (pa : Nat) (bs : List Byte) : (s.wrBytes pa bs).rdBytes pa bs.length = bs := by
  rw [State.rdBytes_eq]; exact takeBytes_putBytes _ _ _

theorem leBytes_length (n v : Nat) : (leBytes n v).length = n := by
  induction n generalizing v with
  | zero => rfl
  | succ n ih => simp [leBytes, ih]

theorem ofLeBytes_leBytes (n v : Nat) : ofLeBytes (leBytes n v) = v % 2 ^ (8 * n) := by
  induction n generalizing v with
  | zero => simp [leBytes, ofLeBytes, Nat.mod_one]
  | succ n ih =>
    have h : 2 ^ (8 * (n + 1)) = 256 * 2 ^ (8 * n) := by rw [Nat.mul_add, Nat.pow_add]; ring
    simp only [leBytes, ofLeBytes, ih, BitVec.toNat_ofNat]
    rw [h, Nat.mod_mul]

/-- A number reads back as written, modulo its size. -/
theorem State.rdLe_wrLe (s : State) (pa n v : Nat) : (s.wrLe pa n v).rdLe pa n = v % 2 ^ (8 * n) := by
  have h := State.rdBytes_wrBytes s pa (leBytes n v)
  rw [leBytes_length] at h
  rw [State.rdLe, State.wrLe, h, ofLeBytes_leBytes]

/-! ### The canonical form -/

theorem State.memOk_of_mem {s t : State} (h : t.mem = s.mem) (hs : s.memOk = true) : t.memOk = true := by
  simpa [State.memOk, h] using hs

theorem State.wrBytes_memOk {s : State} (pa : Nat) (bs : List Byte) (h : s.memOk = true) : (s.wrBytes pa bs).memOk = true :=
  putBytes_wf pa bs h

theorem State.wrLe_memOk {s : State} (pa n v : Nat) (h : s.memOk = true) : (s.wrLe pa n v).memOk = true :=
  State.wrBytes_memOk pa _ h

theorem State.wrSpad_memOk {s : State} (t off : Nat) (bs : List Byte) (h : s.memOk = true) : (s.wrSpad t off bs).memOk = true :=
  State.memOk_of_mem (State.wrSpad_mem _ _ _ _) h

/-- A byte of a team's window inside what was written, and outside. -/
theorem State.wrSpad_spad (s : State) (t off : Nat) (bs : List Byte) :
    ((s.wrSpad t off bs).team t).spad = putBytes (s.team t).spad off bs := by
  have h : (s.wrSpad t off bs).team t = ((s.passUndo t off bs).modTeam t fun x => { x with spad := putBytes x.spad off bs }).team t := rfl
  have h2 : (s.passUndo t off bs).team t = s.team t := by simp [State.team]
  rw [h]; simp [h2]

theorem State.wrSpad_wf {s : State} (t off : Nat) (bs : List Byte) (h : Memory.wf (s.team t).spad = true) :
    Memory.wf ((s.wrSpad t off bs).team t).spad = true := by
  rw [State.wrSpad_spad]; exact putBytes_wf off bs h

end Sys2Proof.Machine
end

