-- ==== Sys2Proof/Laws/Ops.lean ====
section
/-! SUPPORT. What the shared operations of Machine/Ops.lean can do: registers after a write, and the ways in which the guards of
a scalar or lane word end. -/

namespace Sys2Proof.Machine

/-! ### Registers of a thread -/

@[simp] theorem Thread.full_zero (t : Thread) : t.full 0 = true := rfl

/-- A write gives its register its value, and no other. -/
theorem Thread.rd_wr (t : Thread) (d n : Nat) (v : DWord) : (t.wr d v).rd n = if n = d ∧ n ≠ 0 then v else t.rd n := by
  by_cases he : n = d
  · subst he
    by_cases hn : n = 0
    · subst hn; rfl
    · simp [hn, Thread.rd_wr_self]
  · simp [he, Thread.rd_wr_ne]

theorem bit_ofNat (d n : Nat) (hn : n < 64) : (BitVec.ofNat 64 (2 ^ d)).getLsbD n = decide (n = d) := by
  rw [BitVec.getLsbD_ofNat, Nat.testBit_two_pow, decide_eq_true hn, Bool.true_and]
  exact decide_eq_decide.2 eq_comm

/-- A write leaves every other register as full as it was. -/
theorem Thread.full_wr_ne (t : Thread) {d n : Nat} (v : DWord) (hn : n < 64) (h : n ≠ d) : (t.wr d v).full n = t.full n := by
  unfold Thread.wr
  split
  · rfl
  · simp only [Thread.full, BitVec.getLsbD_and, BitVec.getLsbD_not, bit_ofNat d n hn, decide_eq_true hn, decide_eq_false h,
      Bool.not_false, Bool.and_true]

/-- A write fills its register. -/
theorem Thread.full_wr_self (t : Thread) {d : Nat} (v : DWord) (hd : d < 64) : (t.wr d v).full d = true := by
  unfold Thread.wr
  split
  · rename_i h; subst h; rfl
  · simp only [Thread.full, BitVec.getLsbD_and, BitVec.getLsbD_not, bit_ofNat d d hd, decide_true, Bool.not_true,
      Bool.and_false, Bool.not_false, Bool.or_true]

@[simp] theorem Thread.next_pfx (t : Thread) (n : DWord) : (t.next n).pfx = none := rfl
@[simp] theorem Thread.next_em (t : Thread) (n : DWord) : (t.next n).em = t.em := rfl
@[simp] theorem Thread.next_preds (t : Thread) (n : DWord) : (t.next n).preds = t.preds := rfl
@[simp] theorem Thread.next_flags (t : Thread) (n : DWord) : (t.next n).flags = t.flags := rfl
@[simp] theorem Thread.next_full (t : Thread) (n : DWord) (k : Nat) : (t.next n).full k = t.full k := rfl
@[simp] theorem Thread.jump_pfx (t : Thread) (a : DWord) : (t.jump a).pfx = none := rfl
@[simp] theorem Thread.jump_full (t : Thread) (a : DWord) (k : Nat) : (t.jump a).full k = t.full k := rfl

/-- Captured flags leave everything that a thread reads of itself, but a service thread's flags. -/
theorem State.capture_thr (s : State) (f : Word) (h : s.cur ≠ .none) :
    (s.capture f).thr = match s.cur with | .svc _ => { s.thr with flags := s.thr.flags ||| f } | _ => s.thr := by
  unfold State.capture
  rcases hc : s.cur with _ | g | k
  · exact absurd hc h
  · simp [State.thr, hc]
  · exact State.thr_modThr _ h

/-! ### The guards of a word -/

theorem State.running_of {s : State} {k : State → Out} (h : s.cur ≠ .none) : s.running k = k s := if_neg h

/-- A word with a thread to run it, or the fault `noIssuer`. -/
theorem State.running_next {s t : State} {k : State → Out} (h : s.running k = .next t) : s.cur ≠ .none ∧ k s = .next t := by
  unfold State.running at h
  split at h
  · cases h
  · exact ⟨‹_›, h⟩

theorem State.groupOnly_group {s : State} {k : Nat → Out} {g : Nat} (h : s.cur = .group g) : s.groupOnly k = k g := by
  unfold State.groupOnly; rw [h]

/-- A group's word: the group at hand runs it, and a service thread raises ENC_RESERVED. -/
theorem State.groupOnly_next {s t : State} {k : Nat → Out} (h : s.groupOnly k = .next t) :
    (∃ g, s.cur = .group g ∧ k g = .next t) ∨ (∃ v, s.cur = .svc v ∧ t = s.raise .encReserved {}) := by
  unfold State.groupOnly at h
  split at h
  · cases h
  · exact .inl ⟨_, ‹_›, h⟩
  · exact .inr ⟨_, ‹_›, by simpa using h.symm⟩

/-! ### Residue codes (R55, R82) -/

@[simp] theorem Group.mismatch_nil (x : Group) (ks : List Nat) (h : x.upset = []) : x.mismatch ks = none := by
  simp [Group.mismatch, h]

theorem Group.recode_nil (x : Group) (ks : List Nat) (h : x.upset = []) : x.recode ks = x := by
  simp [Group.recode, h]

/-- Where every register's code matches, a scalar word meets no mismatch. -/
theorem State.sMismatch_sound {s : State} (h : s.sound) (regs : List Nat) : s.sMismatch regs = none := by
  unfold State.sMismatch
  split
  · exact Group.mismatch_nil _ _ (h _ ‹_›)
  · rfl

/-- Where every register's code matches, a write has no code to mend. -/
theorem State.sRecode_sound {s : State} (h : s.sound) (regs : List Nat) : s.sRecode regs = s := by
  unfold State.sRecode
  split
  · simp [h _ ‹_›]
  · rfl

/-- A scalar word whose registers are ready, and their codes right, goes on. -/
theorem State.withRegs_ready {s : State} {reads writes : List Nat} {k : State → Out} (h : s.cur ≠ .none) (hs : s.sound)
    (ha : s.readsAtomDst reads = false) (hf : ∀ n ∈ reads ++ writes, s.thr.full n = true) : s.withRegs reads writes k = k s := by
  have h4 : (reads ++ writes).all s.thr.full = true := List.all_eq_true.2 hf
  rw [State.withRegs, State.running_of h, ha, h4, State.sMismatch_sound hs, State.sRecode_sound hs]; rfl

/-- The ways a scalar word with a thread goes: it trips on a pending atomic, waits for a register, meets a soft error, or goes
on with new codes for what it writes. -/
theorem State.withRegs_next {s t : State} {reads writes : List Nat} {k : State → Out} (h : s.withRegs reads writes k = .next t) :
    s.cur ≠ .none ∧ (t = s.raise .atomicPlacement {} ∨ t = s.waitFor 18 ∨ (∃ g r, s.cur = .group g ∧ t = s.meetUpset g r) ∨
      (s.readsAtomDst reads = false ∧ (∀ n ∈ reads ++ writes, s.thr.full n = true) ∧ k (s.sRecode writes) = .next t)) := by
  obtain ⟨h0, h⟩ := State.running_next h
  refine ⟨h0, ?_⟩
  split at h
  · exact .inl (by simpa using h.symm)
  · split at h
    · split at h
      · rename_i g _ hg
        refine .inr (.inr (.inl ⟨g, _, ?_, by simpa using h.symm⟩))
        unfold State.gid at hg; split at hg
        · rw [‹s.cur = _›]; simpa using hg
        · cases hg
      · exact .inr (.inr (.inr ⟨by simp_all, List.all_eq_true.1 ‹_›, h⟩))
    · exact .inr (.inl (by simpa using h.symm))

/-- A scalar word with its registers ready writes its result, raises its flags under CAP and passes itself. -/
theorem State.scalarOp_ready {s : State} {len : DWord} {reads : List Nat} {d : Nat} {f : Thread → DWord × Word} (h : s.cur ≠ .none)
    (hs : s.sound) (ha : s.readsAtomDst reads = false) (hf : ∀ n ∈ reads ++ [d], s.thr.full n = true) :
    s.scalarOp len reads d f =
      .next ((if s.thr.opts.cap then s.capture (f s.thr).2 else s).modThr fun t => (t.wr d (f s.thr).1).next len) :=
  State.withRegs_ready h hs ha hf

/-- Where the codes of the group's registers and of its team's queue elements match, a lane word meets no mismatch. -/
theorem State.useMismatch_sound {s : State} {g : Nat} (h : (s.group g).upset = []) (ht : (s.team (s.group g).team).upset = [])
    (m : Word) (us : List Use) (d : Option Put) : s.useMismatch g m us d = none := by
  unfold State.useMismatch
  simp only [Group.mismatch_nil _ _ h]
  rw [List.findSome?_eq_none_iff]
  intro u _
  split
  · simp [ht]
  · rfl

/-- The ways a lane word goes, but for a service thread's: a trap, a wait, a soft error, or on. -/
theorem State.laneWord_next {s t : State} {h : LaneHdr} {cls : LaneClass} {us : Word → List Use} {d : Option Put}
    {k : Nat → Word → State → Out} {g : Nat} (hc : s.cur = .group g) (hn : s.laneWord h cls us d k = .next t) :
    (∃ c flm, t = s.raise c { flm := flm }) ∨ (∃ r, t = s.waitFor r) ∨ (∃ r, t = s.meetUpset g r) ∨
      (roleOk (s.roleOf g) cls = true ∧ s.operandTrap g ((s.group g).thr.active h) (us ((s.group g).thr.active h)) d = .ok ∧
        s.operandWait g ((s.group g).thr.active h) (us ((s.group g).thr.active h)) d = .ok ∧ k g ((s.group g).thr.active h) s = .next t) := by
  rw [State.laneWord, State.groupOnly_group hc] at hn
  simp only at hn
  split at hn
  · exact .inl ⟨_, _, by simpa using hn.symm⟩
  · rename_i hr
    split at hn
    · exact .inl ⟨_, _, by simpa using hn.symm⟩
    · exact .inr (.inl ⟨_, by simpa using hn.symm⟩)
    · rename_i ho
      split at hn
      · exact .inr (.inr (.inl ⟨_, by simpa using hn.symm⟩))
      · refine .inr (.inr (.inr ⟨by simpa using hr, ?_, ?_, hn⟩))
        · unfold Check.orElse at ho; split at ho
          · assumption
          · rename_i hne; exact absurd ho hne
        · unfold Check.orElse at ho; split at ho
          · exact ho
          · rename_i hne; exact absurd ho hne

/-- A lane word that passes its checks goes on. -/
theorem State.laneWord_ready {s : State} {h : LaneHdr} {cls : LaneClass} {us : Word → List Use} {d : Option Put}
    {k : Nat → Word → State → Out} {g : Nat} (hc : s.cur = .group g) (hr : roleOk (s.roleOf g) cls = true)
    (ht : s.operandTrap g ((s.group g).thr.active h) (us ((s.group g).thr.active h)) d = .ok)
    (hw : s.operandWait g ((s.group g).thr.active h) (us ((s.group g).thr.active h)) d = .ok)
    (hm : s.useMismatch g ((s.group g).thr.active h) (us ((s.group g).thr.active h)) d = none) : s.laneWord h cls us d k = k g ((s.group g).thr.active h) s := by
  rw [State.laneWord, State.groupOnly_group hc]
  simp [hr, ht, hw, Check.orElse, hm]

end Sys2Proof.Machine
end

