-- ==== Sys2Proof/Laws/Frames.lean ====
section
/-! SUPPORT. Operations that leave physical memory as it is: traps, waits, discards, commits, operands, and what a region holds
before its commit. Every one of them so keeps the canonical form (`State.memOk_of_mem`). -/

namespace Sys2Proof.Machine

/-- A fold of steps that leave memory alone leaves it alone. -/
theorem foldl_mem {α : Type} {f : State → α → State} (hf : ∀ s a, (f s a).mem = s.mem) (l : List α) (s : State) :
    (l.foldl f s).mem = s.mem := by
  induction l generalizing s with
  | nil => rfl
  | cons a l ih => exact (ih _).trans (hf _ _)

/-! ### Traps and waits -/

@[simp] theorem State.waitFor_mem (s : State) (r : Nat) : (s.waitFor r).mem = s.mem := by
  unfold State.waitFor; split <;> rfl
@[simp] theorem State.park?_mem (s : State) (g : Nat) (w : Wait) : (s.park? g w).mem = s.mem := rfl
@[simp] theorem State.awake_mem (s : State) (a : Agent) : (s.awake a).mem = s.mem := by cases a <;> rfl
@[simp] theorem State.meetUpset_mem (s : State) (g : Nat) (r : Word) : (s.meetUpset g r).mem = s.mem := rfl
@[simp] theorem State.sRecode_mem (s : State) (regs : List Nat) : (s.sRecode regs).mem = s.mem := by
  unfold State.sRecode; split
  · split <;> rfl
  · rfl
@[simp] theorem State.takeFree_mem (s : State) : s.takeFree.mem = s.mem := rfl
@[simp] theorem State.modLive_mem (s : State) (g : Nat) (f : Group → Group) : (s.modLive g f).mem = s.mem := by
  unfold State.modLive; split <;> rfl
@[simp] theorem State.setEm_mem (s : State) (v : Word) : (s.setEm v).mem = s.mem := State.modThr_mem _ _
@[simp] theorem State.splitEm_mem (s : State) (v : Word) : (s.splitEm v).mem = s.mem := by
  unfold State.splitEm; simp only; split
  · split <;> simp
  · simp
@[simp] theorem State.joinEm_mem (s : State) (v : Word) : (s.joinEm v).mem = s.mem := by
  unfold State.joinEm; split <;> simp
@[simp] theorem State.record_mem (s : State) (r : FaultRec) : (s.record r).mem = s.mem := rfl
@[simp] theorem State.event_mem (s : State) (a b c : Nat) (d : DWord) : (s.event a b c d).mem = s.mem := by
  simp only [State.event]; split <;> rfl
@[simp] theorem State.bumpBy_mem (s : State) (c e n : Nat) : (s.bumpBy c e n).mem = s.mem := by
  unfold State.bumpBy; split <;> rfl
@[simp] theorem State.bump_mem (s : State) (c e : Nat) : (s.bump c e).mem = s.mem := State.bumpBy_mem _ _ _ _

/-- A discard restores windows and registers; no byte of memory was the region's. -/
@[simp] theorem State.discard_mem (s : State) (g : Nat) : (s.discard g).mem = s.mem := by
  unfold State.discard
  simp only
  split
  · rfl
  · simp only [State.bump_mem, State.modGroup_mem, State.modTeam_mem, State.modCore_mem]
    exact foldl_mem (f := fun (t : State) (x : Nat × List Byte) => t.putSpad _ x.1 x.2) (fun _ _ => rfl) _ _

@[simp] theorem State.trapGroup_mem (s : State) (g : Nat) (c : Cause) (i : TrapInfo) : (s.trapGroup g c i).mem = s.mem := by
  unfold State.trapGroup
  simp only
  split
  · split <;> simp
  · simp

@[simp] theorem State.trapSvc_mem (s : State) (t : Nat) (e c i : DWord) : (s.trapSvc t e c i).mem = s.mem := by
  unfold State.trapSvc; simp only; split <;> simp

@[simp] theorem State.raise_mem (s : State) (c : Cause) (i : TrapInfo) : (s.raise c i).mem = s.mem := by
  unfold State.raise; split <;> simp

@[simp] theorem State.trapLanes_mem (s : State) (c : Cause) (p : Nat) (bad : List (Nat × DWord × Option PfKind)) :
    (s.trapLanes c p bad).mem = s.mem := by
  unfold State.trapLanes; split <;> simp

/-! ### Caches and translations -/

@[simp] theorem State.tlbFill_mem (s : State) (k : Nat) (e : TlbEntry) : (s.tlbFill k e).mem = s.mem := rfl
@[simp] theorem State.askWalk_mem (s : State) (g a v : Nat) : (s.askWalk g a v).mem = s.mem := by
  unfold State.askWalk; simp only; split <;> rfl
@[simp] theorem State.l1Fill_mem (s : State) (k a v p : Nat) (b : Bool) : (s.l1Fill k a v p b).mem = s.mem := by
  unfold State.l1Fill; simp only; split <;> rfl
@[simp] theorem State.l1Drop_mem (s : State) (k : Nat) : (s.l1Drop k).mem = s.mem := rfl
@[simp] theorem State.l1Sync_mem (s : State) (g : Nat) : (s.l1Sync g).mem = s.mem := by
  unfold State.l1Sync; split <;> rfl
@[simp] theorem State.l1Update_mem (s : State) (k a : Nat) (b : List Byte) : (s.l1Update k a b).mem = s.mem := by
  unfold State.l1Update; simp only; split <;> rfl

/-! ### Operands and destinations -/

@[simp] theorem State.readZ_mem (s : State) (g n : Nat) : (s.readZ g n).1.mem = s.mem := by
  unfold State.readZ; simp only; split <;> rfl
@[simp] theorem State.readUse_mem (s : State) (g : Nat) (m : Word) (u : Use) : (s.readUse g m u).1.mem = s.mem := by
  unfold State.readUse; simp only; split <;> first | rfl | exact State.readZ_mem _ _ _
@[simp] theorem State.readUses_mem (s : State) (g : Nat) (m : Word) (us : List Use) : (s.readUses g m us).1.mem = s.mem := by
  induction us generalizing s with
  | nil => rfl
  | cons u us ih => exact (ih _).trans (State.readUse_mem _ _ _ _)
@[simp] theorem State.popped_mem (s : State) (g q n : Nat) : (s.popped g q n).mem = s.mem := by
  unfold State.popped; split <;> rfl
@[simp] theorem State.popAll_mem (s : State) (g : Nat) (m : Word) (us : List Use) : (s.popAll g m us).mem = s.mem :=
  foldl_mem (fun _ _ => State.popped_mem _ _ _ _) _ _
@[simp] theorem State.writeDst_mem (s : State) (g : Nat) (p : Put) (v : Tab Nat) : (s.writeDst g p v).mem = s.mem := by
  unfold State.writeDst; split
  · simp only; split <;> rfl
  · rfl
  · rfl
@[simp] theorem State.writeZ_mem (s : State) (g z : Nat) (v : Tab Nat) : (s.writeZ g z v).mem = s.mem := by
  unfold State.writeZ; split <;> rfl
@[simp] theorem State.mkEmpty_mem (s : State) (g : Nat) (k : List Nat) : (s.mkEmpty g k).mem = s.mem := rfl
@[simp] theorem State.addPending_mem (s : State) (g : Nat) (p : Pending) : (s.addPending g p).mem = s.mem := rfl
@[simp] theorem State.writeMask_mem (s : State) (d : MaskOp) (v : Word) : (s.writeMask d v).mem = s.mem := by
  cases d <;> simp [State.writeMask]

/-! ### What a region holds, and its commit -/

@[simp] theorem State.hold_mem (s : State) (g : Nat) (h : Held) : (s.hold g h).mem = s.mem := rfl
@[simp] theorem State.holdAtom_mem (s : State) (g : Nat) (op : ReqOp) (w sc : Bool) (as_ : List AtLane) (a b : List Nat)
    (c : List (Nat × Nat)) : (s.holdAtom g op w sc as_ a b c).mem = s.mem := rfl
@[simp] theorem State.takeLocks_mem (s : State) (g : Nat) (bits : List Nat) (f : Lock → Option Lock) :
    (s.takeLocks g bits f).mem = s.mem := by
  refine foldl_mem (fun s b => ?_) _ _
  split <;> rfl
@[simp] theorem State.waitLock_mem (s : State) (g : Nat) : (s.waitLock g).mem = s.mem := by simp [State.waitLock]
@[simp] theorem State.spadAtoms_mem (s : State) (g : Nat) (op : ReqOp) (w : Bool) (as_ : List AtLane) :
    (s.spadAtoms g op w as_).1.mem = s.mem := by
  induction as_ generalizing s with
  | nil => rfl
  | cons a as_ ih => exact (ih _).trans rfl
@[simp] theorem State.loaded_mem (s : State) (g : Nat) : (s.loaded g).mem = s.mem := by unfold State.loaded; split <;> rfl
@[simp] theorem State.loadSpads_mem (s : State) (g n : Nat) (ts : List (Nat × Nat)) : (s.loadSpads g n ts).1.mem = s.mem := by
  induction ts generalizing s with
  | nil => rfl
  | cons t ts ih => obtain ⟨l, a⟩ := t; exact (ih _).trans (State.loaded_mem _ _)
@[simp] theorem State.loadLanes_mem (s : State) (g n : Nat) (k : Bool) (ads : List (Nat × DWord)) (ts : List (Nat × Nat × DWord)) :
    (s.loadLanes g n k ads ts).1.mem = s.mem := by
  induction ts generalizing s with
  | nil => rfl
  | cons t ts ih =>
    obtain ⟨l, pa, e⟩ := t
    refine (ih _).trans ((State.l1Fill_mem _ _ _ _ _ _).trans ?_)
    have h : ∀ (c : Bool) (s : State) (k e : Nat), (if c then s.bump k e else s).mem = s.mem := fun c s k e => by split <;> simp
    exact (h _ _ _ _).trans (by split <;> simp)
@[simp] theorem State.hashHeld_mem (s : State) (g : Nat) (hs : List Held) : (s.hashHeld g hs).mem = s.mem := by
  unfold State.hashHeld; simp only; split <;> rfl
@[simp] theorem State.commitReplays_mem (s : State) (g : Nat) (hs : List Held) : (s.commitReplays g hs).mem = s.mem := rfl
@[simp] theorem State.pushOne_mem (s : State) (t g : Nat) (p : Nat × Word) : (s.pushOne t g p).mem = s.mem := rfl
@[simp] theorem State.releaseRec_mem (s : State) (t : Nat) (ws : List (Nat × SwLane)) : (s.releaseRec t ws).mem = s.mem := by
  refine foldl_mem (fun s a => ?_) _ _
  obtain ⟨c, x⟩ := a
  simp only
  split <;> rfl
@[simp] theorem State.decRec_mem (s : State) (t r : Nat) : (s.decRec t r).mem = s.mem := by
  unfold State.decRec; split
  · rfl
  · split
    · exact (State.releaseRec_mem _ _ _).trans rfl
    · rfl
@[simp] theorem State.dropStack_mem (s : State) (t : Nat) (l : Lane) : (s.dropStack t l).mem = s.mem := by
  unfold State.dropStack
  refine (foldl_mem (f := fun (s : State) (a : Nat × Nat) => s.decRec t a.2) (fun s a => State.decRec_mem _ _ _) _ _).trans
    (foldl_mem (fun s a => ?_) _ _)
  obtain ⟨_, r⟩ := a
  cases r <;> simp
@[simp] theorem State.endLanes_mem (s : State) (g : Nat) (m : Word) : (s.endLanes g m).mem = s.mem := by
  refine foldl_mem (fun s a => ?_) _ _
  simp
@[simp] theorem State.releaseBlocks_mem (s : State) (g b : Nat) : (s.releaseBlocks g b).mem = s.mem := by
  unfold State.releaseBlocks
  dsimp only
  split <;> rfl

@[simp] theorem State.landPushes_mem (s : State) (t q : Nat) (ps : List (Nat × Word × Bool)) : (s.landPushes t q ps).mem = s.mem := by
  induction ps generalizing s with
  | nil => rfl
  | cons p ps ih =>
    obtain ⟨_, v, b⟩ := p
    cases b with
    | false => rfl
    | true => exact (ih _).trans ((State.modTeam_mem _ _ _).trans (State.wrSpad_mem _ _ _ _))
@[simp] theorem State.releasePush_mem (s : State) (t g q : Nat) : (s.releasePush t g q).mem = s.mem :=
  (State.landPushes_mem _ _ _ _).trans rfl
@[simp] theorem State.release_mem (s : State) (g : Nat) (h : Held) : (s.release g h).mem = s.mem := by
  unfold State.release; split <;> simp
@[simp] theorem State.freeAtOnce_mem (s : State) (g : Nat) : (s.freeAtOnce g).mem = s.mem := by
  unfold State.freeAtOnce; simp only; split
  · rfl
  · exact (foldl_mem (fun _ _ => State.release_mem _ _ _) _ _).trans rfl
@[simp] theorem State.layQueue_mem (s : State) (t q b c : Nat) : (s.layQueue t q b c).mem = s.mem := rfl
@[simp] theorem State.configure_mem (s : State) (g : Nat) (qs : List (Nat × Nat × Nat)) : (s.configure g qs).mem = s.mem := by
  induction qs generalizing s with
  | nil => rfl
  | cons q qs ih => unfold State.configure; simp only; rw [ih]; split <;> rfl

/-- A commit hands effects over; none of them has performed but what goes to the team's own window. -/
@[simp] theorem State.commit_mem (s : State) (g : Nat) : (s.commit g).mem = s.mem := by
  unfold State.commit
  simp only
  split
  · rfl
  · have h : ∀ (l : List (Nat × Word)) (t g : Nat) (s : State), (l.foldl (fun s p => s.pushOne t g p) s).mem = s.mem :=
      fun l t g s => foldl_mem (f := fun (s : State) (p : Nat × Word) => s.pushOne t g p) (fun _ _ => rfl) l s
    rw [State.bump_mem]
    split <;> simp [h]

@[simp] theorem State.openImplicit_mem (s : State) (g : Nat) : (s.openImplicit g).mem = s.mem := rfl
@[simp] theorem State.laneDone_mem (s : State) (g : Nat) (h : LaneHdr) : (s.laneDone g h).mem = s.mem := by
  unfold State.laneDone; simp only; split <;> simp

/-! ### Whole words -/

/-- A scalar register instruction leaves memory as it is, whichever way it goes. -/
theorem State.scalarOp_mem {s t : State} {len : DWord} {reads : List Nat} {d : Nat} {f : Thread → DWord × Word}
    (h : s.scalarOp len reads d f = .next t) : t.mem = s.mem := by
  obtain ⟨-, rfl | rfl | ⟨_, _, -, rfl⟩ | ⟨-, -, hk⟩⟩ := State.withRegs_next h
  · simp
  · simp
  · simp
  · simp only [Host.Outcome.next.injEq] at hk
    subst hk
    simp only [State.modThr_mem]; split <;> simp

/-- A lane word leaves memory as it is where what follows its checks does. -/
theorem State.laneWord_mem {s t : State} {h : LaneHdr} {cls : LaneClass} {us : Word → List Use} {d : Option Put}
    {k : Nat → Word → State → Out} (hk : ∀ g m t, k g m s = .next t → t.mem = s.mem) (hn : s.laneWord h cls us d k = .next t) :
    t.mem = s.mem := by
  rcases State.groupOnly_next hn with ⟨g, hc, -⟩ | ⟨v, -, rfl⟩
  · obtain ⟨c, m, rfl⟩ | ⟨r, rfl⟩ | ⟨r, rfl⟩ | ⟨-, -, -, h⟩ := State.laneWord_next hc hn
    · simp
    · simp
    · simp
    · exact hk _ _ _ h
  · simp

/-- A lane word that computes leaves memory as it is. -/
theorem State.laneAlu_mem {s t : State} {h : LaneHdr} {cls : LaneClass} {z : Nat} {us : Word → List Use} {d : Option Put}
    {f : Word → List (Tab Nat) → Tab Nat × Word} (hn : s.laneAlu h cls z us d f = .next t) : t.mem = s.mem := by
  refine State.laneWord_mem (fun g m t hk => ?_) hn
  simp only [Host.Outcome.next.injEq] at hk
  subst hk
  rw [State.laneDone_mem, State.capture_mem, State.writeZ_mem]
  cases d <;> simp

end Sys2Proof.Machine
end

