-- ==== Sys2Proof/Laws/PerInstr.lean ====
section
/-! SUPPORT. A law of the instructions as syntax, one lemma per constructor: the instructions that have words are those that
threads execute; the steps of the other agents and the service commands have none. -/

/-- An instruction has words where it is no event. -/
def Sys2Proof.Laws.HasWords.Statement (i : Sys2Proof.Instr) : Prop :=
  (Sys2Proof.encode i).isSome = !Sys2Proof.Machine.isEvent i


namespace Sys2Proof.Laws

open Sys2Proof

theorem HasWords.pfx (cap sat : Bool) (rnd : Rnd) : HasWords.Statement (.pfx cap sat rnd) := rfl
theorem HasWords.nop : HasWords.Statement (.nop) := rfl
theorem HasWords.trap (code : BitVec 10) : HasWords.Statement (.trap code) := rfl
theorem HasWords.brk (code : BitVec 10) : HasWords.Statement (.brk code) := rfl
theorem HasWords.add (f : IntF) (d a b : SReg) : HasWords.Statement (.add f d a b) := rfl
theorem HasWords.sub (f : IntF) (d a b : SReg) : HasWords.Statement (.sub f d a b) := rfl
theorem HasWords.mul (f : IntF) (d a b : SReg) : HasWords.Statement (.mul f d a b) := rfl
theorem HasWords.mulh (f : IntF) (d a b : SReg) : HasWords.Statement (.mulh f d a b) := rfl
theorem HasWords.div (f : IntF) (d a b : SReg) : HasWords.Statement (.div f d a b) := rfl
theorem HasWords.rem (f : IntF) (d a b : SReg) : HasWords.Statement (.rem f d a b) := rfl
theorem HasWords.min (f : IntF) (d a b : SReg) : HasWords.Statement (.min f d a b) := rfl
theorem HasWords.max (f : IntF) (d a b : SReg) : HasWords.Statement (.max f d a b) := rfl
theorem HasWords.slt (f : IntF) (d a b : SReg) : HasWords.Statement (.slt f d a b) := rfl
theorem HasWords.seq (f : IntF) (d a b : SReg) : HasWords.Statement (.seq f d a b) := rfl
theorem HasWords.and (f : IntF) (d a b : SReg) : HasWords.Statement (.and f d a b) := rfl
theorem HasWords.or (f : IntF) (d a b : SReg) : HasWords.Statement (.or f d a b) := rfl
theorem HasWords.xor (f : IntF) (d a b : SReg) : HasWords.Statement (.xor f d a b) := rfl
theorem HasWords.shl (f : IntF) (d a b : SReg) : HasWords.Statement (.shl f d a b) := rfl
theorem HasWords.shr (f : IntF) (d a b : SReg) : HasWords.Statement (.shr f d a b) := rfl
theorem HasWords.sar (f : IntF) (d a b : SReg) : HasWords.Statement (.sar f d a b) := rfl
theorem HasWords.mov (d a : SReg) : HasWords.Statement (.mov d a) := rfl
theorem HasWords.addi (d a : SReg) (imm : BitVec 10) : HasWords.Statement (.addi d a imm) := rfl
theorem HasWords.andi (d a : SReg) (imm : BitVec 10) : HasWords.Statement (.andi d a imm) := rfl
theorem HasWords.ori (d a : SReg) (imm : BitVec 10) : HasWords.Statement (.ori d a imm) := rfl
theorem HasWords.xori (d a : SReg) (imm : BitVec 10) : HasWords.Statement (.xori d a imm) := rfl
theorem HasWords.shli (d a : SReg) (n : BitVec 6) : HasWords.Statement (.shli d a n) := rfl
theorem HasWords.shri (d a : SReg) (n : BitVec 6) : HasWords.Statement (.shri d a n) := rfl
theorem HasWords.sari (d a : SReg) (n : BitVec 6) : HasWords.Statement (.sari d a n) := rfl
theorem HasWords.slti (d a : SReg) (imm : BitVec 10) : HasWords.Statement (.slti d a imm) := rfl
theorem HasWords.movl (d : SReg) (imm : Word) : HasWords.Statement (.movl d imm) := rfl
theorem HasWords.movh (d : SReg) (imm : Word) : HasWords.Statement (.movh d imm) := rfl
theorem HasWords.addl (f : IntF) (d a : SReg) (imm : Word) : HasWords.Statement (.addl f d a imm) := rfl
theorem HasWords.fadd (f : SFmt) (d a b : SReg) : HasWords.Statement (.fadd f d a b) := rfl
theorem HasWords.fsub (f : SFmt) (d a b : SReg) : HasWords.Statement (.fsub f d a b) := rfl
theorem HasWords.fmul (f : SFmt) (d a b : SReg) : HasWords.Statement (.fmul f d a b) := rfl
theorem HasWords.fma (f : SFmt) (d a b : SReg) : HasWords.Statement (.fma f d a b) := rfl
theorem HasWords.fdiv (f : SFmt) (d a b : SReg) : HasWords.Statement (.fdiv f d a b) := rfl
theorem HasWords.fsqrt (f : SFmt) (d a : SReg) : HasWords.Statement (.fsqrt f d a) := rfl
theorem HasWords.fmin (f : SFmt) (d a b : SReg) : HasWords.Statement (.fmin f d a b) := rfl
theorem HasWords.fmax (f : SFmt) (d a b : SReg) : HasWords.Statement (.fmax f d a b) := rfl
theorem HasWords.fcmp (c : FCond) (f : SFmt) (d a b : SReg) : HasWords.Statement (.fcmp c f d a b) := rfl
theorem HasWords.fcvt (k : CvtKind) (d a : SReg) : HasWords.Statement (.fcvt k d a) := rfl
theorem HasWords.br (off : BitVec 22) : HasWords.Statement (.br off) := rfl
theorem HasWords.brc (c : SCond) (a : SReg) (off : Word) : HasWords.Statement (.brc c a off) := rfl
theorem HasWords.brm (c : MCond) (m : MaskOp) (off : Word) : HasWords.Statement (.brm c m off) := rfl
theorem HasWords.call (off : BitVec 22) : HasWords.Statement (.call off) := rfl
theorem HasWords.callr (a : SReg) : HasWords.Statement (.callr a) := rfl
theorem HasWords.ret : HasWords.Statement (.ret) := rfl
theorem HasWords.exit : HasWords.Statement (.exit) := rfl
theorem HasWords.lrun (e : Bool) (n : LrunCount) (k : Word) : HasWords.Statement (.lrun e n k) := rfl
theorem HasWords.mmov (d a : MaskOp) : HasWords.Statement (.mmov d a) := rfl
theorem HasWords.mand (d a b : MaskOp) : HasWords.Statement (.mand d a b) := rfl
theorem HasWords.mor (d a b : MaskOp) : HasWords.Statement (.mor d a b) := rfl
theorem HasWords.mxor (d a b : MaskOp) : HasWords.Statement (.mxor d a b) := rfl
theorem HasWords.mandn (d a b : MaskOp) : HasWords.Statement (.mandn d a b) := rfl
theorem HasWords.mcnt (d : BitVec 5) (a : MaskOp) : HasWords.Statement (.mcnt d a) := rfl
theorem HasWords.join (a : MaskOp) : HasWords.Statement (.join a) := rfl
theorem HasWords.region (idx : Word) : HasWords.Statement (.region idx) := rfl
theorem HasWords.ld (sz : MemSize) (sx sp : Bool) (d a : SReg) (off : Word) : HasWords.Statement (.ld sz sx sp d a off) := rfl
theorem HasWords.st (sz : MemSize) (sp : Bool) (d a : SReg) (off : Word) : HasWords.Statement (.st sz sp d a off) := rfl
theorem HasWords.atom (op : AtomOp) (wide sp : Bool) (d a : SReg) (off : Word) : HasWords.Statement (.atom op wide sp d a off) := rfl
theorem HasWords.srd (d : SReg) (n : SpecialReg) : HasWords.Statement (.srd d n) := rfl
theorem HasWords.swr (n : SpecialReg) (a : SReg) : HasWords.Statement (.swr n a) := rfl
theorem HasWords.bara (level : BitVec 3) (n : BitVec 4) : HasWords.Statement (.bara level n) := rfl
theorem HasWords.barw (d : SReg) (level : BitVec 3) (n : BitVec 4) : HasWords.Statement (.barw d level n) := rfl
theorem HasWords.bar (d : SReg) (level : BitVec 3) (n : BitVec 4) : HasWords.Statement (.bar d level n) := rfl
theorem HasWords.efence : HasWords.Statement (.efence) := rfl
theorem HasWords.mfence (x y : PathClass) (sc : Scope) : HasWords.Statement (.mfence x y sc) := rfl
theorem HasWords.arm (sp : Bool) (a b : SReg) : HasWords.Statement (.arm sp a b) := rfl
theorem HasWords.waitm : HasWords.Statement (.waitm) := rfl
theorem HasWords.yield (off : BitVec 22) : HasWords.Statement (.yield off) := rfl
theorem HasWords.schunk (d a : SReg) (minc : Word) : HasWords.Statement (.schunk d a minc) := rfl
theorem HasWords.ringp (k : BitVec 3) : HasWords.Statement (.ringp k) := rfl
theorem HasWords.ringg (k : BitVec 3) : HasWords.Statement (.ringg k) := rfl
theorem HasWords.qcfg (q : BitVec 3) (a : SReg) (cap : Word) : HasWords.Statement (.qcfg q a cap) := rfl
theorem HasWords.stcfg (n : BitVec 3) (a : SReg) : HasWords.Statement (.stcfg n a) := rfl
theorem HasWords.sgrow (b : BitVec 10) : HasWords.Statement (.sgrow b) := rfl
theorem HasWords.sshrink (b : BitVec 10) : HasWords.Statement (.sshrink b) := rfl
theorem HasWords.sysrd (d : SReg) (n : SysReg) : HasWords.Statement (.sysrd d n) := rfl
theorem HasWords.syswr (n : SysReg) (a : SReg) : HasWords.Statement (.syswr n a) := rfl
theorem HasWords.eret : HasWords.Statement (.eret) := rfl
theorem HasWords.l1inv (all : Bool) (a : SReg) : HasWords.Statement (.l1inv all a) := rfl
theorem HasWords.park (d a : SReg) : HasWords.Statement (.park d a) := rfl
theorem HasWords.unpark (d a : SReg) : HasWords.Statement (.unpark d a) := rfl
theorem HasWords.halt (d a : SReg) : HasWords.Statement (.halt d a) := rfl
theorem HasWords.resume (d a : SReg) : HasWords.Statement (.resume d a) := rfl
theorem HasWords.ctxsv (d a b : SReg) : HasWords.Statement (.ctxsv d a b) := rfl
theorem HasWords.ctxld (d a b : SReg) : HasWords.Statement (.ctxld d a b) := rfl
theorem HasWords.preempt (d a b : SReg) : HasWords.Statement (.preempt d a b) := rfl
theorem HasWords.semacq (d a b : SReg) : HasWords.Statement (.semacq d a b) := rfl
theorem HasWords.semrel (d a : SReg) : HasWords.Statement (.semrel d a) := rfl
theorem HasWords.svc (code : BitVec 10) : HasWords.Statement (.svc code) := rfl
theorem HasWords.tlbiv (a b : SReg) : HasWords.Statement (.tlbiv a b) := rfl
theorem HasWords.tlbia (all : Bool) (a : SReg) : HasWords.Statement (.tlbia all a) := rfl
theorem HasWords.vadd (o : LaneOp) : HasWords.Statement (.vadd o) := rfl
theorem HasWords.vsub (o : LaneOp) : HasWords.Statement (.vsub o) := rfl
theorem HasWords.vmul (o : LaneOp) : HasWords.Statement (.vmul o) := rfl
theorem HasWords.vmulh (o : LaneOp) : HasWords.Statement (.vmulh o) := rfl
theorem HasWords.vmad (o : LaneOp) : HasWords.Statement (.vmad o) := rfl
theorem HasWords.vmin (o : LaneOp) : HasWords.Statement (.vmin o) := rfl
theorem HasWords.vmax (o : LaneOp) : HasWords.Statement (.vmax o) := rfl
theorem HasWords.vshl (o : LaneOp) : HasWords.Statement (.vshl o) := rfl
theorem HasWords.vshr (o : LaneOp) : HasWords.Statement (.vshr o) := rfl
theorem HasWords.vsar (o : LaneOp) : HasWords.Statement (.vsar o) := rfl
theorem HasWords.vand (o : LaneOp) : HasWords.Statement (.vand o) := rfl
theorem HasWords.vor (o : LaneOp) : HasWords.Statement (.vor o) := rfl
theorem HasWords.vxor (o : LaneOp) : HasWords.Statement (.vxor o) := rfl
theorem HasWords.vlop3 (o : LaneOp) : HasWords.Statement (.vlop3 o) := rfl
theorem HasWords.vbfe (o : LaneOp) : HasWords.Statement (.vbfe o) := rfl
theorem HasWords.vbfi (o : LaneOp) : HasWords.Statement (.vbfi o) := rfl
theorem HasWords.vpopc (o : LaneOp) : HasWords.Statement (.vpopc o) := rfl
theorem HasWords.vclz (o : LaneOp) : HasWords.Statement (.vclz o) := rfl
theorem HasWords.vsel (o : LaneOp) : HasWords.Statement (.vsel o) := rfl
theorem HasWords.vmov (o : LaneOp) : HasWords.Statement (.vmov o) := rfl
theorem HasWords.vmovi (h : LaneHdr) (d : Dst) (imm : Word) : HasWords.Statement (.vmovi h d imm) := rfl
theorem HasWords.vcmp (o : LaneOp) : HasWords.Statement (.vcmp o) := rfl
theorem HasWords.vfadd (o : LaneOp) : HasWords.Statement (.vfadd o) := rfl
theorem HasWords.vfsub (o : LaneOp) : HasWords.Statement (.vfsub o) := rfl
theorem HasWords.vfmul (o : LaneOp) : HasWords.Statement (.vfmul o) := rfl
theorem HasWords.vfma (o : LaneOp) : HasWords.Statement (.vfma o) := rfl
theorem HasWords.vfmin (o : LaneOp) : HasWords.Statement (.vfmin o) := rfl
theorem HasWords.vfmax (o : LaneOp) : HasWords.Statement (.vfmax o) := rfl
theorem HasWords.vfcmp (o : LaneOp) : HasWords.Statement (.vfcmp o) := rfl
theorem HasWords.vfclass (o : LaneOp) : HasWords.Statement (.vfclass o) := rfl
theorem HasWords.vrcp (o : LaneOp) : HasWords.Statement (.vrcp o) := rfl
theorem HasWords.vrsq (o : LaneOp) : HasWords.Statement (.vrsq o) := rfl
theorem HasWords.vsqrt (o : LaneOp) : HasWords.Statement (.vsqrt o) := rfl
theorem HasWords.vexp2 (o : LaneOp) : HasWords.Statement (.vexp2 o) := rfl
theorem HasWords.vlog2 (o : LaneOp) : HasWords.Statement (.vlog2 o) := rfl
theorem HasWords.vsin (o : LaneOp) : HasWords.Statement (.vsin o) := rfl
theorem HasWords.vcos (o : LaneOp) : HasWords.Statement (.vcos o) := rfl
theorem HasWords.vcvt (o : LaneOp) : HasWords.Statement (.vcvt o) := rfl
theorem HasWords.vpack (o : LaneOp) : HasWords.Statement (.vpack o) := rfl
theorem HasWords.vunpk (o : LaneOp) : HasWords.Statement (.vunpk o) := rfl
theorem HasWords.vqntScl (o : LaneOp) : HasWords.Statement (.vqntScl o) := rfl
theorem HasWords.vqnt (o : LaneOp) : HasWords.Statement (.vqnt o) := rfl
theorem HasWords.vdqnt (o : LaneOp) : HasWords.Statement (.vdqnt o) := rfl
theorem HasWords.vdot4 (o : LaneOp) : HasWords.Statement (.vdot4 o) := rfl
theorem HasWords.vdot8 (o : LaneOp) : HasWords.Statement (.vdot8 o) := rfl
theorem HasWords.vshfl (o : LaneOp) : HasWords.Statement (.vshfl o) := rfl
theorem HasWords.vbcst (o : LaneOp) : HasWords.Statement (.vbcst o) := rfl
theorem HasWords.vred (o : LaneOp) : HasWords.Statement (.vred o) := rfl
theorem HasWords.vscan (o : LaneOp) : HasWords.Statement (.vscan o) := rfl
theorem HasWords.vbalt (o : LaneOp) : HasWords.Statement (.vbalt o) := rfl
theorem HasWords.vtos (o : LaneOp) : HasWords.Statement (.vtos o) := rfl
theorem HasWords.vlsr (o : LaneOp) : HasWords.Statement (.vlsr o) := rfl
theorem HasWords.vld (o : LaneOp) : HasWords.Statement (.vld o) := rfl
theorem HasWords.vst (o : LaneOp) : HasWords.Statement (.vst o) := rfl
theorem HasWords.vlds (o : LaneOp) : HasWords.Statement (.vlds o) := rfl
theorem HasWords.vsts (o : LaneOp) : HasWords.Statement (.vsts o) := rfl
theorem HasWords.vldlk (o : LaneOp) : HasWords.Statement (.vldlk o) := rfl
theorem HasWords.vstul (o : LaneOp) : HasWords.Statement (.vstul o) := rfl
theorem HasWords.vatom (o : LaneOp) : HasWords.Statement (.vatom o) := rfl
theorem HasWords.vfatom (o : LaneOp) : HasWords.Statement (.vfatom o) := rfl
theorem HasWords.vldu (o : LaneOp) : HasWords.Statement (.vldu o) := rfl
theorem HasWords.vpref (o : LaneOp) : HasWords.Statement (.vpref o) := rfl
theorem HasWords.vseti (h : LaneHdr) (n : BitVec 2) (v : SetSrc) : HasWords.Statement (.vseti h n v) := rfl
theorem HasWords.vinci (h : LaneHdr) (n : BitVec 2) (v : IncSrc) : HasWords.Statement (.vinci h n v) := rfl
theorem HasWords.vdraw (o : LaneOp) : HasWords.Statement (.vdraw o) := rfl
theorem HasWords.voutcome (o : LaneOp) : HasWords.Statement (.voutcome o) := rfl
theorem HasWords.vcall (o : LaneOp) : HasWords.Statement (.vcall o) := rfl
theorem HasWords.vret (o : LaneOp) : HasWords.Statement (.vret o) := rfl
theorem HasWords.vordb (o : LaneOp) : HasWords.Statement (.vordb o) := rfl
theorem HasWords.vorde (o : LaneOp) : HasWords.Statement (.vorde o) := rfl
theorem HasWords.vmcnt (o : LaneOp) : HasWords.Statement (.vmcnt o) := rfl
theorem HasWords.vmvtx (o : LaneOp) : HasWords.Statement (.vmvtx o) := rfl
theorem HasWords.vmprim (o : LaneOp) : HasWords.Statement (.vmprim o) := rfl
theorem HasWords.vexit (o : LaneOp) : HasWords.Statement (.vexit o) := rfl
theorem HasWords.tld (o : LaneOp) : HasWords.Statement (.tld o) := rfl
theorem HasWords.tst (o : LaneOp) : HasWords.Statement (.tst o) := rfl
theorem HasWords.tzero (o : LaneOp) : HasWords.Statement (.tzero o) := rfl
theorem HasWords.tmma (o : LaneOp) : HasWords.Statement (.tmma o) := rfl
theorem HasWords.tmmas (o : LaneOp) : HasWords.Statement (.tmmas o) := rfl
theorem HasWords.ttov (o : LaneOp) : HasWords.Statement (.ttov o) := rfl
theorem HasWords.vtot (o : LaneOp) : HasWords.Statement (.vtot o) := rfl
theorem HasWords.atov (o : LaneOp) : HasWords.Statement (.atov o) := rfl
theorem HasWords.vtoa (o : LaneOp) : HasWords.Statement (.vtoa o) := rfl
theorem HasWords.stage (o : LaneOp) : HasWords.Statement (.stage o) := rfl
theorem HasWords.cpyred (o : LaneOp) : HasWords.Statement (.cpyred o) := rfl
theorem HasWords.cpynet (o : LaneOp) : HasWords.Statement (.cpynet o) := rfl
theorem HasWords.rtrace (o : LaneOp) : HasWords.Statement (.rtrace o) := rfl
theorem HasWords.rtraceShade (o : LaneOp) : HasWords.Statement (.rtraceShade o) := rfl
theorem HasWords.replay (o : LaneOp) : HasWords.Statement (.replay o) := rfl
theorem HasWords.rres (o : LaneOp) : HasWords.Statement (.rres o) := rfl
theorem HasWords.traversalStep (ray core : Nat) : HasWords.Statement (.traversalStep ray core) := rfl
theorem HasWords.rayResume (ray core : Nat) : HasWords.Statement (.rayResume ray core) := rfl
theorem HasWords.callbackResume (ray : Nat) : HasWords.Statement (.callbackResume ray) := rfl
theorem HasWords.rayCount (ray : Nat) : HasWords.Statement (.rayCount ray) := rfl
theorem HasWords.hitDelivery (ray : Nat) : HasWords.Statement (.hitDelivery ray) := rfl
theorem HasWords.issue (u : IssueUnit) (soft : Option Word) : HasWords.Statement (.issue u soft) := rfl
theorem HasWords.promotion (g : Nat) : HasWords.Statement (.promotion g) := rfl
theorem HasWords.storePerformed (g n : Nat) : HasWords.Statement (.storePerformed g n) := rfl
theorem HasWords.longLatencyWrite (a : Agent) (n : Nat) : HasWords.Statement (.longLatencyWrite a n) := rfl
theorem HasWords.atomicRequest (u n : Nat) : HasWords.Statement (.atomicRequest u n) := rfl
theorem HasWords.orderGate (u n : Nat) : HasWords.Statement (.orderGate u n) := rfl
theorem HasWords.vldlkRetry (g : Nat) : HasWords.Statement (.vldlkRetry g) := rfl
theorem HasWords.monitorFire (a : Agent) : HasWords.Statement (.monitorFire a) := rfl
theorem HasWords.swageHoldExpiry (t key : Nat) : HasWords.Statement (.swageHoldExpiry t key) := rfl
theorem HasWords.swageGroupFormation (t key : Nat) : HasWords.Statement (.swageGroupFormation t key) := rfl
theorem HasWords.registerGrant (core : Nat) : HasWords.Statement (.registerGrant core) := rfl
theorem HasWords.sgrowDeadlockPreempt (core : Nat) : HasWords.Statement (.sgrowDeadlockPreempt core) := rfl
theorem HasWords.quarantineRelease (core n : Nat) : HasWords.Statement (.quarantineRelease core n) := rfl
theorem HasWords.anvilCommandComplete (g : Nat) : HasWords.Statement (.anvilCommandComplete g) := rfl
theorem HasWords.gatedCommandStart (g : Nat) : HasWords.Statement (.gatedCommandStart g) := rfl
theorem HasWords.barrierArrival (n : Nat) : HasWords.Statement (.barrierArrival n) := rfl
theorem HasWords.barrierNotice (n : Nat) : HasWords.Statement (.barrierNotice n) := rfl
theorem HasWords.copyComplete (t n : Nat) : HasWords.Statement (.copyComplete t n) := rfl
theorem HasWords.copyFault (t n : Nat) (e : CopyErr) : HasWords.Statement (.copyFault t n e) := rfl
theorem HasWords.reductionApply (l r : Nat) : HasWords.Statement (.reductionApply l r) := rfl
theorem HasWords.cpynetTransmit (t n : Nat) : HasWords.Statement (.cpynetTransmit t n) := rfl
theorem HasWords.cpynetConfirm (t n : Nat) : HasWords.Statement (.cpynetConfirm t n) := rfl
theorem HasWords.cpynetFail (t n : Nat) : HasWords.Statement (.cpynetFail t n) := rfl
theorem HasWords.rmaWriteReceive (job : BitVec 24) (addr : DWord) (data : List Byte) : HasWords.Statement (.rmaWriteReceive job addr data) := rfl
theorem HasWords.duskRelaunch (n : Nat) : HasWords.Statement (.duskRelaunch n) := rfl
theorem HasWords.resultWord (n i : Nat) : HasWords.Statement (.resultWord n i) := rfl
theorem HasWords.quench (l : Nat) : HasWords.Statement (.quench l) := rfl
theorem HasWords.queueDispatch (c q : Nat) : HasWords.Statement (.queueDispatch c q) := rfl
theorem HasWords.teamPlacement (l core : Nat) : HasWords.Statement (.teamPlacement l core) := rfl
theorem HasWords.launchComplete (l : Nat) : HasWords.Statement (.launchComplete l) := rfl
theorem HasWords.pageWalk (die n : Nat) : HasWords.Statement (.pageWalk die n) := rfl
theorem HasWords.faultRecord (n : Nat) : HasWords.Statement (.faultRecord n) := rfl
theorem HasWords.handlerEntry (t : Nat) : HasWords.Statement (.handlerEntry t) := rfl
theorem HasWords.orderStall (g : Nat) : HasWords.Statement (.orderStall g) := rfl
theorem HasWords.meshOutputClassify (t : Nat) (tris : List TriInfo) : HasWords.Statement (.meshOutputClassify t tris) := rfl
theorem HasWords.fragmentQuadEmit (l : Nat) (f : FragQuad) : HasWords.Statement (.fragmentQuadEmit l f) := rfl
theorem HasWords.pixelTeamForm (l core : Nat) : HasWords.Statement (.pixelTeamForm l core) := rfl
theorem HasWords.sample (core sch : Nat) : HasWords.Statement (.sample core sch) := rfl
theorem HasWords.teamStop (t : Nat) : HasWords.Statement (.teamStop t) := rfl
theorem HasWords.relockComplete (die d : Nat) : HasWords.Statement (.relockComplete die d) := rfl
theorem HasWords.leaseExpired (slot : Nat) : HasWords.Statement (.leaseExpired slot) := rfl
theorem HasWords.ptpEventMessage (port die : Nat) (ppm : Int) : HasWords.Statement (.ptpEventMessage port die ppm) := rfl
theorem HasWords.poolError (port kind : BitVec 4) (dpa : BitVec 56) (v : PoolVictim) : HasWords.Statement (.poolError port kind dpa v) := rfl
theorem HasWords.linkDown (port : BitVec 4) : HasWords.Statement (.linkDown port) := rfl
theorem HasWords.corrected (src : Word) (count : Word) (mem : Byte) : HasWords.Statement (.corrected src count mem) := rfl
theorem HasWords.hearthPatrolScrub (die : Nat) : HasWords.Statement (.hearthPatrolScrub die) := rfl
theorem HasWords.power (watts : BitVec 16) (die : BitVec 2) (mhz : Nat) : HasWords.Statement (.power watts die mhz) := rfl
theorem HasWords.thermalTrip (die : Nat) : HasWords.Statement (.thermalTrip die) := rfl
theorem HasWords.boot : HasWords.Statement (.boot) := rfl
theorem HasWords.ring (q : Req) : HasWords.Statement (.ring q) := rfl
theorem HasWords.resolve (q : Req) : HasWords.Statement (.resolve q) := rfl
theorem HasWords.unparkCmd (q : Req) : HasWords.Statement (.unparkCmd q) := rfl
theorem HasWords.killteam (q : Req) : HasWords.Statement (.killteam q) := rfl
theorem HasWords.killlaunch (q : Req) : HasWords.Statement (.killlaunch q) := rfl
theorem HasWords.switch (q : Req) : HasWords.Statement (.switch q) := rfl
theorem HasWords.preemptvf (q : Req) : HasWords.Statement (.preemptvf q) := rfl
theorem HasWords.haltsvc (q : Req) : HasWords.Statement (.haltsvc q) := rfl
theorem HasWords.resumesvc (q : Req) : HasWords.Statement (.resumesvc q) := rfl
theorem HasWords.trace (q : Req) : HasWords.Statement (.trace q) := rfl
theorem HasWords.rrset (q : Req) : HasWords.Statement (.rrset q) := rfl
theorem HasWords.profopen (q : Req) : HasWords.Statement (.profopen q) := rfl
theorem HasWords.profread (q : Req) : HasWords.Statement (.profread q) := rfl
theorem HasWords.profclose (q : Req) : HasWords.Statement (.profclose q) := rfl
theorem HasWords.clkset (q : Req) : HasWords.Statement (.clkset q) := rfl
theorem HasWords.partcfg (q : Req) : HasWords.Statement (.partcfg q) := rfl
theorem HasWords.hearthcfg (q : Req) : HasWords.Statement (.hearthcfg q) := rfl
theorem HasWords.poolcfg (q : Req) : HasWords.Statement (.poolcfg q) := rfl
theorem HasWords.peerset (q : Req) : HasWords.Statement (.peerset q) := rfl
theorem HasWords.netadmit (q : Req) : HasWords.Statement (.netadmit q) := rfl
theorem HasWords.asidset (q : Req) : HasWords.Statement (.asidset q) := rfl
theorem HasWords.ctxcreate (q : Req) : HasWords.Statement (.ctxcreate q) := rfl
theorem HasWords.featneg (q : Req) : HasWords.Statement (.featneg q) := rfl
theorem HasWords.attest (q : Req) : HasWords.Statement (.attest q) := rfl
theorem HasWords.imgstage (q : Req) : HasWords.Statement (.imgstage q) := rfl
theorem HasWords.powercap (q : Req) : HasWords.Statement (.powercap q) := rfl
theorem HasWords.lease (q : Req) : HasWords.Statement (.lease q) := rfl
theorem HasWords.unlease (q : Req) : HasWords.Statement (.unlease q) := rfl
theorem HasWords.unknownServiceCommand (q : Req) : HasWords.Statement (.unknownServiceCommand q) := rfl
theorem HasWords.ringHeadAdvance (r : RingId) (head : Word) : HasWords.Statement (.ringHeadAdvance r head) := rfl
theorem HasWords.linkStateChange (cxl : Bool) (port : BitVec 4) (st : LinkState) : HasWords.Statement (.linkStateChange cxl port st) := rfl

end Sys2Proof.Laws
end

