-- ==== Sys2Proof/Laws/Service.lean ====
section
/-! SUPPORT. The registers of service threads keep the layout of R329: entering a handler, returning, and writing a system
register. -/

namespace Sys2Proof.Machine

/-- A test that every value of a table passes, a record put into it passing too. -/
theorem Tab.all_put {α : Type} {t : Tab α} {p : α → Bool} (n : Nat) {x : α} (h : (t.all fun (_, v) => p v) = true) (hx : p x = true) :
    ((Tab.put t n x).all fun (_, v) => p v) = true := by
  rw [List.all_eq_true] at h ⊢
  intro e he
  rcases Tab.mem_ins he with rfl | he
  · exact hx
  · exact h _ (Tab.mem_del he).1

theorem Tab.all_look {α : Type} {t : Tab α} {p : α → Bool} {n : Nat} {x : α} (h : (t.all fun (_, v) => p v) = true)
    (hl : Tab.look t n = some x) : p x = true := by
  induction t with
  | nil => cases hl
  | cons e t ih =>
    obtain ⟨k, v⟩ := e
    simp only [List.all_cons, Bool.and_eq_true] at h
    unfold Tab.look at hl
    split at hl
    · cases hl; exact h.1
    · exact ih h.2 hl

/-- A thread of a state whose service registers are as R329 lays them out. -/
theorem State.svc_legal {s : State} (h : s.svcOk = true) (t : Nat) : (s.svc t).legal = true := by
  unfold State.svc Tab.get
  cases hl : Tab.look s.svcs t with
  | none => decide
  | some v => exact Tab.all_look h hl

theorem State.setSvc_svcOk {s : State} (t : Nat) {v : Svc} (h : s.svcOk = true) (hv : v.legal = true) : (s.setSvc t v).svcOk = true :=
  Tab.all_put t h hv

theorem State.svcOk_of_svcs {s t : State} (h : t.svcs = s.svcs) (hs : s.svcOk = true) : t.svcOk = true := by
  simpa [State.svcOk, h] using hs

/-- Only the status, the cause and the handler's address matter. -/
theorem Svc.legal_of {v w : Svc} (h : v.legal = true) (h1 : w.sstat &&& sstatReserved = 0) (h2 : w.ecause.toNat < 2 ^ 27)
    (h3 : w.svec = v.svec) : w.legal = true := by
  unfold Svc.legal at *
  simp only [Bool.and_eq_true, decide_eq_true_eq, beq_iff_eq] at *
  exact ⟨⟨h1, h2⟩, by rw [h3]; exact h.2⟩

theorem Svc.legal_sstat {v : Svc} (h : v.legal = true) : v.sstat &&& sstatReserved = 0 := by
  unfold Svc.legal at h; simp only [Bool.and_eq_true, beq_iff_eq] at h; exact h.1.1

theorem Svc.legal_ecause {v : Svc} (h : v.legal = true) : v.ecause.toNat < 2 ^ 27 := by
  unfold Svc.legal at h; simp only [Bool.and_eq_true, decide_eq_true_eq] at h; exact h.1.2

theorem and_or_zero {a b m : DWord} (ha : a &&& m = 0) (hb : b &&& m = 0) : (a ||| b) &&& m = 0 := by
  rw [BitVec.and_comm, BitVec.and_or_distrib_left, BitVec.and_comm m a, BitVec.and_comm m b, ha, hb]; rfl

theorem and_and_zero {a m : DWord} (k : DWord) (ha : a &&& m = 0) : (a &&& k) &&& m = 0 := by
  rw [BitVec.and_assoc, BitVec.and_comm k m, ← BitVec.and_assoc, ha]; simp

/-- Entering a handler. -/
theorem Svc.enter_legal {v : Svc} (h : v.legal = true) (epc einfo : DWord) {cause : DWord} (hc : cause.toNat < 2 ^ 27) :
    (v.enter epc cause einfo).legal = true := by
  refine Svc.legal_of h ?_ hc rfl
  have h0 := Svc.legal_sstat h
  unfold Svc.enter
  refine and_or_zero (and_or_zero (and_or_zero (and_and_zero _ h0) ?_) ?_) (by decide)
  · split <;> decide
  · split <;> decide

/-- ERET. -/
theorem Svc.eret_legal {v : Svc} (h : v.legal = true) : v.eret.legal = true := by
  refine Svc.legal_of h ?_ (Svc.legal_ecause (v := v) h) rfl
  unfold Svc.eret
  refine and_or_zero (and_or_zero (and_and_zero _ (Svc.legal_sstat h)) ?_) ?_
  · split <;> decide
  · split <;> decide

/-- SYSWR. -/
theorem Svc.sysWrite_legal {v : Svc} (h : v.legal = true) (n : SysReg) (x : DWord) : (v.sysWrite n x).legal = true := by
  cases n
  case sstat =>
    refine Svc.legal_of h ?_ (Svc.legal_ecause (v := v) h) rfl
    refine and_or_zero (and_and_zero _ (Svc.legal_sstat h)) ?_
    rw [BitVec.and_assoc]
    have : ∀ b, sstatMask b &&& sstatReserved = 0 := by decide
    rw [this]; simp
  case ecause =>
    refine Svc.legal_of h (Svc.legal_sstat (v := v) h) ?_ rfl
    show (x &&& 0x7FFFFFF).toNat < 2 ^ 27
    rw [BitVec.toNat_and]
    exact lt_of_le_of_lt Nat.and_le_right (by decide)
  case svec =>
    have h1 := Svc.legal_sstat h
    have h2 := Svc.legal_ecause h
    unfold Svc.legal Svc.sysWrite
    simp only [Bool.and_eq_true, decide_eq_true_eq, beq_iff_eq]
    refine ⟨⟨h1, h2⟩, ?_⟩
    have h3 : (x &&& ~~~7#64) &&& 7#64 = 0 := by
      rw [BitVec.and_assoc]; have : (~~~7#64 &&& 7#64) = 0 := by decide
      rw [this]; simp
    have h4 := congrArg BitVec.toNat h3
    rw [BitVec.toNat_and] at h4
    have h5 : (7#64).toNat = 2 ^ 3 - 1 := by decide
    rw [h5, Nat.and_two_pow_sub_one_eq_mod] at h4
    exact h4
  all_goals exact Svc.legal_of h (Svc.legal_sstat h) (Svc.legal_ecause (v := v) h) rfl

end Sys2Proof.Machine
end

