-- ==== Sys2Proof/Tests/Slice0.lean ====
section
/-! SUPPORT. Tests: well-formedness, decoding of words written out from the spec's encodings, and, for the statements of the
certificate, states and operands that meet the hypotheses of each of their clauses. -/

open Sys2Proof Sys2Proof.Machine

namespace Sys2Proof.Tests

set_option Elab.async false

/-! ### Small states -/

/-- Team 0 of launch 1, and its group 0. -/
def T : Nat := teamKey 1 0
def G : Nat := groupKey T 0

/-- A thread with these registers at 0x10000, every lane active. -/
def thr (rs : Tab DWord) : Thread := { Thread.zero with sregs := rs, pcs := 0x10000, em := 0xFFFFFFFF }

/-- One page table: root at 0x10000, one leaf of 2^36 bytes that maps the lowest addresses to themselves, every right. -/
def pages (s : State) : State :=
  { s with asids := [(0, 0x10010)], decoders := (List.range 16).map fun p => (8 * p, ⟨0, 0, 2 ^ 44, 0, 0⟩),
           mem := [(0x10000, 1), (0x10001, 0x40), (0x10002, 1), (0x14000, 0x1F), (0x14001, 0x3F)] }

/-- Service thread 0 at hand, with `sstat` and registers. -/
def svcS (st : DWord) (rs : Tab DWord) : State :=
  pages { State.reset with svcs := [(0, { Svc.zero with thr := thr rs, sstat := st, stopped := false })], cur := .svc 0 }

/-- Group 0 of a running team of launch 1 at hand, on core 0 with that page in its TLB, in an open region. -/
def grpS (rs : Tab DWord) (f : Group → Group) : State :=
  pages { State.reset with
    cores := [(0, { Core.zero with tlb := [⟨0, 0, 0, 2 ^ 22, 0x3F1F⟩], used := 15 })]
    groups := [(G, f { Group.zero with team := T, thr := thr rs, blocks := 15,
                                       reg := { Region.zero with opened := true, entry := 0x10000 } })]
    teams := [(T, { Team.zero with launch := 1, st := .running, groups := [(0, G)], size := 0x10000 })]
    launches := [(1, { Launch.zero with lr := { LRec.zero with llen := 16, lbase := 0x20000, sbase := 0x10000, slen := 64 } })]
    ctxs := [(0, Ctx.zero)], cur := .group G }

/-- A state with a change to its launch, or to its team. -/
def withL (s : State) (f : Launch → Launch) : State := s.modLaunch 1 f
def withT (s : State) (f : Team → Team) : State := s.modTeam T f

theorem upset_of {t : Tab Group} (g : Nat) (h : ∀ e ∈ t, e.2.upset = []) : (Tab.get Group.zero t g).upset = [] := by
  unfold Tab.get
  induction t with
  | nil => rfl
  | cons e t ih =>
    obtain ⟨k, v⟩ := e
    unfold Tab.look
    split
    · exact h (k, v) (by simp)
    · exact ih fun e he => h e (by simp [he])

theorem ready_of {s : State} {r w : List Nat}
    (h : (s.cur != .none && !s.readsAtomDst r && (r ++ w).all s.thr.full && s.groups.all fun e => e.2.upset == []) = true) :
    Claim.Ready s r w := by
  simp only [Bool.and_eq_true, bne_iff_ne, Bool.not_eq_true', List.all_eq_true, beq_iff_eq] at h
  exact ⟨h.1.1.1, h.1.1.2, h.1.2, fun g _ => upset_of g h.2⟩

theorem access_of {s : State} {g : Nat} (h : (s.cur == .group g && !(s.group g).reg.atom) = true) : Claim.MayAccess s g := by
  simp only [Bool.and_eq_true, beq_iff_eq, Bool.not_eq_true'] at h
  exact ⟨h.1, h.2⟩

theorem lane_of {s : State} {g : Nat} {h : LaneHdr} {cls : LaneClass} {us : Word → List Use} {p : Option Put}
    (e : (s.cur == .group g && roleOk (s.roleOf g) cls &&
      (s.operandTrap g (Claim.lanes s g h) (us (Claim.lanes s g h)) p).orElse (s.operandWait g (Claim.lanes s g h) (us (Claim.lanes s g h)) p) == .ok &&
      s.useMismatch g (Claim.lanes s g h) (us (Claim.lanes s g h)) p == none) = true) : Claim.LaneReady s g h cls us p := by
  simp only [Bool.and_eq_true, beq_iff_eq] at e
  exact ⟨e.1.1.1, e.1.1.2, e.1.2, e.2⟩

/-! ### Scalar arithmetic and control -/

def i64 : IntF := ⟨false, false⟩
def sA : State := svcS 0x31 [(1, 5), (2, 7), (63, 0x100)]
def gA : State := grpS [(1, 5), (2, 7), (63, 0x101)] id

theorem wit_IntegerResults : (Claim.Ready sA [(1 : SReg).toNat, (2 : SReg).toNat] [(3 : SReg).toNat] ∧ sA.thr.pfx = none ∧
    Claim.num i64 (sA.thr.rd 2) ≠ 0) ∧ Claim.Ready gA [1, 2] [0] :=
  ⟨⟨ready_of (by decide +kernel), by decide +kernel, by decide +kernel⟩, ready_of (by decide +kernel)⟩

/-- R183: a zero divisor, and the most negative number by -1. -/
def sDiv : State := svcS 0x31 [(1, 0x8000000000000000), (2, 0xFFFFFFFFFFFFFFFF)]
theorem wit_DivisionCorners : (Claim.Ready sDiv [1, 0] [3] ∧ sDiv.thr.pfx = none ∧ Claim.num i64 (sDiv.thr.rd 0) = 0) ∧
    Claim.Ready sDiv [1, 2] [3] ∧ Claim.num i64 (sDiv.thr.rd 1) = -(2 ^ (Claim.width i64 - 1) : Int) ∧ Claim.num i64 (sDiv.thr.rd 2) = -1 :=
  ⟨⟨ready_of (by decide +kernel), by decide +kernel, by decide +kernel⟩, ready_of (by decide +kernel), by decide +kernel, by decide +kernel⟩

theorem wit_ImmediateResults : Claim.Ready sA [1] [3] ∧ Claim.Ready sA [] [3] ∧ Claim.Ready sA [3] [3] :=
  ⟨ready_of (by decide +kernel), ready_of (by decide +kernel), ready_of (by decide +kernel)⟩

/-- F32: 1.0, +∞, a quiet and a signalling NaN. -/
def sF : State := svcS 0x31 [(1, 0x3F800000), (2, 0x7F800000), (3, 0x7FC00000), (4, 0x7F800001)]
def p (k : Nat) : Nat := Claim.low .f32 (sF.thr.rd k)
theorem wit_FloatResults : Claim.Ready sF [1, 2] [3] ∧ sF.readsAtomDst [3] = false ∧ sF.thr.pfx = none ∧
    Claim.isSignalling .f32 (p 4) ∧ (¬Claim.isSignalling .f32 (p 3) ∧ Claim.isNan .f32 (p 3)) ∧
    (¬Claim.isNan .f32 (p 1) ∧ ¬Claim.isNan .f32 (p 2) ∧ Claim.rank .f32 (p 1) ≤ Claim.rank .f32 (p 2)) ∧
    Claim.Ready sF [3, 4] [1] ∧ Claim.Ready sF [3, 3] [1] ∧ Claim.Ready sF [1, 3] [5] :=
  ⟨ready_of (by decide +kernel), by decide +kernel, by decide +kernel, by unfold Claim.isSignalling Claim.isNan; decide +kernel,
   by unfold Claim.isSignalling Claim.isNan; decide +kernel, by unfold Claim.isNan; decide +kernel,
   ready_of (by decide +kernel), ready_of (by decide +kernel), ready_of (by decide +kernel)⟩

def withPfx (s : State) (r : Rnd) : State := s.modThr fun t => { t with pfx := some ⟨true, false, r⟩ }
def sCv (x : DWord) (r : Rnd) : State := withPfx (svcS 0x31 [(1, x)]) r
theorem wit_ConversionResults : ∀ e ∈ [((0x40200000 : DWord), Rnd.rne), (0x40200000, .rna), (0xC0200000, .rup), (0x4F32D05E, .rne), (0x7FC00000, .rne)],
    Claim.Ready (sCv e.1 e.2) [1] [3] ∧ (sCv e.1 e.2).thr.opts.sat = false ∧ (((sCv e.1 e.2).thr.rd 1).setWidth 32 : Word) = e.1.setWidth 32 ∧
      (sCv e.1 e.2).thr.opts.rnd = e.2 := by
  intro e he
  refine ⟨ready_of ?_, ?_⟩ <;> revert e <;> decide +kernel

/-- Every float format's largest magnitude. -/
theorem wit_EncodingsRoundToThemselves : ∀ f ∈ [Fmt.f32, .f16, .b16, .e4m3, .e5m2, .e2m1], Fmt.isFloat f = true ∧
    maxEnc f < 2 ^ Fmt.width f ∧ maxEnc f % 2 ^ (Fmt.width f - 1) ≤ maxEnc f := by decide +kernel

theorem wit_ControlTransfers : sA.cur ≠ .none ∧ Claim.Ready sA [2] [] ∧ Claim.Ready gA (MaskOp.sreg (.s 2)) [] ∧ Claim.Ready sA [] [63] ∧
    Claim.Ready sA [63] [] ∧ (sA.thr.rd 63).toNat % 8 = 0 ∧ Claim.Ready gA [63] [63] ∧ (gA.thr.rd 63).toNat % 8 ≠ 0 :=
  ⟨by decide +kernel, ready_of (by decide +kernel), ready_of (by decide +kernel), ready_of (by decide +kernel), ready_of (by decide +kernel),
   by decide +kernel, ready_of (by decide +kernel), by decide +kernel⟩

def pendLoad : Pending := ⟨1, 0, 0, none, [(32, 5)], [], 0, 16, [], none⟩
def gJoin : State := grpS [] fun x => { x with pend := [pendLoad] }
theorem wit_MaskResults : Claim.Ready gA (MaskOp.sreg (.s 1) ++ MaskOp.sreg .em) (MaskOp.sreg (.p 2) ++ [(31 : BitVec 5).toNat]) ∧
    (Claim.Ready gJoin (MaskOp.sreg .em) [] ∧ ∃ g, gJoin.cur = .group g ∧ ∃ p ∈ (gJoin.group g).pend, p.reason = 16 ∧ p.vdst ≠ []) ∧
    (Claim.Ready gA (MaskOp.sreg .em) [] ∧ ∀ g, gA.cur = .group g → ∀ p ∈ (gA.group g).pend, p.reason = 16 → p.vdst = []) :=
  ⟨ready_of (by decide +kernel), ⟨ready_of (by decide +kernel), G, by decide +kernel, by decide +kernel⟩, ready_of (by decide +kernel), by
    intro g h; have : g = G := by simpa using h.symm.trans (show gA.cur = .group G by decide +kernel)
    subst this; decide +kernel⟩

theorem ok_of {ε α : Type} [DecidableEq α] {x : Except ε α} {v : α}
    (h : (match x with | .ok y => decide (y = v) | .error _ => false) = true) : x = .ok v := by
  cases x with
  | ok y => exact congrArg _ (of_decide_eq_true h)
  | error e => cases h

/-- Service thread 0 at address 0 of an image of two words, a prefix and `w`, and a third. -/
def sPfx (w : Word) : State :=
  let s := (svcS 0x31 []).modThr fun t => { t with pcs := 0 }
  { s with ctl := { s.ctl with image := leBytes 4 0x4002 ++ leBytes 4 w.toNat ++ leBytes 4 4 } }

theorem wit_PrefixHeldOrRefused :
    ((withPfx sA .rne).thr.pfx.isSome ∧ (sA.modThr fun t => { t with pcs := 0x104 }).thr.pcs.toNat % 8 ≥ 4 ∧
      ((sPfx 4).modThr fun t => { t with pcs := 8 }).lastWord 8) ∧
    ∀ e ∈ [((4 : Word), PfxClass.n), (0x10, .i), (0xA0, .y)], (sPfx e.1).cur ≠ .none ∧ (sPfx e.1).thr.pfx = none ∧ (sPfx e.1).thr.pcs.toNat % 8 < 4 ∧
      (sPfx e.1).lastWord (sPfx e.1).thr.pcs = false ∧ (sPfx e.1).codeWord ((sPfx e.1).thr.pcs + 4) = .ok e.1 ∧ pfxClassOf e.1 = e.2 := by
  refine ⟨by decide +kernel, fun e he => ?_⟩
  refine ⟨?_, ?_, ?_, ?_, ok_of ?_, ?_⟩ <;> revert e <;> decide +kernel

theorem wit_TrapsParkTheGroup : gA.cur = .group G ∧ Cause.kind .branchAlign = 1 ∧ Cause.kind .drawBufferFull = 1 := by decide +kernel

/-- A team of two groups whose first has executed BRK. -/
def gStop : State :=
  let s := withT gA fun t => { t with groups := [(0, G), (1, G + 1)], stop := some [G] }
  { s with groups := s.groups ++ [(G + 1, { s.group G with gidx := 1 })] }
theorem wit_BreakStopsTheTeam : (gStop.team T).stop = some [G] ∧ G + 1 ∈ (gStop.members T).map Prod.snd ∧ G + 1 ∉ [G] ∧ G ∈ (gStop.members T).map Prod.snd ∧
    (Tab.look gStop.teams T).isSome ∧ dieOf (gStop.team T).core = 0 := by decide +kernel

def gFault (n : Nat) : State := grpS [] fun x => { x with fault := n }
theorem wit_ServiceableTrapDiscards : ∀ n ∈ [0, 6, 7], (gFault n).cur = .group G ∧ Cause.kind .pageFault = 0 ∧ ((gFault n).group G).reg.opened = true := by
  decide +kernel

def sEv : State := (svcS 0x31 []).setSvc 0 { Svc.zero with thr := thr [], sstat := 0x31, stopped := false, evs := [32, 64], svec := 0x800 }
theorem wit_HandlerEntries : (sA.cur = .svc 0 ∧ (sA.svc 0).sstat.getLsbD 0 = true) ∧
    ((svcS 0x30 []).cur = .svc 0 ∧ ((svcS 0x30 []).svc 0).sstat.getLsbD 0 = false) ∧
    ((sEv.svc 0).evs = [32, 64] ∧ (sEv.svc 0).sstat.getLsbD 0 = true ∧ (sEv.svc 0).stopped = false ∧ (sEv.svc 0).halted = false) := by
  decide +kernel

theorem wit_EretReturns : sA.cur = .svc 0 ∧ (sA.svc 0).sstat.getLsbD 4 = true ∧ (0xFFFFFFFFFFFFFFFC : DWord).toNat % 4 = 0 := by decide +kernel

def sPart : State := svcS 0x1 [(1, 5)]
theorem wit_PrivilegeIsChecked : (gA.cur = .group G ∧ Claim.system .eret = true) ∧
    (sPart.cur = .svc 0 ∧ (sPart.svc 0).sstat.getLsbD 4 = false ∧ Claim.Ready sPart [1] []) ∧ Claim.Ready sPart [] [3] :=
  ⟨by decide +kernel, ⟨by decide +kernel, by decide +kernel, ready_of (by decide +kernel)⟩, ready_of (by decide +kernel)⟩

theorem wit_SystemRegisters : (sA.cur = .svc 0 ∧ Claim.Ready sA [] [3] ∧ Claim.Ready sA [1] [] ∧ (sA.svc 0).sstat.getLsbD 4 = true) ∧
    Claim.Ready sPart [1] [] ∧ (sPart.svc 0).sstat.getLsbD 4 = false :=
  ⟨⟨by decide +kernel, ready_of (by decide +kernel), ready_of (by decide +kernel), by decide +kernel⟩, ready_of (by decide +kernel), by decide +kernel⟩

/-! ### Scalar memory -/

def sM : State := svcS 0x31 [(1, 0x2000), (2, 9)]
def gM (f : Group → Group) : State := grpS [(1, 0x2000), (2, 9)] f
def full64 (x : Group) : Group := { x with reg := { x.reg with held := List.replicate 64 (.store .ls [] [] true true false) } }

theorem wit_LoadResults : Claim.Ready sM [1] [3] ∧ (sM.cur = .svc 0 ∧ sM.svcAddr 0 (accLs false) 8 false true 0x2000 = .ok 0x2000) ∧
    Claim.Ready (gM id) [1] [3] ∧ Claim.MayAccess (gM id) G ∧
    (gM id).globalCheck G (accLs false) 8 false [(32, 0x2000)] = .ok [(32, 0x2000, 0x3F1F)] ∧ pteSc 0x3F1F = false ∧
    (gM id).spadCheck G 8 [(32, ((0x2000 : DWord).toNat : Int))] = .ok [(32, 0x2000)] :=
  ⟨ready_of (by decide +kernel), ⟨by decide +kernel, ok_of (by decide +kernel)⟩, ready_of (by decide +kernel), access_of (by decide +kernel),
   ok_of (by decide +kernel), by decide +kernel, ok_of (by decide +kernel)⟩

theorem wit_StoreResults : Claim.Ready sM [1, 2] [] ∧ sM.svcAddr 0 (accLs true) 8 false false 0x2000 = .ok 0x2000 ∧
    (Claim.MayAccess (gM id) G ∧ (gM id).globalCheck G (accLs true) 8 false [(32, 0x2000)] = .ok [(32, 0x2000, 0x3F1F)] ∧
      storeCount ((gM id).group G).reg.held < 64) ∧
    (Claim.MayAccess (gM full64) G ∧ (gM full64).globalCheck G (accLs true) 8 false [(32, 0x2000)] = .ok [(32, 0x2000, 0x3F1F)] ∧
      64 ≤ storeCount ((gM full64).group G).reg.held) :=
  ⟨ready_of (by decide +kernel), ok_of (by decide +kernel), ⟨access_of (by decide +kernel), ok_of (by decide +kernel), by decide +kernel⟩,
   access_of (by decide +kernel), ok_of (by decide +kernel), by decide +kernel⟩

theorem wit_AtomicResults : Claim.Ready sM ([1, 2] ++ [3]) [] ∧ sM.svcAddr 0 (accLs true) 8 false true 0x2000 = .ok 0x2000 ∧
    Claim.Ready (gM id) [1, 2] [] ∧ Claim.MayAccess (gM id) G ∧
    (gM id).globalCheck G (accLs true) 4 false [(32, 0x2000)] = .ok [(32, 0x2000, 0x3F1F)] ∧
    (gM id).spadCheck G 4 [(32, ((0x2000 : DWord).toNat : Int))] = .ok [(32, 0x2000)] ∧ ((∀ n ∈ [4, 8], ∀ b ∈ locksOf 0x2000 n, ((gM id).lockBit G b).others G = false) ∧ ((gM id).group G).inflight.any (((gM id).group G).writesWord true 0x2000 4) = false) ∧
    ((∃ b ∈ locksOf 0x2000 4, ((gM id).modCore 0 fun c => { c with locks := [(lockOf 0x2000, Lock.held 99)] }).lockBit G b |>.others G = true) ∧
      ((gM fun x => { x with reg := { x.reg with atom := true } }).group G).reg.atom = true) ∧
    (sM.svcAddr 0 (accLs true) 8 false true (sM.thr.rd 1 + 8) = .ok 0x2008 ∧ Claim.Ready sM [1] [3, 4]) ∧
    (gM id).globalCheck G (accLs true) 8 false [(32, (gM id).thr.rd 1)] = .ok [(32, 0x2000, 0x3F1F)] ∧
    (gM id).globalCheck G (accLs true) 8 false [(32, (gM id).thr.rd 1 + 8)] = .ok [(32, 0x2008, 0x3F1F)] ∧ Claim.Ready (gM id) [1] [62, 63] :=
  ⟨ready_of (by decide +kernel), ok_of (by decide +kernel), ready_of (by decide +kernel), access_of (by decide +kernel), ok_of (by decide +kernel),
   ok_of (by decide +kernel), by decide +kernel, by decide +kernel,
   ⟨ok_of (by decide +kernel), ready_of (by decide +kernel)⟩, ok_of (by decide +kernel), ok_of (by decide +kernel), ready_of (by decide +kernel)⟩

theorem wit_SpecialRegisters : (gA.cur = .group G ∧ Claim.Ready gA [] [3] ∧ Claim.Ready gA [1] []) ∧ (sA.cur = .svc 0 ∧ Claim.Ready sA [] [3] ∧ Claim.Ready sA [1] []) :=
  ⟨⟨by decide +kernel, ready_of (by decide +kernel), ready_of (by decide +kernel)⟩, by decide +kernel, ready_of (by decide +kernel), ready_of (by decide +kernel)⟩

/-! ### Barriers, fences, monitors, rings, allocation, blocks and regions -/

/-- A launch of four levels whose barrier 3 of level 3 is poisoned or not, and its groups' commits. -/
def gBar (poison : Bool) : State := withL gA fun l =>
  { l with lr := { l.lr with nlev := 4, teams := 1 }, xbars := [(xKey 3 0 3, ⟨0, [], 0, poison, false⟩)] }
theorem wit_BarrierWords : gA.cur = .group G ∧ Claim.Ready gA [] [3] ∧ gA.levelOk T 2 = true ∧ gA.levelOk T 1 = false ∧
    (gBar true).levelOk T 3 = true ∧ (gBar true).poisoned T (barKey 3 3) = true ∧ Claim.Ready (gBar true) [] [3] ∧
    gA.poisoned T (barKey 2 3) = false ∧ gA.mayArrive G (barKey 2 3) = true ∧
    (gA.modGroup G fun x => { x with arrivals := [(barKey 2 3, 0)] }).mayArrive G (barKey 2 3) = false ∧
    (gA.commit G).barPoison G (barKey 2 3) = false ∧ ((gA.hold G (.arrive (barKey 2 3))).commit G).barPoison G (barKey 2 3) = false ∧
    (let c := gA.commit G; c.poisoned (c.group G).team (barKey 2 3) = false ∧ c.barOver G (barKey 2 3) = true ∧ (c.group G).thr.full 3 = true ∧
      (((gA.modThr fun t => { t with sempty := 8 }).commit G).group G).thr.full 3 = false) ∧
    (let c := (gA.hold G (.arrive (barKey 2 3))).commit G; c.poisoned (c.group G).team (barKey 2 3) = false ∧ c.barOver G (barKey 2 3) = false) ∧
    (gA.group G).reg.opened = true := by
  refine ⟨?_, ready_of ?_, ?_, ?_, ?_, ?_, ready_of ?_, ?_⟩ <;> decide +kernel

/-- A group with a store handed over, and one that holds an error. -/
def aStore : Held := .store .ls [⟨false, 0x2000, 0x2000, 0, [1, 2, 3, 4]⟩] [] true true false
def gOut : State := grpS [(1, 0x2000), (2, 9)] fun x => { x with inflight := [aStore] }

theorem wit_Fences : (gA.cur = .group G ∧ (∀ x ∈ [PathClass.ls, .cp, .cr, .mx, .tr, .rp], heldOf x (gA.group G).inflight = false) ∧
      tldAhead (gA.group G).anvil = false ∧ gA.replays = [] ∧ heldOf .ls (gOut.group G).inflight = true) ∧
    (let c := (gA.commit G).hashCheckpoint G; c.quiet G = true ∧ (c.group G).impr = none) ∧
    (let c := (gOut.commit G).hashCheckpoint G; gOut.cur = .group G ∧ c.quiet G = false) ∧ sA.cur = .svc 0 := by
  decide +kernel

def armed (s : State) (f : Bool) : State := s.setMonitor ⟨true, f, false, 0x2000, 0x2000, 9⟩
theorem wit_Monitors : (sM.cur = .svc 0 ∧ Claim.Ready sM [1, 2] [] ∧ sM.svcAddr 0 (accLs false) 8 false true (sM.thr.rd 1) = .ok 0x2000) ∧
    ((gM id).cur = .group G ∧ Claim.Ready (gM id) [1, 2] [] ∧
      (gM id).globalCheck G (accLs false) 8 true [(32, (gM id).thr.rd 1)] = .ok [(32, 0x2000, 0x3F1F)] ∧
      ((gM id).group G).inflight = [] ∧ ((gM id).group G).reg.held = [] ∧ (gM id).loadWaits G 8 [(32, 0x2000, 0x3F1F)] = false ∧
      (gM id).spadCheck G 8 [(32, (((gM id).thr.rd 1).toNat : Int))] = .ok [(32, 0x2000)]) ∧
    (∀ s ∈ [sA, gA], s.cur ≠ .none ∧ s.monitor.armed = false ∧ (armed s true).monitor.fired = true ∧ (armed s false).monitor.armed = true ∧
      (armed s false).monitor.fired = false) ∧
    ((gA.commit G).monitor.armed = false ∧ ((armed gA true).commit G).monitor.fired = true ∧
      ((armed gA false).commit G).monitor.armed = true ∧ ((armed gA false).commit G).monitor.fired = false) :=
  ⟨⟨by decide +kernel, ready_of (by decide +kernel), ok_of (by decide +kernel)⟩,
   ⟨by decide +kernel, ready_of (by decide +kernel), ok_of (by decide +kernel), by decide +kernel, by decide +kernel, by decide +kernel, ok_of (by decide +kernel)⟩,
   by decide +kernel, by decide +kernel⟩

/-- Ring 1 of two slots from role 0 to role `c`, its producer's cursor at slot `p`, slot `f` full in phase 0. -/
def gRing (c p f : Nat) : State := withT gA fun t => { t with rings := [(1, ⟨2, 0, c, [(f, 0)], p, 0, f, 0⟩)] }
/-- A group of four blocks whose queue ring and tiles are as at the start. -/
def gAl : State := grpS [(1, 0x100), (2, 0xFFFFFFFF)] fun x => { x with blocks := 4 }
theorem wit_RingsAndAllocations : (gA.cur = .group G ∧ gA.ringOf G 1 = none) ∧
    (∃ r, (gRing 0 1 0).ringOf G 1 = some r ∧ (gRing 0 1 0).roleOf G = r.prod ∧ (gRing 0 1 0).roleOf G = r.cons) ∧
    (∃ r, (gRing 2 1 0).ringOf G 1 = some r ∧ (gRing 2 1 0).roleOf G ≠ r.cons) ∧
    (∃ r, (withT gA fun t => { t with rings := [(1, ⟨2, 2, 0, [], 0, 0, 0, 0⟩)] }).ringOf G 1 = some r ∧ 0 ≠ r.prod) ∧
    (∃ q, ((gRing 0 1 0).commit G).ringOf G 1 = some q ∧ q.slots ≤ q.pcur + 1 ∧ q.ccur + 1 < q.slots ∧
      ((gRing 0 1 0).commit G).ringOver G true 1 = true ∧ ((gRing 0 1 0).commit G).ringOver G false 1 = true) ∧
    (∃ q, ((gRing 0 0 1).commit G).ringOf G 1 = some q ∧ q.pcur + 1 < q.slots ∧ q.slots ≤ q.ccur + 1) ∧
    ((gRing 0 0 0).commit G).ringOver G true 1 = false ∧
    (let e := withT gA fun t => { t with rings := [(1, ⟨2, 0, 0, [], 0, 0, 0, 0⟩)] }; (e.commit G).ringOver G false 1 = false) ∧
    (Claim.Ready gAl [1] [] ∧ gAl.qcfgOk G 0 0x100 131072 = false ∧ gAl.qcfgOk G 0 0x100 16 = true ∧ 0x101 % 4 ≠ 0 ∧ 131072 < 131073 ∧
      (gAl.team (gAl.group G).team).size < 0x100 + 4 * 131072) ∧
    (Claim.Ready gAl [2] [] ∧ tcBad ((gAl.thr.rd 2).setWidth 32 &&& 0x3FFFF) = true ∧ tcBad ((gAl.thr.rd 1).setWidth 32 &&& 0x3FFFF) = false ∧
      (gAl.group G).tl.tempty.getLsbD 7 = false) ∧
    (4 ≤ (gAl.group G).blocks ∧ (gAl.group G).blocks < 5 ∧ (gAl.group G).blocks ≤ 4 ∧ 3 < (gAl.group G).blocks ∧ (gAl.group G).reg.shrink = none) :=
  ⟨by decide +kernel, ⟨_, rfl, by decide +kernel⟩, ⟨_, rfl, by decide +kernel⟩, ⟨_, rfl, by decide +kernel⟩,
   ⟨_, rfl, by decide +kernel⟩, ⟨_, rfl, by decide +kernel⟩, by decide +kernel, by decide +kernel,
   ⟨ready_of (by decide +kernel), by decide +kernel⟩, ⟨ready_of (by decide +kernel), by decide +kernel⟩, by decide +kernel⟩

/-- Sixteen lane words; one region entry of two registers, 0 and 1, in a table at 0x30000; a second that names register 239. -/
def withTable (s : State) : State :=
  let s := withL s fun l => { l with lr := { l.lr with rtCount := 3, rtBase := 0x30000 } }
  { s with mem := s.mem ++ [(0x30000, 2), (0x30009, 1), (0x30020, 1), (0x30028, 239), (0x30040, 17)] }
def gReg : State := withTable (grpS [(1, 17), (2, 1024)] fun x => { x with blocks := 14 })
/-- The entry of index `k` after the commit; the group with v0 of lane 5 empty, and one that waits for v0 and v1. -/
def entryAt (s : State) (k : Nat) : Option (List Nat) := regionRegs (((s.commit G).coreBytes 0 0 (0x30000 + 32 * k) (0x30000 + 32 * k)) 32)
def empty5 (x : Group) : Group := { x with f := { x.f with vempty := [(5, true)] } }
def gEmpty : State := gReg.modGroup G empty5
def gWait (e : Bool) : State := (if e then gEmpty else gReg).modGroup G fun x => { x with reg := { x.reg with waiting := some [0, 1] } }
theorem wit_BlocksAndRegionsStart : (gReg.cur = .group G ∧ Claim.Ready gReg [0] [] ∧ (gReg.thr.rd 0).toNat % 2 ^ 32 = 0 ∧
      (gReg.recOf G).llen < 0 + 1024) ∧ ((gReg.recOf G).llen < 0 + 17) ∧ (15 + 1 ≤ (gReg.recOf G).llen ∧
      (∀ p ∈ gReg.blockPages G 15 1, p.2.2 = .ok 0x200B4 0x3F1F) ∧ gReg.roleOf G ≠ 1) ∧
    ((gReg.group G).reg.waiting = none ∧ ((gReg.commit G).recOf G).rtCount = 3 ∧
      entryAt gReg 2 = none ∧ entryAt gReg 1 = some [239] ∧ 16 * ((gReg.commit G).group G).blocks ≤ 239 ∧
      entryAt gReg 0 = some [0, 1] ∧ (∀ r ∈ [0, 1], r < 16 * ((gReg.commit G).group G).blocks) ∧
      ((gReg.commit G).group G).setFull [0, 1] = true ∧ ((gEmpty.commit G).group G).setFull [0, 1] = false) ∧
    (∀ k ∈ [0, 1, 2], ∃ e, (gReg.commit G).globalCheck G (accLs false) 32 true [(32, 0x30000 + BitVec.ofNat 64 (32 * k))] =
      .ok [(32, 0x30000 + 32 * k, e)] ∧ (gReg.commit G).loadWaits G 32 [(32, 0x30000 + 32 * k, e)] = false) ∧
    (∀ e ∈ [false, true], ((gWait e).group G).reg.waiting = some [0, 1] ∧ ((gWait e).group G).setFull [0, 1] = !e ∧ ((gWait e).group G).f.w = []) := by
  refine ⟨⟨by decide +kernel, ready_of (by decide +kernel), by decide +kernel⟩, by decide +kernel, by decide +kernel, by decide +kernel, fun k hk => ⟨0x3F1F, ok_of ?_, ?_⟩, by decide +kernel⟩ <;>
  (revert k; decide +kernel)

theorem wit_ExitEndsTheThread :
    (let b := ((gA.commit G).hashCheckpoint G).modGroup G fun x => { x with blk := none };
      let c := b.modGroup G fun x => { x with inflight := x.inflight ++ b.endRecords G (b.group G).present };
      gA.cur = .group G ∧ c.mayLeave G = true ∧ (c.group G).impr = none) ∧
    (let b := ((gOut.commit G).hashCheckpoint G).modGroup G fun x => { x with blk := none };
      let c := b.modGroup G fun x => { x with inflight := x.inflight ++ b.endRecords G (b.group G).present };
      gOut.cur = .group G ∧ c.mayLeave G = false) ∧ sA.cur = .svc 0 := by decide +kernel

/-! ### System instructions -/

/-- Service thread 0 at hand beside that group and its team. -/
def onSvc (s : State) (rs : Tab DWord) : State :=
  { s with svcs := [(0, { Svc.zero with thr := thr rs, sstat := 0x31, stopped := false })], cur := .svc 0 }
def sched (s : State) (f : Sched → Sched) : State := s.modGroup G fun x => { x with sch := f x.sch }
def allOf : Tab DWord := [(1, 0xFF00000000), (2, 0)]
def parkedS (rs : Tab DWord) (p : Bool) : State := sched (onSvc gA rs) fun x => { x with parked := p, halted := p }
theorem wit_StateActions : ∀ p ∈ [true, false], ((parkedS [] p).cur = .svc 0 ∧ Claim.Ready (parkedS [] p) [1, 2] [3] ∧ Claim.Ready (parkedS allOf p) [1, 2] [3] ∧
    Claim.Targets (parkedS [] p) 0 1 T 0 [G] ∧ Claim.Targets (parkedS allOf p) 0 1 T 0xFF [G] ∧ ((parkedS [] p).group G).sch.parked = p ∧
    ((parkedS [] p).group G).sch.halted = p ∧ ((parkedS [] p).group G).reg.opened = true) ∧
    (onSvc gA [(1, 2)]).target ((onSvc gA [(1, 2)]).svc 0) ((onSvc gA [(1, 2)]).thr.rd 1) ((onSvc gA [(1, 2)]).thr.rd 2) = none := by
  intro p hp
  refine ⟨⟨?_, ready_of ?_, ready_of ?_, ?_⟩, by decide +kernel⟩ <;> revert p
  all_goals first | decide +kernel | (unfold Claim.Targets; decide +kernel)

/-- The team saved at 0x40000000, or exported, its window empty; images go to 0x80000000, and to an address without a page. -/
def sImg (st : TeamState) (img : Nat) : State :=
  withT (onSvc gA [(1, 0xFF00000000), (3, BitVec.ofNat 64 img)]) fun t => { t with st := st, image := if st = .saved then some 0x40000000 else none, size := 0, groups := [] }
/-- Team 0's header at 0x80000000 or at 2^36 - 4096, its image of 64 bytes there or longer than its page. -/
def headed (s : State) : State := { s with mem := s.mem ++ [(0x80000000, 1), (0x80000010, 64), (2 ^ 36 - 4096, 1), (2 ^ 36 - 4096 + 17, 32)] }
/-- A PREEMPT that s4 waits for, of the team at hand in that state, or one behind a SWITCH. -/
def jobbed (st : TeamState) (ts : Option (List Nat)) : State :=
  let s := withT (onSvc gA []) fun t => { t with st := st }
  s.setSvc 0 { s.svc 0 with jobs := [(4, if ts.isSome then 5 else 0, ts)] }
theorem wit_ImagesAndPreemption :
    (Claim.Ready (sImg .saved 0x80000001) [1, 2, 3] [4] ∧ ((sImg .saved 0x80000001).thr.rd 3).toNat % 4096 ≠ 0) ∧
    (∀ e ∈ [(0x80000000, true), (2 ^ 52, false)],
      let s := sImg .saved e.1;
      Claim.Ready s [1, 2, 3] [4] ∧ (s.thr.rd 3).toNat % 4096 = 0 ∧ s.targetTeam (s.svc 0) (s.thr.rd 1) (s.thr.rd 2) = some (1, T) ∧ (s.thr.rd 1).toNat / 2 ^ 32 = 0xFF ∧ (s.svc 0).jobs = [] ∧
      (s.team T).image = some 0x40000000 ∧ (s.team T).st = .saved ∧
      (s.vWrite 0 0 (s.thr.rd 3) (s.rdBytes 0x40000000 (s.imageLen T))).isSome = e.2) ∧
    (let s := sImg .running 0x80000000; s.targetTeam (s.svc 0) (s.thr.rd 1) (s.thr.rd 2) = some (1, T) ∧ (s.team T).image = none) ∧
    (∀ e ∈ [(TeamState.exported, 0x80000000, true, some true), (.queued, 0x80000000, true, some true), (.exported, 2 ^ 36 - 4096, true, some false),
        (.exported, 0x40000000, false, none), (.exported, 2 ^ 52, false, none)],
      let s := headed (sImg e.1 e.2.1);
      let h := s.vRead 0 0 (s.thr.rd 3) 64;
      Claim.Ready s [1, 2, 3] [4] ∧ (s.thr.rd 1).toNat / 2 ^ 32 = 0xFF ∧ (s.thr.rd 3).toNat % 4096 = 0 ∧ (s.svc 0).jobs = [] ∧
      s.targetTeam (s.svc 0) (s.thr.rd 1) (s.thr.rd 2) = some (1, T) ∧ (s.team T).st = e.1 ∧ (s.team T).started = false ∧
      h.isSome = (e.2.1 != 2 ^ 52) ∧ s.headerOk (h.getD []) 1 0 = e.2.2.1 ∧ (∀ b, e.2.2.2 = some b → (s.vRead 0 0 (s.thr.rd 3) (field (h.getD []) 16 8)).isSome = b)) ∧
    (Claim.Ready (onSvc gA [(2, 288), (4, 1), (5, 289)]) [1, 2] [3] ∧ Claim.Ready (onSvc gA [(2, 288), (4, 1), (5, 289)]) [4, 5] [3] ∧
      (onSvc gA []).findLaunch ((onSvc gA []).svc 0) 0 = some 1 ∧ (onSvc gA []).findLaunch ((onSvc gA []).svc 0) 1 = none ∧
      ((onSvc gA []).vf ((onSvc gA []).ctx ((onSvc gA []).launch 1).ctx).vf).switching = none) ∧
    (∀ st ∈ [TeamState.vacating, .saved], let s := jobbed st (some [T]); s.cur = .svc 0 ∧ (s.svc 0).jobs = [(4, 5, some [T])] ∧ (s.team T).st = st) ∧
    (∀ r ∈ [0, 4], (jobbed .saved (some [T])).thr.full r = true) ∧
    (let s := jobbed .running none; (s.svc 0).jobs = [(4, 0, none)] ∧ ((s.vacateCores ((s.coresHeld fun x => x.launch == 1).take 0)).1.svc 0).jobs = [(4, 0, none)]) ∧
    (let s : State := { onSvc gA [] with parts := [(0, { Part.zero with saveBase := 0x40000000, saveMib := 4 })] }
     (s.coresHeld fun x => x.launch == 1) = [0] ∧ (s.vacateCores [0]).2 = 1 ∧ (s.vacateCores [0]).1.vacating = [T] ∧ ((onSvc gA []).vacateCores [0]).2 = 0) ∧
    (({ onSvc gA [] with vfs := [(0, { Vf.zero with switching := some 0 })] } : State).vf 0).switching.isSome = true := by
  refine ⟨⟨ready_of ?_, ?_⟩, fun e he => ⟨ready_of ?_, ?_⟩, ?_, fun e he => ⟨ready_of ?_, ?_⟩, ⟨ready_of ?_, ready_of ?_, ?_⟩, ?_, ?_, ?_, ?_, ?_⟩
  case refine_3 | refine_4 | refine_6 | refine_7 => revert e; decide +kernel
  all_goals decide +kernel

def sSem (slot lease : Nat) : State := svcS 0x31 [(1, BitVec.ofNat 64 slot), (2, BitVec.ofNat 64 lease)]
theorem wit_SystemUpkeep : (∀ e ∈ [(7, 1000), (8, 1000), (0, 999), (7, 2 ^ 36 + 1)],
      Claim.Ready (sSem e.1 e.2) [1, 2] [3] ∧ (sSem e.1 e.2).cur = .svc 0) ∧
    (∀ m : Sem, m ∈ [⟨false, 5000, false⟩, ⟨true, 5000, false⟩, ⟨true, 0, false⟩] →
      Tab.look { sSem 7 1000 with sems := [(7, m)] }.sems 7 = some m ∧ Claim.Ready { sSem 7 1000 with sems := [(7, m)] } [1, 2] [3]) ∧
    (Claim.Ready (onSvc gOut []) [1, 2] [] ∧ coreOfId ((onSvc gOut []).thr.rd 1).toNat = 0 ∧ ((onSvc gOut []).svc 0).sstat.getLsbD 4 = true) ∧
    (onSvc gOut []).tlbBusy ⟨some 0, 0, none⟩ = true ∧ (onSvc gA []).tlbBusy ⟨some 0, 0, none⟩ = false ∧
    (let s := onSvc (grpS [] fun x => { x with reg := { x.reg with held := [aStore] } }) [];
      s.tlbBusy ⟨some 0, 0, some 0⟩ = false ∧ G ∈ s.groupsIn ⟨some 0, 0, some 0⟩ ∧ (s.group G).reg.opened = true ∧
        ∃ h ∈ (s.group G).reg.held, ∃ p ∈ h.places (s.group G), TlbSel.takes ⟨some 0, 0, some 0⟩ s (s.coreOf G) (s.asidOf G) p = true) := by
  refine ⟨fun e he => ⟨ready_of ?_, ?_⟩, fun m hm => ⟨rfl, ready_of ?_⟩, ⟨ready_of ?_, ?_⟩, ?_⟩
  case refine_1 | refine_2 => revert e; decide +kernel
  case refine_3 => revert m; decide +kernel
  all_goals decide +kernel

/-! ### Lane words -/

def hd : LaneHdr := ⟨true, 0, 0, false⟩
/-- Sources v0, v2 and v4, destination v8. -/
def lop (f : Fmt) (xf : BitVec 13) : LaneOp := ⟨hd, .v 8, ⟨.v 0 false, 0⟩, ⟨.v 2 false, 0⟩, ⟨.v 4 false, 0⟩, f, .rne, false, xf⟩
/-- Lane 0 of a group active, with these registers. -/
def gV (m : Word) (v : Tab Word) (f : Group → Group) : State :=
  grpS [(1, 5)] fun x => f { x with thr := { x.thr with em := m }, xm := ~~~m, f := { x.f with v := v } }
def gL : State := gV 1 [(0, 0x2000), (64, 8), (128, 9), (160, 10)] id
def lready (s : State) (h : LaneHdr) (cls : LaneClass) (us : Word → List Use) (p : Option Put) : Bool :=
  s.cur == .group G && roleOk (s.roleOf G) cls && (s.operandTrap G (Claim.lanes s G h) (us (Claim.lanes s G h)) p).orElse
    (s.operandWait G (Claim.lanes s G h) (us (Claim.lanes s G h)) p) == .ok &&
    s.useMismatch G (Claim.lanes s G h) (us (Claim.lanes s G h)) p == none

def ints : List (LaneOp → Instr) := [.vadd, .vsub, .vmul, .vmulh, .vmad, .vmin, .vmax, .vand, .vor, .vxor, .vlop3, .vbfe, .vbfi, .vpopc,
  .vclz, .vmov, .vcvt, .vqnt, .vdqnt]
def flts : List (LaneOp → Instr) := [.vfadd, .vfsub, .vfmul, .vfma, .vfmin, .vfmax, .vfclass, .vrcp, .vrsq, .vsqrt, .vexp2, .vlog2, .vsin, .vcos]
/-- Every arithmetic row meets its hypotheses, with one active lane and with none. -/
theorem wit_LaneArithmetic : ∀ s ∈ [gL, gV 0 [] id], ∀ i ∈ (ints.map fun f => f (lop .i32 0)) ++ (flts.map fun f => f (lop .f32 0)) ++
      [.vshl (lop .n32 0), .vshr (lop .n32 0), .vsar (lop .i32 0), .vpack (lop .f16 0), .vunpk (lop .f16 0)],
    ∃ r, Claim.row i = some r ∧ Claim.LaneReady s G r.o.h r.cls r.uses (putOf r.rule r.o) := by
  have h : ∀ s ∈ [gL, gV 0 [] id], ∀ i ∈ (ints.map fun f => f (lop .i32 0)) ++ (flts.map fun f => f (lop .f32 0)) ++
      [.vshl (lop .n32 0), .vshr (lop .n32 0), .vsar (lop .i32 0), .vpack (lop .f16 0), .vunpk (lop .f16 0)],
    (match Claim.row i with | some r => lready s r.o.h r.cls r.uses (putOf r.rule r.o) | none => false) = true := by decide +kernel
  intro s hs i hi
  have := h s hs i hi
  split at this
  · exact ⟨_, ‹_›, lane_of this⟩
  · cases this

theorem wit_PackedElements : (0 < Fmt.count .i8 ∧ 3 < Fmt.count .i8 ∧ 0 < Fmt.count .f32) ∧ [0x80FF7F01, 2, 3].length = 3 := by decide +kernel

theorem wit_LaneSelections : Claim.LaneReady gL G hd .basic (usesOf ruleSel 32 (lop .f32 8)) (putOf ruleSel (lop .f32 8)) ∧
    Claim.LaneReady gL G hd .basic (fun _ => []) (some ⟨.v 239, 1⟩) ∧
    (∀ xf ∈ ([0, 0x7D] : List (BitVec 13)), Claim.LaneReady gL G hd .other (gL.shflUses (lop .f32 xf)) (putOf (ruleShfl (lop .f32 xf)) (lop .f32 xf))) ∧
    Claim.LaneReady gL G hd .other (fun m => [Claim.use1 (lop .f32 31).a .raw (if m = 0 then 0 else BitVec.ofNat 32 (2 ^ LaneOp.xfield (lop .f32 31) 0 5))]) (putOf ruleBcst (lop .f32 31)) ∧
    Claim.LaneReady gL G hd .other (redUses (lop .i32 0)) (putOf (ruleRed (lop .i32 0)) (lop .i32 0)) ∧
    Claim.LaneReady gL G hd .other (redUses (lop .i32 8)) (putOf (ruleScan (lop .i32 8)) (lop .i32 8)) ∧
    Claim.LaneReady gL G hd .other (fun m => [Claim.use1 (lop .f32 0).a .int m]) (putOf ruleBalt (lop .f32 0)) ∧
    Claim.LaneReady gL G hd .basic (fun _ => []) (putOf (ruleLsr (lop .f32 5)) (lop .f32 5)) ∧
    Claim.LaneReady gL G hd .other (usesOf (ruleQntScl (lop .x8a 0)) 32 (lop .x8a 0)) (putOf (ruleQntScl (lop .x8a 0)) (lop .x8a 0)) ∧
    Claim.LaneReady gL G hd .other (dotUses (ruleDot4 (lop .i8 0)) (lop .i8 0)) (putOf (ruleDot4 (lop .i8 0)) (lop .i8 0)) ∧
    Claim.LaneReady gL G hd .other (dotUses (ruleDot8 (lop .e2m1 0)) (lop .e2m1 0)) (putOf (ruleDot8 (lop .e2m1 0)) (lop .e2m1 0)) := by
  refine ⟨lane_of ?_, lane_of ?_, fun xf hx => lane_of ?_, lane_of ?_, lane_of ?_, lane_of ?_, lane_of ?_, lane_of ?_, lane_of ?_, lane_of ?_, lane_of ?_⟩
  case refine_3 => simp only [List.mem_cons, List.not_mem_nil, or_false] at hx; rcases hx with rfl | rfl <;> decide +kernel
  all_goals decide +kernel

theorem wit_AcrossLanes : ((5 : Nat) < 2 ^ 32 ∧ lanesOf 5 = [0, 2]) ∧
    (Fmt.count .e4m3 = Fmt.count .e5m2 ∧ Fmt.count .e2m1 = 8) ∧
    (∃ k < Fmt.count .e4m3, (Claim.elem .e4m3 0x7F k).isNan = true) ∧
    ((∀ k < Fmt.count .e5m2, (Claim.elem .e5m2 0x7C k).isNan = false ∧ (Claim.elem .e4m3 0 k).isNan = false ∧ (Claim.elem .e4m3 0x38 k).isNan = false) ∧
      (∃ k < Fmt.count .e5m2, (mulVal (Claim.elem .e5m2 0x7C k) (Claim.elem .e4m3 0 k)).1.isNan = true) ∧
      (∃ k < Fmt.count .e5m2, (mulVal (Claim.elem .e5m2 0x7C k) (Claim.elem .e4m3 0x38 k)).1 = .inf false) ∧
      (∀ s, ∃ k < Fmt.count .e5m2, (mulVal (Claim.elem .e5m2 0xFC7C k) (Claim.elem .e4m3 0x3838 k)).1 = .inf s) ∧
      ∀ k < Fmt.count .e5m2, (mulVal (Claim.elem .e5m2 0x7C k) (Claim.elem .e4m3 0x38 k)).1.isNan = false ∧
        (mulVal (Claim.elem .e5m2 0x7C k) (Claim.elem .e4m3 0x38 k)).1 ≠ .inf true) ∧
    (∀ a ∈ [0x40383838, 0, 0x80808080], ∀ k < Fmt.count .e4m3, ∃ s n d, Claim.elem .e4m3 a k = .num s n d) ∧
    (∀ xs ∈ [[0x3F800000, 0xC0400000], [0, 0x80000000], [0x7F000000]], ∀ x ∈ xs, ∃ s n d, toVal .f32 x = .num s n d) ∧
    (∀ x ∈ [0, 0x80000000], (toVal .f32 x).isZero = true) ∧ (∃ x ∈ [0, 0xC0400000], (toVal .f32 x).isZero = false) ∧
    (∃ x ∈ [0, 0x7F800000], ∀ s n d, toVal .f32 x ≠ .num s n d) := by
  refine ⟨by decide +kernel, by decide +kernel, by decide +kernel, by decide +kernel, ?_, ?_, by decide +kernel, by decide +kernel, 0x7F800000, by simp, ?_⟩
  · intro a ha k hk
    have hk : k ∈ List.range (Fmt.count .e4m3) := by simpa using hk
    have : ∀ a ∈ [0x40383838, 0, 0x80808080], ∀ k ∈ List.range (Fmt.count .e4m3), (match Claim.elem .e4m3 a k with | .num _ _ _ => true | _ => false) = true := by decide +kernel
    have := this a ha k hk
    split at this
    · exact ⟨_, _, _, ‹_›⟩
    · cases this
  · intro xs hs x hx
    have : ∀ xs ∈ [[0x3F800000, 0xC0400000], [0, 0x80000000], [0x7F000000]], ∀ x ∈ xs, (match toVal .f32 x with | .num _ _ _ => true | _ => false) = true := by decide +kernel
    have := this xs hs x hx
    split at this
    · exact ⟨_, _, _, ‹_›⟩
    · cases this
  · intro s n d
    have : toVal .f32 0x7F800000 = .inf false := by decide +kernel
    simp [this]

def gTos (full : Bool) (m : Word) : State := (gV m [(0, 7)] id).modThr fun t => { t with sempty := if full then 0 else 8 }
theorem wit_LaneComparesAndScalars :
    (∀ c ∈ [0, 1, 2, 3, 4, 5], let o := lop .i32 (BitVec.ofNat 13 (8 * c + 7)); Claim.LaneReady gL G hd .basic (usesOf (ruleCmp false o) 32 o) (putOf (ruleCmp false o) o)) ∧
    (∀ c ∈ [0, 1, 2, 3], let o := lop .f32 (BitVec.ofNat 13 (8 * c + 2048)); Claim.LaneReady gL G hd .other (usesOf (ruleCmp true o) 32 o) (putOf (ruleCmp true o) o)) ∧
    (∀ e ∈ [(true, 1), (true, 0), (false, 1)], ∀ n ∈ [0, 3], Claim.LaneReady (gTos e.1 e.2) G hd .other (redUses (lop .i32 (BitVec.ofNat 13 n))) none ∧
      (e.1 = false → n = 3 → (gTos e.1 e.2).thr.full n = false) ∧ (e.1 = true → (gTos e.1 e.2).thr.full n = true)) := by
  refine ⟨fun c hc => lane_of ?_, fun c hc => lane_of ?_, fun e he n hn => ⟨lane_of ?_, ?_⟩⟩
  case refine_1 | refine_2 => revert c; decide +kernel
  all_goals simp only [List.mem_cons, List.not_mem_nil, or_false] at he hn; rcases he with rfl | rfl | rfl <;> rcases hn with rfl | rfl <;> decide +kernel

/-! ### Lane memory -/

theorem mem_of {s : State} {o : LaneOp} {r : LaneRule} (e : (lready s o.h .other (usesOf r 32 o) (putOf r o) && Claim.lanes s G o.h != 0 &&
    !(s.group G).reg.atom) = true) : Claim.MemReady s G o r := by
  simp only [Bool.and_eq_true, bne_iff_ne, Bool.not_eq_true'] at e
  exact ⟨lane_of e.1.1, e.1.2, e.2⟩

/-- B32 accesses at v0 (and v1), data v4; a byte with sign extension; sixteen bytes. -/
def oW : LaneOp := lop .f32 2
theorem wit_LaneLoads :
    (∀ xf ∈ ([2, 8, 4] : List (BitVec 13)), let o := lop .f32 xf
      ∀ r ∈ [ruleVld o, ruleVldu o], Claim.MemReady gL G o r ∧ (Claim.after gL G o r).globalCheck G { path := some 0 } (memBytes o) false
        (globalAds o 1 (Claim.srcs gL G o r)) = .ok [(0, 0x2000, 0x3F1F)]) ∧ pteSc 0x3F1F = false ∧ scStores (gL.group G).inflight = false ∧
    Claim.MemReady gL G oW (ruleVlds oW) ∧
    (Claim.after gL G oW (ruleVlds oW)).spadCheck G 4 (spadAds oW 1 (Claim.srcs gL G oW (ruleVlds oW))) = .ok [(0, 0x2000)] ∧
    Claim.MemReady gL G oW (ruleVldlk oW) ∧
    (Claim.after gL G oW (ruleVldlk oW)).spadCheck G 4 (spadAds oW 1 (Claim.srcs gL G oW (ruleVldlk oW))) = .ok [(0, 0x2000)] ∧
    (gL.lockBit G (lockOf 0x2000)).others G = false ∧ Lock.others (.held 99) G = true := by
  refine ⟨fun xf hx r hr => ⟨mem_of ?_, ok_of ?_⟩, ?_, ?_, mem_of ?_, ok_of ?_, mem_of ?_, ok_of ?_, ?_⟩
  case refine_1 | refine_2 =>
    simp only [List.mem_cons, List.not_mem_nil, or_false] at hx hr
    rcases hx with rfl | rfl | rfl <;> rcases hr with rfl | rfl <;> decide +kernel
  all_goals decide +kernel

def gLk (l : Lock) : State := gL.modCore 0 fun c => { c with locks := [(lockOf 0x2000, l)] }
def gFull : State := gL.modGroup G full64
theorem wit_LaneStores : (∀ s ∈ [gL, gFull], Claim.MemReady s G oW (ruleVst oW) ∧ Claim.MemReady s G oW (ruleVsts oW) ∧
      (Claim.after s G oW (ruleVst oW)).globalCheck G { write := true, path := some 0 } 4 false (globalAds oW 1 (Claim.srcs s G oW (ruleVst oW))) = .ok [(0, 0x2000, 0x3F1F)] ∧
      (Claim.after s G oW (ruleVsts oW)).spadCheck G 4 (spadAds oW 1 (Claim.srcs s G oW (ruleVsts oW))) = .ok [(0, 0x2000)]) ∧
    (gL.group G).writers 1 = 1 ∧ storeCount (gL.group G).reg.held < 64 ∧ 64 ≤ storeCount (gFull.group G).reg.held ∧
    (∀ l ∈ [Lock.held G, .free], Claim.MemReady (gLk l) G oW (ruleVstul oW) ∧
      (Claim.after (gLk l) G oW (ruleVstul oW)).spadCheck G 4 (spadAds oW 1 (Claim.srcs (gLk l) G oW (ruleVstul oW))) = .ok [(0, 0x2000)] ∧
      (((gLk l).lockBit G (lockOf 0x2000)).mine G = (l == .held G))) := by
  refine ⟨fun s hs => ⟨mem_of ?_, mem_of ?_, ok_of ?_, ok_of ?_⟩, ?_, ?_, ?_, fun l hl => ⟨mem_of ?_, ok_of ?_, ?_⟩⟩
  case refine_1 | refine_2 | refine_3 | refine_4 =>
    simp only [List.mem_cons, List.not_mem_nil, or_false] at hs; rcases hs with rfl | rfl <;> decide +kernel
  case refine_8 | refine_9 | refine_10 =>
    simp only [List.mem_cons, List.not_mem_nil, or_false] at hl; rcases hl with rfl | rfl <;> decide +kernel
  all_goals decide +kernel

/-- A deterministic launch whose window is the 64 words from 0x2000. -/
def gDet : State := withL gL fun l => { l with lr := { l.lr with flags := 1, detBase := 0x2000, detWords := 64 } }
/-- VATOM.XCHG with RET on global words, ADD on the scratchpad. -/
def oX : LaneOp := lop .f32 (2 + 8 * 128 + 2048)
def oS : LaneOp := lop .f32 (2 + 8)
/-- Lane 0 a helper lane; a region that has issued its global atomic. -/
def gHelp : State := gL.modGroup G fun x => { x with lanes := [(0, { Lane.zero with frag := some ⟨3, 4, 1, 0, true, 1, false, false⟩ })] }
def gSecond : State := gL.modGroup G fun x => { x with reg := { x.reg with atom := true } }
theorem wit_LaneAtomics :
    ((∀ r ∈ [ruleVatom [2, 3] 10 oX, ruleVatom [2] 3 oX], Claim.MemReady gL G oX r ∧
      (Claim.after gL G oX r).globalCheck G { write := true, path := some 0 } 4 false (globalAds oX 1 (Claim.srcs gL G oX r)) = .ok [(0, 0x2000, 0x3F1F)]) ∧
      memSx oX = false ∧ memRet oX = true) ∧
    ((∀ r ∈ [ruleVatom [2, 3] 10 oS, ruleVatom [2] 3 oS], Claim.MemReady gL G oS r ∧
      (Claim.after gL G oS r).spadCheck G 4 (spadAds oS 1 (Claim.srcs gL G oS r)) = .ok [(0, 0x2000)]) ∧
      memSx oS = true ∧ (∀ n ∈ [4, 8], ∀ b ∈ locksOf 0x2000 n, (gL.lockBit G b).others G = false) ∧ (gL.group G).inflight = []) ∧ (gL.group G).writers 1 ≠ 0 ∧
    ((gHelp.group G).writers 1 = 0 ∧ Claim.MemReady gHelp G oX (ruleVatom [2, 3] 10 oX)) ∧
    ((gSecond.group G).reg.atom = true ∧ Claim.LaneReady gSecond G hd .other (usesOf (ruleVatom [2, 3] 10 oX) 32 oX) (putOf (ruleVatom [2, 3] 10 oX) oX) ∧
      Claim.lanes gSecond G hd ≠ 0) ∧
    (∀ o ∈ [oW, lop .f32 (2 + 2048)], Claim.MemReady gDet G o (ruleVatom [2] 3 o) ∧ ReqOp.flt (memOp o) = .flt 0 ∧ memSx o = false ∧
      (gDet.recOf G).flags.getLsbD 0 = true ∧
      (∀ e ∈ globalAds o 1 (Claim.srcs gDet G o (ruleVatom [2] 3 o)), (gDet.recOf G).inWindow e.2 = true) ∧
      (Claim.after gDet G o (ruleVatom [2] 3 o)).globalCheck G { write := true, path := some 0 } 4 false (globalAds o 1 (Claim.srcs gDet G o (ruleVatom [2] 3 o))) = .ok [(0, 0x2000, 0x3F1F)]) := by
  refine ⟨⟨fun r hr => ⟨mem_of ?_, ok_of ?_⟩, ?_⟩, ⟨fun r hr => ⟨mem_of ?_, ok_of ?_⟩, ?_⟩, ?_, ⟨by decide +kernel, mem_of (by decide +kernel)⟩,
    ⟨by decide +kernel, lane_of (by decide +kernel), by decide +kernel⟩, fun o ho => ⟨mem_of ?_, ?_, ?_, ?_, ?_, ok_of ?_⟩⟩
  case refine_1 | refine_2 | refine_4 | refine_5 =>
    simp only [List.mem_cons, List.not_mem_nil, or_false] at hr; rcases hr with rfl | rfl <;> decide +kernel
  case refine_3 | refine_6 | refine_7 => decide +kernel
  all_goals simp only [List.mem_cons, List.not_mem_nil, or_false] at ho; rcases ho with rfl | rfl <;> decide +kernel

/-- Its group's atomic on the word at 0x2000 handed over, and another group's on the window not yet shown. -/
def gAhead : State := gL.modGroup G fun x => { x with inflight := [.atom ⟨G, 1, T, 0, .int .add, false, false, [⟨0, 0x2000, 0x2000, 5, 0⟩], some 3, []⟩] }
theorem wit_AccessWaits : gL.loadWaits G 4 [(0, 0x2000, 0x3F1F)] = false ∧ gAhead.loadWaits G 4 [(0, 0x2000, 0x3F1F)] = true ∧ (gL.group G).reg.divFrom = [] ∧
    (∀ n ∈ [4, 8], gL.unshown G 0x2000 n = false) ∧ (gL.group G).mismatch (idxKeys 2 (lanesOf (Claim.lanes gL G hd))) = none ∧
    (Claim.after gL G oW (ruleVld oW)).loadWaits G 4 [(0, 0x2000, 0x3F1F)] = false ∧ (Claim.after gAhead G oW (ruleVld oW)).loadWaits G 4 [(0, 0x2000, 0x3F1F)] = true := by
  decide +kernel

def memRules (o : LaneOp) : List LaneRule :=
  [ruleVld o, ruleVst o, ruleVlds o, ruleVsts o, ruleVldlk o, ruleVstul o, ruleVatom [2, 3] 10 o, ruleVatom [2] 3 o, ruleVldu o, ruleVpref o]
theorem wit_PrefetchAndIndex : Claim.LaneReady gL G hd .other (usesOf (ruleVpref oW) 32 oW) (putOf (ruleVpref oW) oW) ∧
    (∀ r ∈ memRules oW, Claim.LaneReady (gV 0 [] id) G hd .other (usesOf r 32 oW) (putOf r oW)) ∧ Claim.lanes (gV 0 [] id) G hd = 0 ∧
    Claim.LaneReady gL G hd .basic (fun m => [Claim.use1 oW.a .raw m]) none ∧ Claim.LaneReady gL G hd .basic (fun _ => []) none := by
  refine ⟨lane_of ?_, fun r hr => lane_of ?_, ?_, lane_of ?_, lane_of ?_⟩
  case refine_2 => revert r; decide +kernel
  all_goals decide +kernel

/-! ### Draws, calls, order, mesh -/

def okV {α : Type} [DecidableEq α] (x : Try α) (v : α) : Bool := match x with | .ok y => decide (y = v) | .error _ => false
def fails {α : Type} (x : Try α) : Bool := match x with | .ok _ => false | .error _ => true

def drawS (n : Nat) (f : Draw → Draw) : State :=
  withL (gL.modGroup G fun x => { x with lanes := [(0, { Lane.zero with draw := f Draw.zero })] }) fun l => { l with lr := { l.lr with cap := n } }
/-- In LINEAR mode, with an input vector of one entry of value 5 at 0x3000, or one that no page maps. -/
def drawIn (a : DWord) : State :=
  let s := withL (drawS 4 id) fun l => { l with lr := { l.lr with ivBase := a, flags := 0x10 } }
  { s with mem := (0x3000, 1) :: (0x3008, 5) :: s.mem }
theorem wit_DrawsAndOutcomes : (∀ s ∈ [drawS 4 id, drawS 0 id, gV 0 [] id], Claim.LaneReady s G hd .other (fun _ => []) (putOf (ruleDraw oW) oW)) ∧
    (Claim.lanes (drawS 4 id) G hd = 1 ∧ (match (drawS 4 id).drawInputs G [0] with | .ok (t, ns, es) => decide (t = drawS 4 id) && ns == [] && es == [] | .error _ => false) = true) ∧ Claim.lanes (gV 0 [] id) G hd = 0 ∧
    Claim.LaneReady gL G hd .other (usesOf ruleOutcome 32 oW) none ∧
    (∀ l, (1 : Word).getLsbD l = true → l = 0) ∧
    (let s := drawS 4 fun d => { d with buf := List.replicate 32 0 }
     Claim.LaneReady s G hd .other (fun _ => []) (putOf (ruleDraw oW) oW) ∧ 32 ≤ (Tab.get Lane.zero (s.group G).lanes 0).draw.buf.length ∧
      (Tab.get Lane.zero (s.group G).lanes 0).draw.count < (s.recOf G).cap) ∧
    (let s := drawIn 0x3000; Claim.LaneReady s G hd .other (fun _ => []) (putOf (ruleDraw oW) oW) ∧
      (match s.drawInputs G [0] with | .ok (_, ns, es) => ns == [(0, 1)] && es == [(0, [(0, 5)])] | .error _ => false) = true) ∧
    (let s := drawIn 0x1000000000; Claim.LaneReady s G hd .other (fun _ => []) (putOf (ruleDraw oW) oW) ∧
      (match s.drawInputs G [0] with | .ok _ => false | .error _ => true) = true) ∧
    (∃ d : Draw, ∃ n site : Nat, ∃ entry : Nat → Nat, d.count < n ∧ d.cursor + 7 < n ∧ d.used / 2 ^ 7 % 2 = 0 ∧ entry (d.cursor + 7) / 2 ^ 32 % 2 ^ 12 = site ∧
      entry (d.cursor + 7) / 2 ^ 44 % 2 ^ 12 = Tab.get 0 d.occ site % 2 ^ 12 ∧ ∀ i, i < 7 → d.used / 2 ^ i % 2 ≠ 0) := by
  refine ⟨fun s hs => lane_of ?_, by decide +kernel, by decide +kernel, lane_of (by decide +kernel), ?_,
    ⟨lane_of (by decide +kernel), by decide +kernel⟩, ⟨lane_of (by decide +kernel), by decide +kernel⟩, ⟨lane_of (by decide +kernel), by decide +kernel⟩,
    { Draw.zero with used := 127 }, 8, 0, fun _ => 0, by decide, by decide, by decide, by decide, by decide, by decide⟩
  · simp only [List.mem_cons, List.not_mem_nil, or_false] at hs; rcases hs with rfl | rfl | rfl <;> decide +kernel
  · intro l hl; cases l with
    | zero => rfl
    | succ n => simp [BitVec.getLsbD_one] at hl

/-- A launch with one call site of register 8 and two functions of one block; lane 0 can return to function 1. -/
def calls (s : State) (stk : List (Nat × Option Nat)) : State :=
  let s := withL (s.modGroup G fun x => { x with lanes := [(0, { Lane.zero with stack := stk })] }) fun l =>
    { l with lr := { l.lr with csCount := 1, csBase := 0x40000, ftCount := 2, ftBase := 0x41000 } }
  { s with mem := s.mem ++ [(0x40000, 1), (0x40008, 8), (0x41002, 1), (0x41008, 1), (0x41022, 1), (0x41028, 1)] }
def gCall : State := calls (gV 1 [(0, 1), (128, 1)] id) [(1, none)]
/-- Its group with a command in its Anvil queue. -/
def gAnvil (s : State) : State := s.modGroup G fun x => { x with anvil := [AnvilCmd.new (.tzero (lop .f32 0)) 1 0] }
theorem wit_CallsAndReturns : ∀ call ∈ [true, false], let o := lop .f32 0
    Claim.LaneReady gCall G hd .call (callUses (gCall.group G) call o) none ∧ Claim.lanes gCall G hd = 1 ∧
    (let c := gCall.commit G; okV (c.callSite G 0 1) [8] = true ∧ fails (c.callSite G 1 1) = true ∧ (gCall.recOf G).csCount ≤ 1 ∧
      okV (c.tableRead G ((lanesOf 1).map fun l => (l, (gCall.recOf G).csBase + BitVec.ofNat 64 0))) [(0, 0x40000, 0x3F1F)] = true ∧
      siteRegs ((gCall.rdBytes 0x40000 32).set 1 1) = none ∧ c.callReady G (gCall.group G).present [8] = true ∧
      (gCall.group G).mismatch (liveKeys [8] (gCall.group G).present) = none ∧
      okV ((c.readUses G 1 (callUses (gCall.group G) call o 1)).1.fnsRead G ([(0, 1)] ++ [(0, 1)])) () = true ∧
      c.function (c.launchOf G) 1 = some (0x10000, 1, 0) ∧
      Tab.get 0 ((c.readUses G 1 (callUses (gCall.group G) true o 1)).2.getD 0 []) 0 = 1 ∧
      Tab.get 0 ((c.readUses G 1 (callUses (gCall.group G) true o 1)).2.getD 1 []) 0 = 1 ∧
      (c.group G).present = 1 ∧ 8 < 16 * (c.group G).blocks ∧ (Tab.get Lane.zero (c.group G).lanes 0).stack.length < 8 ∧ (c.team (c.group G).team).recs.length < 64) ∧
    ((gCall.commit G).group G).mayDissolve = true ∧ (((gAnvil gCall).commit G).group G).mayDissolve = false ∧
    Claim.LaneReady (gAnvil gCall) G hd .call (callUses ((gAnvil gCall).group G) call o) none ∧
    (let s := (calls (gV 1 [] id) []).modGroup G fun x => { x with f := { x.f with vempty := [(vkey 8 0, true)] } };
      (s.commit G).callReady G (s.group G).present [8] = false ∧ Claim.LaneReady s G hd .call (callUses (s.group G) call o) none) ∧
    (let s := calls (gV 1 [] id) []; Claim.LaneReady s G hd .call (callUses (s.group G) call o) none ∧
      (s.commit G).callReady G (s.group G).present [8] = true ∧ (Tab.get Lane.zero (s.group G).lanes 0).stack.head? = none) := by
  intro call hc
  refine ⟨lane_of ?_, ?_, ?_, ?_, ?_, lane_of ?_, ⟨?_, lane_of ?_⟩, lane_of ?_, ?_⟩ <;>
    (simp only [List.mem_cons, List.not_mem_nil, or_false] at hc; rcases hc with rfl | rfl <;> decide +kernel)

/-- Lane 1 of the call's group inactive; its return stack full; its call site naming a register beyond its two blocks; its target
too small a function, or none. -/
def gCalls : List State :=
  let s := calls (gV 1 [(0, 1), (128, 1)] fun x => { x with xm := 0xFFFFFFFC }) [(1, none)]
  [s, calls (gV 1 [(0, 1), (128, 1)] id) (List.replicate 8 (1, none)), { gCall.modGroup G (fun x => { x with blocks := 2 }) with mem := gCall.mem.map fun e => if e.1 = 0x40008 then (e.1, 48) else if e.1 = 0x41028 then (e.1, 5) else e },
    { gCall with mem := gCall.mem.map fun e => if e.1 = 0x40008 then (e.1, 20) else e }, calls (gV 1 [(0, 9), (128, 9)] id) [(9, none)]]
theorem wit_CallCorners : let o := lop .f32 0
    (∀ s ∈ gCalls, ∀ call ∈ [true, false], Claim.LaneReady s G hd .call (callUses (s.group G) call o) none) ∧
    (gCalls.map fun s => ((s.commit G).group G).present) = [3, 1, 1, 1, 1] ∧
    (gCalls.map fun s => (Tab.get Lane.zero ((s.commit G).group G).lanes 0).stack.length) = [1, 8, 1, 1, 1] ∧
    (gCalls.map fun s => match (s.commit G).callSite G 0 1 with | .ok r => r | .error _ => []) = [[8], [8], [48], [20], [8]] ∧
    (gCalls.map fun s => (((s.commit G).function 1 1).map fun f => f.2.1, ((s.commit G).function 1 9).isSome)) =
      [(some 1, false), (some 1, false), (some 5, false), (some 1, false), (some 1, false)] ∧
    (gCalls.map fun s => ((s.commit G).group G).blocks) = [15, 15, 2, 15, 15] := by
  refine ⟨fun s hs call hc => lane_of ?_, by decide +kernel, by decide +kernel, by decide +kernel, by decide +kernel, by decide +kernel⟩
  simp only [gCalls, List.mem_cons, List.not_mem_nil, or_false] at hs hc
  rcases hs with rfl | rfl | rfl | rfl | rfl <;> rcases hc with rfl | rfl <;> decide +kernel

/-- Lane 0 carries the second fragment of a pixel; lane 1 its first. -/
def frag2 (t : Bool) : State := (gV 1 [] id).modGroup G fun x =>
  { x with lanes := [(0, { Lane.zero with frag := some ⟨3, 4, 1, 0, false, 1, t, false⟩ }),
                     (1, { Lane.zero with frag := if t then none else some ⟨3, 4, 0, 0, false, 0, true, false⟩ })] }
theorem wit_OrderAndExit : (∀ s ∈ [frag2 true, frag2 false, gL, gV 0 [] id, gV 0xFFFFFFFF [] id], Claim.LaneReady s G hd .other (fun _ => []) none ∧
      Claim.LaneReady s G hd .basic (fun _ => []) none) ∧
    (Tab.get Lane.zero (gL.group G).lanes 0).frag = none ∧
    orderWaits 0 ((frag2 true).rasterDue 1) ((frag2 true).fragsOf 1) ⟨3, 4, 1, 0, false, 1, true, false⟩ = false ∧
    orderWaits 0 ((frag2 false).rasterDue 1) ((frag2 false).fragsOf 1) ⟨3, 4, 1, 0, false, 1, false, false⟩ = true ∧
    (gV 0 [] id).group G = { (gV 0 [] id).group G with xm := 0xFFFFFFFF } ∧ Claim.lanes (gL) G hd ≠ 0 ∧
    ((gV 1 [] fun x => { x with xm := 0 }).group G).xm ||| 1 ≠ 0xFFFFFFFF ∧ ((gL.group G).xm ||| Claim.lanes gL G hd = 0xFFFFFFFF) := by
  refine ⟨fun s hs => ⟨lane_of ?_, lane_of ?_⟩, by decide +kernel⟩
  all_goals simp only [List.mem_cons, List.not_mem_nil, or_false] at hs; rcases hs with rfl | rfl | rfl | rfl | rfl <;> decide +kernel

/-- A mesh team of a draw that admits 64 vertices of two words and 32 primitives; counts declared or not; lane 0's index is v0. -/
def gMesh (trap : Bool) (c : Option (Nat × Nat)) : State :=
  withT (withL (gV 1 [(0, 3), (64, 2)] id) fun l =>
    { l with lr := { l.lr with flags := if trap then 4 else 0 }, ext := some ⟨0, 0, 0, 0, 64, 32, 2, 0, 0, 0⟩ }) fun t => { t with stage2 := 2, mesh := c }
theorem wit_MeshOutput : (∀ s ∈ [gMesh false none, gMesh true (some (4, 4)), gMesh true (some (3, 3)), gL, gV 0 [] id], ∀ q ∈ ([0, 0x3F] : List (BitVec 13)),
      Claim.LaneReady s G hd .other (usesOf (ruleMesh q) 32 (lop .f32 1)) none) ∧
    (∀ s ∈ [gMesh false none, gMesh true (some (4, 4)), gMesh true (some (3, 3))], (s.team T).stage2 = 2 ∧ Claim.lanes s G hd = 1 ∧
      Claim.source s G hd (usesOf (ruleMesh 0) 32 (lop .f32 1)) 0 0 = 3 ∧ Claim.source s G hd (usesOf (ruleMesh 0x3F) 32 (lop .f32 1)) 0 0 = 3 ∧
      3 ≤ (s.extOf G).maxV ∧ Claim.source s G hd (usesOf (ruleMesh 0) 32 (lop .f32 1)) 1 0 ≤ (s.extOf G).maxP ∧ 1 < (s.extOf G).attrW) ∧
    (((gMesh true (some (4, 4))).team T).mesh.isSome = true ∧ (gMesh true none |>.extOf G).attrW ≤ 3 ∧
      (∀ e ∈ [(4, false), (3, true)], decide (e.1 ≤ Claim.source (gMesh true (some (e.1, e.1))) G hd (usesOf (ruleMesh 0) 32 (lop .f32 1)) 0 0) = e.2)) ∧
    ((gMesh false none).team T).mesh = none ∧ ((gMesh false none).recOf G).meshTrap = false ∧ ((gMesh true none).recOf G).meshTrap = true ∧
    (gL.team T).stage2 ≠ 2 := by
  refine ⟨fun s hs q hq => lane_of ?_, by decide +kernel⟩
  simp only [List.mem_cons, List.not_mem_nil, or_false] at hs hq
  rcases hs with rfl | rfl | rfl | rfl | rfl <;> rcases hq with rfl | rfl <;> decide +kernel

/-! ### Anvil and engine words -/

def dense (cols : Nat) : Word := BitVec.ofNat 32 (31 + 64 * (cols - 1) + 8192)
/-- Tiles t0 and t1 of I8, and the format word in v0; or addresses for transfers. -/
def gTile (ta tb : Word) (v : Tab Word) (f : Group → Group) : State := gV 1 v fun x => f { x with tl := { x.tl with tc := [(0, ta), (1, tb)] } }
def gX : State := gTile (dense 32) (dense 32) [(0, 0x2000), (64, 64)] id
/-- Sixteen lines at 0x2000, each with two masks of eight bits. -/
def gSp : State :=
  let s := gTile (BitVec.ofNat 32 (31 + 64 * 63 + 8192 + 32768)) (dense 64) [(0, 0x2000), (64, 64)] id
  { s with mem := ((List.range 16).flatMap fun i => [(0x2000 + 128 * i, (0xFF : Byte)), (0x2008 + 128 * i, 0xFF)]) ++ s.mem }
def aCmd : AnvilCmd := AnvilCmd.new (.tzero (lop .f32 0)) 1 0
def anvilList : List ((Word → List Use) × Option Put) :=
  let o := lop .f32 0
  [(xferUses o, none), (fun _ => [], none), ((gV 0 [] id).mmaUses o, none), (usesOf (ruleTmov true true o) 32 o, putOf (ruleTmov true true o) o),
   (usesOf (ruleTmov true false o) 32 o, none), (usesOf (ruleTmov false true o) 32 o, putOf (ruleTmov false true o) o), (usesOf (ruleTmov false false o) 32 o, none)]
def gMma (ta tb : Word) (fw : Word) : State := gTile ta tb [(0, fw)] id
theorem wit_AnvilWords : (∀ e ∈ anvilList, Claim.LaneReady (gV 0 [] id) G hd .anvil e.1 e.2 ∧ Claim.LaneReady gX G hd .anvil e.1 e.2) ∧
    Claim.LaneReady gX G hd .anvil (xferUses (lop .f32 0)) none ∧
    (match gX.xferCheck G 1 (lop .f32 0) (dense 32) true 0x2000 64 with | .ok rows => decide (rows.length = 32) | .error _ => false) = true ∧
    (match gSp.xferCheck G 1 (lop .f32 0) (Claim.tileCtl gSp G (.t 0)) false 0x2000 64 with
      | .ok rows => masksOk (Claim.tileCtl gSp G (.t 0)) (rows.flatMap fun r => gSp.xferRead G false r.2) | .error _ => false) = true ∧
    ((gX.group G).anvil.length < 8 ∧ 8 ≤ (List.replicate 8 aCmd).length) ∧
    (∀ e ∈ [(gMma (dense 32) (dense 32) 0x155, false), (gMma (dense 32) (dense 32) 0x156, false), (gMma (BitVec.ofNat 32 (31 + 64 * 63 + 8192 + 32768)) (dense 64) 0x1155, true)],
      Claim.LaneReady e.1 G hd .anvil (e.1.mmaUses (lop .f32 32)) none ∧ Claim.lanes e.1 G hd = 1 ∧
      (let w : Word := BitVec.ofNat 32 (Claim.source e.1 G hd (e.1.mmaUses (lop .f32 32)) 0 0)
       let t := (e.1.group G).tl
       (w = 0x156 → fwFits w (lop .f32 32) e.2 (t.ctl 0) (t.ctl 1) = true) ∧ shapesOk t (lop .f32 32) e.2 w = true ∧ (e.2 = true → sparseOk (t.ctl 0) = true))) ∧
    fwFits 0x155 (lop .f32 32) false (dense 32) (dense 32) = true ∧ fwFits 0x157 (lop .f32 32) false (dense 32) (dense 32) = false ∧
    (let s := gV 3 [(0, 0x155), (1, 0x156)] id; Claim.LaneReady s G hd .anvil (s.mmaUses (lop .f32 32)) none ∧
      ∃ l ∈ lanesOf (Claim.lanes s G hd), (BitVec.ofNat 32 (Claim.source s G hd (s.mmaUses (lop .f32 32)) 0 l) : Word) ≠ 0x155) ∧
    tcSn ((gX.group G).tl.ctl 0) = 0 ∧ tcSn ((gSp.group G).tl.ctl 0) ≠ 0 := by
  refine ⟨fun e he => ⟨lane_of ?_, lane_of ?_⟩, lane_of ?_, ?_, ?_, ?_, fun e he => ⟨lane_of ?_, ?_⟩, ?_, ?_, ⟨lane_of ?_, ?_⟩, ?_⟩
  case refine_1 | refine_2 =>
    simp only [anvilList, List.mem_cons, List.not_mem_nil, or_false] at he
    rcases he with rfl | rfl | rfl | rfl | rfl | rfl | rfl <;> decide +kernel
  case refine_7 | refine_8 =>
    simp only [List.mem_cons, List.not_mem_nil, or_false] at he; rcases he with rfl | rfl | rfl <;> decide +kernel
  all_goals decide +kernel

def aReplay : Replay := ⟨G, 1, 0x2000, true, false, [], none, 0, [], 0, false, none, false⟩
def blkEnds (s : State) : State := s.modGroup G fun x => { x with blk := some ⟨3, 1, true, [], 0, 0x10000⟩ }
/-- The call-site table entry of RTRACE.SHADE names register 8. -/
def gShade : State := blkEnds (calls (gV 1 [(0, 0x2000), (64, 0x3000), (128, 1)] id) [])
theorem wit_EngineWords :
    (∀ s ∈ [gL, gV 0 [] id], let o := lop .f32 0
      Claim.LaneReady s G hd .bellows (usesOf ruleBare 32 o) none ∧ Claim.LaneReady s G hd .bellows (usesOf (ruleCpyred o) 32 o) none ∧
      Claim.LaneReady s G hd .bellows (usesOf (ruleCpynet o) 32 o) none ∧ Claim.LaneReady s G hd .other (usesOf (ruleReplay o) 32 o) none) ∧
    (∀ e ∈ [((0x2000 : Word), (8 : Word), true), (0x2001, 8, false), (0x2000, 9, false)],
      let s := gV 1 [(0, e.1), (64, e.2.1)] id; let o := lop .f32 0
      Claim.LaneReady s G hd .other (usesOf (ruleRtrace false o) 32 o) none ∧
      (((snapVal 1 (s.readUses G 1 (usesOf (ruleRtrace false o) 32 o 1)).2 1).toNat % 8 = 0 ∧
        Tab.get 0 ((s.readUses G 1 (usesOf (ruleRtrace false o) 32 o 1)).2.getD 0 []) 0 % 128 = 0) ↔ e.2.2 = true)) ∧
    (let s := gV 1 [(32, 0xFFFFFFFF), (96, 0xFFFFFFFF)] id; Claim.LaneReady s G hd .other (usesOf (ruleRtrace false (lop .f32 0)) 32 (lop .f32 0)) none ∧
      2 ^ 58 ≤ Tab.get 0 ((s.readUses G 1 (usesOf (ruleRtrace false (lop .f32 0)) 32 (lop .f32 0) 1)).2.getD 0 []) 0) ∧
    (Claim.LaneReady gL G hd .other (fun _ => []) (putOf ruleRres (lop .f32 0)) ∧ gL.uncovered G = [] ∧
      Claim.LaneReady { gL with replays := [(4, aReplay)] } G hd .other (fun _ => []) (putOf ruleRres (lop .f32 0)) ∧
      State.uncovered { gL with replays := [(4, aReplay)] } G = [4]) ∧
    (let o := lop .f32 0; let c := gShade.commit G
     Claim.LaneReady gShade G hd .other (shadeUses (gShade.group G) o) none ∧ gShade.shadePlaced G = true ∧ gL.shadePlaced G = false ∧
      Claim.LaneReady gL G hd .other (shadeUses (gL.group G) o) none ∧
      Tab.get 0 ((gShade.readUses G 1 (shadeUses (gShade.group G) o 1)).2.getD 0 []) 0 = 0x2000 ∧
      Tab.get 0 ((gShade.readUses G 1 (shadeUses (gShade.group G) o 1)).2.getD 2 []) 0 = 1 ∧
      okV (c.callSite G 0 1) [8] = true ∧ 8 < 16 * (c.group G).blocks ∧ c.callReady G (gShade.group G).present [8] = true ∧ (c.group G).mayDissolve = true ∧
      okV ((({ gShade with mem := (0x40008, 7) :: gShade.mem } : State).commit G).callSite G 0 1) [7] = true ∧
      (c.function (c.launchOf G) 1).isSome = true ∧ (c.group G).present = 1 ∧ (Tab.get Lane.zero (c.group G).lanes 0).stack.length < 8 ∧
      (c.team (c.group G).team).recs.length < 64) := by
  refine ⟨fun s hs => ⟨lane_of ?_, lane_of ?_, lane_of ?_, lane_of ?_⟩, fun e he => ⟨lane_of ?_, ?_⟩, ⟨lane_of ?_, ?_⟩, ⟨lane_of ?_, ?_, lane_of ?_, ?_⟩,
    lane_of ?_, ?_, ?_, lane_of ?_, ?_⟩
  case refine_1 | refine_2 | refine_3 | refine_4 =>
    simp only [List.mem_cons, List.not_mem_nil, or_false] at hs; rcases hs with rfl | rfl <;> decide +kernel
  case refine_5 | refine_6 =>
    simp only [List.mem_cons, List.not_mem_nil, or_false] at he; rcases he with rfl | rfl | rfl <;> decide +kernel
  all_goals decide +kernel

/-! ### Issue and performing -/

def store2 : Held := .store .ls [⟨true, 0x40, 0, 0, [7, 8]⟩] [] true true false
def atReq (op : ReqOp) (ls : List AtLane) : AtReq := ⟨G, 1, T, 0, op, false, false, ls, some 3, []⟩
def lane4 : AtLane := ⟨0, 0x2000, 0x2000, 5, 0⟩
/-- Scheduler 0 of core 0, that core's service threads, and a die whose scheduler has issued in the cycle at hand. -/
def u00 : IssueUnit := .sched 0 0
def sc (k : Nat) : IssueUnit := .service k
def spent (s : State) : State := (s.setBusy u00).modCore 0 fun c => { c with lastIssue := [(0, G, 0, false)] }
theorem wit_IssueAndWaits :
    ((0 < 288 ∧ 3 < 4) ∧ (∀ s ∈ [State.reset, gA, spent gA], (s.die 0).stopped = false ∧ s.promotionDue 0 = false ∧ s.clockOk 0 = true) ∧
      State.reset.readyOn 0 0 = [] ∧ gA.readyOn 0 0 = [G] ∧ (spent gA).readyOn 0 0 = [G] ∧ 0 ∉ (gA.die 0).busy ∧ 0 ∈ ((spent gA).die 0).busy ∧
      State.reset.cycleDone 0 = true ∧ gA.cycleDone 0 = false ∧ (spent gA).cycleDone 0 = true ∧ gA.cycleOf (.sched 1 0) = none ∧
      dieOf (gA.team (gA.group G).team).core = 0 ∧ gA.issuedNow G (gA.group G) = false ∧ (spent gA).issuedNow G ((spent gA).group G) = true) ∧
    (State.reset.cycleOf u00 = some (State.reset.tick 0) ∧ (State.reset.tick 0).promotionDue 0 = false ∧ (State.reset.tick 0).readyOn 0 0 = []) ∧
    (∀ w ∈ [none, some Wait.waitm, some (.yield 0x10008), some .efence, some .exit, some (.barrier 3 2 3)],
      let s := sched gA fun x => { x with wait := w }
      s.cycleOf u00 = some s ∧ s.promotionDue 0 = false ∧ s.readyOn 0 0 = [G] ∧ (s.group G).sch.wait = w ∧ s.poisoned T (barKey 2 3) = false ∧
      (s.group G).impr = none ∧ (s.group G).soft < 2 ∧ (s.group G).reg.opened = true) ∧
    (let s := gA.modGroup G fun x => { x with soft := 2 }
     s.cycleOf u00 = some s ∧ s.readyOn 0 0 = [G] ∧ 2 ≤ (s.group G).soft ∧ (s.team (s.group G).team).over? = false) ∧
    (State.reset.cycleOf (sc 3) = some (State.reset.tick 0) ∧ ∀ k ∈ (State.reset.tick 0).svcOrder 3, (State.reset.tick 0).svcReady k = false) ∧
    (∀ s ∈ [sA, sEv], s.cycleOf (sc 0) = some s ∧ s.promotionDue 0 = false ∧ (s.svcOrder 0).find? s.svcReady = some 0) ∧
    ((sEv.svc 0).evs = 32 :: [64] ∧ (sEv.svc 0).due = true ∧ (sA.svc 0).due = false ∧ (sA.svc 0).wait = none) ∧
    (let s := sched gA fun x => { x with ready := 256 }
     (Tab.look s.groups G).isSome = true ∧ s.groupReady G (s.group G) = true ∧ (s.group G).sch.promoted = none ∧ 256 ≤ (s.group G).sch.ready) := by
  decide +kernel

theorem wit_WaitsAndStarts : (∀ s ∈ [State.reset, gA, spent gA], s.edgeDue 0 = false ∧ s.sampleDue 0 = false) ∧
    ((∀ s ∈ [State.reset.tick 0], s.edgeDue 0 = false) ∧ gA.traceHeld G = false) ∧
    (∀ w ∈ [some Wait.waitm, some (.sgrow 16), some (.barrier 3 2 3), some (.ring false 1)],
      let s := sched (gRing 0 0 0) fun x => { x with wait := w }
      s.edgeDue 0 = false ∧ s.barPoison G (barKey 2 3) = false ∧ s.traceHeld G = false ∧ (s.ringOf G 1).isSome = true) ∧
    (let s := onSvc (sA.setSvc 3 Svc.zero) []; (8 * 0 + (3 : Word).toNat % 8 ≠ 0) ∧ (sA.svc 0).stopped = false ∧ (sA.svc 0).halted = false ∧ (s.svc 3).stopped = true) := by
  decide +kernel

def gHeld (hs : List Held) : State := grpS [] fun x => { x with inflight := hs }
def gUnit (rr : RrDesc) (r : AtReq) : State := { withL gA fun l => { l with rr := rr } with units := [(7, [r])] }
theorem wit_AccessesPerform :
    (∀ h ∈ [aStore, store2, .atom (atReq (.int .add) [lane4]), .cmd .stage, .arrive (barKey 2 3)],
      ((gHeld [h]).group G).inflight[0]? = some h ∧ ((gHeld [h]).team T).onCore = true ∧ (gHeld [h]).still 0 = false ∧ (gHeld [h]).linkHeld h = false ∧
      (gHeld [h]).mayPerform G (((gHeld [h]).group G).inflight.take 0) h = true) ∧
    ((gHeld [store2, store2]).mayPerform G (((gHeld [store2, store2]).group G).inflight.take 1) store2 = false ∧
      (gHeld []).isBad 0x2000 4 = false ∧ ((gHeld []).team T).stage < 2 ^ 56 - 1 ∧ (gHeld []).poisoned T (barKey 2 3) = false) ∧
    ((∀ f ∈ [Flit.value G 1], (gJoin.die 0).stopped = false ∧ (((gJoin.die 0).fifo.filter (gJoin.flitLive 0)).head?.all (· == f) = true)) ∧
      ((gJoin.setDie 0 { Die.zero with relock := some 5 }).die 0).stopped = true) ∧
    ((gJoin.group G).pend.find? (fun q => q.id == 1) = some pendLoad ∧ pendLoad.rres = none ∧ pendLoad.bad = [] ∧ (pendLoad.vdst.map Prod.fst).Nodup) ∧
    (∀ r ∈ [atReq (.int .add) [lane4], atReq (.schunk 4) [lane4, { lane4 with va := 0x2008, pa := 0x2008 }]],
      let s := gUnit RrDesc.off r
      (Tab.get [] s.units 7)[0]? = some r ∧ earlierOwn (Tab.get [] s.units 7) 0 r.g = false ∧ s.gate r.launch 7 r.req = .pass ∧
      (s.launch r.launch).rr.mode = 0 ∧ s.isBad 0x2000 8 = false ∧ s.isBad 0x2008 8 = false) ∧
    (let r := atReq (.int .add) [lane4]; let s := gUnit { RrDesc.off with mode := 2 } r
     (Tab.get [] s.units 7)[0]? = some r ∧ s.gate r.launch 7 r.req = .opens 0) ∧
    (let s := sched gA fun x => { x with wait := some (.retry 14) }
     s.still (s.coreOf G) = false ∧ (s.group G).sch.wait = some (.retry 14) ∧ (s.group G).sch.retryAt ≤ (s.die (dieOf (s.coreOf G))).cyc) ∧
    ((Tab.look (armed gA false).groups G).isSome = true ∧ ((armed gA false).group G).mon.armed = true) := by
  decide +kernel

/-! ### Teams and engines -/

def lane0 : SwLane := ⟨0, { Lane.zero with glid := 40 }, [(8, 3)], false⟩
def gBin (r : Option Nat) (cyc : Nat) : State :=
  (withT gA fun t => { t with bins := [(9, ⟨0x10008, 2, 0, [lane0], 0, r⟩)] }).setDie 0 { Die.zero with cyc := cyc }
/-- The group of `s` in SGROW for `b` blocks since cycle 9, at the head of its core's arbiter, with `u` blocks in use; partition 0
has a save area. -/
def gGrowOf (s : State) (b u : Nat) : State :=
  let s := (sched s fun x => { x with wait := some (.sgrow b) }).modCore 0 fun c => { c with used := u, arb := [.sgrow G b 9] }
  { s with parts := [(0, { Part.zero with saveBase := 0x40000000, saveMib := 4 })] }
def gGrow (b u : Nat) : State := gGrowOf gA b u
def msg : BarMsg := ⟨1, 3, 0, 3, 0, 1⟩
def gMsg (n : Nat) (poison : Bool) : State :=
  { withL (gBar poison) fun l => { l with lr := { l.lr with teams := n } } with arrivals := [msg], notices := [msg] }
theorem wit_TeamEvents :
    (let s := gBin none 512; ∃ b, Tab.look (s.team T).bins 9 = some b ∧ (s.team T).st = .running ∧ b.ready = none ∧ b.lanes ≠ [] ∧ b.lastAt + 512 ≤ s.cycOf T) ∧
    (let s := gBin none 511; ∃ b, Tab.look (s.team T).bins 9 = some b ∧ s.cycOf T < b.lastAt + 512) ∧
    (let s := gBin (some 3) 600; ∃ b, Tab.look (s.team T).bins 9 = some b ∧ b.ready.isSome = true ∧ (s.team T).freeIdx = some 1 ∧ s.canForm T b = true ∧
      (∀ e ∈ (s.team T).bins, Bin.before e.2 b = true → s.canForm T e.2 = false) ∧ (s.askingBins 0).map Prod.fst = [T] ∧ s.growGrant 0 = none ∧
      ((gGrowOf s 16 15).growGrant 0).map (fun j => j.before (s.binKeyOf T b)) = some false) ∧
    (let s := gBin none 600; ∃ b, Tab.look (s.team T).bins 9 = some b ∧ s.formNext T b = false) ∧
    (let s := gGrowOf (gBin (some 3) 600) 16 15; ∃ k ∈ s.askingBins 0, s.canForm k.1 k.2 = true ∧ (s.binKeyOf k.1 k.2).before (9, G % 4, G % 16) = true) ∧
    ((gA.core 0).arb = [] ∧ (∀ u ∈ [511, 512], ((gGrow 16 u).core 0).arb = .sgrow G 16 9 :: [] ∧ (gGrow 16 u).askingBins 0 = [] ∧ ((gGrow 16 u).group G).sch.wait = some (.sgrow 16) ∧
      (gGrow 16 u).coreOf G = 0 ∧ (512 < ((gGrow 16 u).core 0).used + (16 - ((gGrow 16 u).group G).blocks) ↔ u = 512))) ∧
    (let s := gGrow 16 512; s.groupsOn 0 ≠ [] ∧ s.runningOn 0 = [T] ∧ (∀ e ∈ s.groupsOn 0, e.2.growing = true) ∧ (s.core 0).quar = [] ∧ s.arbFree 0 = false ∧
      s.roomFor (s.partOfTeam (s.latestTeam (s.runningOn 0))) [T] (s.imageAreas 0) = some [(T, 0x40000000)]) ∧
    (∀ w ∈ [1, 2], ((gA.modCore 0 fun c => { c with quar := [(4, w)] }).core 0).quar[0]? = some (4, w)) ∧
    (∀ n ∈ [1, 2], ∀ p ∈ [true, false], (gMsg n p).arrivals[0]? = some msg ∧ (gMsg n p).notices[0]? = some msg ∧
      ((gMsg n p).launch 1).xbar (xKey 3 0 3) = ⟨0, [], 0, p, false⟩ ∧ ((gMsg n p).team (teamKey 1 0)).over? = false ∧ (gMsg n p).participants 1 3 0 = List.range n) ∧
    (((withT (gMsg 1 false) fun t => { t with st := .ended }).team (teamKey 1 0)).over? = true) ∧
    (let s := (gMsg 1 false).setDie 0 { Die.zero with relock := some 5 }; (s.team T).st = .running ∧ (s.die (dieOf (s.team T).core)).relock.isSome = true) ∧
    (((gMsg 1 false).die (dieOf ((gMsg 1 false).team T).core)).relock = none ∧ ((gMsg 1 false).die (dieOf ((gMsg 1 false).team T).core)).tripped = false) := by
  refine ⟨⟨_, rfl, by decide +kernel⟩, ⟨_, rfl, by decide +kernel⟩, ⟨_, rfl, by decide +kernel⟩, ⟨_, rfl, by decide +kernel⟩, by decide +kernel⟩

def gCmd (i : Instr) (fw : Word) (k : Nat) (f : AnvilCmd → AnvilCmd) : State :=
  gMma (dense 32) (dense 32) 0 |>.modGroup G fun x => { x with anvil := [f { AnvilCmd.new i 1 fw with id := 5, kdim := k }] }
/-- A copy of 4 bytes from 0x2000, or the window, to offset 256 of the window, or past its end (`far`); its stamp at offset 0x700. -/
def sEnt (glob far : Bool) : SEntry := ⟨if glob then 0x2000 else 0, if far then 0x100000 else 0x100, 0x700, 0, 0, 0, 0, 0, 4, 1, 0, !glob, true, true⟩
def gCopy (x : SEntry) (left : Option (List Nat)) : State := withT gA fun t => { t with copies := [(2, .sched 3 5 0 x left)] }
/-- A network copy of 4 bytes from the window, its local stamp at offset 64 of the window or none, held until TIME `relt`. -/
def aDesc (relt : Nat) (stamp : Bool) : NetDesc := ⟨0, if stamp then 64 else 0, 0, relt, 4, 0, 0, true, true, true, 0⟩
def gNet (relt : Nat) (sent stamp : Bool) : State :=
  let s := withT gA fun t => { t with copies := [(2, .net G 0x4000 9 (aDesc relt stamp) sent false)] }
  { s with ctxs := [(0, { Ctx.zero with peers := [(0, ⟨[], 0, 0, 0⟩)], job := 7 })] }
/-- The link behind which 0x2000 lies retrains. -/
def gHold : State := { gA with links := [(cxlPort 0x2000, .retraining, 0)] }
def red (n : Nat) : Reduction := ⟨G, T, 0, n, 0, .i32, false, 0x2000, 0x2100, 4, 0, 0x3000, some [0]⟩
theorem red_one (s : State) (n : Nat) : s.redPick (red n) = some 0 := by simp [State.redPick, Nat.mod_one, red]
theorem red_none (s : State) (n : Nat) : s.redPick { red n with left := some [] } = none := by simp [State.redPick, red]
def gRed (n : Nat) : State := withL gA fun l => { l with reds := [(4, red n)], rexp := [(0, 6)] }
def okB {α : Type} (x : Except Bad α) : Bool := match x with | .ok _ => true | .error _ => false
/-- With one word left a copy moves it; with none its stamp is due. -/
theorem pick_one (s : State) (x : SEntry) (w : Nat) : s.copyPick x (some [w]) = some w := by simp [State.copyPick, Nat.mod_one]
theorem pick_none (s : State) (x : SEntry) : s.copyPick x (some []) = none := by simp [State.copyPick]
theorem wit_FormingAndGranting : (let s := gBin none 512; s.still 0 = false) ∧
    (let s := gBin (some 3) 600; s.still 0 = false ∧ s.holdDue 0 = false ∧
      ∃ b, Tab.look (s.team T).bins 9 = some b ∧ s.formFirst T b = true ∧ s.formNext T b = true ∧ b.holdOver (s.cycOf T) = false) ∧
    (let s := gGrowOf (gBin (some 3) 600) 16 15; ∃ k ∈ s.askingBins 0, s.formFirst k.1 k.2 = true ∧ (s.binKeyOf k.1 k.2).before (9, G % 4, G % 16) = true) ∧
    (let s := gGrow 16 511; s.still 0 = false ∧ s.holdDue 0 = false) ∧
    (((gA.setDie 0 { Die.zero with relock := some 5 }).still 0) = true) ∧
    (let s := gMsg 1 false; (s.team T).onCore = true ∧ (s.die 0).stopped = false ∧ (s.die 0).fifo = []) := by
  refine ⟨by decide +kernel, ⟨by decide +kernel, by decide +kernel, _, rfl, by decide +kernel⟩, ?_, by decide +kernel, by decide +kernel, by decide +kernel⟩
  decide +kernel

def stepsTo (s : State) (x : SEntry) (left : List Nat) : Option (Option (List Nat)) :=
  match left with
  | [] => match s.copyWrite T 1 x.stspad (x.stamp 0) (leBytes 8 ((5 + 1) * 256 + 3)) with | .ok _ => some none | .error _ => none
  | w :: _ => match s.copyRead T 1 x.sspad (x.src 0 0 w) 4 with
    | .ok bs => (match s.takeFree.copyWrite T 1 x.dspad (x.dst 0 0 w) bs with | .ok _ => some (some []) | .error _ => none)
    | .error _ => none

theorem wit_EngineEvents :
    (pickCmd [] (gA.group G).anvil = none ∧ (∀ e ∈ [(Instr.tzero (lop .f32 8), (0 : Word), 0), (.tmma (lop .f32 32), 0x155, 32), (.tmmas (lop .f32 32), 0x1155, 64)],
      (pickCmd [] ((gCmd e.1 e.2.1 e.2.2 id).group G).anvil).map AnvilCmd.word = some e.1) ∧ (fwSn 0x155 != 0) = false ∧ (fwSn 0x1155 != 0) = true) ∧
    (let i : Instr := .tmma (lop .f32 (1024 + 32)); ∀ e ∈ [(false, none, GateState.wait), (true, some (barKey 2 3, 0), .wait), (true, none, .go), (true, some (barKey 3 3, 0), .poison)],
      let s := withL (gCmd i 0x155 32 fun c => { c with committed := e.1, gate := e.2.1 }) fun l => { l with lr := { l.lr with nlev := 4, teams := 1 }, xbars := [(xKey 3 0 3, ⟨0, [], 0, true, false⟩)] }
      (s.team (s.group G).team).onCore = true ∧ (firstGated (s.group G).anvil).map (s.gateOf G) = some e.2.2) ∧
    ((∀ f ∈ [true, false], ∀ w ∈ ([[0], []] : List (List Nat)), let x := sEnt false f
        ((gCopy x (some w)).team T).over? = false ∧ Tab.look ((gCopy x (some w)).team T).copies 2 = some (.sched 3 5 0 x (some w)) ∧ ((gCopy x (some w)).team T).idx = 0 ∧
        stepsTo (gCopy x (some w)) x w = if w = [] then some none else if f then none else some (some [])) ∧
      okB ((gCopy (sEnt false false) (some [0])).copyRead T 1 true 0 4) = true ∧ (sEnt false false).sspad = true ∧ (sEnt false false).stspad = true ∧
      (∀ w, (gCopy (sEnt false false) (some [w])).copyPick (sEnt false false) (some [w]) = some w) ∧
      (gCopy (sEnt false false) (some [])).copyPick (sEnt false false) (some []) = none ∧
      gHold.copyBehind T false (SEntry.src (sEnt true false) 0 0 0) 4 = true) ∧
    (∀ r ∈ [0, 5], ∀ sent ∈ [true, false], ∀ st ∈ [true, false],
      Tab.look ((gNet r sent st).team T).copies 2 = some (.net G 0x4000 9 (aDesc r st) sent false) ∧ (gNet r sent st).time (dieOf ((gNet r sent st).team T).core) = 0 ∧
      (gNet r sent st).copyBehind T (aDesc r st).sspad (aDesc r st).src 4 = false ∧ ((aDesc r st).lstamp = 0 ↔ st = false) ∧ (aDesc r st).lspad = true ∧
      (aDesc r st).lstamp.toNat + 8 ≤ ((gNet r sent st).team T).size ∧ okB ((gNet r sent st).copyRead T 1 true 0 4) = true) ∧
    (∀ n ∈ [5, 6, 7], Tab.look ((gRed n).launch 1).reds 4 = some (red n) ∧ Tab.get 0 ((gRed n).launch 1).rexp 0 = 6 ∧ ((gRed n).team T).over? = false ∧
      okB ((gRed n).redStep 0 (red n)) = true ∧ (gRed n).redHeld 0 (red n) = false ∧ ((gRed n).launch 1).redBusy 4 0 = false ∧
      (gRed n).copyRange 0 0 2 false 0x2000 4 = .ok [(0x2000, 4)] ∧ (gRed n).copyRange 0 0 2 true 0x2100 4 = .ok [(0x2100, 4)] ∧
      okB ((gRed n).redStep 0 { red n with left := some [] }) = true) ∧
    (∀ (s : State) (n : Nat), s.redPick (red n) = some 0 ∧ s.redPick { red n with left := some [] } = none) ∧
    ((∀ c ∈ gA.ctxs, c.2.job ≠ 7) ∧ ((gNet 0 true true).ctxs.find? (fun c => c.2.job == 7)).isSome = true ∧
      (gNet 0 true true).copyRange 0 0 1 true 0x2000 2 = .ok [(0x2000, 2)] ∧ okB ((gNet 0 true true).copyRange 0 0 1 true 0x10000000000000 2) = false) := by
  refine ⟨by decide +kernel, by decide +kernel, ⟨by decide +kernel, by decide +kernel, by decide +kernel, by decide +kernel, fun w => pick_one _ _ w, pick_none _ _, by decide +kernel⟩,
    by decide +kernel, fun n hn => ⟨?_, ?_, ?_, ?_, ?_, ?_, ok_of ?_, ok_of ?_, ?_⟩, fun s n => ⟨red_one s n, red_none s n⟩, by decide +kernel, by decide +kernel, ok_of (by decide +kernel), by decide +kernel⟩
  case refine_4 => rw [State.redStep, red_one]; dsimp only; revert n; decide +kernel
  case refine_5 => rw [State.redHeld, red_one]; dsimp only; revert n; decide +kernel
  case refine_9 => rw [State.redStep, red_none]; dsimp only; revert n; decide +kernel
  all_goals (revert n; decide +kernel)

theorem wit_HeldAndOpen :
    (let s := { gHeld [.cmd (.shade [5])] with rays := [(5, { launch := 1, team := T, g := G, slot := 0x2000, counter := 0x2800, shade := none, st := RayState.held, core := 0, words := [], stack := [], first := true })] }
     (s.group G).inflight[0]? = some (.cmd (.shade [5])) ∧ (s.team T).onCore = true ∧ s.linkHeld (.cmd (.shade [5])) = false ∧
      s.mayPerform G [] (.cmd (.shade [5])) = true ∧ (Tab.look s.rays 5).map Ray.st = some RayState.held) ∧
    ((gHold.linkHolds 0x2000 4 = true) ∧ (gA.linkHolds 0x2000 4 = false)) ∧
    (let s := gJoin.setDie 0 { Die.zero with fifo := [.value G 1] }; (s.die 0).stopped = false ∧ (s.die 0).fifo.filter (s.flitLive 0) = [.value G 1]) ∧
    (let s := sched gA fun x => { x with wait := some (.retry 14) }; s.still (s.coreOf G) = false) := by decide +kernel

/-- A TLD of one row of two words at 0x2000, the first of them read or not. -/
def gTld (got : Tab Word) : State :=
  gCmd (.tld (lop .f32 0)) (dense 32) 0 fun c => { c with committed := true, rows := [(0x2000, [(0x2000, 8)])], got := got }
theorem wit_TransfersAndCopies :
    (∀ got ∈ [[], [(0, (7 : Word))]], let s := gTld got; s.still (s.coreOf G) = false ∧
      (pickCmd [] (s.group G).anvil).map (fun c => (c.word, c.toRead, c.wordsAt)) = some (.tld (lop .f32 0), if got = [] then [0, 1] else [1], [0x2000, 0x2004]) ∧
      s.linkHolds 0x2000 4 = false) ∧
    (let s := gTld [(0, 7), (1, 7)]; (pickCmd [] (s.group G).anvil).map AnvilCmd.toRead = some []) ∧
    (∀ f ∈ [true, false], (gCopy (sEnt true f) (some [0])).copyHeld T (sEnt true f) 0 (some [0]) = false ∧ (gCopy (sEnt true f) (some [0])).still 0 = false) ∧
    (∀ s : State, s.copyAddr T (.sched 3 5 0 (sEnt true false) (some [])) .copyCxl = none ∧
      s.copyAddr T (.sched 3 5 0 (sEnt true false) (some [])) .copyMemory = some ((sEnt true false).stamp (s.team T).idx)) ∧
    ((gNet 0 false true).netBehind T (aDesc 0 true) = false ∧ (gNet 0 false true).netYields T (aDesc 0 true) = false ∧ (gNet 0 true true).still 0 = false) ∧
    ((gNet 0 true true).heldC 0 0 0x2000 2 = false ∧ gHold.heldC 0 0 0x2000 2 = true) := by
  refine ⟨by decide +kernel, by decide +kernel, fun f hf => ⟨?_, ?_⟩, fun s => ?_, by decide +kernel, by decide +kernel⟩
  · unfold State.copyHeld; rw [pick_one]; dsimp only; revert f; decide +kernel
  · revert f; decide +kernel
  · simp [State.copyAddr, State.copyAts, pick_none, sEnt, Nat.mod_one]

/-! ### Rays, replays, launches, units -/

/-- A ray of the group with its record at 0x2000 and its program at 0x5000 (DONE) or 0x5008 (a move and a FETCH). -/
def aRay (st : RayState) (pc : Word) : Ray :=
  { launch := 1, team := T, g := G, slot := 0x2000, counter := 0x2800, shade := none, st := st, core := 0,
    words := ((List.replicate 32 0).set 8 pc).set 15 0x100, stack := [], first := true }
def gRay (r : Ray) : State :=
  let s := calls { gA with rays := [(5, r)], parts := [(0, { Part.zero with quads := [0] })] } []
  { s with mem := [(0x5000, 0x10), (0x5008, 8), (0x5010, 2), (0x6000, 1), (0x6008, 1)] ++ s.mem }
def ends (k : Nat) (r : Ray) : Bool :=
  let s := gRay r
  match TStep.run 65 true r.progpc ⟨s.bump (s.launch r.launch).ctx 7, s.asidL r.launch, r, none, [], none, false⟩ with
  | .cut _ => k == 0
  | .done x => k == 1 && (match x.s.trWrite x.r.core (s.asidL r.launch) x.r.slot x.r.bytes with | .ok _ => true | .error _ => false)
  | _ => false
theorem wit_RayEvents :
    (let r := aRay .queued 0x5000; let s := gRay r
     Tab.look s.rays 5 = some r ∧ r.st = .queued ∧ r.first = true ∧ { r with first := false }.first = false ∧ s.servesLaunch 0 r.launch = true ∧
      s.servesLaunch 288 r.launch = false ∧ (match s.trRead 0 (s.asidL r.launch) r.slot 128 with | .ok _ => true | .error _ => false) = true ∧
      (({ r with first := false }.setStatus 0).legal = true ∧ (Ray.setStatus r 0).spillDepth = 0)) ∧
    (let r := { aRay .queued 0x5000 with slot := 0x1000000000 }; let s := gRay r
     (match s.trRead 0 (s.asidL r.launch) r.slot 128 with | .ok _ => false | .error b => serviced b) = true) ∧
    (let r := { aRay .queued 0x5000 with slot := 0x400000000000000 }; let s := gRay r
     r.shade = none ∧ (match s.trRead 0 (s.asidL r.launch) r.slot 128 with | .ok _ => false | .error b => !serviced b) = true) ∧
    ((aRay .running 0x5000).legal = true ∧ ends 1 (aRay .running 0x5000) = true ∧ ends 0 (aRay .running 0x5008) = true) ∧
    (let s := gRay (aRay .callback 0x5000); s.translateC 0 (s.asidL 1) ((aRay .callback 0x5000).slot.toNat + 61) { path := some 4 } = .ok 0x203D 0x3F1F ∧
      s.rdByte 0x203D = 0 ∧ ({ s with mem := (0x203D, 1) :: s.mem } : State).rdByte 0x203D ≠ 0) ∧
    (let s := gRay (aRay .counting 0x5000); s.trRange 0 (s.asidL 1) true 0x2800 8 = .ok [(0x2800, 8)] ∧ (aRay .counting 0x5000).status ≠ 6 ∧
      (match s.trRange 0 (s.asidL 1) true 0x400000000000000 8 with | .ok _ => false | .error b => !serviced b) = true) ∧
    (let r := { aRay .delivering 0x5000 with shade := some (0x6000, lane0) }; let s := gRay r
     r.shade = some (0x6000, lane0) ∧ (s.team r.team).st = .running ∧ (s.team r.team).launch = r.launch ∧ s.shaderOf r 0x6000 = some 1 ∧
      s.function r.launch 1 = some (0x10000, 1, 0) ∧ (∀ st ∈ [TeamState.vacating, .terminated], ((withT s fun t => { t with st := st }).team T).st = st ∧ (withT s fun t => { t with st := st }).ray 5 = some r)) := by
  refine ⟨by decide +kernel, by decide +kernel, by decide +kernel, by decide +kernel, by decide +kernel, ⟨ok_of (by decide +kernel), by decide +kernel⟩, by decide +kernel⟩

theorem wit_RaySteps :
    (let r := aRay .queued 0x5000; let s := gRay r; s.trHolds { r with core := 0 } r.slot 128 = false ∧ s.still 0 = false) ∧
    (let r := aRay .running 0x5000; let s := gRay r; r.core = 0 ∧ s.stepHeld r (s.nodeWords r) = false ∧ s.nodeWords r = []) ∧
    (let r := { aRay .running 0x5010 with words := (((List.replicate 32 0).set 8 0x5010).set 15 0x100).set 10 0x7000 }
     let s := { gRay r with mem := [(0x5010, 2), (0x5014, 1), (0x5018, 1), (0x501C, 1)] ++ gA.mem }
     (s.nodeWords r).length = 8 ∧ r.got = [] ∧ s.stepHeld r (s.nodeWords r) = false) ∧
    (let s := { gRay (aRay .counting 0x5000) with links := gHold.links }; s.trHolds (aRay .counting 0x5000) 0x2800 8 = true) ∧
    (let s := gRay (aRay .counting 0x5000); s.trHolds (aRay .counting 0x5000) 0x2800 8 = false) ∧
    (let s := gRay (aRay .delivering 0x5000); (s.die 0).stopped = false ∧ (s.die 0).fifo = []) := by decide +kernel

def thread_ (placed done : Bool) (fault : Nat) : RThread := ⟨[], [], [], 77, 0, fault, placed, done, []⟩
/-- A valid block at 0x2000, of one thread, and one that breaks its layout at 0x2400. -/
def gRep (r : Replay) (st : TeamState) : State :=
  { withT (gRed 6) fun t => { t with st := st } with replays := [(4, r)], mem := [(0x2038, 1), (0x203C, 1)] ++ gA.mem }
theorem wit_ReplayEvents :
    (let s := gRep aReplay .running; Tab.look s.replays 4 = some aReplay ∧ aReplay.started = false ∧ aReplay.released = true ∧ aReplay.failed = false ∧
      aReplay.blk.toNat % 8 = 0 ∧ ((s.cmdDone aReplay.g).vRead ((s.ctx (s.launch 1).ctx).asid) 5 aReplay.blk 64).map (fun b => (parseBlock b).ok) = some true ∧
      ((s.cmdDone aReplay.g).vRead ((s.ctx (s.launch 1).ctx).asid) 5 0x2400 64).map (fun b => (parseBlock b).ok) = some false ∧
      ((s.cmdDone aReplay.g).vRead ((s.ctx (s.launch 1).ctx).asid) 5 0x1000000000 64).isNone = true ∧ (0x2004 : DWord).toNat % 8 ≠ 0) ∧
    (∀ x ∈ [thread_ false true 0, thread_ false false 3, thread_ false false 0, thread_ true false 0], ∀ st ∈ [TeamState.running, .terminated],
      let r := { aReplay with started := true, relaunch := some 1, threads := [x], bytes := leBytes 4 0 }
      let s := gRep r st
      r.threads[0]? = some x ∧ (s.team (teamKey 1 (0 / max 1 (32 * (s.launch 1).lr.tgrps)))).st = st ∧ s.laneLives 1 x.glid = false ∧
      s.recPending 1 x.glid = false) := by decide +kernel

theorem wit_ReplayHeld :
    (let s := gRep aReplay .running; s.duskHeld ((s.ctx (s.launch 1).ctx).asid) aReplay = false ∧ ((s.launch aReplay.launch).ctx = 0) ∧ s.vHolds 0 0 16 = false ∧
      s.vHolds 0 ((s.launch 1).lr.recBase + BitVec.ofNat 64 (48 * 77)) 48 = false ∧ s.vHolds 0 (slotAt (s.launch 1).lr.ovBase (s.launch 1).lr.cap 77) (8 + 8 * (s.launch 1).lr.cap) = false) ∧
    (let s := { gRep aReplay .running with links := gHold.links }; s.duskHeld 0 aReplay = true) ∧
    (let s := { gRep aReplay .running with mem := [(0x2030, 4), (0x2038, 1), (0x203C, 1)] ++ gA.mem }
     ((s.cmdDone G).vRead 0 5 aReplay.blk 64).map (fun b => ((parseBlock b).ok, (parseBlock b).lrec.toNat % 64 == 0)) = some (true, false)) ∧
    ({ thread_ true true 0 with word := [1] }.word ≠ [] ∧ { thread_ true true 0 with word := [1] }.done = true) := by decide +kernel

/-- Queue 0 of context 0 with one entry at 0x7000, of that form byte; no launch yet. -/
def gQ (form valid : Bool) : State :=
  { gA with ctxs := [(0, { Ctx.zero with queues := [(0, { Queue.zero with base := 0x7000, size := 4, tail := 1, valid := valid })], qCount := 1 })],
            vfs := [(0, { Vf.zero with active := some 0, ctxs := [0] })], ctl := { gA.ctl with feature := some 0 },
            mem := (if form then [(0x7038, 1)] else []) ++ gA.mem, parts := [(0, { Part.zero with quads := [0] })] }
/-- That machine with launch 1 of two teams waiting and none placed. -/
def gPl (f : Launch → Launch) : State := { withL (gQ true true) fun l => f { l with lr := { l.lr with teams := 2 } } with teams := [], groups := [] }
theorem wit_LaunchEvents :
    ((gQ true false).queueFree 0 0 = false ∧ (∀ f ∈ [true, false], (gQ f true).queueFree 0 0 = true ∧
      ((gQ f true).headEntry 0 0).map (fun b => ((gQ f true).entryReady 0 b, entryOk ((gQ f true).queueOf 0 0).frame b)) = some (true, f))) ∧
    (((gPl fun l => { l with done := true }).launch 1).done = true ∧
      (let s := gPl id; let x := s.launch 1
       x.done = false ∧ x.rejected = false ∧ s.waitingTeams 1 ≠ [] ∧ s.ctxActive x.ctx = true ∧ s.firstInLine 1 = true ∧ x.lr.split = false ∧
       s.nextFor 1 0 = some 0 ∧ s.nextFor 1 287 = none ∧ Tab.look s.teams (teamKey 1 0) = none ∧ x.replay = none ∧ x.lr.tgrps ≤ 16)) ∧
    (let s := gPl fun l => { l with finished := 2 }; let x := s.launch 1
     (Tab.look s.launches 1).isSome = true ∧ x.quenched = false ∧ x.rejected = false ∧ x.teamsOver = true ∧ x.fixed = [] ∧
      s.teams.all (fun e => e.2.launch != 1 || e.2.over?) = true ∧ s.units.all (fun e => e.2.all fun r => r.launch != 1) = true ∧ x.lr.detWords = 0) ∧
    (let s := gPl fun l => { l with finished := 2, quenched := true, doneA := 0x2000 }; let x := s.launch 1
     (Tab.look s.launches 1).isSome = true ∧ x.done = false ∧ s.launchIdle 1 = true ∧ x.replay = none ∧ x.rr.mode = 0 ∧ x.doneA ≠ 0 ∧
      s.translate (s.asidL 1) x.doneA.toNat { write := true } = .ok 0x2000 0x3F1F) ∧ (gPl id).launchIdle 1 = false := by decide +kernel

def aFault (w : Option Waiter) : FaultRec := ⟨0, .pageFault, 0, 0, 0, 3, 0, 0, 0, 0, 0, 0, 0, 0, 0, 0, 0, w⟩
/-- That record first in the queue, the ring of context 0 (of `size` records at 0x2000) empty. -/
def gFr (size : Nat) (w : Option Waiter) (out : List Outstanding) : State :=
  { gA with ctxs := [(0, { Ctx.zero with frBase := 0x2000, frSize := size, out := out })], faults := [aFault w, aFault none] }
def aQuad : FragQuad := ⟨0, 2, 4, 0xF, 6, 0, 0, [], false⟩
/-- A draw with primitive 6 on the fixed path; one pixel function, of index 1. -/
def gDraw : State :=
  let s := calls { withL gA fun l => { l with fixed := [6], ext := some ⟨0, 0, 0, 0x6000, 64, 32, 2, 0, 0, 0⟩ } with parts := [(0, { Part.zero with quads := [0] })] } []
  { s with mem := [(0x6000, 1), (0x6004, 1)] ++ s.mem }
def gPix : State := { gQ true true with teams := [(teamKey 1 1, { Team.zero with launch := 1, idx := 1, stage2 := 4, st := .queued })] }
def aTrace (sper : Nat) : Trace := ⟨0x40000000, 4, sper, 1, 0, 0, 0, 0⟩
def gSamp (sper cyc : Nat) : State :=
  ({ gA with parts := [(0, { Part.zero with quads := [0], trace := some (aTrace sper) })] } : State).setDie 0 { Die.zero with cyc := cyc }
/-- That draw with its visibility words from 0x8000 on. -/
def gVis : State := withL gDraw fun l => { l with ext := some ⟨0, 0, 0, 0x6000, 64, 32, 2, 0, 0, 0x8000⟩ }
/-- Where the place of a pixel's word, which stays open (log entry 30), is the buffer's first, the word translates. -/
theorem wit_VisibilityWord (h : Config.visIndex 3 4 = 0) :
    ∃ pa pte, gVis.translateC 0 (gVis.asidL 1) (visAddr 0x8000 (2 + 1 % 2) (4 + 1 / 2)).toNat { write := true, path := some 0 } = .ok pa pte := by
  refine ⟨0x8000, 0x3F1F, ?_⟩
  rw [show visAddr 0x8000 (2 + 1 % 2) (4 + 1 / 2) = 0x8000 by simp [visAddr, h]]
  decide +kernel
/-- Core 0's traced group, in FULL mode. -/
def gFullTrace : State :=
  { gA.modCore 0 fun c => { c with traced := some G } with parts := [(0, { Part.zero with quads := [0], trace := some { aTrace 0 with mode := 1 } })] }
theorem wit_TraceHeld (h : Config.freeNat gFullTrace.free % 2 = 1) : gFullTrace.traceHeld G = true ∧ gFullTrace.readyOn 0 0 = [G] ∧
    gFullTrace.cycleOf u00 = some gFullTrace := by
  refine ⟨?_, by decide +kernel, by decide +kernel⟩
  have : gFullTrace.tracedFull G = true := by decide +kernel
  simp [State.traceHeld, this, h]

theorem wit_EntryReached : (((gQ true true).setCtx 0 { (gQ true true).ctx 0 with queues := [(0, { Queue.zero with base := 0x7000, size := 4, tail := 1, valid := true, reached := true })] }).queueOf 0 0).reached = true ∧
    ((gQ true true).queueOf 0 0).reached = false := by decide +kernel

theorem wit_UnitEvents :
    (let w : Walk := { asid := 0, vpn := 0, part := 0, who := [(G, 0)] }; let s := gA.setDie 0 { Die.zero with walks := [w, { w with vpn := 2 ^ 30 }] }
     ((s.die 0).walks.take 64)[0]? = some w ∧ (match s.walkOn 0 w.asid 0 with | .ok _ => true | .error _ => false) = true ∧
      (match s.walkOn 0 w.asid (2 ^ 30 * 2 ^ 14) with | .ok _ => false | .error _ => true) = true ∧ (Tab.look s.groups G).isSome = true) ∧
    (let s := gFr 4 none []; s.faults[0]? = some (aFault none) ∧ (∀ q ∈ s.faults.take 0, q.source ≠ (aFault none).source) ∧
      (∃ q ∈ s.faults.take 1, q.source = (aFault none).source) ∧ ringRoom (s.ctx 0).frHead (s.ctx 0).frTail (s.ctx 0).frSize = true ∧
      s.ctxPa 0 (ringAt (s.ctx 0).frBase (s.ctx 0).frTail (s.ctx 0).frSize 64) true = some 0x2000) ∧
    ringRoom ((gFr 0 none []).ctx 0).frHead ((gFr 0 none []).ctx 0).frTail ((gFr 0 none []).ctx 0).frSize = false ∧
    (∃ o ∈ ((gFr 4 (some (.ray 5)) [⟨0, 3, 0, 0, .pageFault, 0, [], [5]⟩]).ctx 0).out, Outstanding.covers o (aFault (some (.ray 5))) = true) ∧
    (let s := withT gA fun t => { t with stage2 := 2, st := .ended, mesh := some (3, 1), meshP := [(0, 0x020100)] }
     (s.team T).stage2 = 2 ∧ (s.team T).st = .ended ∧ (∀ k ∈ (s.team T).survivors, ∃ i ∈ [(⟨0, (0, 0), (2560, 0), (0, 2560), false⟩ : TriInfo)], TriInfo.prim i = k) ∧ (gA.team T).stage2 ≠ 2) ∧
    (gDraw.quadOk 1 aQuad = true ∧ gDraw.quadOk 1 { aQuad with px := 3 } = false ∧ aQuad.cover ≠ 0 ∧ (gDraw.launch 1).frags + 4 ≤ 2 ^ 31 ∧
      gDraw.pixelFn 1 aQuad.material = some 1 ∧ gDraw.function 1 1 = some (0x10000, 1, 0) ∧ Tab.look gDraw.teams (teamKey 1 ((gDraw.launch 1).lr.teams + 0)) = none) ∧
    (let f : FragQuad := { aQuad with cover := 2, keys := [1, 2, 3, 4] }
     gVis.quadOk 1 f = true ∧ f.last = false ∧ f.cover = BitVec.ofNat 4 (2 ^ 1) ∧ (((gVis.launch 1).ext).getD ⟨0, 0, 0, 0, 0, 0, 0, 0, 0, 0⟩).visBase ≠ 0) ∧
    (let t := teamKey 1 ((gPix.launch 1).lr.teams + 0)
     (Tab.look gPix.teams t).isSome = true ∧ windowBase (gPix.core 0).wins (4096 * (gPix.launch 1).lr.spad) = some 0 ∧ (gPix.team t).stage2 = 4 ∧
      (gPix.team t).st = .queued ∧ gPix.ctxActive (gPix.launch 1).ctx = true) ∧
    (∀ cyc ∈ [2 ^ 20 + 6, 2 ^ 20 + 7], let s := (sched gA fun x => { x with orderFrom := some 7 }).setDie 0 { Die.zero with cyc := cyc }
     (s.group G).sch.orderFrom = some 7 ∧ (s.group G).sch.stalled = false ∧
      ((s.die (s.orderDie G)).cyc < 7 + 2 ^ (s.queueOf (s.launch (s.launchOf G)).ctx (s.launch (s.launchOf G)).queue).wdog ↔ cyc = 2 ^ 20 + 6)) ∧
    (∀ e ∈ [(0, 0), (3, 8), (3, 9)], let s := gSamp e.1 e.2; s.traceOf 0 = some (aTrace e.1) ∧ s.nextSlot 0 0 = some G ∧
      Tab.look (s.core 0).lastSlot 0 = none ∧ (s.die (dieOf 0)).cyc = e.2) ∧
    (∀ h ∈ [true, false], let s := sched (withT gA fun t => { t with stop := some [] }) fun x => { x with halted := h }
     (s.team T).stop = some [] ∧ (((s.group G).sch.halted = true ∨ (s.group G).sch.parked = true) ↔ h = true) ∧ (s.team T).groups = [(0, G)]) := by
  refine ⟨?_, ?_, ?_, ?_, ?_, ?_, ?_, ?_, ?_, ?_, ?_⟩ <;> decide +kernel

/-- Two walks wait on die 0, the second of a page that no entry maps; the link of the tables retrains, or does not. -/
def gWalks (b : Bool) : State :=
  let w : Walk := { asid := 0, vpn := 0, part := 0, who := [(G, 0)] }
  let s := gA.setDie 0 { Die.zero with walks := [w, { w with vpn := 2 ^ 30 }] }
  if b then { s with links := (List.range 16).map fun k => (k, .retraining, 0) } else s
theorem wit_UnitsHeld :
    (∀ b ∈ [true, false], ((gWalks b).die 0).walks.length = 2 ∧ (gWalks b).walkHeld 0 0 0 = b ∧ (gWalks false).walkHeld 0 0 (2 ^ 30 * 2 ^ 14) = false) ∧
    (gDraw.still aQuad.core = false ∧ (gDraw.setDie 0 { Die.zero with relock := some 5 }).still aQuad.core = true) ∧
    (∀ e ∈ [(3, 8, true), (3, 8, false)], let s := if e.2.2 then (gSamp e.1 e.2.1).setDie 0 { ((gSamp e.1 e.2.1).die 0) with busy := [0] } else gSamp e.1 e.2.1
      s.cycleDone 0 = e.2.2 ∧ s.still 0 = false ∧ (s.sampleOf 0 0).isSome = true) ∧
    ((sched gA fun x => { x with orderFrom := some 7, stalled := true }).group G).sch.stalled = true := by decide +kernel

/-! ### Devices, boot, service -/

theorem wit_DeviceAndBootEvents :
    (let s := State.reset.setDie 1 { Die.zero with relock := some 5, steps := [1500, 600] }
     (s.die 1).relock = some 5 ∧ (s.die 1).steps = 1500 :: [600] ∧ (2399 < 2400 ∨ 2450 < 2399) ∧ (2400 ≤ 2450 ∧ (s.die 1).time ≤ 5 + 2400)) ∧
    (∀ n ∈ [999, 1000], let s := (State.reset.setDie 0 { Die.zero with time := n }); let t : State := { s with sems := [(3, ⟨true, 1000, false⟩)] }
     Tab.look t.sems 3 = some ⟨true, 1000, false⟩ ∧ ((t.die 0).time < 1000 ↔ n = 999)) ∧
    (State.reset.link (16 + 7) = .up ∧ ((-500 : Int) ≤ -500 ∧ (-500 : Int) ≤ 500)) ∧
    ((2 : BitVec 4).toNat < 3 ∧ 3 ≤ (3 : BitVec 4).toNat ∧ (Tab.look gA.groups G).isSome = true ∧ (gA.group G).impr = none ∧
      Tab.look ((gCopy (sEnt true false) none).team T).copies 2 = some (.sched 3 5 0 (sEnt true false) none) ∧ ((gCopy (sEnt true false) none).team T).over? = false) ∧
    (∀ n ∈ [2000006, 2000007], let s : State := { State.reset.setDie 1 { Die.zero with time := n } with links := [(4, .retraining, 7)] }
     Tab.look s.links 4 = some (.retraining, 7) ∧ (7 + 2000000 ≤ (s.die (4 / 4)).time ↔ n = 2000007) ∧ s.link 4 = .retraining) ∧
    (State.reset.link 4 ≠ .retraining ∧ State.reset.link 4 ≠ .down ∧ State.reset.link 20 = .up) ∧
    ((1 : Word) ≠ 0 ∧ (3 : Byte).toNat ≤ 3) ∧
    (mhzOk 600 = true ∧ mhzOk 1800 = true ∧ mhzOk 500 = false ∧ (State.reset.die 2).finalMhz = 1400 ∧ State.reset.ctl.capW = 2000 ∧
      decide (2000 < (2001 : BitVec 16).toNat) = decide (1300 < 1400) ∧ decide (2000 < (2000 : BitVec 16).toNat) = decide (1500 < 1400)) ∧
    ((State.reset.die 3).tripped = false ∧ ((State.reset.setDie 3 { Die.zero with tripped := true }).die 3).tripped = true) ∧
    (State.reset.ctl.bootPending = true ∧ State.reset.bootSlot = none ∧ sA.ctl.flash = []) ∧
    ((Tab.look gA.ctxs 0).isSome = true ∧ Tab.look gA.ctxs 1 = none ∧ (gA.ctx 0).evHeld = []) := by
  refine ⟨?_, ?_, ?_, ?_, ?_, ?_, ?_, ?_, ?_, ?_⟩ <;> decide +kernel

/-- A die that relocks while a message is on its way, or none; both restart after others that wait for them. -/
def gRelock (b : Bool) : State :=
  { State.reset.setDie 1 { Die.zero with relock := some 5, steps := [1500, 600] } with arrivals := if b then [msg] else [] }
theorem wit_DeviceErrors :
    (∀ b ∈ [true, false], ((gRelock b).die 1).relock = some 5 ∧ ((gRelock b).die 1).steps = [1500, 600] ∧ (gRelock b).mayRestart 1 (5 + 2400) = !b) ∧
    ((Tab.look ({ State.reset with sems := [(3, ⟨true, 0, true⟩)] } : State).sems 3).map Sem.told = some true) ∧
    (∀ s : State, s.copyAddr T (.sched 3 5 0 (sEnt true false) (some [])) .copyMemory = some ((sEnt true false).stamp (s.team T).idx) ∧
      s.copyAddr T (.sched 3 5 0 (sEnt true false) (some [])) .copyCxl = none) ∧
    (∀ n ∈ [6, 7], Tab.look ((gRed n).launch 1).reds 4 = some (red n) ∧ ((gRed n).team (red n).team).over? = false ∧
      ((red n).n = Tab.get 0 ((gRed n).launch 1).rexp (red n).region ↔ n = 6)) ∧
    (let s : State := { State.reset with ctl := { State.reset.ctl with corrected := [(7, 0)] } }
     Tab.look s.ctl.corrected 7 = some (s.time (dieOfSource 7) / 1000000000) ∧ Tab.look s.ctl.corrected 8 ≠ some (s.time (dieOfSource 8) / 1000000000)) := by
  refine ⟨by decide +kernel, by decide +kernel, fun s => ⟨?_, ?_⟩, by decide +kernel, by decide +kernel⟩ <;>
    simp [State.copyAddr, State.copyAts, pick_none, sEnt, Nat.mod_one]

/-- The slot that runs holds an image of security version 5. -/
def gRun (n : Nat) : State :=
  { State.reset with ctl := { State.reset.ctl with flash := [(0, ⟨1, 5, 0, [], [], [], []⟩)], running := some 0, rollback := n } }
theorem wit_RollbackRequest : (∀ n ∈ [0, 5], (gRun n).ctl.running = some 0 ∧ Tab.look (gRun n).ctl.flash 0 = some ⟨1, 5, 0, [], [], [], []⟩ ∧ (gRun n).ctl.rollback = n) ∧
    (∀ h ∈ [4, 5, 6], ((0 < (BitVec.ofNat 32 h).toNat ∧ (BitVec.ofNat 32 h).toNat ≤ 5) ↔ h ≤ 5)) := by decide +kernel

/-- R416: a slot whose image has its lengths, the key that the fuses hold and a signature that ML-DSA accepts is entered (what
SHA3-256 and ML-DSA compute stays open). -/
theorem wit_BootSlot (k : List Byte) (sg body : List Byte) (hk : k.length = 1312) (hs : sg.length = 2420)
    (hv : Config.mldsaVerify k (Config.sha3 (Image.header ⟨1, 0, body.length, List.replicate 52 0, k, sg, body⟩ ++ body)) sg = true) :
    let i : Image := ⟨1, 0, body.length, List.replicate 52 0, k, sg, body⟩
    State.bootSlot { State.reset with ctl := { State.reset.ctl with flash := [(0, i)], keyHash := Config.sha3 k } } = some 0 := by
  have hr : State.reset.ctl.rollback = 0 := by decide
  have ha : State.reset.ctl.activeSlot = 0 := by decide
  simpa [State.bootSlot, State.imageOk, Tab.look, hk, hs, hr, ha] using hv

/-- A request of the host, or of context 0 of virtual function 0, on endpoint A, with these argument bytes. -/
def rq (host : Bool) (args : List Byte) : Req := ⟨false, 0, 9, if host then 0xFF else 0, 0, (args ++ List.replicate 48 0).take 48⟩
/-- A booted module, its feature word accepted, every slot held by endpoint A, with context 0 and launch 1. -/
def sv : State :=
  { gQ true true with
    sems := (List.range 8).map fun k => (k, ⟨false, 1000000, false⟩)
    ctl := { gA.ctl with feature := some 0, bootPending := false }
    mem := [(0x2000, 0), (0x2008, 4), (0x2014, 1)] ++ (gQ true true).mem }
def servedB (s : State) (q : Req) (early : Bool) (who : Issuer) (slot : Option Nat) (named : List (Nat × Nat)) : Bool :=
  !s.ctl.bootPending && !s.ctl.bootFailed && !s.behindOwn q && (early || s.ctl.feature.isSome) && s.issuerOk q who &&
    (match slot with | some n => (match Tab.look s.sems n with | some m => m.heldBy q.endpointB (s.die 0).time | none => false) | none => true) && reqArgsOk q named
theorem served_of {s : State} {q : Req} {e : Bool} {w : Issuer} {sl : Option Nat} {n : List (Nat × Nat)} (h : servedB s q e w sl n = true) :
    Claim.Served s q e w sl n := by
  simp only [servedB, Bool.and_eq_true, Bool.not_eq_true', Bool.or_eq_true] at h
  refine ⟨⟨h.1.1.1.1.1.1, h.1.1.1.1.1.2⟩, h.1.1.1.1.2, h.1.1.1.2, h.1.1.2, fun k hk => ?_, h.2⟩
  have := h.1.2
  subst hk
  dsimp only at this
  split at this
  · exact ⟨_, ‹_›, this⟩
  · cases this

theorem wit_ServiceRefusals :
    (Claim.Command (rq true []) (.clkset (rq true [])) false .host (some 4) [(16, 1), (18, 2)]) ∧
    (State.reset.ctl.bootPending = true ∧ sv.ctl.bootPending = false ∧ sv.ctl.bootFailed = false ∧ sv.ctl.feature.isSome = true ∧ sv.issuerOk (rq true []) .host = true ∧
      sv.issuerOk (rq false []) .host = false ∧ ({ sv with ctl := { sv.ctl with feature := none } } : State).ctl.feature.isSome = false) ∧
    (∃ m, Tab.look sv.sems 4 = some m ∧ m.heldBy false (sv.die 0).time = true) ∧ Tab.look ({ sv with sems := [] } : State).sems 4 = none ∧
    reqArgsOk (rq true [0, 1]) [(16, 1), (18, 2)] = false := by
  refine ⟨by simp [Claim.Command], by decide +kernel, ⟨_, rfl, by decide +kernel⟩, by decide +kernel, by decide +kernel⟩

theorem wit_RequestBehind : (let s : State := { sv with ctl := { sv.ctl with waiting := [.req (rq true []) false] } }
     s.ctl.bootPending = false ∧ s.behindOwn (rq true []) = true ∧ s.behindOwn (rq false []) = false ∧ sv.behindOwn (rq true []) = false) := by decide +kernel

/-- Context 0 sharing its launch's team with the group parked behind record 7. -/
def svOut : State :=
  { sched { sv with teams := gA.teams, groups := gA.groups } fun x => { x with parked := true } with
    ctxs := [(0, { sv.ctx 0 with out := [⟨7, 3, 0, 0, .pageFault, 0, [G], []⟩], profs := [⟨0x2400, [0xFFFF], [5], []⟩], job := 7 })] }
def a8 (n : Nat) : List Byte := leBytes 8 n
theorem wit_ServiceCommands :
    -- every command is served, with arguments in range
    (∀ x ∈ [(rq false (a8 0), Issuer.context, (none : Option Nat), [(16, 2)]), (rq false (a8 7), .contextOrHost, none, [(16, 4), (20, 1)]),
        (rq false [0, 0, 0, 0, 0, 0, 0, 0, 0], .contextOrHost, none, [(16, 4), (20, 4), (24, 1)]), (rq true [], .contextOrHost, none, [(16, 4), (20, 4)]),
        (rq false [], .contextOrHost, none, [(16, 4)]), (rq true [], .guestOrHost, none, [(16, 2)]), (rq true [0, 0, 0, 0, 0x20, 1], .host, none, [(16, 1), (20, 4)]),
        (rq true [31], .host, none, [(16, 1)]), (rq true (a8 0x2000), .host, some 6, [(16, 8)]), (rq false (a8 0x2000), .context, none, [(16, 8)]),
        (rq true [3, 0, 0x58, 2], .host, some 4, [(16, 1), (18, 2)]), (rq true ([15, 0, 0, 0, 0, 0, 0, 0] ++ a8 0), .host, some 0, [(16, 1), (17, 1), (18, 2), (20, 4), (24, 8), (32, 8), (40, 8)]),
        (rq true [3, 7, 15, 2], .host, some 1, [(16, 1), (17, 1), (18, 1), (19, 1)]),
        (rq true ([15, 7, 0, 3, 0, 0, 0, 0] ++ a8 0 ++ a8 (2 ^ 28)), .host, some 2, [(16, 1), (17, 1), (18, 1), (19, 1), (24, 8), (32, 8), (40, 8), (48, 2)]),
        (rq false [0xFF, 0x0F], .context, none, [(16, 2), (24, 32)]), (rq true [63, 1, 7, 15, 32], .host, some 3, [(16, 1), (17, 1), (18, 1), (19, 1), (20, 4), (24, 8), (32, 4)]),
        (rq true [0xFF, 0x0F], .host, some 5, [(16, 2), (24, 8)]),
        (rq true ([0, 0, 0, 0, 0, 0, 0, 0] ++ a8 0 ++ [16, 0, 0, 0, 16, 0, 0, 0] ++ a8 0 ++ a8 0 ++ [1]), .guestOrHost, none, [(16, 1), (18, 2), (20, 3), (24, 8), (32, 4), (36, 4), (40, 8), (48, 8), (56, 2)]),
        (rq true [0xFF, 0xFF], .host, none, [(16, 2), (24, 8), (32, 8)]), (rq true [], .any, none, [(16, 32), (48, 8)]), (rq true (a8 0x2000), .host, some 7, [(16, 8), (24, 4)]),
        (rq true [0x20, 3], .host, some 4, [(16, 2)]), (rq true ([7, 0, 0, 0, 0, 0, 0, 0] ++ a8 1000), .host, none, [(16, 1), (24, 8)]), (rq true [7], .host, none, [(16, 1)])],
      Claim.Served svOut x.1 false x.2.1 x.2.2.1 x.2.2.2) ∧
    -- contexts
    ((sv.vf 0).switching = none ∧ 0 < (sv.ctx 0).qCount ∧ sv.ctxPa 0 ((sv.ctx 0).qtBase + 0x2000) false = some 0x2000 ∧ sv.isBad 0x2000 64 = false ∧
      queueDescOk (sv.rdBytes 0x2000 64) = true) ∧
    (((svOut.ctx 0).out.find? (fun o => o.seq == 7)).isSome = true ∧ (Tab.look svOut.groups G).isSome = true ∧ svOut.ctxLaunch 0 0 = some 1 ∧
      (Tab.look svOut.teams T).isSome = true ∧ (svOut.team T).over? = false ∧ (svOut.team T).st ≠ .exported ∧ svOut.targetGroups T 0 = some [G] ∧
      (svOut.group G).sch.parked = true ∧ 0 < (svOut.launch 1).lr.teams ∧ (svOut.team T).launch = 1) ∧
    (let s : State := { sv with vfs := [(0, Vf.zero)] }; (Tab.look s.ctxs 0).isSome = true ∧ fromHost (rq true []) = true ∧ (s.vf 0).switching = none ∧ (s.vf 0).active = none) ∧
    ((onSvc sv []).svc 0).stopped = false ∧ (((onSvc sv []).setSvc 0 { Svc.zero with halted := true }).svc 0).halted = true ∧
    (let s : State := { sv with mem := [(0x2011, 1)] ++ gA.mem }; (s.reqRead (rq false []) 0x2000 64).map rrDescOk = some true) ∧
    ((sv.reqRead (rq false []) 0x2400 192).map (fun b => (List.range 16).all fun k => field b (4 * k + 2) 2 == 0) = some true) ∧
    (((svOut.ctx 0).profs.find? (fun p => p.addr == 0x2400)).isSome = true ∧
      (svOut.reqWrite (rq false []) (0x2400 + 64) (svOut.profWords ⟨0x2400, [0xFFFF], [5], []⟩)).isSome = true) ∧
    (pow2In 16 65536 16 = true ∧ pow2In 16 65536 65536 = true ∧ State.vfPart { sv with parts := [(0, { Part.zero with vfs := [0] })] } 0 = some 0 ∧ (sv.vf 0).ctxs.length < 64) ∧
    -- the host
    (sv.isBad 0x2000 64 = false ∧ (let s : State := { sv with mem := [(0x2008, 4)] ++ gA.mem }; s.traceDescOk 0 (s.rdBytes 0x2000 64) = true) ∧ mhzOk 600 = true ∧
      ({ sv with ctl := { sv.ctl with feature := some 0x1000 } } : State).capable 12 = true ∧ sv.taken 15 [] [] = false ∧ sv.inUse 15 [] [] = false ∧ sv.poolClash (15 * 8 + 7) 0 (2 ^ 43) (2 ^ 28) = false ∧ sv.admitted 63 0 + 25 * 32 ≤ 800 ∧
      ({ sv with ctl := { sv.ctl with feature := none } } : State).ctl.feature = none ∧ (sv.reqRead (rq true []) 0x2000 64).isSome = true) ∧
    (∀ m, Tab.look sv.sems 7 = some m → m.holder = false) ∧ (Tab.look sv.sems 7 = some ⟨false, 1000000, false⟩ ∧ Sem.heldBy ⟨false, 1000000, false⟩ false (sv.die 0).time = true) := by
  refine ⟨fun x hx => served_of ?_, ?_, ?_, ?_, ?_, ?_, ?_, ?_, ?_, ?_, ?_, ?_, ?_⟩
  case refine_1 =>
    simp only [List.mem_cons, List.not_mem_nil, or_false] at hx
    rcases hx with rfl | rfl | rfl | rfl | rfl | rfl | rfl | rfl | rfl | rfl | rfl | rfl | rfl | rfl | rfl | rfl | rfl | rfl | rfl | rfl | rfl | rfl | rfl | rfl <;> decide +kernel
  case refine_12 => intro m hm; cases hm; rfl
  all_goals decide +kernel

/-- Virtual function 0 with context 0 active, whose one team runs on core 0 of partition 0, which has a save area. -/
def gPre : State :=
  { sv with teams := gA.teams, groups := gA.groups, parts := [(0, { Part.zero with quads := [0], saveBase := 0x40000000, saveMib := 4 })] }
theorem wit_Preemptvf : (gPre.vf 0).switching = none ∧ (gPre.vf 0).active = some 0 ∧ (gPre.coresOfCtx 0).take 2 = [0] ∧ (gPre.vacateCores [0]).2 = 1 ∧
    (gPre.teams.map Prod.fst).Nodup ∧ (∀ p ∈ gPre.rays, p.2.st ≠ .running) ∧ (gPre.team T).st = .running ∧
    Claim.Served gPre (rq true [0, 0, 0, 0, 1]) false .host none [(16, 1), (20, 4)] ∧
    Claim.Command (rq true [0, 0, 0, 0, 1]) (.preemptvf (rq true [0, 0, 0, 0, 1])) false .host none [(16, 1), (20, 4)] ∧
    (let s : State := { gPre with parts := [] }; (s.vacateCores [0]).2 = 0) := by
  refine ⟨by decide +kernel, by decide +kernel, by decide +kernel, by decide +kernel, by decide +kernel, by decide +kernel, by decide +kernel,
    served_of (by decide +kernel), by simp [Claim.Command], by decide +kernel⟩

/-! ### The machine as a whole -/

theorem wit_EncodeDecode : (Instr.add ⟨false, true⟩ 1 2 63).wf = true ∧ encode (.add ⟨false, true⟩ 1 2 63) = some (.one 0x1FC20410) := by decide +kernel
theorem wit_WordsAreCanonical : (0x1FC20410 : Word).extractLsb' 0 2 ≠ 1 ∧ (decode (.one 0x1FC20410)).toOption = some (.add ⟨false, true⟩ 1 2 63) ∧
    (0x00000155 : Word).extractLsb' 0 2 = 1 := by decide +kernel

/-- A service thread at a word, and a group at a word and in a block at a lane word. -/
def gCode (ws : List Word) (blk : Bool) : State :=
  let s := grpS [] fun x => { x with thr := { x.thr with pcs := 0x24000 }, blk := if blk then some ⟨0, 2, false, [], 0, 0x24000⟩ else none }
  { s with mem := s.mem ++ ((ws.flatMap fun w => leBytes 4 w.toNat).zipIdx.filterMap fun (b, i) => if b = 0 then none else some ((if blk then 0x20000 else 0x24000) + i, b)) }
def codeB (s : State) (lane : Bool) (a : DWord) (w : Word) : Bool :=
  match s.cur with
  | .group g => decide (a.toNat < 2 ^ 58) && (match s.translateG g (s.asidOf g) a.toNat { xs := !lane, xl := lane } with
    | .ok pa _ => !s.linkHolds pa 4 && !s.isBad pa 4 && w.toNat == s.rdLe pa 4 | _ => false)
  | .svc _ => !lane && decide (a.toNat + 4 ≤ s.ctl.image.length) && w.toNat == ofLeBytes ((s.ctl.image.drop a.toNat).take 4)
  | .none => false
theorem code_of {s : State} {l : Bool} {a : DWord} {w : Word} (h : codeB s l a w = true) : Claim.CodeAt s l a w := by
  unfold codeB at h
  unfold Claim.CodeAt
  split at h
  · simp only [Bool.and_eq_true, decide_eq_true_eq] at h
    rename_i g hc
    rw [hc]
    have h2 := h.2
    split at h2
    · simp only [Bool.and_eq_true, Bool.not_eq_true', beq_iff_eq] at h2
      exact ⟨h.1, _, _, ‹_›, h2.1.1, h2.1.2, h2.2⟩
    · cases h2
  · rename_i t hc
    simp only [Bool.and_eq_true, Bool.not_eq_true', decide_eq_true_eq, beq_iff_eq] at h
    rw [hc]; exact ⟨h.1.1, h.1.2, h.2⟩
  · cases h
/-- The next event of a machine issues a thread whose word is that instruction, which executes (after a prefix, with the next one). -/
def issues (s : State) (i : Instr) : Bool :=
  match s.nextEvent with
  | some (e, t) => isEvent e && (match exec e t with
    | .next u => u.cur != .none && (match u.begun.fetch with
      | .ok (j, v) => j == i && (match exec j v with | .next _ => true | _ => false)
      | .error _ => false)
    | _ => false)
  | none => false
def stepsOk (s : State) : Bool := match step s with | .next t => t.memOk && t.svcOk | _ => false
def wLd : Word := 0b0000000011#10 ++ 7#6 ++ 6#6 ++ 0x50#8 ++ 0b01#2
def wVadd : BitVec 96 := 0#13 ++ 0#1 ++ 0#3 ++ 8#5 ++ 0#1 ++ 1#3 ++ 0#13 ++ (0b00#2 ++ 2#8 ++ 0#1 ++ 0#2) ++ (0b00#2 ++ 1#8 ++ 0#1 ++ 0#2) ++
  (0b00#2 ++ 8#8) ++ 5#10 ++ 1#2 ++ 0x001#9
def gLd : State := gCode [wLd, 16] false
def gLane : State := gCode [wVadd.extractLsb' 0 32, wVadd.extractLsb' 32 32, wVadd.extractLsb' 64 32] true
theorem wit_StepRunsDecoded :
    (Claim.ScalarNext (sPfx 4) 0x4002 ∧ Claim.CodeAt (sPfx 4) false (sPfx 4).thr.wordAt 0x4002 ∧ (decode (.one 0x4002)).toOption = some (.pfx true false .rne)) ∧
    (Claim.ScalarNext (gCode [0x1FC20410] false) 0x1FC20410 ∧ Claim.CodeAt (gCode [0x1FC20410] false) false (gCode [0x1FC20410] false).thr.wordAt 0x1FC20410) ∧
    (Claim.ScalarNext gLd wLd ∧ wLd.extractLsb' 0 2 = 1 ∧ gLd.lastWord gLd.thr.wordAt = false ∧ Claim.CodeAt gLd false gLd.thr.wordAt wLd ∧
      Claim.CodeAt gLd false (gLd.thr.wordAt + 4) 16 ∧ (decode (.two wLd 16)).toOption = some (.ld .b64 false false 6 7 16)) ∧
    (gLane.cur = .group G ∧ (gLane.group G).blk ≠ none ∧ (∀ k : Fin 3, Claim.CodeAt gLane true (gLane.pcOf G + BitVec.ofNat 64 (4 * k.val)) (wVadd.extractLsb' (32 * k.val) 32)) ∧
      ((decode (.lane wVadd)).toOption).isSome = true) ∧
    issues (State.reset.withFetchWord 32 0x1FC20410) (.add ⟨false, true⟩ 1 2 63) = true ∧
    issues (State.reset.withFetchWord 64 (0x4002 + 2 ^ 32 * 0x1FC20410)) (.pfx true false .rne) = true := by
  refine ⟨⟨?_, code_of ?_, ?_⟩, ⟨?_, code_of ?_⟩, ⟨?_, ?_, ?_, code_of ?_, code_of ?_, ?_⟩, ⟨?_, ?_, ?_, ?_⟩, ?_, ?_⟩
  case refine_1 => rw [Claim.ScalarNext, show (sPfx 4).cur = .svc 0 by decide +kernel]; trivial
  case refine_4 => rw [Claim.ScalarNext, show (gCode [0x1FC20410] false).cur = .group G by decide +kernel]; exact ⟨by decide +kernel, by decide +kernel⟩
  case refine_6 => rw [Claim.ScalarNext, show gLd.cur = .group G by decide +kernel]; exact ⟨by decide +kernel, by decide +kernel⟩
  case refine_14 =>
    have h : ∀ k : Fin 3, codeB gLane true (gLane.pcOf G + BitVec.ofNat 64 (4 * k.val)) (wVadd.extractLsb' (32 * k.val) 32) = true := by decide +kernel
    exact fun k => code_of (h k)
  all_goals decide +kernel

/-- Reset, and reset with an instruction placed, meet the invariants and take a step. -/
theorem wit_StepKeepsMemoryForm : ∀ s ∈ [State.reset, State.reset.withFetchWord 32 0x1FC20410], s.memOk = true ∧ s.svcOk = true ∧ stepsOk s = true := by
  intro s hs
  simp only [List.mem_cons, List.not_mem_nil, or_false] at hs
  rcases hs with rfl | rfl <;> decide +kernel
theorem wit_StepKeepsServiceRegisters : ∃ t, State.reset.svcOk = true ∧ step State.reset = .next t := by
  have h := (wit_StepKeepsMemoryForm State.reset (by simp)).2
  unfold stepsOk at h
  split at h
  · exact ⟨_, h.1, ‹_›⟩
  · cases h.2

/-! ### Well-formedness: an ill-formed term for each check -/

/-- R181: U without W on logic and shifts; R157: xm is no destination; R199: SX of a 64-bit load. -/
theorem test_wf_scalar : Instr.wf (.and ⟨true, false⟩ 1 2 3) = false ∧ Instr.wf (.ld .b64 true false 1 2 0) = false ∧
    Instr.wf (.mmov (.s 1) .em) = true ∧ Instr.wf (.mmov .xm .em) = false := by decide +kernel
/-- R200, R209: CAS and SCHUNK name an even register, SCHUNK not s0. -/
theorem test_wf_atom : (∀ d : SReg, Instr.wf (.atom .add false false d 1 2) = true) ∧ Instr.wf (.atom .cas false false 63 1 2) = false ∧
    Instr.wf (.schunk 63 1 2) = false ∧ Instr.wf (.schunk 0 1 2) = false := by decide +kernel
/-- R201, R202, R213: special registers of no level, levels 0 and 1 of a barrier, block counts 0 and 16. -/
theorem test_wf_levels : Instr.wf (.srd 1 (.crd 0)) = false ∧ Instr.wf (.swr (.crd 1) 1) = false ∧ Instr.wf (.bara 1 0) = false ∧ Instr.wf (.barw 1 1 0) = false ∧
    Instr.wf (.bar 1 0 15) = false ∧ Instr.wf (.bar 1 2 15) = true ∧ Instr.wf (.sgrow 0) = false ∧ Instr.wf (.sshrink 16) = false ∧ Instr.wf (.sgrow 15) = true := by decide +kernel
/-- R333, R360: a target pair needs two registers, and the form for all names none. -/
theorem test_wf_system : Instr.wf (.park 1 63) = false ∧ Instr.wf (.ctxld 1 63 2) = false ∧ Instr.wf (.l1inv true 1) = false ∧ Instr.wf (.tlbia true 1) = false := by
  decide +kernel
/-- R217, R218: formats a row does not take, SAT and a rounding mode where the row has none, an XF bit it does not use, and a
destination that is no register of four. -/
theorem test_wf_lane : Instr.wf (.vadd (lop .f32 0)) = false ∧ Instr.wf (.vfadd (lop .i32 0)) = false ∧ Instr.wf (.vmin { lop .i32 0 with sat := true }) = false ∧
    Instr.wf (.vadd { lop .i32 0 with rnd := .rtz }) = false ∧ Instr.wf (.vpopc (lop .f32 1)) = false ∧ Instr.wf (.vlsr (lop .f32 6)) = false ∧
    Instr.wf (.vmovi hd (.v 240) 0) = false := by decide +kernel
theorem test_wf_lane_memory : Instr.wf (.vld (lop .f32 7)) = false ∧ Instr.wf (.vst (lop .f32 (2 + 8))) = false ∧ Instr.wf (.vldlk (lop .f32 3)) = false ∧
    Instr.wf (.vfatom (lop .f32 (2 + 128 * 3))) = false ∧ Instr.wf (.vld (lop .f32 (2 + 32))) = false := by decide +kernel
theorem test_wf_engines : Instr.wf (.cpyred (lop .f32 0)) = false ∧ Instr.wf (.cpynet (lop .f32 0)) = false ∧ Instr.wf (.replay (lop .f32 0)) = false ∧
    Instr.wf (.ttov (lop .f32 (256 + 8))) = false := by decide +kernel

/-! ### Decoding: words written out from the spec's encodings, highest field first -/

def one (w : Word) : Option Instr := (decode (.one w)).toOption
def two (w v : Word) : Option Instr := (decode (.two w v)).toOption
/-- A lane word of three 32-bit words, the lowest address first. -/
def three (a b c : Word) : Option Instr := (decode (.lane (c ++ b ++ a))).toOption
/-- VER = 1, SCB = 0, no predicate. -/
def h0 : LaneHdr := ⟨true, 0, 0, false⟩
def v (n : Byte) : Src := ⟨.v n false, 0⟩

/-- The listing of 08_encodings_and_opcode_maps.md (offsets 0x00 to 0x5C). -/
theorem test_dec_listing : two 0x121 3 = some (.region 3) ∧ two 0x1081 0x3F800000 = some (.movl 4 0x3F800000) ∧ one 0xC02 = some (.pfx false false .rdn) ∧
    one 0x014418A0 = some (.fadd .f32 6 4 5) ∧ one 0x2002 = some (.pfx false true .rne) ∧ two 0x00441C89 0x7FFFFFFF = some (.addl ⟨false, true⟩ 7 4 0x7FFFFFFF) ∧
    one 0x00C02060 = some (.addi 8 0 3) ∧ one 0xFFC82060 = some (.addi 8 8 0x3FF) ∧ two 0x004800E5 0 = some (.brc .ne 8 0) ∧ one 4 = some .nop ∧
    two 0x006100E9 4 = some (.brm .any (.p 1) 4) ∧ one 0x00402560 = some (.srd 9 .grpidx) ∧ two 0x2485 1 = some (.movh 9 1) ∧
    one 0x01C62810 = some (.add ⟨false, false⟩ 10 6 7) ∧ one 0 = none ∧ two 1 0 = none := by decide +kernel
/-- The examples of 09_scalar_instructions.md, and of 15, 17, 23 and 25. -/
theorem test_dec_scalar : one 0x21C61420 = some (.div ⟨true, false⟩ 5 6 7) ∧ two 0x02C004FD 0x28 = some (.lrun true (.imm 11) 40) ∧ one 0x08001588 = some (.bar 5 2 0) ∧
    one 0x104001A4 = some (.mfence .ls .cp .team) ∧ one 0x100301A4 = some (.mfence .mx .ls .team) ∧ two 0x001411E1 0x10 = some (.schunk 4 20 16) ∧
    one 0x000001E4 = some (.ringp 0) ∧ one 0x000001E8 = some (.ringg 0) ∧ one 0x01C60C44 = some (.shl ⟨false, false⟩ 3 6 7) ∧ one 0x00821470 = some (.shli 5 2 2) ∧
    one 0x00032050 = some (.mov 8 3) ∧ two 0x20942149 0 = some (.atom .xchg false false 8 20 0) ∧ one 0x02482840 = some (.xor ⟨false, false⟩ 10 8 9) ∧
    two 0x02852945 0 = some (.st .b32 true 10 5 0) ∧ one 0xF8 = some .exit ∧ one 0x04002960 = some (.srd 10 .cyc) ∧ one 0x0C002588 = some (.bar 9 3 0) := by decide +kernel
/-- `VFADD.F32 v3, v1, -w2` with STALL = 4; `VLOP3 v5, v1, v2, v3, 0xE8` (R222). -/
theorem test_dec_arithmetic : three 0x00602220 0x00811004 0 = some (.vfadd ⟨⟨true, 4, 0, false⟩, .v 3, v 1, ⟨.w 2, 1⟩, v 0, .f32, .rne, false, 0⟩) ∧
    three 0x00A00213 0x30010004 0x07400000 = some (.vlop3 ⟨h0, .v 5, v 1, v 2, v 3, .f32, .rne, false, 0xE8⟩) := by decide +kernel
/-- `VLD.B32 v10, [s20 + v3 << 2]`, `VST.B128 [s21], v0`, `VDRAW v7, 6`. -/
theorem test_dec_lane_memory : three 0x01400280 0x00018950 0x02900000 = some (.vld ⟨h0, .v 10, ⟨.s 20 false, 0⟩, v 3, v 0, .f32, .rne, false, 0x52⟩) ∧
    three 0x00000281 0x00000954 0x00200000 = some (.vst ⟨h0, .v 0, ⟨.s 21 false, 0⟩, v 0, v 0, .f32, .rne, false, 4⟩) ∧
    three 0x00E00298 0 0x00300000 = some (.vdraw ⟨h0, .v 7, v 0, v 0, v 0, .f32, .rne, false, 6⟩) := by decide +kernel
/-- `TMMA a1, t0, t2, v8, v20, v22, 1`, `TMMAS a0, t0, t2, v8, v20, v22, 0`, STAGE, `RTRACE.SHADE [s21], [s20], v0, cs0`. -/
theorem test_dec_engines : three 0x00000303 0x600A0020 0x0A080001 = some (.tmma ⟨h0, .v 0, v 8, v 20, v 22, .f32, .rne, false, 0x141⟩) ∧
    three 0x00000304 0x600A0020 0x02000001 = some (.tmmas ⟨h0, .v 0, v 8, v 20, v 22, .f32, .rne, false, 0x40⟩) ∧
    three 0x310 0 0 = some (.stage ⟨h0, .v 0, v 0, v 0, v 0, .f32, .rne, false, 0⟩) ∧
    three 0x318 0x012A0954 0x00080000 = some (.rtraceShade ⟨h0, .v 0, ⟨.s 21 false, 0⟩, ⟨.s 20 false, 0⟩, v 0, .f32, .rne, false, 1⟩) := by decide +kernel
/-- System words from their fields (R333): IMM10, A, D, opcode, length. -/
theorem test_dec_system : one (0#10 ++ 4#6 ++ 3#6 ++ 0xE4#8 ++ 0b00#2) = some (.park 3 4) ∧ one (0#10 ++ 5#6 ++ 3#6 ++ 0xE4#8 ++ 0b00#2) = none ∧
    one (0x123#10 ++ 0#6 ++ 0#6 ++ 0xED#8 ++ 0b00#2) = some (.svc 0x123) := by decide +kernel
/-- Micro-instructions (R172; the listing of 13_traversal_microcode.md): `JCND.TRI leaf`, `HITR 0`. -/
theorem test_dec_micro : parseMicro 0x000000060003000F = ⟨0x0F, 0, 0, 0, 0, 3, 6⟩ ∧ (parseMicro 0x000000060003000F).ok = true ∧
    parseMicro 0xC = ⟨0x0C, 0, 0, 0, 0, 0, 0⟩ ∧ (parseMicro 0x8000).ok = false := by decide +kernel

end Sys2Proof.Tests
end

section
/-! SUPPORT. Tables whose values are all changed, and written twice. -/

namespace Sys2Proof.Machine

variable {α β : Type}

/-- A key of a table whose values are changed one by one. -/
theorem Tab.look_map (t : Tab α) (f : Nat × α → Nat × β) (hf : ∀ e, (f e).1 = e.1) (n : Nat) :
    Tab.look (t.map f) n = (Tab.look t n).map fun v => (f (n, v)).2 := by
  induction t with
  | nil => rfl
  | cons e t ih =>
    obtain ⟨k, v⟩ := e
    rw [List.map_cons, ← Prod.mk.eta (p := f (k, v)), hf]
    by_cases hk : k = n
    · subst hk; simp [Tab.look]
    · simp [Tab.look, hk, ih]

/-- What holds between each value and its change, and of the default, holds between what a key reads as before and after. -/
theorem Tab.get_map {R : α → α → Prop} {d : α} {t u : Tab α} {f : Nat × α → Nat × α} (hu : u = t.map f) (hf : ∀ e, (f e).1 = e.1)
    (hd : R d d) (hR : ∀ e, R e.2 (f e).2) (n : Nat) : R (Tab.get d t n) (Tab.get d u n) := by
  rw [hu, Tab.get, Tab.get, Tab.look_map t f hf]
  cases Tab.look t n with
  | none => exact hd
  | some v => exact hR (n, v)

theorem Tab.del_of_notMem (t : Tab α) (n : Nat) (h : ∀ e ∈ t, e.1 ≠ n) : Tab.del t n = t := by
  induction t with
  | nil => rfl
  | cons e t ih =>
    obtain ⟨k, v⟩ := e
    rw [Tab.del, if_neg (h (k, v) List.mem_cons_self), ih fun e he => h e (List.mem_cons_of_mem _ he)]

theorem Tab.del_ins (t : Tab α) (n : Nat) (x : α) (h : ∀ e ∈ t, e.1 ≠ n) : Tab.del (Tab.ins n x t) n = t := by
  induction t with
  | nil => simp [Tab.ins, Tab.del]
  | cons e t ih =>
    obtain ⟨k, v⟩ := e
    have hk : k ≠ n := h (k, v) List.mem_cons_self
    have ht : ∀ e ∈ t, e.1 ≠ n := fun e he => h e (List.mem_cons_of_mem _ he)
    by_cases hl : n < k
    · simp [Tab.ins, hl, Tab.del, hk, Tab.del_of_notMem t n ht]
    · simp [Tab.ins, hl, Tab.del, hk, ih ht]

/-- Of two writes to a key the second one stays. -/
theorem Tab.put_put (t : Tab α) (n : Nat) (x y : α) : Tab.put (Tab.put t n x) n y = Tab.put t n y := by
  rw [Tab.put, Tab.put, Tab.del_ins _ _ _ fun e he => (Tab.mem_del he).2, ← Tab.put]

end Sys2Proof.Machine
end

section
/-! SUPPORT. What a discard and a trap leave of a group, and of the state (R32, R37, R361). -/

namespace Sys2Proof.Machine

@[simp] theorem State.modGroup_modGroup (s : State) (g : Nat) (f k : Group → Group) :
    (s.modGroup g f).modGroup g k = s.modGroup g fun x => k (f x) := by
  simp [State.modGroup, State.setGroup, State.group, Tab.put_put]

/-! ### Monitors that fire -/

/-- A group but for its monitor. -/
def Group.SameButMon (x y : Group) : Prop := ∃ m, y = { x with mon := m }

theorem Group.SameButMon.refl (x : Group) : Group.SameButMon x x := ⟨_, rfl⟩

theorem Group.SameButMon.trans {x y z : Group} (h : Group.SameButMon x y) (k : Group.SameButMon y z) : Group.SameButMon x z := by
  obtain ⟨_, rfl⟩ := h
  obtain ⟨m, rfl⟩ := k
  exact ⟨m, rfl⟩

theorem Group.SameButMon.ite (x : Group) (m : Monitor) (c : Bool) : Group.SameButMon x (if c then { x with mon := m } else x) := by
  cases c
  · exact .refl x
  · exact ⟨m, rfl⟩

/-- A fired monitor is all of a group that a write to a watched range changes. -/
theorem State.fireMonitors_group (s : State) (t : Option Nat) (a n g : Nat) :
    Group.SameButMon (s.group g) ((s.fireMonitors t a n).group g) := by
  refine Tab.get_map (u := (s.fireMonitors t a n).groups) rfl (fun _ => rfl) (.refl _) (fun e => ?_) g
  exact Group.SameButMon.ite e.2 _ _

theorem State.putSpad_group (s : State) (t off : Nat) (bs : List Byte) (g : Nat) :
    Group.SameButMon (s.group g) ((s.putSpad t off bs).group g) :=
  State.fireMonitors_group _ _ _ _ _

theorem State.foldl_putSpad_group (l : List (Nat × List Byte)) (s : State) (t g : Nat) :
    Group.SameButMon (s.group g) ((l.foldl (fun s e => s.putSpad t e.1 e.2) s).group g) := by
  induction l generalizing s with
  | nil => exact .refl _
  | cons e l ih => exact (s.putSpad_group t e.1 e.2 g).trans (ih _)

/-! ### A group's part of a discard -/

/-- A group but for which of its registers are full. -/
def Group.Filled (x y : Group) : Prop := ∃ e v, y = { x with thr := { x.thr with sempty := e }, f := { x.f with vempty := v } }

theorem Group.Filled.refl (x : Group) : Group.Filled x x := ⟨_, _, rfl⟩

theorem Group.Filled.trans {x y z : Group} (h : Group.Filled x y) (k : Group.Filled y z) : Group.Filled x z := by
  obtain ⟨_, _, rfl⟩ := h
  obtain ⟨e, v, rfl⟩ := k
  exact ⟨e, v, rfl⟩

theorem Group.Filled.foldl {α : Type} {f : Group → α → Group} (hf : ∀ x a, Group.Filled x (f x a)) (l : List α) (x : Group) :
    Group.Filled x (l.foldl f x) := by
  induction l generalizing x with
  | nil => exact .refl x
  | cons a l ih => exact (hf x a).trans (ih _)

/-- A value that a discard drops fills its registers. -/
theorem Group.fillDst_filled (x : Group) (p : Pending) : Group.Filled x (x.fillDst p) := by
  unfold Group.fillDst
  cases p.sdst <;> exact ⟨_, _, rfl⟩

/-- So do the destinations of a region's atomic. -/
theorem Group.fillAtom_filled (x : Group) : Group.Filled x x.fillAtom := by
  refine Group.Filled.foldl (fun x n => ?_) _ x
  split <;> exact ⟨_, _, rfl⟩

/-- What a discard leaves of a group: registers filled where their values were the region's, the scalar stream at the re-entry
point, the tiles of the checkpoint, and a region that holds nothing (R32). -/
theorem Group.dropRegion_eq (x : Group) : ∃ e v, x.dropRegion = { x with
    pend := x.pend.filter fun p => !p.dropped x.regen
    lanes := x.lanes.map fun (k, l) => (k, { l with draw := (Tab.get Lane.zero x.reg.ckLanes k).draw })
    thr := { x.thr with sempty := e, em := x.thr.em ||| x.reg.exited, pcs := x.reg.entry, pfx := none }
    f := { x.f with vempty := v }
    xm := x.xm &&& ~~~x.reg.exited
    tl := x.reg.ckTiles
    anvil := x.anvil.filter fun c => c.committed
    blk := none
    walks := []
    sch := { x.sch with wait := none, again := true, orderFrom := none, stalled := false }
    reg := { Region.zero with entry := x.reg.entry, explicit := x.reg.explicit, divFrom := x.reg.divFrom.filter fun d => d.2.isNone } } := by
  obtain ⟨e, v, h⟩ := (Group.Filled.foldl Group.fillDst_filled (x.pend.filter fun p => p.dropped x.regen) x).trans
    (Group.fillAtom_filled _)
  refine ⟨e, ?_, ?_⟩
  case refine_2 =>
    unfold Group.dropRegion
    simp only [h]
    rfl

/-- A group after its discard: an implicit region starts again at its start (R197). -/
def Group.restart (x : Group) : Group :=
  let y := x.dropRegion
  if y.reg.explicit then y else y.begin y.reg.entry false

/-- Where a discarded group stands, and what it keeps (R32). -/
structure Group.Restarted (x y : Group) : Prop where
  pcs : y.thr.pcs = x.reg.entry
  held : y.reg.held = []
  pushes : y.reg.pushes = []
  atom : y.reg.atom = false
  blk : y.blk = none
  tl : y.tl = x.reg.ckTiles
  fault : y.fault = x.fault
  soft : y.soft = x.soft
  team : y.team = x.team

theorem Group.restart_restarted (x : Group) : x.Restarted x.restart := by
  obtain ⟨e, v, h⟩ := x.dropRegion_eq
  unfold Group.restart
  simp only [h]
  split <;> constructor <;> rfl

/-! ### The discard of a region -/

theorem State.bumpBy_group (s : State) (c e n g : Nat) : (s.bumpBy c e n).group g = s.group g := by
  unfold State.bumpBy; split <;> rfl

@[simp] theorem State.bump_group (s : State) (c e g : Nat) : (s.bump c e).group g = s.group g := s.bumpBy_group c e 1 g

/-- The discard of an open region restarts its group. -/
theorem State.discard_group {s : State} {g : Nat} (h : (s.group g).reg.opened = true) :
    ∃ m, (s.discard g).group g = Group.restart { s.group g with mon := m } := by
  obtain ⟨m, hm⟩ := State.foldl_putSpad_group (s.group g).reg.undo s (s.group g).team g
  refine ⟨m, ?_⟩
  unfold State.discard
  simp only [h, Bool.not_true, Bool.false_eq_true, if_false, State.bump_group, State.group_modGroup, State.group_modTeam]
  exact congrArg Group.restart hm

/-- A discard hands no record over, and takes none back. -/
theorem foldl_faults {α : Type} {f : State → α → State} (hf : ∀ s a, (f s a).faults = s.faults) (l : List α) (s : State) :
    (l.foldl f s).faults = s.faults := by
  induction l generalizing s with
  | nil => rfl
  | cons a l ih => exact (ih _).trans (hf _ _)

@[simp] theorem State.bump_faults (s : State) (c e : Nat) : (s.bump c e).faults = s.faults := by
  unfold State.bump State.bumpBy; split <;> rfl

@[simp] theorem State.discard_faults (s : State) (g : Nat) : (s.discard g).faults = s.faults := by
  unfold State.discard
  simp only
  split
  · rfl
  · simp only [State.bump_faults, State.modGroup_faults, State.modTeam_faults, State.modCore_faults]
    exact foldl_faults (f := fun (t : State) (x : Nat × List Byte) => t.putSpad _ x.1 x.2) (fun _ _ => rfl) _ _

/-! ### Serviceable traps -/

/-- A group that a serviceable trap has parked, its fault counter at `n` (R361). -/
def Group.parkFault (x : Group) (c d : Cause) (flm : Word) (n : Nat) : Group :=
  let y := x.park c flm .region
  { y with fault := n, sch := { y.sch with cause := some d } }

theorem State.record_modGroup (s : State) (r : FaultRec) (g : Nat) (f : Group → Group) :
    (s.record r).modGroup g f = (s.modGroup g f).record r := rfl

/-- A serviceable trap: the discard, the park, and a record, whose cause and the group's is REGION_LIVELOCK at the eighth discard
in a row (R32, R361). -/
theorem State.trapGroup_serviceable {s : State} {g : Nat} {c : Cause} (i : TrapInfo) (hk : c.kind = 0) :
    ∃ (r : FaultRec) (d : Cause), r.addr = i.addr ∧ (r.cause = if 8 ≤ (s.group g).fault + 1 then .regionLivelock else c) ∧
      s.trapGroup g c i = ((s.discard g).modGroup g fun x => x.parkFault c d i.flm ((s.group g).fault + 1)).record r := by
  unfold State.trapGroup
  simp only [hk, beq_self_eq_true, if_true]
  split
  · refine ⟨{ s.groupRec g c i with cause := .regionLivelock, kind := 5, waiter := none, pfkind := 0xFF }, .regionLivelock, rfl, rfl, ?_⟩
    rw [State.record_modGroup, State.modGroup_modGroup]
    rfl
  · exact ⟨s.groupRec g c i, c, rfl, rfl, rfl⟩

@[simp] theorem State.record_group (s : State) (r : FaultRec) (g : Nat) : (s.record r).group g = s.group g := rfl

end Sys2Proof.Machine
end

section
namespace Sys2Proof.Machine

/-- Settles O11: the discard restarts the group (`State.discard_group`), and the park and the record leave that as it is. -/
theorem serviceableTrapDiscards : Obligations.ServiceableTrapDiscards := by
  unfold Obligations.ServiceableTrapDiscards
  intro s g c i hc hk ho
  simp only
  obtain ⟨r, d, ha, hr, ht⟩ := State.trapGroup_serviceable (s := s) (g := g) i hk
  obtain ⟨m, hm⟩ := State.discard_group ho
  have hs : s.raise c i = s.trapGroup g c i := by rw [State.raise, hc]
  have hy : (s.raise c i).group g = (Group.restart { s.group g with mon := m }).parkFault c d i.flm ((s.group g).fault + 1) := by
    rw [hs, ht, State.record_group, State.group_modGroup, hm]
  have hR := Group.restart_restarted { s.group g with mon := m }
  rw [hy]
  refine ⟨hR.pcs, hR.held, hR.pushes, hR.atom, hR.blk, hR.tl, rfl, hR.soft, rfl, rfl, rfl, ⟨r, ?_, ha, hr⟩, fun a => ?_⟩
  · rw [hs, ht, State.record, State.modGroup_faults, State.discard_faults]
  · rw [State.rdByte, State.rdByte, State.raise_mem]

end Sys2Proof.Machine
end


section
/-! SUPPORT. Lane words whose operands are ready: the sources they read, the queues they pop, and the words that only end
(R14-R16, R163). -/

namespace Sys2Proof.Machine

/-- A lane word that is ready goes on with its active lanes. -/
theorem State.laneWord_of_ready {s : State} {g : Nat} {h : LaneHdr} {cls : LaneClass} {us : Word → List Use} {p : Option Put}
    (hr : Claim.LaneReady s g h cls us p) (k : Nat → Word → State → Out) : s.laneWord h cls us p k = k g (Claim.lanes s g h) s := by
  obtain ⟨hc, hrole, hops, hcodes⟩ := hr
  rw [State.laneWord, State.groupOnly_group hc]
  simp only [Claim.lanes] at hops hcodes ⊢
  simp only [hrole, Bool.not_true, Bool.false_eq_true, if_false, hops, hcodes]

/-! ### Reading sources -/

/-- A state but for the count of free values taken. -/
def State.SameButFree (s t : State) : Prop := ∃ n, t = { s with free := n }

theorem State.SameButFree.refl (s : State) : State.SameButFree s s := ⟨_, rfl⟩

theorem State.SameButFree.trans {s t u : State} (h : State.SameButFree s t) (k : State.SameButFree t u) : State.SameButFree s u := by
  obtain ⟨_, rfl⟩ := h
  obtain ⟨n, rfl⟩ := k
  exact ⟨n, rfl⟩

theorem State.readZ_free (s : State) (g n : Nat) : State.SameButFree s (s.readZ g n).1 := by
  unfold State.readZ
  simp only
  split
  · exact .refl s
  · exact ⟨_, rfl⟩

theorem State.readUse_free (s : State) (g : Nat) (m : Word) (u : Use) : State.SameButFree s (s.readUse g m u).1 := by
  unfold State.readUse
  simp only
  split
  case h_4 => exact State.readZ_free _ _ _
  all_goals exact .refl s

/-- Reading sources takes free values, and changes nothing else. -/
theorem State.readUses_free (s : State) (g : Nat) (m : Word) (us : List Use) : State.SameButFree s (s.readUses g m us).1 := by
  induction us generalizing s with
  | nil => exact .refl s
  | cons u us ih => exact (s.readUse_free g m u).trans (ih _)

/-! ### Popping queues -/

/-- A team but for its queues. -/
def Team.SameButQueues (x y : Team) : Prop := ∃ q, y = { x with queues := q }

theorem Team.SameButQueues.refl (x : Team) : Team.SameButQueues x x := ⟨_, rfl⟩

theorem Team.SameButQueues.trans {x y z : Team} (h : Team.SameButQueues x y) (k : Team.SameButQueues y z) : Team.SameButQueues x z := by
  obtain ⟨_, rfl⟩ := h
  obtain ⟨q, rfl⟩ := k
  exact ⟨q, rfl⟩

/-- A state but for the queues of its teams. -/
structure State.SameButQueues (s t : State) : Prop where
  state : ∃ ts, t = { s with teams := ts }
  team : ∀ k, Team.SameButQueues (s.team k) (t.team k)

theorem State.SameButQueues.refl (s : State) : State.SameButQueues s s := ⟨⟨_, rfl⟩, fun _ => .refl _⟩

theorem State.SameButQueues.trans {s t u : State} (h : State.SameButQueues s t) (k : State.SameButQueues t u) : State.SameButQueues s u := by
  obtain ⟨⟨_, rfl⟩, h⟩ := h
  obtain ⟨⟨ts, rfl⟩, k⟩ := k
  exact ⟨⟨ts, rfl⟩, fun i => (h i).trans (k i)⟩

theorem State.modTeam_sameButQueues (s : State) (t : Nat) {f : Team → Team} (hf : ∀ x, Team.SameButQueues x (f x)) :
    State.SameButQueues s (s.modTeam t f) := by
  refine ⟨⟨_, rfl⟩, fun k => ?_⟩
  by_cases hk : k = t
  · subst hk; rw [State.team_modTeam]; exact hf _
  · rw [State.team_modTeam_ne _ _ hk]; exact .refl _

theorem State.popped_sameButQueues (s : State) (g q n : Nat) : State.SameButQueues s (s.popped g q n) := by
  unfold State.popped
  split
  · exact .refl s
  · exact State.modTeam_sameButQueues _ _ fun _ => ⟨_, rfl⟩

/-- Popping changes the queues of the group's team, and nothing else. -/
theorem State.popAll_sameButQueues (s : State) (g : Nat) (m : Word) (us : List Use) : State.SameButQueues s (s.popAll g m us) := by
  unfold State.popAll
  generalize (us.filterMap useQueue).dedup = qs
  induction qs generalizing s with
  | nil => exact .refl s
  | cons q qs ih => exact (s.popped_sameButQueues g q _).trans (ih _)

theorem State.popAll_group (s : State) (g : Nat) (m : Word) (us : List Use) (h : Nat) : (s.popAll g m us).group h = s.group h := by
  obtain ⟨ts, h⟩ := (s.popAll_sameButQueues g m us).state
  rw [h]; rfl

/-! ### Memory words -/

/-- With no active lane a memory word only ends (R16). -/
theorem State.memWord_noLanes {s : State} {g : Nat} {o : LaneOp} {r : LaneRule}
    (hr : Claim.LaneReady s g o.h .other (usesOf r 32 o) (putOf r o)) (hm : Claim.lanes s g o.h = 0)
    (k : Nat → Word → List (Tab Nat) → State → Try State) : s.memWord o r k = .next (s.laneDone g o.h) := by
  rw [State.memWord, State.laneWord_of_ready hr]
  exact if_pos hm

/-- A memory word with active lanes whose effect on the values read is `u` pops the queues it names, and ends. -/
theorem State.memWord_ok {s : State} {g : Nat} {o : LaneOp} {r : LaneRule} {k : Nat → Word → List (Tab Nat) → State → Try State} {u : State}
    (hr : Claim.LaneReady s g o.h .other (usesOf r 32 o) (putOf r o)) (hm : Claim.lanes s g o.h ≠ 0)
    (hk : k g (Claim.lanes s g o.h) (Claim.srcs s g o r) (Claim.after s g o r) = .ok u) :
    s.memWord o r k = .next ((u.popAll g (Claim.lanes s g o.h) (usesOf r 32 o (Claim.lanes s g o.h))).laneDone g o.h) := by
  rw [State.memWord, State.laneWord_of_ready hr, if_neg hm]
  simp only [Claim.srcs, Claim.after] at hk
  simp only [hk]

/-! ### Prefetches (R247) -/

/-- A state but for its cores. -/
def State.SameButCores (s t : State) : Prop := ∃ c, t = { s with cores := c }

theorem State.SameButCores.refl (s : State) : State.SameButCores s s := ⟨_, rfl⟩

theorem State.SameButCores.trans {s t u : State} (h : State.SameButCores s t) (k : State.SameButCores t u) : State.SameButCores s u := by
  obtain ⟨_, rfl⟩ := h
  obtain ⟨n, rfl⟩ := k
  exact ⟨n, rfl⟩

theorem State.l1Fill_sameButCores (s : State) (k a v p : Nat) (b : Bool) : State.SameButCores s (s.l1Fill k a v p b) := by
  unfold State.l1Fill
  simp only
  split
  · exact ⟨_, rfl⟩
  · exact .refl s

theorem State.prefetch_sameButCores (s : State) (g : Nat) (keep : Bool) (a : DWord) : State.SameButCores s (s.prefetch g keep a) := by
  unfold State.prefetch
  split
  · exact .refl s
  · split
    · split
      · exact .refl s
      · exact State.l1Fill_sameButCores _ _ _ _ _ _
    · exact .refl s

theorem State.foldl_prefetch_sameButCores (g : Nat) (keep : Bool) (l : List (Nat × DWord)) (s : State) :
    State.SameButCores s (l.foldl (fun s e => s.prefetch g keep e.2) s) := by
  induction l generalizing s with
  | nil => exact .refl s
  | cons e l ih => exact (s.prefetch_sameButCores g keep e.2).trans (ih _)

/-- What VPREF leaves as it was: its group's registers, its region, memory and the windows. -/
theorem vpref_keeps {o : LaneOp} {s : State} {g : Nat}
    (hr : Claim.LaneReady s g o.h .other (usesOf (ruleVpref o) 32 o) (putOf (ruleVpref o) o)) :
    ∃ u : State, exec (.vpref o) s = .next (u.laneDone g o.h) ∧ u.groups = s.groups ∧ u.mem = s.mem ∧
      ∀ t, Team.SameButQueues (s.team t) (u.team t) := by
  show ∃ u, execVpref o s = _ ∧ _
  by_cases hm : Claim.lanes s g o.h = 0
  · exact ⟨s, State.memWord_noLanes hr hm _, rfl, rfl, fun _ => .refl _⟩
  · refine ⟨_, State.memWord_ok hr hm rfl, ?_⟩
    obtain ⟨n, hn⟩ : State.SameButFree s (Claim.after s g o (ruleVpref o)) := State.readUses_free _ _ _ _
    obtain ⟨c, hc⟩ := State.foldl_prefetch_sameButCores g (memCh o == 0)
      (globalAds o (Claim.lanes s g o.h) (Claim.srcs s g o (ruleVpref o))) (Claim.after s g o (ruleVpref o))
    rw [hc, hn]
    obtain ⟨⟨ts, ht⟩, hq⟩ := State.popAll_sameButQueues { s with free := n, cores := c } g (Claim.lanes s g o.h)
      (usesOf (ruleVpref o) 32 o (Claim.lanes s g o.h))
    exact ⟨by rw [ht], by rw [ht], hq⟩

/-! ### Index registers (R252, R253) -/

theorem vkey_inj {k n l m : Nat} (hl : l < 32) (hm : m < 32) : vkey k l = vkey n m ↔ k = n ∧ l = m := by
  unfold vkey; omega

theorem mem_lanesOf {m : Word} {l : Nat} : l ∈ lanesOf m ↔ l < 32 ∧ m.getLsbD l = true := by
  simp [lanesOf]

theorem lanesOf_nodup (m : Word) : (lanesOf m).Nodup := List.nodup_range.filter _

/-- Many writes leave a key that is none of theirs alone. -/
theorem Tab.get_setAll_notMem {α : Type} [DecidableEq α] (d : α) (t : Tab α) {ws : List (Nat × α)} {k : Nat} (h : k ∉ ws.map Prod.fst) :
    Tab.get d (Tab.setAll d t ws) k = Tab.get d t k := by
  induction ws generalizing t with
  | nil => rfl
  | cons w ws ih =>
    rw [List.map_cons, List.mem_cons, not_or] at h
    rw [Tab.setAll, ih _ h.2, Tab.get_set_ne _ _ _ h.1]

/-- Of writes to keys that are all different, each one stays. -/
theorem Tab.get_setAll_mem {α : Type} [DecidableEq α] (d : α) (t : Tab α) {ws : List (Nat × α)} (hn : (ws.map Prod.fst).Nodup)
    {e : Nat × α} (he : e ∈ ws) : Tab.get d (Tab.setAll d t ws) e.1 = e.2 := by
  induction ws generalizing t with
  | nil => simp at he
  | cons w ws ih =>
    rw [List.map_cons, List.nodup_cons] at hn
    rcases List.mem_cons.1 he with rfl | he
    · rw [Tab.setAll, Tab.get_setAll_notMem _ _ hn.1, Tab.get_set_self]
    · exact ih _ hn.2 he

/-- Index register `n` of the lanes of `m` takes what `v` gives each, and no other index register changes. -/
theorem get_setAll_idx (t : Tab Word) (n : Nat) (m : Word) (v : Nat → Word) {k l : Nat} (hl : l < 32) :
    Tab.get 0 (Tab.setAll 0 t ((lanesOf m).map fun j => (vkey n j, v j))) (vkey k l) =
      if k = n ∧ m.getLsbD l = true then v l else Tab.get 0 t (vkey k l) := by
  have hmem {j : Nat} (hj : j ∈ lanesOf m) : j < 32 := (mem_lanesOf.1 hj).1
  split
  case isTrue h =>
    obtain ⟨rfl, hm⟩ := h
    refine Tab.get_setAll_mem (e := (vkey k l, v l)) 0 t ?_ (List.mem_map.2 ⟨l, mem_lanesOf.2 ⟨hl, hm⟩, rfl⟩)
    rw [List.map_map]
    exact (lanesOf_nodup m).map_on fun a ha b hb hab => ((vkey_inj (hmem ha) (hmem hb)).1 hab).2
  case isFalse h =>
    refine Tab.get_setAll_notMem 0 t fun hk => h ?_
    obtain ⟨_, he, hk⟩ := List.mem_map.1 hk
    obtain ⟨j, hj, rfl⟩ := List.mem_map.1 he
    obtain ⟨rfl, rfl⟩ := (vkey_inj (hmem hj) hl).1 hk
    exact ⟨rfl, (mem_lanesOf.1 hj).2⟩

/-- New codes change nothing else of a group. -/
theorem Group.recode_eq (x : Group) (ks : List Nat) : ∃ u, x.recode ks = { x with upset := u } := by
  unfold Group.recode
  split
  · exact ⟨_, rfl⟩
  · exact ⟨_, rfl⟩

/-- The last results of a word reach their z register, and nothing else of its group. -/
theorem State.writeZ_group (s : State) (g z : Nat) (vals : Tab Nat) :
    ∃ p u, (s.writeZ g z vals).group g = { s.group g with f := { (s.group g).f with zp := p }, upset := u } := by
  unfold State.writeZ
  split
  · exact ⟨_, _, rfl⟩
  · rw [State.group_modGroup]
    obtain ⟨u, hu⟩ := Group.recode_eq { s.group g with f := { (s.group g).f with
      zp := Tab.put (s.group g).f.zp z (Tab.get [] (s.group g).f.zp z ++ [⟨0, vals.map fun e => (vkey z e.1, BitVec.ofNat 32 e.2)⟩]) } }
      (vals.map fun e => 16384 + vkey z e.1)
    exact ⟨_, u, hu⟩

/-- A write to index registers is all that the group's registers take, but for z1 (R253). -/
theorem State.writeIdx_group (s : State) (g n : Nat) (vals : Tab Nat) :
    ∃ p u, (s.writeIdx g n vals).group g = { s.group g with upset := u, f := { (s.group g).f with
      zp := p, i := Tab.setAll 0 (s.group g).f.i (vals.map fun e => (vkey n e.1, BitVec.ofNat 32 e.2)) } } := by
  unfold State.writeIdx
  obtain ⟨p, u, h⟩ := State.writeZ_group (s.modGroup g fun x =>
    Group.recode { x with f := { x.f with i := Tab.setAll 0 x.f.i (vals.map fun (l, v) => (vkey n l, BitVec.ofNat 32 v)) } }
      (idxKeys n (vals.map Prod.fst))) g 1 vals
  obtain ⟨u', hu'⟩ := Group.recode_eq { s.group g with f := { (s.group g).f with
    i := Tab.setAll 0 (s.group g).f.i (vals.map fun e => (vkey n e.1, BitVec.ofNat 32 e.2)) } } (idxKeys n (vals.map Prod.fst))
  refine ⟨p, u, h.trans ?_⟩
  rw [State.group_modGroup]
  exact congrArg (fun x : Group => { x with f := { x.f with zp := p }, upset := u }) hu'

@[simp] theorem State.writeIdx_mem (s : State) (g n : Nat) (vals : Tab Nat) : (s.writeIdx g n vals).mem = s.mem := by
  rw [State.writeIdx, State.writeZ_mem, State.modGroup_mem]

/-- The source of an index word, as the statements name it. -/
def idxUses (src : Option Src) (m : Word) : List Use := match src with | some a => [Claim.use1 a .raw m] | none => []

/-- An index word that is ready gives iN of each active lane its new value, and changes no other register but z1. -/
theorem State.idxWord_ready {s : State} {g : Nat} {h : LaneHdr} {src : Option Src} (hr : Claim.LaneReady s g h .basic (idxUses src) none)
    (n : Nat) (reads : Bool) (f : Nat → Nat → Nat)
    (hm : reads = true → (s.group g).mismatch (idxKeys n (lanesOf (Claim.lanes s g h))) = none) :
    ∃ u : State, s.idxWord h n reads src f = .next (u.laneDone g h) ∧ u.mem = s.mem ∧ (u.group g).f.v = (s.group g).f.v ∧
      (u.group g).thr = (s.group g).thr ∧ ∀ k l, l < 32 → Tab.get 0 (u.group g).f.i (vkey k l) =
        if k = n ∧ (Claim.lanes s g h).getLsbD l = true then
          BitVec.ofNat 32 (f (Tab.get 0 (s.group g).f.i (vkey k l)).toNat (Claim.source s g h (idxUses src) 0 l))
        else Tab.get 0 (s.group g).f.i (vkey k l) := by
  set m := Claim.lanes s g h with hmdef
  set t := ((s.readUses g m (idxUses src m)).1.popAll g m (idxUses src m)) with ht
  set vals := (lanesOf m).map fun l =>
    (l, f (Tab.get 0 (s.group g).f.i (vkey n l)).toNat (Claim.source s g h (idxUses src) 0 l)) with hv
  have htg : t.group g = s.group g := by
    obtain ⟨k, hk⟩ := s.readUses_free g m (idxUses src m)
    rw [ht, State.popAll_group, hk]; rfl
  have hw : s.idxWord h n reads src f = .next ((t.writeIdx g n vals).laneDone g h) := by
    rw [State.idxWord]
    refine (State.laneWord_of_ready (us := idxUses src) hr _).trans ?_
    have hmm : (if reads = true then (s.group g).mismatch (idxKeys n (lanesOf m)) else none) = none := by
      split
      · exact hm ‹_›
      · rfl
    simp only [← hmdef, hmm]
    rfl
  obtain ⟨p, u, hg⟩ := t.writeIdx_group g n vals
  refine ⟨_, hw, ?_, ?_, ?_, fun k l hl => ?_⟩
  · rw [State.writeIdx_mem, ht, State.popAll_mem, State.readUses_mem]
  · rw [hg, htg]
  · rw [hg, htg]
  · rw [hg, htg]
    simp only [hv, List.map_map]
    refine (get_setAll_idx _ n m (fun j => BitVec.ofNat 32 (f _ _)) hl).trans ?_
    split
    · rename_i hk; rw [hk.1]
    · rfl

/-- The memory words of the vector unit, each with its rule. -/
def memWords (o : LaneOp) : List (Instr × LaneRule) :=
  [(.vld o, ruleVld o), (.vst o, ruleVst o), (.vlds o, ruleVlds o), (.vsts o, ruleVsts o), (.vldlk o, ruleVldlk o),
    (.vstul o, ruleVstul o), (.vatom o, ruleVatom [2, 3] 10 o), (.vfatom o, ruleVatom [2] 3 o), (.vldu o, ruleVldu o), (.vpref o, ruleVpref o)]

/-- Each of them is one case of the memory words' common course. -/
theorem exec_memWords {o : LaneOp} {i : Instr} {r : LaneRule} (hi : (i, r) ∈ memWords o) (s : State) :
    ∃ k, exec i s = s.memWord o r k := by
  suffices h : ∀ e ∈ memWords o, ∃ k, exec e.1 s = s.memWord o e.2 k from h _ hi
  simp only [memWords, List.forall_mem_cons]
  have vld : exec (.vld o) s = execVld o s := rfl
  have vst : exec (.vst o) s = execVst o s := rfl
  have vlds : exec (.vlds o) s = execVlds o s := rfl
  have vsts : exec (.vsts o) s = execVsts o s := rfl
  have vldlk : exec (.vldlk o) s = execVldlk o s := rfl
  have vstul : exec (.vstul o) s = execVstul o s := rfl
  have vatom : exec (.vatom o) s = execVatom o s := rfl
  have vfatom : exec (.vfatom o) s = execVfatom o s := rfl
  have vldu : exec (.vldu o) s = execVldu o s := rfl
  have vpref : exec (.vpref o) s = execVpref o s := rfl
  exact ⟨⟨_, vld⟩, ⟨_, vst⟩, ⟨_, vlds⟩, ⟨_, vsts⟩, ⟨_, vldlk⟩, ⟨_, vstul⟩, ⟨_, vatom⟩, ⟨_, vfatom⟩, ⟨_, vldu⟩, ⟨_, vpref⟩, List.forall_mem_nil _⟩

/-- Settles O36: what the words of R247, R252 and R253 do is said of each by a lemma above, and R16 by `State.memWord_noLanes`. -/
theorem prefetchAndIndex : Obligations.PrefetchAndIndex := by
  unfold Obligations.PrefetchAndIndex
  refine ⟨fun o s g hr => ?_, fun o s g i r hi hr hm => ?_, fun h n s g i src f => ?_⟩
  · obtain ⟨u, hu, hg, hmem, ht⟩ := vpref_keeps hr
    have hgr : u.group g = s.group g := by rw [State.group, hg]; rfl
    refine ⟨u, hu, by rw [hgr], by rw [hgr], by rw [hgr], hmem, fun t => ?_⟩
    obtain ⟨q, hq⟩ := ht t
    rw [hq]
  · obtain ⟨k, hk⟩ := exec_memWords hi s
    exact hk.trans (State.memWord_noLanes hr hm k)
  · intro us hmis hi hr
    suffices he : ∃ reads, exec i s = s.idxWord h n.toNat reads src f ∧ (reads = true → ∃ v, i = .vinci h n v) by
      obtain ⟨reads, he, hv⟩ := he
      rw [he]
      exact State.idxWord_ready hr n.toNat reads f fun hR => hmis (hv hR)
    have word (f' : Nat → Nat → Nat) (hf : ∀ w x, f w x = f' w x) (reads : Bool)
        (he : exec i s = s.idxWord h n.toNat reads src f') : exec i s = s.idxWord h n.toNat reads src f := by
      rw [he, funext fun w => funext (hf w)]
    have bump (w k : Nat) : w - w % 256 + (w + k) % 256 = bumpIdx w k := by unfold bumpIdx; omega
    rcases hi with ⟨a, rfl, rfl, hf⟩ | ⟨b, len, rfl, rfl, hf⟩ | ⟨a, rfl, rfl, hf⟩ | ⟨k, rfl, rfl, hf⟩
    · exact ⟨false, word _ hf false rfl, nofun⟩
    · exact ⟨false, word _ hf false rfl, nofun⟩
    · exact ⟨true, word _ (fun w x => (hf w x).trans (bump w x)) true rfl, fun _ => ⟨_, rfl⟩⟩
    · exact ⟨true, word _ (fun w x => (hf w x).trans (bump w k.toNat)) true rfl, fun _ => ⟨_, rfl⟩⟩

end Sys2Proof.Machine
end


section
/-! SUPPORT. Scalar words that pass, rings that have accepted, and the arbiter's order of requests (R22, R46, R210-R213). -/

namespace Sys2Proof.Machine

/-! ### Words that pass -/

/-- A group's word that passes has changed the group alone. -/
theorem State.pass_modGroup {s : State} {g : Nat} (hc : s.cur = .group g) (f : Group → Group) (len : DWord) :
    (s.modGroup g f).pass len = s.modGroup g fun x => { f x with thr := (f x).thr.next len } := by
  have hc' : (s.modGroup g f).cur = .group g := by rw [State.modGroup_cur, hc]
  rw [State.pass, State.modThr, State.setThr_group hc', State.modGroup_modGroup, State.thr_group hc', State.group_modGroup]
  rfl

theorem State.pass_group {s : State} {g : Nat} (hc : s.cur = .group g) (len : DWord) :
    s.pass len = s.modGroup g fun x => { x with thr := x.thr.next len } := by
  rw [State.pass, State.modThr, State.setThr_group hc, State.thr_group hc]
  rfl

/-- A word that only passes. -/
theorem State.pass_passed {s : State} {g : Nat} (hc : s.cur = .group g) (len : DWord) : Claim.Passed s (s.pass len) g len id :=
  State.pass_group hc len

/-- A word of groups whose registers are ready runs its body. -/
theorem State.groupRegs_ready {s : State} {g : Nat} {reads : List Nat} (hc : s.cur = .group g) (hr : Claim.Ready s reads [])
    (k : Nat → State → Out) : (s.groupOnly fun g => s.withRegs reads [] (k g)) = k g s := by
  rw [State.groupOnly_group hc, State.withRegs_ready hr.runs hr.sound hr.free hr.full]

/-! ### Rings (R22, R210) -/

/-- A group of another role than the word's, and a group without the ring. -/
theorem State.ringWord_refused {s : State} {g k : Nat} {producer : Bool} (hc : s.cur = .group g)
    (h : ∀ r, s.ringOf g k = some r → s.roleOf g ≠ if producer then r.prod else r.cons) :
    s.ringWord producer k = .next (s.raise .roleViolation {}) := by
  rw [State.ringWord, State.groupOnly_group hc]
  cases hr : s.ringOf g k with
  | none => rfl
  | some r => exact if_pos (bne_iff_ne.2 (h r hr))

/-- A group of the word's role commits, and then goes on or waits as the ring is. -/
theorem State.ringWord_allowed {s : State} {g k : Nat} {producer : Bool} {r : Ring} (hc : s.cur = .group g) (hr : s.ringOf g k = some r)
    (h : s.roleOf g = if producer then r.prod else r.cons) :
    s.ringWord producer k = if (s.commit g).ringOver g producer k then .next ((s.commit g).ringDone g producer k)
      else .next ((s.commit g).park? g (.ring producer k)) := by
  rw [State.ringWord, State.groupOnly_group hc, hr]
  exact if_neg (by simpa using h)

/-- What a group finds once its ring has accepted it: the ring advanced, and itself past the word. -/
theorem State.ringDone_spec {s : State} {g k : Nat} {r : Ring} (producer : Bool) (hr : s.ringOf g k = some r) :
    (s.ringDone g producer k).ringOf g k = some (r.advance producer) ∧
      ((s.ringDone g producer k).group g).thr = (s.group g).thr.next 4 ∧ (s.ringDone g producer k).mem = s.mem := by
  obtain ⟨c, hc⟩ : ∃ c : Tab Core, (if producer then s.l1Drop (s.coreOf g) else s) = { s with cores := c } := by
    cases producer
    · exact ⟨_, rfl⟩
    · exact ⟨_, rfl⟩
  have hd : s.ringDone g producer k = ((State.modTeam { s with cores := c } (s.group g).team fun t =>
      { t with rings := Tab.put t.rings k (r.advance producer) }).modGroup g fun x =>
        { x with thr := x.thr.next 4, sch := { x.sch with wait := none } }) := by
    rw [State.ringDone, hr]
    simp only [hc]
    rfl
  have hg : (s.ringDone g producer k).group g =
      { s.group g with thr := (s.group g).thr.next 4, sch := { (s.group g).sch with wait := none } } := by
    rw [hd, State.group_modGroup]
    rfl
  refine ⟨?_, by rw [hg], by rw [hd]; rfl⟩
  rw [State.ringOf, hg, hd, State.team_modGroup, State.team_modTeam]
  exact Tab.look_put_self _ _ _

/-- A cursor's turn: the next slot, or the first with the other phase. -/
theorem cursor_turn (n cur ph : Nat) :
    (cur + 1 < n → (if n ≤ cur + 1 then 0 else cur + 1) = cur + 1 ∧ (if n ≤ cur + 1 then 1 - ph else ph) = ph) ∧
      (n ≤ cur + 1 → (if n ≤ cur + 1 then 0 else cur + 1) = 0 ∧ (if n ≤ cur + 1 then 1 - ph else ph) = 1 - ph) :=
  ⟨fun h => ⟨if_neg (by omega), if_neg (by omega)⟩, fun h => ⟨if_pos h, if_pos h⟩⟩

theorem Ring.advance_producer (r : Ring) : Tab.look (r.advance true).full r.pcur = some r.pphase ∧
    (r.pcur + 1 < r.slots → (r.advance true).pcur = r.pcur + 1 ∧ (r.advance true).pphase = r.pphase) ∧
    (r.slots ≤ r.pcur + 1 → (r.advance true).pcur = 0 ∧ (r.advance true).pphase = 1 - r.pphase) ∧
    (r.advance true).ccur = r.ccur ∧ (r.advance true).cphase = r.cphase :=
  ⟨Tab.look_put_self _ _ _, (cursor_turn _ _ _).1, (cursor_turn _ _ _).2, rfl, rfl⟩

theorem Ring.advance_consumer (r : Ring) : Tab.look (r.advance false).full r.ccur = none ∧
    (r.ccur + 1 < r.slots → (r.advance false).ccur = r.ccur + 1 ∧ (r.advance false).cphase = r.cphase) ∧
    (r.slots ≤ r.ccur + 1 → (r.advance false).ccur = 0 ∧ (r.advance false).cphase = 1 - r.cphase) ∧
    (r.advance false).pcur = r.pcur ∧ (r.advance false).pphase = r.pphase :=
  ⟨Tab.look_del_self _ _, (cursor_turn _ _ _).1, (cursor_turn _ _ _).2, rfl, rfl⟩

/-- A consumer whose ring lets it go on finds its slot full, with its phase. -/
theorem State.ringOver_consumer {s : State} {g k : Nat} {r : Ring} (hr : s.ringOf g k = some r) (h : s.ringOver g false k = true) :
    Tab.look r.full r.ccur = some r.cphase := by
  rw [State.ringOver, hr] at h
  exact beq_iff_eq.1 h

theorem stageRings : Claim.StageRings := by
  intro k s g hc
  have hp : exec (.ringp k) s = s.ringWord true k.toNat := rfl
  have hg : exec (.ringg k) s = s.ringWord false k.toNat := rfl
  rw [hp, hg]
  refine ⟨fun hn => ⟨State.ringWord_refused hc (by simp [hn]), State.ringWord_refused hc (by simp [hn])⟩, fun r hr => ?_⟩
  have refused (producer : Bool) (h : s.roleOf g ≠ if producer then r.prod else r.cons) :=
    State.ringWord_refused hc (producer := producer) (k := k.toNat) fun q hq => (Option.some.inj (hr.symm.trans hq)) ▸ h
  refine ⟨refused true, refused false, ?_⟩
  intro c q hq
  refine ⟨fun h ho => ?_, fun h ho => ?_, fun h ho => ?_, fun h ho => ?_⟩
  · obtain ⟨hring, hthr, hmem⟩ := State.ringDone_spec true hq
    obtain ⟨hslot, hnext, hturn, hccur, hcphase⟩ := q.advance_producer
    refine ⟨_, _, (State.ringWord_allowed (producer := true) hc hr h).trans (if_pos ho), hring, hslot, hnext, hturn, hccur, hcphase, hthr, hmem⟩
  · obtain ⟨hring, hthr, hmem⟩ := State.ringDone_spec false hq
    obtain ⟨hslot, hnext, hturn, hpcur, hpphase⟩ := q.advance_consumer
    exact ⟨_, _, (State.ringWord_allowed (producer := false) hc hr h).trans (if_pos ho), hring, State.ringOver_consumer hq ho, hslot, hnext,
      hturn, hpcur, hpphase, hthr, hmem⟩
  · exact (State.ringWord_allowed (producer := true) hc hr h).trans (if_neg (ne_true_of_eq_false ho))
  · exact (State.ringWord_allowed (producer := false) hc hr h).trans (if_neg (ne_true_of_eq_false ho))

/-! ### The arbiter's order (R46) -/

/-- A request of group `g` in cycle `cyc` stands before the request `r`, of the same cycle. -/
def RegReq.After (g cyc : Nat) : RegReq → Prop
  | .sgrow h _ k => cyc = k ∧ (g % 4 < h % 4 ∨ g % 4 = h % 4 ∧ g % 16 < h % 16)

/-- A request joins before the first that it stands before, and the others keep their order. -/
theorem insReq_split (g b cyc : Nat) (l : List RegReq) : ∃ pre post, insReq g b cyc l = pre ++ .sgrow g b cyc :: post ∧ pre ++ post = l ∧
    (∀ r ∈ pre, ¬ r.After g cyc) ∧ ∀ r ∈ post.head?, r.After g cyc := by
  induction l with
  | nil => exact ⟨[], [], rfl, rfl, nofun, nofun⟩
  | cons r rs ih =>
    obtain ⟨h, c, k⟩ := r
    rw [insReq]
    split
    case isTrue hb =>
      refine ⟨[], _, rfl, rfl, nofun, fun r hr => ?_⟩
      obtain rfl : RegReq.sgrow h c k = r := by simpa using hr
      simpa [RegReq.After] using hb
    case isFalse hb =>
      obtain ⟨pre, post, hi, hl, hpre, hpost⟩ := ih
      refine ⟨.sgrow h c k :: pre, post, by rw [hi]; rfl, by rw [← hl]; rfl, fun r hr => ?_, hpost⟩
      rcases List.mem_cons.1 hr with rfl | hr
      · simpa [RegReq.After] using hb
      · exact hpre r hr

theorem State.qcfgOk_refuses {s : State} {g q base cap : Nat}
    (h : base % 4 ≠ 0 ∨ 131072 < cap ∨ 0 < cap ∧ (s.team (s.group g).team).size < base + 4 * cap) : s.qcfgOk g q base cap = false := by
  unfold State.qcfgOk
  rcases h with h | h | ⟨h0, h⟩
  · simp [h]
  · simp [Nat.not_le.2 h]
  · simp [Nat.not_le.2 h, h0.ne']

theorem allocationWords : Claim.AllocationWords := by
  intro s g hc
  refine ⟨fun q a cap hr => ?_, fun n a hr => ?_, fun b => ⟨fun h => ?_, fun h => ?_, fun h => ?_, fun h hn => ?_⟩⟩
  · have he : exec (.qcfg q a cap) s = _ := State.groupRegs_ready hc hr fun g s =>
      let base := (s.thr.rd a.toNat).toNat
      if !s.qcfgOk g q.toNat base cap.toNat then .next (s.raise .queueConfig {})
      else .next ((s.modGroup g fun x => { x with reg := { x.reg with qcfg := x.reg.qcfg ++ [(q.toNat, base, cap.toNat)] } }).pass 8)
    intro base
    refine ⟨fun ho => ⟨_, he.trans (if_neg (by simp [ho, base])), State.pass_modGroup hc _ _⟩, fun hb => ?_⟩
    exact he.trans (if_pos (by rw [State.qcfgOk_refuses hb]; rfl))
  · have he : exec (.stcfg n a) s = _ := State.groupRegs_ready hc hr fun g s =>
      let v : Word := (s.thr.rd a.toNat).setWidth 32 &&& 0x3FFFF
      if tcBad v then .next (s.raise .tileConfig {})
      else if (s.group g).tl.tempty.getLsbD n.toNat then .next (s.waitFor 31)
      else .next ((s.modGroup g fun x => { x with tl := { x.tl with tc := Tab.set 0 x.tl.tc n.toNat v } }).pass 4)
    intro v
    exact ⟨fun hb => he.trans (if_pos hb), fun hb ht => ⟨_,
      (he.trans (if_neg (ne_true_of_eq_false hb))).trans (if_neg (ne_true_of_eq_false ht)), State.pass_modGroup hc _ _⟩⟩
  · have he : exec (.sgrow b) s = _ := State.groupOnly_group hc
    exact ⟨_, he.trans (if_pos h), State.pass_passed hc 4⟩
  · have he : exec (.sgrow b) s = _ := State.groupOnly_group hc
    refine ⟨_, he.trans (if_neg (Nat.not_le.2 h)), ?_, ?_, rfl, ?_⟩
    · rw [State.park?, State.group_modGroup]
    · rw [State.thr_group (g := g) (by exact hc), State.thr_group hc, State.park?, State.group_modGroup]
      rfl
    · intro cyc ahead
      obtain ⟨pre, post, hi, hl, hpre, hpost⟩ := insReq_split g b.toNat cyc
        ((s.core (s.coreOf g)).arb.filter fun | .sgrow h _ _ => h != g)
      refine ⟨pre, post, ?_, hl, hpre, hpost⟩
      rw [State.park?, State.core_modGroup, State.core_modCore]
      exact hi
  · have he : exec (.sshrink b) s = _ := State.groupOnly_group hc
    exact ⟨_, he.trans (if_pos h), State.pass_passed hc 4⟩
  · have he : exec (.sshrink b) s = _ := State.groupOnly_group hc
    refine ⟨_, he.trans (if_neg (Nat.not_le.2 h)), (State.pass_modGroup hc _ _).trans ?_⟩
    rw [State.modGroup, State.modGroup, hn, Option.getD_none, Nat.min_self]

/-- Settles O23: the rings by `stageRings`, the allocation words by `allocationWords`, with the arbiter's order by `insReq_split`. -/
theorem ringsAndAllocations : Obligations.RingsAndAllocations := ⟨stageRings, allocationWords⟩

end Sys2Proof.Machine
end


section
/-! SUPPORT. The clock of a die's core domain, flits that cross into it, and the bins of Swage (R25, R394, R399). -/

namespace Sys2Proof.Machine

/-- Where a core's clock runs, what its die does there happens. -/
theorem State.ticking_runs {s : State} {core : Nat} (h : s.still core = false) (k : State → Out) : s.ticking core k = k s :=
  if_neg (ne_true_of_eq_false h)

theorem State.ticking_stopped {s : State} {core : Nat} (h : s.still core = true) (k : State → Out) : s.ticking core k = .next s :=
  if_pos h

/-- Where the clock runs or not, a body that changes nothing changes nothing. -/
theorem State.ticking_same {s : State} {core : Nat} {k : State → Out} (h : k s = .next s) : s.ticking core k = .next s := by
  rw [State.ticking, h, ite_self]

/-- A count changes the records of contexts alone. -/
theorem State.bump_eq (s : State) (c e : Nat) : ∃ cs, s.bump c e = { s with ctxs := cs } := by
  unfold State.bump State.bumpBy
  split
  · exact ⟨_, rfl⟩
  · exact ⟨_, rfl⟩

@[simp] theorem State.bump_core (s : State) (c e k : Nat) : (s.bump c e).core k = s.core k := by
  obtain ⟨cs, h⟩ := s.bump_eq c e; rw [h]; rfl

@[simp] theorem State.bump_team (s : State) (c e t : Nat) : (s.bump c e).team t = s.team t := by
  obtain ⟨cs, h⟩ := s.bump_eq c e; rw [h]; rfl

/-! ### Flits (R399) -/

/-- A flit that enters: its effect happens, on a state whose queue of flits alone has changed. -/
theorem State.cross_enters {s : State} {d : Nat} {f : Flit} (h : Claim.Enters s d f) (k : State → Out) :
    ∃ ds, s.cross d f k = k { s with dies := ds } := by
  obtain ⟨hstop, hhead⟩ := h
  unfold State.cross
  simp only [hstop, Bool.false_eq_true, if_false]
  split
  next hq =>
    split
    · exact ⟨_, rfl⟩
    · exact ⟨_, rfl⟩
  next g r hq =>
    rw [hq] at hhead
    have hf : g = f := by simpa using hhead
    rw [if_pos hf]
    exact ⟨_, rfl⟩

/-- A flit that does not enter stands in the queue of its die, and nothing else has happened. -/
theorem State.cross_waits {s : State} {d : Nat} {f : Flit} (h : ¬ Claim.Enters s d f) (k : State → Out) :
    ∃ u, s.cross d f k = .next u ∧ Claim.FlitWaits s u d f := by
  have wait (q : List Flit) (hq : q = (s.die d).fifo.filter (s.flitLive d)) : Claim.FlitWaits s
      (if q.contains f then s else s.setDie d { s.die d with fifo := q ++ [f] }) d f := by
    split
    case isTrue hc =>
      subst hq
      exact ⟨(List.mem_filter.1 (List.contains_iff_mem.1 hc)).1, rfl, rfl, rfl, rfl, rfl⟩
    case isFalse hc =>
      refine ⟨?_, rfl, rfl, rfl, rfl, rfl⟩
      rw [State.die_setDie]
      exact List.mem_append_right _ (List.mem_singleton_self f)
  unfold State.cross
  by_cases hstop : (s.die d).stopped = true
  · exact ⟨_, if_pos hstop, wait _ rfl⟩
  · rw [if_neg hstop]
    split
    next hq => exact absurd ⟨Bool.eq_false_iff.2 hstop, by rw [hq]; rfl⟩ h
    next g r hq =>
      have hf : ¬ g = f := fun hf => h ⟨Bool.eq_false_iff.2 hstop, by rw [hq]; simpa using hf⟩
      rw [if_neg hf]
      exact ⟨_, rfl, wait _ rfl⟩

/-! ### Groups that form (R25, R26) -/

/-- An entry of a table without repeated keys is what its key names. -/
theorem Tab.look_of_mem {α : Type} {t : Tab α} {e : Nat × α} (hn : (t.map Prod.fst).Nodup) (he : e ∈ t) : Tab.look t e.1 = some e.2 := by
  induction t with
  | nil => cases he
  | cons a t ih =>
    obtain ⟨k, v⟩ := a
    obtain ⟨hk, hn⟩ := List.nodup_cons.1 hn
    rcases List.mem_cons.1 he with rfl | he
    · exact if_pos rfl
    · have hne : k ≠ e.1 := fun h => hk (List.mem_map.2 ⟨e, he, h.symm⟩)
      exact (if_neg hne).trans (ih hn he)

/-- Lanes listed by their position. -/
theorem Tab.get_zipIdx {α β : Type} (d : β) (l : List α) (f : α → β) {e : α × Nat} (he : e ∈ l.zipIdx) :
    Tab.get d (l.zipIdx.map fun (y, k) => (k, f y)) e.2 = f e.1 := by
  have hk : ((l.zipIdx.map fun (y, k) => (k, f y)).map Prod.fst).Nodup := by
    rw [List.map_map]
    exact (List.zipIdx_map_snd 0 l).symm ▸ List.nodup_range'
  rw [Tab.get, Tab.look_of_mem hk (List.mem_map.2 ⟨e, he, rfl⟩ : (e.2, f e.1) ∈ _), Option.getD_some]

theorem Thread.em_setPred (t : Thread) (n : Nat) (v : Word) : (t.setPred n v).em = t.em := by unfold Thread.setPred; split <;> rfl
theorem Thread.pcs_setPred (t : Thread) (n : Nat) (v : Word) : (t.setPred n v).pcs = t.pcs := by unfold Thread.setPred; split <;> rfl

/-- A bin's hold has expired, in a state of which that is not so for any bin of the core's running teams. -/
theorem State.holdDue_eq_false {s : State} {core : Nat}
    (h : ∀ e ∈ s.teams, e.2.core = core → e.2.st = .running → ∀ k ∈ e.2.bins, Bin.holdOver k.2 (s.cycOf e.1) = false) : s.holdDue core = false := by
  refine List.any_eq_false.2 fun e he hx => ?_
  simp only [Bool.and_eq_true, beq_iff_eq, List.any_eq_true] at hx
  obtain ⟨⟨hcore, hst⟩, k, hk, ho⟩ := hx
  exact absurd ho (ne_true_of_eq_false (h e he hcore hst k hk))

/-- A bin that nothing stands before is next. -/
theorem State.formNext_of {s : State} {t : Nat} {b : Bin} (hd : s.holdDue (s.team t).core = false) (hc : s.canForm t b = true)
    (hb : ∀ e ∈ (s.team t).bins, Bin.before e.2 b = true → s.canForm t e.2 = false)
    (ha : ∀ e ∈ s.askingBins (s.team t).core, e.1 ≠ t → (s.binKeyOf e.1 e.2).before (s.binKeyOf t b) = false)
    (hg : ∀ j, s.growGrant (s.team t).core = some j → j.before (s.binKeyOf t b) = false) : s.formNext t b = true := by
  have hfirst : s.formFirst t b = true := by
    unfold State.formFirst
    simp only [hc, Bool.true_and, Bool.and_eq_true, Bool.not_eq_true', List.any_eq_false, bne_iff_ne, not_and, Bool.not_eq_true]
    exact ⟨hb, ha⟩
  unfold State.formNext
  rw [hd, hfirst, Bool.not_false, Bool.true_and, Bool.true_and]
  split
  · rw [hg _ ‹_›]; rfl
  · rfl

/-- What the formation of a group does: the group is there, its team lists it, its core counts its blocks. -/
theorem State.form_spec (s : State) (t key i : Nat) (b : Bin) :
    (s.form t key i b).group (groupKey t i) = s.formed t i b ∧
      ((s.form t key i b).core (s.team t).core).used = (s.core (s.team t).core).used + b.blocks ∧
      Tab.look ((s.form t key i b).team t).groups i = some (groupKey t i) ∧
      (s.form t key i b).mem = s.mem ∧ ∀ h, h ≠ groupKey t i → (s.form t key i b).group h = s.group h := by
  have hidx : (s.formed t i b).gidx = i := rfl
  have hblocks : (s.formed t i b).blocks = b.blocks := rfl
  refine ⟨?_, ?_, ?_, ?_, fun h hh => ?_⟩
  · simp [State.form, State.addGroup, hidx]
  · simp [State.form, State.addGroup, hidx, hblocks]
  · simp [State.form, State.addGroup, hidx]
  · simp [State.form, State.addGroup]
  · simp [State.form, State.addGroup, hidx, State.group_setGroup_ne, hh]

/-- The group that forms: at the bin's entry point, with the bin's first 32 lanes by their position. -/
theorem State.formed_spec (s : State) (t i : Nat) (b : Bin) :
    let x := s.formed t i b
    let ls := (b.lanes.take 32).zipIdx
    x.team = t ∧ x.gidx = i ∧ x.thr.pcs = b.entry ∧ x.blocks = b.blocks ∧ x.thr.em = BitVec.ofNat 32 (2 ^ ls.length - 1) ∧
      x.xm = ~~~x.thr.em ∧ ∀ e ∈ ls, Tab.get Lane.zero x.lanes e.2 =
        if (s.team t).stage2 = 4 ∧ e.1.lane.entry = 0 then { e.1.lane with entry := b.entry } else e.1.lane := by
  intro x ls
  have hem : x.thr.em = BitVec.ofNat 32 (2 ^ ls.length - 1) := by
    simp only [x, State.formed]
    split
    · rw [Thread.em_setPred]; rfl
    · rfl
  have hpc : x.thr.pcs = b.entry := by
    simp only [x, State.formed]
    split
    · rw [Thread.pcs_setPred]; rfl
    · rfl
  refine ⟨rfl, rfl, hpc, rfl, hem, by rw [hem]; rfl, fun e he => ?_⟩
  exact (Tab.get_zipIdx Lane.zero (b.lanes.take 32) (fun y => if (s.team t).stage2 = 4 && y.lane.entry = 0 then
    { y.lane with entry := b.entry } else y.lane) he).trans (if_congr (by simp) rfl rfl)

end Sys2Proof.Machine
end


section
/-! SUPPORT. What the events of teams do (R25, R26, R46-R48, R203, R400). -/

namespace Sys2Proof.Machine

/-! ### The arbiter and Swage -/

theorem holdExpiry_marks {t key : Nat} {s : State} {b : Bin} (hb : Tab.look (s.team t).bins key = some b)
    (hrun : (s.team t).st = .running) (hstill : s.still (s.team t).core = false) (hready : b.ready = none) (hlanes : b.lanes ≠ [])
    (hlast : b.lastAt + 512 ≤ s.cycOf t) :
    ∃ u, exec (.swageHoldExpiry t key) s = .next u ∧ Tab.look (u.team t).bins key = some { b with ready := some (b.lastAt + 512) } ∧
      u.groups = s.groups ∧ u.mem = s.mem := by
  have hover : b.holdOver (s.cycOf t) = true := by
    have hl : b.lastAt + holdCycles ≤ s.cycOf t := hlast
    simp [Bin.holdOver, hready, hlanes, hl]
  have he : execSwageHoldExpiry t key s = .next (s.modTeam t fun x => { x with bins := Tab.put x.bins key (b.expire (s.cycOf t)) }) := by
    rw [execSwageHoldExpiry, hb]
    simp only
    rw [State.ticking_runs hstill, hrun, hover]
    rfl
  refine ⟨_, he, ?_, rfl, rfl⟩
  rw [State.team_modTeam, Bin.expire, if_pos hover]
  exact Tab.look_put_self _ _ _

theorem holdExpiry_same {t key : Nat} {s : State} {b : Bin} (hb : Tab.look (s.team t).bins key = some b)
    (h : b.ready.isSome = true ∨ s.cycOf t < b.lastAt + 512) : exec (.swageHoldExpiry t key) s = .next s := by
  have hover : b.holdOver (s.cycOf t) = false := by
    unfold Bin.holdOver
    rcases h with h | h
    · simp [Option.isNone_eq_false_iff.2 h]
    · simp [Nat.not_le.2 h, holdCycles]
  show execSwageHoldExpiry t key s = _
  rw [execSwageHoldExpiry, hb]
  refine State.ticking_same ?_
  rw [hover, Bool.and_false]
  rfl

theorem groupFormation_forms {t key i : Nat} {s : State} {b : Bin} (hb : Tab.look (s.team t).bins key = some b)
    (hi : (s.team t).freeIdx = some i) (hstill : s.still (s.team t).core = false) (hn : s.formNext t b = true) :
    exec (.swageGroupFormation t key) s = .next (s.form t key i b) := by
  show execSwageGroupFormation t key s = _
  rw [execSwageGroupFormation, hb, hi]
  exact (State.ticking_runs hstill _).trans (if_pos hn)

theorem groupFormation_same {t key : Nat} {s : State} {b : Bin} (hb : Tab.look (s.team t).bins key = some b) (hn : s.formNext t b = false) :
    exec (.swageGroupFormation t key) s = .next s := by
  show execSwageGroupFormation t key s = _
  rw [execSwageGroupFormation, hb]
  split
  next b' i hb' _ =>
    obtain rfl := Option.some.inj hb'
    exact State.ticking_same (if_neg (ne_true_of_eq_false hn))
  next => rfl

/-! ### Register grants (R46) -/

theorem registerGrant_stays {core g b c : Nat} {rest : List RegReq} {s : State} (ha : (s.core core).arb = .sgrow g b c :: rest)
    (hw : (s.group g).sch.wait = some (.sgrow b)) (hc : s.coreOf g = core) (hn : s.growNext core = false) :
    exec (.registerGrant core) s = .next s := by
  show execRegisterGrant core s = _
  rw [execRegisterGrant, ha]
  refine State.ticking_same ?_
  simp [hw, hc, hn]

theorem registerGrant_grants {core g b c : Nat} {rest : List RegReq} {s : State} (ha : (s.core core).arb = .sgrow g b c :: rest)
    (hw : (s.group g).sch.wait = some (.sgrow b)) (hc : s.coreOf g = core) (hstill : s.still core = false) (hn : s.growNext core = true) :
    ∃ u, exec (.registerGrant core) s = .next u ∧ (u.group g).blocks = max (s.group g).blocks b ∧
      (u.group g).thr = (s.group g).thr.next 4 ∧ (u.group g).sch.wait = none ∧
      (u.core core).used = (s.core core).used + (b - (s.group g).blocks) ∧ (u.core core).arb = rest ∧ u.mem = s.mem := by
  have he : execRegisterGrant core s = .next (((s.modCore core fun c => { c with arb := rest }).modCore core fun c =>
      { c with used := c.used + (b - (s.group g).blocks) }).modGroup g fun y =>
        { y with blocks := max y.blocks b, thr := y.thr.next 4, sch := { y.sch with wait := none } }) := by
    rw [execRegisterGrant, ha]
    simp only
    rw [State.ticking_runs hstill]
    simp [hw, hc, hn]
  refine ⟨_, he, ?_⟩
  simp

/-- The first SGROW request of a core, where its blocks are there. -/
theorem State.growGrant_eq {s : State} {core g b c : Nat} {rest : List RegReq} (ha : (s.core core).arb = .sgrow g b c :: rest) :
    s.growGrant core = if (s.core core).used + (b - (s.group g).blocks) ≤ 512 then some (c, g % 4, g % 16) else none := by
  rw [State.growGrant, ha]

theorem State.growNext_eq_false {s : State} {core g b c : Nat} {rest : List RegReq} (ha : (s.core core).arb = .sgrow g b c :: rest)
    (h : 512 < (s.core core).used + (b - (s.group g).blocks) ∨
      ∃ k ∈ s.askingBins core, s.formFirst k.1 k.2 = true ∧ (s.binKeyOf k.1 k.2).before (c, g % 4, g % 16) = true) : s.growNext core = false := by
  rw [State.growNext, State.growGrant_eq ha]
  rcases h with h | ⟨k, hk, hf, hb⟩
  · rw [if_neg (Nat.not_le.2 h), Bool.and_false]
  · split
    next j hj =>
      split at hj
      · obtain rfl := Option.some.inj hj
        have hany : ((s.askingBins core).any fun (u, c') => s.formFirst u c' && (s.binKeyOf u c').before (c, g % 4, g % 16)) = true :=
          List.any_eq_true.2 ⟨k, hk, by simp [hf, hb]⟩
        rw [hany, Bool.not_true, Bool.and_false]
      · cases hj
    next => rw [Bool.and_false]

theorem State.growNext_of {s : State} {core g b c : Nat} {rest : List RegReq} (ha : (s.core core).arb = .sgrow g b c :: rest)
    (hroom : (s.core core).used + (b - (s.group g).blocks) ≤ 512) (hdue : s.holdDue core = false)
    (h : ∀ k ∈ s.askingBins core, s.formFirst k.1 k.2 = true → (s.binKeyOf k.1 k.2).before (c, g % 4, g % 16) = false) :
    s.growNext core = true := by
  have hany : ((s.askingBins core).any fun (u, c') => s.formFirst u c' && (s.binKeyOf u c').before (c, g % 4, g % 16)) = false :=
    List.any_eq_false.2 fun k hk hb => by
      rw [Bool.and_eq_true] at hb
      exact absurd hb.2 (ne_true_of_eq_false (h k hk hb.1))
  rw [State.growNext, State.growGrant_eq ha, if_pos hroom, hdue]
  simp only [hany, Bool.not_false, Bool.and_self]

/-! ### Deadlock and quarantine (R47, R48) -/

theorem sgrowDeadlock_vacates {core a : Nat} {s : State} (hon : s.groupsOn core ≠ []) (hts : s.runningOn core ≠ [])
    (hgrow : ∀ e ∈ s.groupsOn core, e.2.growing = true) (hq : (s.core core).quar = []) (hf : s.arbFree core = false)
    (hroom : s.roomFor (s.partOfTeam (s.latestTeam (s.runningOn core))) [s.latestTeam (s.runningOn core)]
      (s.imageAreas (s.partOfTeam (s.latestTeam (s.runningOn core)))) = some [(s.latestTeam (s.runningOn core), a)]) :
    exec (.sgrowDeadlockPreempt core) s = .next (s.vacateTeam (s.latestTeam (s.runningOn core)) a) := by
  have hall : (s.groupsOn core).all (fun (_, g) => g.growing) = true := List.all_eq_true.2 hgrow
  show execSgrowDeadlockPreempt core s = _
  unfold execSgrowDeadlockPreempt
  simp [hon, hts, hall, hq, hf, hroom]

theorem vacateTeam_team (s : State) (t image : Nat) :
    ((s.vacateTeam t image).team t).st = .vacating ∧ ((s.vacateTeam t image).team t).image = some image := by
  rw [State.vacateTeam, State.team_modTeam]
  exact ⟨rfl, rfl⟩

theorem quarantineRelease_counts {core n b w : Nat} {s : State} (hq : (s.core core).quar[n]? = some (b, w)) (hstill : s.still core = false) :
    ∃ u, exec (.quarantineRelease core n) s = .next u ∧
      (u.core core).quar = (if w ≤ 1 then (s.core core).quar.eraseIdx n else (s.core core).quar.set n (b, w - 1)) ∧
      (u.core core).used = (if w ≤ 1 then (s.core core).used - 1 else (s.core core).used) ∧ u.groups = s.groups ∧ u.mem = s.mem := by
  have he : execQuarantineRelease core n s = .next (s.modCore core fun c =>
      if w ≤ 1 then { c with quar := c.quar.eraseIdx n, used := c.used - 1 } else { c with quar := c.quar.set n (b, w - 1) }) := by
    rw [execQuarantineRelease, hq]
    exact State.ticking_runs hstill _
  refine ⟨_, he, ?_, ?_, rfl, rfl⟩
  · rw [State.core_modCore]; split <;> rfl
  · rw [State.core_modCore]; split <;> rfl

/-! ### Cross-team barriers (R203, R400) -/

/-- The state in which an agent has counted a team's arrival. -/
def State.counted (s : State) (n : Nat) (m : BarMsg) : State :=
  let k := xKey m.level m.unit m.n
  let b := (s.launch m.launch).xbar k
  { s with arrivals := s.arrivals.eraseIdx n }.modLaunch m.launch fun x => { x with xbars := Tab.put x.xbars k { b with arrived := b.arrived ++ [m.team] } }

theorem State.counted_xbar (s : State) (n : Nat) (m : BarMsg) :
    ((s.counted n m).launch m.launch).xbar (xKey m.level m.unit m.n) = { (s.launch m.launch).xbar (xKey m.level m.unit m.n) with
      arrived := ((s.launch m.launch).xbar (xKey m.level m.unit m.n)).arrived ++ [m.team] } := by
  rw [State.counted, State.launch_modLaunch]
  exact Tab.get_put_self _ _ _ _

theorem State.counted_participants (s : State) (n : Nat) (m : BarMsg) (level u : Nat) :
    (s.counted n m).participants m.launch level u = s.participants m.launch level u := by
  rw [State.participants, State.counted, State.launch_modLaunch]
  rfl

theorem barrierArrival_ignored {n : Nat} {s : State} {m : BarMsg} (hm : s.arrivals[n]? = some m)
    (h : (s.team (teamKey m.launch m.team)).over? = true ∨ ((s.launch m.launch).xbar (xKey m.level m.unit m.n)).poisoned = true) :
    exec (.barrierArrival n) s = .next { s with arrivals := s.arrivals.eraseIdx n } := by
  show execBarrierArrival n s = _
  rw [execBarrierArrival, hm]
  exact if_pos (Bool.or_eq_true_iff.2 h)

theorem barrierArrival_counted {n : Nat} {s : State} {m : BarMsg} (hm : s.arrivals[n]? = some m)
    (ho : (s.team (teamKey m.launch m.team)).over? = false) (hp : ((s.launch m.launch).xbar (xKey m.level m.unit m.n)).poisoned = false) :
    exec (.barrierArrival n) s = .next ((s.counted n m).settleX m.launch m.level m.unit m.n) := by
  show execBarrierArrival n s = _
  rw [execBarrierArrival, hm]
  have hcond : ¬((s.team (teamKey m.launch m.team)).over? || ((s.launch m.launch).xbar (xKey m.level m.unit m.n)).poisoned) = true := by
    rw [ho, hp]
    exact Bool.false_ne_true
  exact if_neg hcond

/-- A phase that lacks a participant's arrival does not complete. -/
theorem State.settleX_waits {s : State} {l level u n i : Nat} (hi : i ∈ s.participants l level u)
    (ha : i ∉ ((s.launch l).xbar (xKey level u n)).arrived) : s.settleX l level u n = s := by
  rw [State.settleX]
  refine if_neg fun h => ha ?_
  rw [Bool.and_eq_true, List.all_eq_true] at h
  exact List.contains_iff_mem.1 (h.2 i hi)

theorem State.settleX_arrivals (s : State) (l level u n : Nat) : (s.settleX l level u n).arrivals = s.arrivals := by
  unfold State.settleX
  dsimp only
  split
  · split <;> rfl
  · rfl

/-- A phase with every participant's arrival completes, and the agent's notices leave for them. -/
theorem State.settleX_completes {s : State} {l level u n : Nat} (hne : ((s.launch l).xbar (xKey level u n)).arrived ≠ [])
    (hp : ((s.launch l).xbar (xKey level u n)).poisoned = false)
    (ha : ∀ i ∈ s.participants l level u, i ∈ ((s.launch l).xbar (xKey level u n)).arrived) :
    let t := s.settleX l level u n
    let p := ((s.launch l).xbar (xKey level u n)).phase + 1
    ((t.launch l).xbar (xKey level u n)).phase = p ∧ ((t.launch l).xbar (xKey level u n)).arrived = [] ∧
      t.notices = s.notices ++ (s.participants l level u).map fun i => ⟨l, level, u, n, i, p⟩ := by
  intro t p
  have hall : (s.participants l level u).all ((s.launch l).xbar (xKey level u n)).arrived.contains = true :=
    List.all_eq_true.2 fun i hi => List.contains_iff_mem.2 (ha i hi)
  have hcond : (!((s.launch l).xbar (xKey level u n)).arrived.isEmpty && !((s.launch l).xbar (xKey level u n)).poisoned &&
      (s.participants l level u).all ((s.launch l).xbar (xKey level u n)).arrived.contains) = true := by
    simp [hne, hp, hall]
  simp only [t, State.settleX]
  rw [if_pos hcond]
  split
  · simp [State.modTeam, State.setTeam, State.modLaunch, State.setLaunch, State.launch, Launch.xbar, p]
  · simp [State.modLaunch, State.setLaunch, State.launch, Launch.xbar, p]

/-- An arrival that counts: the phase goes on, or completes with it. -/
theorem barrierArrival_counts {n : Nat} {s : State} {m : BarMsg} (hm : s.arrivals[n]? = some m)
    (ho : (s.team (teamKey m.launch m.team)).over? = false) (hp : ((s.launch m.launch).xbar (xKey m.level m.unit m.n)).poisoned = false) :
    let k := xKey m.level m.unit m.n
    let b := (s.launch m.launch).xbar k
    let ps := s.participants m.launch m.level m.unit
    ∃ u, exec (.barrierArrival n) s = .next u ∧ u.arrivals = s.arrivals.eraseIdx n ∧
      ((∃ i ∈ ps, i ∉ b.arrived ++ [m.team]) → ((u.launch m.launch).xbar k).phase = b.phase ∧
        ((u.launch m.launch).xbar k).arrived = b.arrived ++ [m.team] ∧ u.notices = s.notices) ∧
      ((∀ i ∈ ps, i ∈ b.arrived ++ [m.team]) → ((u.launch m.launch).xbar k).phase = b.phase + 1 ∧
        ((u.launch m.launch).xbar k).arrived = [] ∧ u.notices = s.notices ++ ps.map fun i => ⟨m.launch, m.level, m.unit, m.n, i, b.phase + 1⟩) := by
  intro k b ps
  have hx : ((s.counted n m).launch m.launch).xbar k = { b with arrived := b.arrived ++ [m.team] } := s.counted_xbar n m
  have hps : (s.counted n m).participants m.launch m.level m.unit = ps := s.counted_participants n m _ _
  refine ⟨_, barrierArrival_counted hm ho hp, State.settleX_arrivals _ _ _ _ _, fun ⟨i, hi, ha⟩ => ?_, fun ha => ?_⟩
  · rw [State.settleX_waits (i := i) (hps ▸ hi) (by rw [hx]; exact ha), hx]
    exact ⟨rfl, rfl, rfl⟩
  · have h := State.settleX_completes (s := s.counted n m) (l := m.launch) (level := m.level) (u := m.unit) (n := m.n)
      (by rw [hx]; exact List.append_ne_nil_of_right_ne_nil _ (List.cons_ne_nil _ _)) (by rw [hx]; exact hp) (by rw [hx, hps]; exact ha)
    rw [hx, hps] at h
    exact h

theorem Barrier.notice_phase (b : Barrier) (p : Nat) : (b.notice p).phase = max b.phase p := by
  unfold Barrier.notice
  split
  · simp; omega
  · omega

/-- The state in which a team has learnt of a phase. -/
def State.noticed (s : State) (n : Nat) (m : BarMsg) : State :=
  { s with notices := s.notices.eraseIdx n }.modTeam (teamKey m.launch m.team) fun x =>
    { x with bars := Tab.put x.bars (barKey m.level m.n) ((x.bar (barKey m.level m.n)).notice m.phase) }

theorem State.noticed_phaseOf (s : State) (n : Nat) (m : BarMsg) :
    (s.noticed n m).phaseOf (teamKey m.launch m.team) (barKey m.level m.n) =
      max (s.phaseOf (teamKey m.launch m.team) (barKey m.level m.n)) m.phase := by
  rw [State.phaseOf, State.noticed, State.team_modTeam, Team.bar, Tab.get_put_self, Barrier.notice_phase]
  rfl

theorem barrierNotice_eq {n : Nat} {s : State} {m : BarMsg} (hm : s.notices[n]? = some m) :
    exec (.barrierNotice n) s = if (s.team (teamKey m.launch m.team)).onCore then
      s.cross (dieOf (s.team (teamKey m.launch m.team)).core) (.notice m) fun s => .next (s.noticed n m) else .next (s.noticed n m) := by
  show execBarrierNotice n s = _
  rw [execBarrierNotice, hm]
  rfl

/-- Settles O45: each event's clauses are the lemmas above, the arbiter's order by `State.formNext_of` and `State.growNext_of`. -/
theorem teamEvents : Obligations.TeamEvents := by
  unfold Obligations.TeamEvents
  refine ⟨fun t key s b hb => ⟨holdExpiry_marks hb, holdExpiry_same hb, fun i hi _ hstill hdue hc hbins hask hgrant => ?_,
    groupFormation_same hb⟩, fun core s => ⟨fun h => ?_, fun h => ?_, fun g b c rest ha hw hc => ⟨fun h => ?_, fun h => ?_, fun hroom hstill hdue h => ?_⟩⟩,
    fun core a s => ?_, fun core n b w s => quarantineRelease_counts, fun n s m hm => ⟨barrierArrival_ignored hm, barrierArrival_counts hm⟩,
    fun n s m hm => ⟨fun hon he => ?_, fun h => ?_⟩⟩
  · have hn := State.formNext_of (State.holdDue_eq_false hdue) hc hbins hask hgrant
    obtain ⟨hg, hused, hgroups, hmem, hother⟩ := s.form_spec t key i b
    refine ⟨_, groupFormation_forms hb hi hstill hn, ?_⟩
    obtain ⟨hteam, hidx, hpc, hblocks, hem, hxm, hlanes⟩ := s.formed_spec t i b
    rw [hg]
    exact ⟨hteam, hidx, hpc, hblocks, hem, hxm, hlanes, hused, hgroups, hmem, hother⟩
  · show execRegisterGrant core s = _
    rw [execRegisterGrant, h]
  · show execRegisterGrant core s = _
    rw [execRegisterGrant]
    split
    · rfl
    · exact State.ticking_stopped h _
  · exact registerGrant_stays ha hw hc (State.growNext_eq_false ha (.inl h))
  · exact registerGrant_stays ha hw hc (State.growNext_eq_false ha (.inr h))
  · exact registerGrant_grants ha hw hc hstill (State.growNext_of ha hroom hdue h)
  · intro ts t p hon hts hgrow hq hf hroom
    exact ⟨_, sgrowDeadlock_vacates hon hts hgrow hq hf hroom, vacateTeam_team _ _ _⟩
  · rw [barrierNotice_eq hm, if_pos hon]
    exact State.cross_waits he _
  · obtain ⟨ds, hu⟩ : ∃ ds, exec (.barrierNotice n) s = .next (State.noticed { s with dies := ds } n m) := by
      rw [barrierNotice_eq hm]
      split
      case isTrue hon => exact State.cross_enters (h.resolve_left (by simp [hon])) _
      case isFalse => exact ⟨s.dies, rfl⟩
    exact ⟨_, hu, rfl, State.noticed_phaseOf _ n m⟩

end Sys2Proof.Machine
end


section
/-! SUPPORT. What a performing write leaves unchanged (R38, R109, R409, R415). -/

namespace Sys2Proof.Machine

/-! ### Events of the host -/

/-- A part of the state that neither service threads, events nor free values belong to. -/
structure EventFree {α : Type} (F : State → α) : Prop where
  ctl : ∀ s c e f, F { s with ctl := c, evSeqs := e, free := f } = F s
  svc : ∀ s v, F { s with svcs := v } = F s

/-- An event leaves every such part as it was. -/
theorem State.event_free {α : Type} {F : State → α} (hF : EventFree F) (s : State) (source ty die : Nat) (data : DWord) :
    F (s.event source ty die data) = F s := by
  unfold State.event
  simp only
  split
  · exact hF.ctl s _ _ _
  · exact (hF.svc _ _).trans (hF.ctl s _ _ _)

theorem State.poolErrors_free {α : Type} {F : State → α} (hF : EventFree F) (s : State) (pas : List Nat) : F (s.poolErrors pas) = F s := by
  unfold State.poolErrors
  generalize pas.filter _ = l
  induction l generalizing s with
  | nil => rfl
  | cons a l ih => exact (ih _).trans ((State.event_free hF _ _ _ _ _).trans (hF.ctl s s.ctl s.evSeqs _))

@[simp] theorem State.poolErrors_mem (s : State) (pas : List Nat) : (s.poolErrors pas).mem = s.mem :=
  State.poolErrors_free (F := State.mem) ⟨fun _ _ _ _ => rfl, fun _ _ => rfl⟩ s pas

@[simp] theorem State.poolErrors_groups (s : State) (pas : List Nat) : (s.poolErrors pas).groups = s.groups :=
  State.poolErrors_free (F := State.groups) ⟨fun _ _ _ _ => rfl, fun _ _ => rfl⟩ s pas

@[simp] theorem State.poolErrors_teams (s : State) (pas : List Nat) : (s.poolErrors pas).teams = s.teams :=
  State.poolErrors_free (F := State.teams) ⟨fun _ _ _ _ => rfl, fun _ _ => rfl⟩ s pas

@[simp] theorem State.poolErrors_launches (s : State) (pas : List Nat) : (s.poolErrors pas).launches = s.launches :=
  State.poolErrors_free (F := State.launches) ⟨fun _ _ _ _ => rfl, fun _ _ => rfl⟩ s pas

/-! ### One write -/

/-- A group but for its monitor, its held error and the bytes its open atomics would restore. -/
def Group.SameButErr (x y : Group) : Prop := ∃ m u i, y = { x with mon := m, reg := { x.reg with undo := u }, impr := i }

theorem Group.SameButErr.refl (x : Group) : Group.SameButErr x x := ⟨_, _, _, rfl⟩

theorem Group.SameButErr.trans {x y z : Group} (h : Group.SameButErr x y) (k : Group.SameButErr y z) : Group.SameButErr x z := by
  obtain ⟨_, _, _, rfl⟩ := h
  obtain ⟨m, u, i, rfl⟩ := k
  exact ⟨m, u, i, rfl⟩

theorem Group.SameButMon.sameButErr {x y : Group} (h : Group.SameButMon x y) : Group.SameButErr x y := by
  obtain ⟨m, rfl⟩ := h
  exact ⟨m, _, _, rfl⟩

theorem State.wrSpad_group (s : State) (t off : Nat) (bs : List Byte) (g : Nat) :
    Group.SameButErr (s.group g) ((s.wrSpad t off bs).group g) := by
  have hundo : Group.SameButErr (s.group g) ((s.passUndo t off bs).group g) := by
    unfold State.passUndo
    split
    · refine Tab.get_map (R := Group.SameButErr) (by rfl) (fun _ => by rfl) (.refl _) (fun e => ?_) g
      dsimp only
      split
      · exact ⟨_, _, _, rfl⟩
      · exact .refl _
    · exact .refl _
  exact hundo.trans (State.putSpad_group _ _ _ _ _).sameButErr

theorem State.wrSpad_team_ne (s : State) {t j : Nat} (h : j ≠ t) (off : Nat) (bs : List Byte) : (s.wrSpad t off bs).team j = s.team j := by
  have hj : (s.wrSpad t off bs).team j = ((s.passUndo t off bs).modTeam t fun x => { x with spad := putBytes x.spad off bs }).team j := rfl
  rw [hj, State.team_modTeam_ne _ _ h, State.team, State.passUndo_teams, State.team]

theorem State.l1Update_eq (s : State) (core pa : Nat) (bs : List Byte) : ∃ c, s.l1Update core pa bs = { s with cores := c } := by
  unfold State.l1Update
  dsimp only
  split
  · exact ⟨_, rfl⟩
  · exact ⟨_, rfl⟩

theorem State.wrBytes_group (s : State) (pa : Nat) (bs : List Byte) (g : Nat) : Group.SameButErr (s.group g) ((s.wrBytes pa bs).group g) :=
  (State.fireMonitors_group { s with mem := putBytes s.mem pa bs } none pa bs.length g).sameButErr

/-- An error that a group holds. -/
theorem State.holdErr_group (s : State) (g : Nat) (c : Cause) (a : DWord) (k : Nat) :
    Group.SameButErr (s.group k) ((s.modGroup g fun x => x.holdErr c a).group k) := by
  by_cases hk : k = g
  · subst hk
    rw [State.group_modGroup]
    exact ⟨_, _, _, rfl⟩
  · rw [State.group_modGroup_ne _ _ hk]
    exact .refl _

theorem State.performWr_group (s : State) (g : Nat) (p : PathClass) (w : Wr) (k : Nat) :
    Group.SameButErr (s.group k) ((s.performWr g p w).group k) := by
  unfold State.performWr
  split
  · exact State.wrSpad_group _ _ _ _ _
  · split
    · rw [State.group, State.group, State.poolErrors_groups]
      exact State.holdErr_group _ _ _ _ _
    · split
      · exact State.holdErr_group _ _ _ _ _
      · split
        · obtain ⟨c, hc⟩ := (s.wrBytes w.pa w.data).l1Update_eq (s.coreOf g) w.pa w.data
          rw [hc]
          exact State.wrBytes_group _ _ _ _
        · exact State.wrBytes_group _ _ _ _

/-- A write changes no other team's window. -/
theorem State.performWr_team_ne (s : State) (g : Nat) (p : PathClass) (w : Wr) {j : Nat} (h : j ≠ (s.group g).team) :
    (s.performWr g p w).team j = s.team j := by
  unfold State.performWr
  split
  · exact State.wrSpad_team_ne _ h _ _
  · split
    · rw [State.team, State.poolErrors_teams]; rfl
    · split
      · rfl
      · split
        · obtain ⟨c, hc⟩ := (s.wrBytes w.pa w.data).l1Update_eq (s.coreOf g) w.pa w.data
          rw [hc]; rfl
        · rfl

/-- A write changes no byte of memory but its own. -/
theorem State.performWr_rdByte (s : State) (g : Nat) (p : PathClass) (w : Wr) {a : Nat}
    (h : w.spad = true ∨ a < w.pa ∨ w.pa + w.data.length ≤ a) : (s.performWr g p w).rdByte a = s.rdByte a := by
  unfold State.performWr
  split
  · rw [State.rdByte, State.wrSpad_mem]; rfl
  next hs =>
    have hout := h.resolve_left hs
    split
    · rw [State.rdByte, State.poolErrors_mem]; rfl
    · split
      · rfl
      · split
        · rw [State.rdByte, State.l1Update_mem]
          exact State.rdByte_wrBytes_out s hout
        · exact State.rdByte_wrBytes_out s hout

/-- A write to memory that meets no bad line is there. -/
theorem State.performWr_rdBytes (s : State) (g : Nat) (p : PathClass) (w : Wr) (hs : w.spad = false) (hb : s.isBad w.pa w.data.length = false) :
    (s.performWr g p w).rdBytes w.pa w.data.length = w.data := by
  have hc : s.cutOff w.pa w.data.length = false := (Bool.or_eq_false_iff.1 hb).2
  rw [State.performWr, if_neg (ne_true_of_eq_false hs), if_neg (ne_true_of_eq_false hc), if_neg (ne_true_of_eq_false hb)]
  split
  · rw [State.rdBytes_eq, State.l1Update_mem, ← State.rdBytes_eq]
    exact State.rdBytes_wrBytes _ _ _
  · exact State.rdBytes_wrBytes _ _ _

/-- A write to the window is there. -/
theorem State.performWr_spad (s : State) (g : Nat) (p : PathClass) (w : Wr) (hs : w.spad = true) :
    takeBytes ((s.performWr g p w).team (s.group g).team).spad w.va.toNat w.data.length = w.data := by
  rw [State.performWr, if_pos hs, State.wrSpad_spad, takeBytes_putBytes]

/-! ### A store (R109) -/

/-- The words of a store, one after the other. -/
def State.performWrs (s : State) (g : Nat) (p : PathClass) (ws : List Wr) : State := ws.foldl (fun s w => s.performWr g p w) s

/-- After its words, a store has changed counts and lock bits alone. -/
theorem State.performStore_eq (s : State) (g : Nat) (p : PathClass) (last : Bool) (ws : List Wr) (locks : List Nat) :
    ∃ cs ks, s.performStore g p last ws locks = { s.performWrs g p ws with ctxs := cs, cores := ks } := by
  have hbump : ∃ cs, (if last then (s.performWrs g p ws).bump ((s.performWrs g p ws).ctxOf g) 5 else s.performWrs g p ws) =
      { s.performWrs g p ws with ctxs := cs } := by
    split
    · exact State.bump_eq _ _ _
    · exact ⟨_, rfl⟩
  obtain ⟨cs, hcs⟩ := hbump
  unfold State.performStore
  rw [← State.performWrs]
  dsimp only
  rw [hcs]
  split
  · exact ⟨cs, _, rfl⟩
  · exact ⟨cs, _, rfl⟩

theorem State.performWrs_group (s : State) (g : Nat) (p : PathClass) (ws : List Wr) (k : Nat) :
    Group.SameButErr (s.group k) ((s.performWrs g p ws).group k) := by
  induction ws generalizing s with
  | nil => exact .refl _
  | cons w ws ih => exact (s.performWr_group g p w k).trans (ih _)

theorem State.performWrs_team_ne (s : State) (g : Nat) (p : PathClass) (ws : List Wr) {j : Nat} (h : j ≠ (s.group g).team) :
    (s.performWrs g p ws).team j = s.team j := by
  induction ws generalizing s with
  | nil => rfl
  | cons w ws ih =>
    have ht : ((s.performWr g p w).group g).team = (s.group g).team := by
      obtain ⟨m, u, i, he⟩ := s.performWr_group g p w g
      rw [he]
    exact (ih (s.performWr g p w) (ht ▸ h)).trans (s.performWr_team_ne g p w h)

theorem State.performWrs_rdByte (s : State) (g : Nat) (p : PathClass) (ws : List Wr) {a : Nat}
    (h : ∀ w ∈ ws, w.spad = true ∨ a < w.pa ∨ w.pa + w.data.length ≤ a) : (s.performWrs g p ws).rdByte a = s.rdByte a := by
  induction ws generalizing s with
  | nil => rfl
  | cons w ws ih =>
    exact (ih (s.performWr g p w) fun v hv => h v (List.mem_cons_of_mem _ hv)).trans (s.performWr_rdByte g p w (h w List.mem_cons_self))

/-! ### What else a group hands over -/

/-- Arrivals settle without a change to any group. -/
@[simp] theorem State.settleBar_groups (s : State) (t k : Nat) : (s.settleBar t k).groups = s.groups := by
  unfold State.settleBar
  split
  · rfl
  · unfold State.settleTeamX
    dsimp only
    split <;> rfl

/-- An arrival that counts is pending, in the phase at hand (R203). -/
theorem State.arrive_arrivals {s : State} {g k : Nat} (h : s.poisoned (s.group g).team k = false) :
    Tab.look ((s.arrive g k).group g).arrivals k = some (s.phaseOf (s.group g).team k) := by
  unfold State.arrive
  dsimp only
  rw [if_neg (ne_true_of_eq_false h), State.group, State.settleBar_groups, ← State.group, State.group_modTeam, State.group_modGroup]
  exact Tab.look_put_self _ _ _

theorem Team.addCopy_stage (t : Team) (c : Copy) : (t.addCopy c).stage = t.stage := by
  unfold Team.addCopy
  split <;> rfl

/-- The entries that a stage releases leave the counter as it is. -/
theorem State.stageAt_stage (s : State) (t c : Nat) : ((s.stageAt t c).team t).stage = (s.team t).stage := by
  unfold State.stageAt
  split
  · rfl
  next count period hd =>
    clear hd
    generalize List.range count = l
    induction l generalizing s with
    | nil => rfl
    | cons e l ih =>
      refine (ih _).trans ?_
      dsimp only
      split
      · split
        · rw [State.team_modTeam, Team.addCopy_stage]
        · rfl
      · rfl

theorem State.stageUp_stage {s : State} {t : Nat} (h : (s.team t).stage < 2 ^ 56 - 1) : ((s.stageUp t).team t).stage = (s.team t).stage + 1 := by
  unfold State.stageUp
  dsimp only
  rw [if_neg (Nat.not_le.2 h), State.stageAt_stage, State.team_modTeam]

/-- The rays of an RTRACE.SHADE are queued. -/
theorem State.releaseShaded_ray {s : State} {ks : List Nat} {k : Nat} {r : Ray} (hk : k ∈ ks) (hr : Tab.look s.rays k = some r)
    (hst : r.st = RayState.held) : Tab.look (s.releaseShaded ks).rays k = some { r with st := .queued } := by
  have h : Tab.look (s.releaseShaded ks).rays k = (Tab.look s.rays k).map fun v =>
      if ks.contains k && v.st == RayState.held then { v with st := .queued } else v := Tab.look_map s.rays _ (fun _ => by rfl) k
  rw [h, hr]
  simp [hk, hst]

/-- A unit's segment is read into its log, and nothing else happens but a record where it cannot be read (R391). -/
theorem State.loadGate_eq (s : State) (l u : Nat) : ∃ ls fs, s.loadGate l u = { s with launches := ls, faults := fs } := by
  unfold State.loadGate
  dsimp only
  split
  · exact ⟨_, _, rfl⟩
  · split
    · exact ⟨_, _, rfl⟩
    · exact ⟨_, _, rfl⟩

/-- A request's parts reach the queues of their units. -/
def State.enqueueParts (s : State) (l : Nat) (ps : List (Nat × AtReq)) : State :=
  ps.foldl (fun s (u, p) => { s.loadGate l u with units := Tab.put s.units u (Tab.get [] s.units u ++ [p]) }) s

theorem State.enqueueParts_eq (s : State) (l : Nat) (ps : List (Nat × AtReq)) :
    ∃ ls fs us, s.enqueueParts l ps = { s with launches := ls, faults := fs, units := us } := by
  induction ps generalizing s with
  | nil => exact ⟨_, _, _, rfl⟩
  | cons p ps ih =>
    obtain ⟨ls, fs, h⟩ := s.loadGate_eq l p.1
    obtain ⟨ls', fs', us, h'⟩ := ih { s.loadGate l p.1 with units := Tab.put s.units p.1 (Tab.get [] s.units p.1 ++ [p.2]) }
    refine ⟨ls', fs', us, h'.trans ?_⟩
    rw [h]

/-- A request that goes to its units is outstanding with all its parts (R388). -/
theorem State.releaseAtom_out {s : State} {r : AtReq} (h : r.op ≠ .det) :
    ((s.releaseAtom r).group r.g).outAt = (s.group r.g).outAt + r.parts.length ∧ (s.releaseAtom r).mem = s.mem := by
  have hr : s.releaseAtom r = (s.enqueueParts r.launch r.parts).modGroup r.g fun x => { x with outAt := x.outAt + r.parts.length } := by
    unfold State.releaseAtom
    split
    · exact absurd ‹_› h
    · rfl
  obtain ⟨ls, fs, us, he⟩ := s.enqueueParts_eq r.launch r.parts
  rw [hr, State.group_modGroup, State.modGroup_mem, he]
  exact ⟨rfl, rfl⟩

end Sys2Proof.Machine
end


section
/-! SUPPORT. Entries that perform, values that land, requests that apply, and monitors (R53, R91, R98, R99, R388, R389). -/

namespace Sys2Proof.Machine

/-! ### Entries -/

/-- What an entry needs to perform. -/
def State.mayGo (s : State) (g n : Nat) (h : Held) : Prop :=
  (s.team (s.group g).team).onCore = true ∧ (h.inCore = true → s.still (s.coreOf g) = false) ∧ s.linkHeld h = false ∧
    s.mayPerform g ((s.group g).inflight.take n) h = true

/-- The state without the entry. -/
def State.without (s : State) (g n : Nat) : State := s.modGroup g fun x => { x with inflight := x.inflight.eraseIdx n }

theorem storePerformed_eq {s : State} {g n : Nat} {h : Held} (hh : (s.group g).inflight[n]? = some h) :
    (s.mayGo g n h → exec (.storePerformed g n) s = .next ((s.without g n).performHeld g h)) ∧
      (¬ s.mayGo g n h → exec (.storePerformed g n) s = .next s) := by
  have he : exec (.storePerformed g n) s = if (s.team (s.group g).team).onCore && !(h.inCore && s.still (s.coreOf g)) && !s.linkHeld h &&
      s.mayPerform g ((s.group g).inflight.take n) h then .next ((s.without g n).performHeld g h) else .next s := by
    show execStorePerformed g n s = _
    rw [execStorePerformed]
    simp only [hh]
    rfl
  have hiff : s.mayGo g n h ↔ ((s.team (s.group g).team).onCore && !(h.inCore && s.still (s.coreOf g)) && !s.linkHeld h &&
      s.mayPerform g ((s.group g).inflight.take n) h) = true := by
    have hcore : (h.inCore = true → s.still (s.coreOf g) = false) ↔ (h.inCore = false ∨ s.still (s.coreOf g) = false) := by
      cases h.inCore <;> simp
    simp [State.mayGo, and_assoc, hcore]
  exact ⟨fun hr => he.trans (if_pos (hiff.1 hr)), fun hr => he.trans (if_neg fun hc => hr (hiff.2 hc))⟩

theorem State.without_group (s : State) (g n : Nat) : (s.without g n).group g = { s.group g with inflight := (s.group g).inflight.eraseIdx n } :=
  State.group_modGroup _ _ _

/-- A store that performs: its entry goes, and it changes its own bytes alone. -/
theorem State.performStore_spec (s : State) (g n : Nat) (p : PathClass) (last : Bool) (ws : List Wr) (locks : List Nat) :
    let u := (s.without g n).performStore g p last ws locks
    (u.group g).inflight = (s.group g).inflight.eraseIdx n ∧ (∀ j, j ≠ (s.group g).team → (u.team j).spad = (s.team j).spad) ∧
      (∀ a, (∀ w ∈ ws, w.spad = true ∨ a < w.pa ∨ w.pa + w.data.length ≤ a) → u.rdByte a = s.rdByte a) ∧
      (∀ w, ws = [w] → w.spad = false → s.isBad w.pa w.data.length = false → u.rdBytes w.pa w.data.length = w.data) ∧
      (∀ w, ws = [w] → w.spad = true → takeBytes (u.team (s.group g).team).spad w.va.toNat w.data.length = w.data) := by
  intro u
  obtain ⟨cs, ks, hu⟩ := (s.without g n).performStore_eq g p last ws locks
  have hg := s.without_group g n
  have hteam : ((s.without g n).group g).team = (s.group g).team := by rw [hg]
  simp only [u, hu]
  refine ⟨?_, fun j hj => ?_, fun a ha => ?_, fun w hw hs hb => ?_, fun w hw hs => ?_⟩
  · obtain ⟨m, un, i, he⟩ := (s.without g n).performWrs_group g p ws g
    show (((s.without g n).performWrs g p ws).group g).inflight = _
    rw [he, hg]
  · exact congrArg Team.spad ((s.without g n).performWrs_team_ne g p ws (hteam.symm ▸ hj))
  · exact (s.without g n).performWrs_rdByte g p ws ha
  · subst hw
    have hr := (s.without g n).performWr_rdBytes g p w hs hb
    rw [State.rdBytes_eq] at hr ⊢
    exact hr
  · subst hw
    have hr := (s.without g n).performWr_spad g p w hs
    rw [hteam] at hr
    exact hr

/-- What the entries named in the statement do as they perform. -/
theorem State.performHeld_spec (s : State) (g n : Nat) (h : Held) :
    let u := (s.without g n).performHeld g h
    (∀ p ws ls b c d, h = .store p ws ls b c d →
      (u.group g).inflight = (s.group g).inflight.eraseIdx n ∧ (∀ j, j ≠ (s.group g).team → (u.team j).spad = (s.team j).spad) ∧
      (∀ a, (∀ w ∈ ws, w.spad = true ∨ a < w.pa ∨ w.pa + w.data.length ≤ a) → u.rdByte a = s.rdByte a) ∧
      (∀ w, ws = [w] → w.spad = false → s.isBad w.pa w.data.length = false → u.rdBytes w.pa w.data.length = w.data) ∧
      (∀ w, ws = [w] → w.spad = true → takeBytes (u.team (s.group g).team).spad w.va.toNat w.data.length = w.data)) ∧
    (∀ r, h = .atom r → r.g = g → r.op ≠ .det → (u.group g).outAt = (s.group g).outAt + r.parts.length ∧ u.mem = s.mem) ∧
    (∀ ks, h = .cmd (.shade ks) → ∀ k ∈ ks, ∀ r : Ray, Tab.look s.rays k = some r → r.st = RayState.held →
      Tab.look u.rays k = some { r with st := .queued }) ∧
    (h = .cmd .stage → (s.team (s.group g).team).stage < 2 ^ 56 - 1 → (u.team (s.group g).team).stage = (s.team (s.group g).team).stage + 1) ∧
    (∀ k, h = .arrive k → s.poisoned (s.group g).team k = false → Tab.look (u.group g).arrivals k = some (s.phaseOf (s.group g).team k)) := by
  intro u
  have hg := s.without_group g n
  have hteam : ((s.without g n).group g).team = (s.group g).team := by rw [hg]
  refine ⟨fun p ws ls b c d hh => ?_, fun r hh hr ho => ?_, fun ks hh k hk r hray hst => ?_, fun hh hst => ?_, fun k hh hp => ?_⟩
  · subst hh
    exact s.performStore_spec g n p b ws ls
  · subst hh hr
    obtain ⟨hout, hmem⟩ := State.releaseAtom_out (s := s.without r.g n) ho
    exact ⟨hout.trans (by rw [hg]), hmem⟩
  · subst hh
    exact State.releaseShaded_ray hk hray hst
  · subst hh
    have h := State.stageUp_stage (s := s.without g n) (t := (s.group g).team) hst
    show (((s.without g n).stageUp ((s.without g n).group g).team).team _).stage = _
    rw [hteam]
    exact h
  · subst hh
    have h := State.arrive_arrivals (s := s.without g n) (g := g) (k := k) (by rw [hteam]; exact hp)
    rw [hteam] at h
    exact h

/-! ### Values that land (R53) -/

/-- Keys that are only ever written with the default read as the default. -/
theorem Tab.get_setAll_default {α : Type} [DecidableEq α] (d : α) (t : Tab α) {ks : List Nat} {k : Nat} (h : k ∈ ks) :
    Tab.get d (Tab.setAll d t (ks.map fun k => (k, d))) k = d := by
  induction ks generalizing t with
  | nil => cases h
  | cons j ks ih =>
    rw [List.map_cons, Tab.setAll]
    by_cases hk : k ∈ ks
    · exact ih _ hk
    · obtain rfl := (List.mem_cons.1 h).resolve_right hk
      rw [Tab.get_setAll_notMem _ _ (by simpa using hk), Tab.get_set_self]

theorem Group.recode_pend (x : Group) (ks : List Nat) : (x.recode ks).pend = x.pend := by obtain ⟨u, h⟩ := x.recode_eq ks; rw [h]
theorem Group.recode_f (x : Group) (ks : List Nat) : (x.recode ks).f = x.f := by obtain ⟨u, h⟩ := x.recode_eq ks; rw [h]
theorem Group.recode_thr (x : Group) (ks : List Nat) : (x.recode ks).thr = x.thr := by obtain ⟨u, h⟩ := x.recode_eq ks; rw [h]

/-- The registers of a group in which a value has landed. -/
theorem Group.land_spec (x : Group) (p : Pending) :
    (x.land p).pend = x.pend.filter (fun q => q.id != p.id) ∧
      (∀ e ∈ p.vdst, Tab.get false (x.land p).f.vempty e.1 = false) ∧
      ((p.vdst.map Prod.fst).Nodup → ∀ e ∈ p.vdst, Tab.get 0 (x.land p).f.v e.1 = e.2) ∧
      (∀ k, k ∉ p.vdst.map Prod.fst → Tab.get 0 (x.land p).f.v k = Tab.get 0 x.f.v k) ∧
      (x.land p).thr = match p.sdst with | some (d, v) => x.thr.wr d v | none => x.thr := by
  have hempty : (p.vdst.map fun (k, _) => (k, false)) = (p.vdst.map Prod.fst).map fun k => (k, false) := by
    rw [List.map_map]; rfl
  unfold Group.land
  rw [Group.recode_pend, Group.recode_f, Group.recode_thr]
  refine ⟨rfl, fun e he => ?_, fun hn e he => Tab.get_setAll_mem 0 _ hn he, fun k hk => Tab.get_setAll_notMem 0 _ hk, rfl⟩
  rw [hempty]
  exact Tab.get_setAll_default false _ (List.mem_map_of_mem he)

theorem longLatencyWrite_eq {s : State} {g n : Nat} {p : Pending} (hp : (s.group g).pend.find? (fun q => q.id == n) = some p)
    (hr : p.rres = none) (hb : p.bad = []) : exec (.longLatencyWrite (.group g) n) s =
      s.cross (dieOf (s.coreOf g)) (.value g n) fun s => .next (s.modGroup g fun x => x.land p) := by
  have hid : p.id = n := by simpa using List.find?_some hp
  show execLongLatencyWrite (.group g) n s = _
  rw [execLongLatencyWrite]
  simp only [hp, hr]
  rw [State.landValue, hid]
  simp only [hb, List.isEmpty_nil, if_true]

/-! ### Atomic requests (R98, R388) -/

/-- One lane's operation leaves every byte but its own. -/
theorem State.applyLane_rdByte (s : State) (r : AtReq) (a : AtLane) {k : Nat} (h : k < a.pa ∨ a.pa + r.size ≤ k) :
    (s.applyLane r a).1.rdByte k = s.rdByte k := by
  unfold State.applyLane
  split
  · rw [State.rdByte, State.poolErrors_mem, State.takeFree_mem, State.modLive_mem]; rfl
  · exact State.rdByte_wrBytes_out s (by rwa [leBytes_length])

theorem State.applyLanes_rdByte (s : State) (r : AtReq) (as_ : List AtLane) {k : Nat} (h : ∀ a ∈ as_, k < a.pa ∨ a.pa + r.size ≤ k) :
    (s.applyLanes r as_).1.rdByte k = s.rdByte k := by
  induction as_ generalizing s with
  | nil => rfl
  | cons a as_ ih =>
    exact (ih (s.applyLane r a).1 fun b hb => h b (List.mem_cons_of_mem _ hb)).trans (s.applyLane_rdByte r a (h a List.mem_cons_self))

/-- One lane's operation on a line that is not bad. -/
theorem State.applyLane_rdLe (s : State) (r : AtReq) (a : AtLane) (h : s.isBad a.pa r.size = false) :
    (s.applyLane r a).1.rdLe a.pa r.size = atomNew r.op r.wide (s.rdLe a.pa r.size) a.opnd.toNat a.swap.toNat % 2 ^ (8 * r.size) := by
  rw [State.applyLane, if_neg (ne_true_of_eq_false h)]
  exact State.rdLe_wrLe _ _ _ _

@[simp] theorem State.modLive_launches (s : State) (g : Nat) (f : Group → Group) : (s.modLive g f).launches = s.launches := by
  unfold State.modLive; split <;> rfl

@[simp] theorem State.landResults_mem (s : State) (g : Nat) (ss : List (Nat × DWord)) (ws : List (Nat × Word)) :
    (s.landResults g ss ws).mem = s.mem := State.modLive_mem _ _ _

@[simp] theorem State.landResults_launches (s : State) (g : Nat) (ss : List (Nat × DWord)) (ws : List (Nat × Word)) :
    (s.landResults g ss ws).launches = s.launches := State.modLive_launches _ _ _

@[simp] theorem State.applyLane_launches (s : State) (r : AtReq) (a : AtLane) : (s.applyLane r a).1.launches = s.launches := by
  unfold State.applyLane
  split
  · rw [State.poolErrors_launches, State.takeFree, State.modLive_launches]
  · rfl

@[simp] theorem State.applyLanes_launches (s : State) (r : AtReq) (as_ : List AtLane) : (s.applyLanes r as_).1.launches = s.launches := by
  induction as_ generalizing s with
  | nil => rfl
  | cons a as_ ih => exact (ih (s.applyLane r a).1).trans (s.applyLane_launches r a)

@[simp] theorem State.applySchunk_launches (s : State) (r : AtReq) (m : Word) : (s.applySchunk r m).launches = s.launches := by
  unfold State.applySchunk
  dsimp only
  split
  · rw [State.modLive_launches, State.landResults_launches]; rfl
  · rw [State.landResults_launches]; rfl

/-- A request other than SCHUNK's: after its lanes, results and copies alone change. -/
theorem State.applyRequest_lanes (s : State) (r : AtReq) (h : ∀ m, r.op ≠ .schunk m) :
    (s.applyRequest r).mem = (s.applyLanes r r.lanes).1.mem ∧ (s.applyRequest r).launches = s.launches := by
  unfold State.applyRequest
  dsimp only
  rw [State.modLive_mem, State.modLive_launches, State.dropLines, State.modCore_mem, State.modCore_launches]
  split
  · exact absurd ‹_› (h _)
  · exact ⟨State.landResults_mem _ _ _ _, (State.landResults_launches _ _ _ _).trans (State.applyLanes_launches _ _ _)⟩

theorem State.applyRequest_schunk (s : State) (r : AtReq) {m : Word} (h : r.op = .schunk m) :
    (s.applyRequest r).mem = (s.applySchunk r m).mem ∧ (s.applyRequest r).launches = s.launches := by
  unfold State.applyRequest
  dsimp only
  rw [State.modLive_mem, State.modLive_launches, State.dropLines, State.modCore_mem, State.modCore_launches, h]
  exact ⟨rfl, State.applySchunk_launches _ _ _⟩

/-- SCHUNK advances NEXT by the chunk (R209). -/
theorem State.applySchunk_mem {s : State} {r : AtReq} {m : Word} {a b : AtLane} (hl : r.lanes = [a, b]) (ha : s.isBad a.pa 8 = false)
    (hb : s.isBad b.pa 8 = false) : (s.applySchunk r m).rdLe a.pa 8 =
      (s.rdLe a.pa 8 + chunk (s.rdLe a.pa 8) (s.rdLe b.pa 8) m.toNat (s.liveTeams r.launch)) % 2 ^ 64 := by
  have hp : (r.lanes.map AtLane.pa).getD 0 0 = a.pa := by rw [hl]; rfl
  have hq : (r.lanes.map AtLane.pa).getD 1 0 = b.pa := by rw [hl]; rfl
  unfold State.applySchunk
  dsimp only
  rw [hp, hq, ha, hb]
  simp only [Bool.or_self, Bool.false_eq_true, if_false]
  rw [State.rdLe, State.rdBytes_eq, State.landResults_mem, ← State.rdBytes_eq]
  exact State.rdLe_wrLe _ _ 8 _

/-- Two states with one memory read alike. -/
theorem State.rdByte_of_mem {s t : State} (h : s.mem = t.mem) (k : Nat) : s.rdByte k = t.rdByte k := by rw [State.rdByte, h]; rfl

theorem State.rdLe_of_mem {s t : State} (h : s.mem = t.mem) (a n : Nat) : s.rdLe a n = t.rdLe a n := by
  rw [State.rdLe, State.rdLe, State.rdBytes_eq, State.rdBytes_eq, h]

/-- The state whose unit has taken request `n` of its queue. -/
def State.dequeued (s : State) (u n : Nat) : State := { s with units := Tab.set [] s.units u ((Tab.get [] s.units u).eraseIdx n) }

theorem atomicRequest_waits {s : State} {u n : Nat} {r : AtReq} (hq : (Tab.get [] s.units u)[n]? = some r)
    (h : s.gate r.launch u r.req ≠ .pass ∨ (r.lanes.any fun a => s.linkHolds a.pa r.size) = true) :
    exec (.atomicRequest u n) s = .next s := by
  show execAtomicRequest u n s = _
  unfold execAtomicRequest
  simp only [hq]
  refine if_pos ?_
  rcases h with h | h
  · simp [h]
  · simp only [h, Bool.or_true]

/-- The order log and the gate after a request that has applied (R388, R391). -/
def State.requestDone (s : State) (u : Nat) (r : AtReq) : State :=
  (if (s.launch r.launch).rr.mode = 1 then s.logRequest r.launch u r.req else s).spendChunk r.launch u

/-- A launch that neither records nor replays has no log and no gate. -/
theorem State.requestDone_off {s : State} {r : AtReq} (h : (s.launch r.launch).rr.mode = 0) (u : Nat) : s.requestDone u r = s := by
  rw [State.requestDone, h, if_neg (by decide), State.spendChunk, h]
  rfl

theorem atomicRequest_applies {s : State} {u n : Nat} {r : AtReq} (hq : (Tab.get [] s.units u)[n]? = some r)
    (he : earlierOwn (Tab.get [] s.units u) n r.g = false) (hg : s.gate r.launch u r.req = .pass)
    (hl : (r.lanes.any fun a => s.linkHolds a.pa r.size) = false) :
    exec (.atomicRequest u n) s = .next (((s.dequeued u n).applyRequest r).requestDone u r) := by
  show execAtomicRequest u n s = _
  unfold execAtomicRequest
  simp only [hq]
  have hcond : ¬(earlierOwn (Tab.get [] s.units u) n r.g || s.gate r.launch u r.req != .pass ||
      r.lanes.any fun a => s.linkHolds a.pa r.size) = true := by
    rw [he, hg, hl]
    decide
  exact if_neg hcond

/-- Where no log is kept, the request's own effect is all that happens. -/
theorem State.requestDone_applied {s v : State} {u : Nat} {r : AtReq} (hm : (s.launch r.launch).rr.mode = 0)
    (hl : v.launches = s.launches) : v.requestDone u r = v :=
  State.requestDone_off (by rw [State.launch, hl]; exact hm) u

/-! ### Order gates (R389) -/

/-- A part of the state that no record of the launches' own writing belongs to: memory, contexts and faults. -/
structure LogFree {α : Type} (F : State → α) : Prop where
  ctx : ∀ s c x, F (State.setCtx s c x) = F s
  wr : ∀ s pa bs, F (State.wrBytes s pa bs) = F s
  seq : ∀ s e, F { s with evSeqs := e } = F s
  rec_ : ∀ s r, F (State.record s r) = F s

theorem State.pushEvent_free {α : Type} {F : State → α} (hF : LogFree F) {s t : State} {c : Nat} {r : EventRec}
    (h : s.pushEvent c r = some t) : F t = F s := by
  unfold State.pushEvent at h
  dsimp only at h
  split at h
  · cases h
  · split at h
    · cases h
    · obtain rfl := Option.some.inj h
      exact (hF.ctx _ _ _).trans (hF.wr _ _ _)

/-- What every step of a recursion on a number keeps, the recursion keeps. -/
theorem brecOn_keeps {α β : Type} (F : α → β) (f : (n : Nat) → Nat.below (motive := fun _ => α → α) n → α → α) (h0 : ∀ b s, F (f 0 b s) = F s)
    (hs : ∀ n (b : Nat.below (motive := fun _ => α → α) (n + 1)), (∀ s, F (b.1 s) = F s) → ∀ s, F (f (n + 1) b s) = F s) (n : Nat) (s : α) :
    F (Nat.brecOn (motive := fun _ => α → α) n f s) = F s := by
  induction n generalizing s with
  | zero => exact h0 _ s
  | succ n ih => exact hs n _ ih s

/-- The ring's arithmetic modulo 2^32 does not evaluate in a proof term, so the proof sees `State.pushEvent` as an opaque `push`, and
takes the recursion apart by `brecOn_keeps` and not by its equations. -/
theorem State.drainEvents_free {α : Type} {F : State → α} (hF : LogFree F) (s : State) (c n : Nat) : F (s.drainEvents c n) = F s := by
  have hstep : ∀ s r t, State.pushEvent s c r = some t → F t = F s := fun _ _ _ => State.pushEvent_free hF
  obtain ⟨push, hpush⟩ : ∃ push, push = State.pushEvent := ⟨_, rfl⟩
  delta State.drainEvents
  refine brecOn_keeps F _ (fun _ _ => rfl) (fun n b hb s => ?_) n s
  delta State.drainEvents._f
  rw [← hpush] at hstep ⊢
  dsimp only
  split
  · rfl
  · split
    · rfl
    next t ht => exact (hb _).trans ((hF.ctx t c _).trans (hstep _ _ _ ht))

theorem State.ctxEvent_free {α : Type} {F : State → α} (hF : LogFree F) (s : State) (c source ty die : Nat) (data : DWord) :
    F (s.ctxEvent c source ty die data) = F s :=
  (State.drainEvents_free hF _ _ _).trans ((hF.ctx _ _ _).trans (hF.seq _ _))

theorem State.rrWrite_free {α : Type} {F : State → α} (hF : LogFree F) (s : State) (l : Nat) (va : DWord) (bs : List Byte) :
    F (s.rrWrite l va bs) = F s := by
  unfold State.rrWrite
  split
  · exact hF.wr _ _ _
  · exact hF.rec_ _ _

/-- A divergence is counted; nothing else of such a part of the state changes. -/
theorem State.diverge_free {α : Type} {F : State → α} (hF : LogFree F) (s : State) (l kind req wher : Nat) (logged found : DWord)
    (source die : Nat) : F (s.diverge l kind req wher logged found source die) =
      F (s.modLaunch l fun x => { x with rr := { x.rr with divs := (s.launch l).rr.divs + 1 } }) := by
  unfold State.diverge
  dsimp only
  rw [State.ctxEvent_free hF]
  split
  · rfl
  · exact State.rrWrite_free hF _ _ _ _

/-- A gate that opens stays open, and its requests stay. -/
theorem State.openGate_spec (s : State) (l u req : Nat) (w : DWord) :
    (Tab.get RrLog.zero ((s.openGate l u req w).launch l).logs u).stopped = true ∧ (s.openGate l u req w).units = s.units := by
  have hl : LogFree State.launches := ⟨fun _ _ _ => rfl, fun _ _ _ => rfl, fun _ _ => rfl, fun _ _ => rfl⟩
  have hu : LogFree State.units := ⟨fun _ _ _ => rfl, fun _ _ _ => rfl, fun _ _ => rfl, fun _ _ => rfl⟩
  unfold State.openGate
  dsimp only
  refine ⟨?_, State.diverge_free hu _ _ _ _ _ _ _ _ _⟩
  rw [State.launch, State.diverge_free hl, ← State.launch, State.launch_modLaunch, State.launch_modLaunch, Tab.get_put_self]

theorem orderGate_opens {s : State} {u n : Nat} {r : AtReq} {w : DWord} (hq : (Tab.get [] s.units u)[n]? = some r)
    (hg : s.gate r.launch u r.req = .opens w) : exec (.orderGate u n) s = .next (s.openGate r.launch u r.req w) := by
  show execOrderGate u n s = _
  unfold execOrderGate
  simp only [hq, hg]

theorem orderGate_stays {s : State} {u n : Nat} {r : AtReq} (hq : (Tab.get [] s.units u)[n]? = some r)
    (hg : ∀ w, s.gate r.launch u r.req ≠ .opens w) : exec (.orderGate u n) s = .next s := by
  show execOrderGate u n s = _
  unfold execOrderGate
  cases hs : s.gate r.launch u r.req with
  | pass => simp only [hq, hs]
  | hold => simp only [hq, hs]
  | opens w => exact absurd hs (hg w)

/-! ### Monitors (R99) -/

theorem Monitor.eval_fired (m : Monitor) (v : Nat) (h : m.armed = true) :
    (m.eval v).fired = true ↔ m.fired = true ∨ m.thr.toNat ≤ v := by
  unfold Monitor.eval
  rw [h, Bool.true_and]
  split
  case isTrue hv => exact iff_of_true rfl (.inr (of_decide_eq_true hv))
  case isFalse hv => exact ⟨.inl, fun k => k.resolve_right fun hle => hv (decide_eq_true hle)⟩

theorem monitorFire_spec {g : Nat} {s : State} (hg : (Tab.look s.groups g).isSome = true) (ha : (s.group g).mon.armed = true) :
    ∃ u, exec (.monitorFire (.group g)) s = .next u ∧
      ((u.group g).mon.fired = true ↔ (s.group g).mon.fired = true ∨ (s.group g).mon.thr.toNat ≤ s.watched (some g) (s.group g).team (s.group g).mon) ∧
      (u.group g).thr = (s.group g).thr ∧ ∀ h, h ≠ g → u.group h = s.group h := by
  have he : exec (.monitorFire (.group g)) s =
      .next (s.modLive g fun x => { x with mon := Monitor.eval x.mon (s.watched (some g) x.team x.mon) }) := rfl
  rw [State.modLive, if_pos hg] at he
  refine ⟨_, he, ?_, ?_, fun h hh => State.group_modGroup_ne _ _ hh⟩
  · rw [State.group_modGroup]
    exact Monitor.eval_fired _ _ ha
  · rw [State.group_modGroup]

/-- Settles O44: one lemma above for each event; a store's own bytes by `State.performStore_spec`, the flits' order by
`State.cross_enters` and `State.cross_waits`. -/
theorem accessesPerform : Obligations.AccessesPerform := by
  unfold Obligations.AccessesPerform
  refine ⟨fun g n s h hh => ?_, fun g n s p hp hr hb => ⟨fun he => ?_, fun he => ?_⟩, fun u n s r hq hown => ⟨fun hg hl => ?_, fun h => ?_⟩,
    fun u n s r hq => ⟨fun w hw => ?_, fun hw => ?_⟩, fun g s hw ht hs => ?_, fun g s hg ha => monitorFire_spec hg ha⟩
  · obtain ⟨hgo, hstay⟩ := storePerformed_eq hh
    exact ⟨hstay, fun hr => ⟨_, hgo hr, s.performHeld_spec g n h⟩⟩
  · rw [longLatencyWrite_eq hp hr hb]
    exact State.cross_waits he _
  · obtain ⟨ds, hu⟩ := State.cross_enters he fun s => .next (s.modGroup g fun x => x.land p)
    refine ⟨_, (longLatencyWrite_eq hp hr hb).trans hu, rfl, rfl, ?_⟩
    rw [State.group_modGroup]
    exact (s.group g).land_spec p
  · refine ⟨_, atomicRequest_applies hq hown hg hl, fun hm ho => ?_, fun hm m a b ho hlanes ha hb => ?_⟩
    · obtain ⟨hmem, hlaunch⟩ := (s.dequeued u n).applyRequest_lanes r ho
      rw [State.requestDone_applied hm hlaunch]
      refine ⟨fun k hk => (State.rdByte_of_mem hmem k).trans ((s.dequeued u n).applyLanes_rdByte r _ hk), fun a hlanes hbad => ?_⟩
      have hread : (s.dequeued u n).rdLe a.pa r.size = s.rdLe a.pa r.size := State.rdLe_of_mem (s := s.dequeued u n) (t := s) rfl _ _
      rw [State.rdLe_of_mem hmem, hlanes, ← hread]
      exact (s.dequeued u n).applyLane_rdLe r a hbad
    · obtain ⟨hmem, hlaunch⟩ := (s.dequeued u n).applyRequest_schunk r ho
      rw [State.requestDone_applied hm hlaunch, State.rdLe_of_mem hmem]
      exact State.applySchunk_mem hlanes ha hb
  · exact atomicRequest_waits hq h
  · exact ⟨_, orderGate_opens hq hw, s.openGate_spec r.launch u r.req w⟩
  · exact orderGate_stays hq hw
  · show execVldlkRetry g s = _
    rw [execVldlkRetry, State.ticking_runs hs]
    exact if_pos (by simp [hw, ht])

end Sys2Proof.Machine
end


section
/-! SUPPORT. The order of issue, the cycle of a die, and what an issue's waits are over (R34, R351, R384). -/

namespace Sys2Proof.Machine

/-! ### Who issues first (R34, R351) -/

theorem State.residentBefore_irrefl (s : State) (g : Nat) : s.residentBefore g g = false := by simp [State.residentBefore]

theorem State.residentBefore_asymm {s : State} {g h : Nat} (hb : s.residentBefore g h = true) : s.residentBefore h g = false := by
  simp [State.residentBefore] at hb ⊢
  omega

/-- What comes before a second group comes before every group that the second one does not follow. -/
theorem State.residentBefore_negTrans {s : State} {g h k : Nat} (h1 : s.residentBefore k h = false) (h2 : s.residentBefore h g = false) :
    s.residentBefore k g = false := by
  simp [State.residentBefore] at h1 h2 ⊢
  omega

theorem State.issuesBefore_irrefl (s : State) (g : Nat) : s.issuesBefore g g = false := by
  unfold State.issuesBefore
  cases h : (s.group g).sch.promoted <;> simp [h, State.residentBefore_irrefl]

theorem State.issuesBefore_asymm {s : State} {g h : Nat} (hb : s.issuesBefore g h = true) : s.issuesBefore h g = false := by
  have hr := State.residentBefore_asymm (s := s) (g := g) (h := h)
  unfold State.issuesBefore at hb ⊢
  cases hx : (s.group g).sch.promoted <;> cases hy : (s.group h).sch.promoted <;> simp [hx, hy] at hb ⊢
  · rcases hb with hb | ⟨hb, hres⟩
    · exact ⟨by omega, fun he => by omega⟩
    · exact ⟨by omega, fun _ => hr hres⟩
  · rcases hb with hb | ⟨hb, hres⟩
    · exact ⟨by omega, fun he => by omega⟩
    · exact ⟨by omega, fun _ => hr hres⟩

theorem State.issuesBefore_negTrans {s : State} {g h k : Nat} (h1 : s.issuesBefore k h = false) (h2 : s.issuesBefore h g = false) :
    s.issuesBefore k g = false := by
  have hr := State.residentBefore_negTrans (s := s) (g := g) (h := h) (k := k)
  unfold State.issuesBefore at h1 h2 ⊢
  cases hx : (s.group g).sch.promoted <;> cases hy : (s.group h).sch.promoted <;> cases hz : (s.group k).sch.promoted <;>
    simp [hx, hy, hz] at h1 h2 ⊢
  all_goals
    refine ⟨by omega, fun he => hr (h1.2 (by omega)) (h2.2 (by omega))⟩

/-- A scheduler's choice is one of its groups that no other comes before. -/
theorem State.choose_spec (s : State) {l : List Nat} (hl : l ≠ []) :
    ∃ g, s.choose l = some g ∧ g ∈ l ∧ ∀ h ∈ l, s.issuesBefore h g = false := by
  induction l with
  | nil => exact absurd rfl hl
  | cons g gs ih =>
    unfold State.choose
    by_cases hgs : gs = []
    · subst hgs
      exact ⟨g, rfl, List.mem_singleton_self g, fun h hh => List.mem_singleton.1 hh ▸ s.issuesBefore_irrefl g⟩
    · obtain ⟨h, hc, hm, hb⟩ := ih hgs
      rw [hc]
      dsimp only
      split
      case isTrue hbefore =>
        refine ⟨h, rfl, List.mem_cons_of_mem _ hm, fun k hk => ?_⟩
        rcases List.mem_cons.1 hk with rfl | hk
        · exact State.issuesBefore_asymm hbefore
        · exact hb k hk
      case isFalse hbefore =>
        refine ⟨g, rfl, List.mem_cons_self, fun k hk => ?_⟩
        rcases List.mem_cons.1 hk with rfl | hk
        · exact s.issuesBefore_irrefl k
        · exact State.issuesBefore_negTrans (hb k hk) (Bool.eq_false_iff.2 hbefore)

/-! ### The cycle of a die -/

theorem dieOf_lt {core : Nat} (h : core < 288) : dieOf core < 4 := by unfold dieOf; omega

/-- A running die's scheduler, with nothing due before its issue: the cycle at hand while the scheduler has a group and has not
issued, or else the next one, once every unit has issued. -/
theorem State.cycleOf_sched {s : State} {core sch : Nat} (hc : core < 288) (hs : sch < 4) (hstop : (s.die (dieOf core)).stopped = false)
    (hedge : s.edgeDue (dieOf core) = false) : s.cycleOf (.sched core sch) =
      if s.readyOn core sch ≠ [] ∧ 4 * core + sch ∉ (s.die (dieOf core)).busy then some s
      else if s.cycleDone (dieOf core) = true ∧ s.clockOk (dieOf core) = true ∧ s.sampleDue (dieOf core) = false then
        some (s.tick (dieOf core)) else none := by
  have hd := dieOf_lt hc
  unfold State.cycleOf
  simp only [unitDie, hstop, hedge, unitNum, State.unitReady, hc, hs, Bool.or_false, decide_true, Bool.true_and]
  rw [if_neg (by simp [Nat.not_le.2 hd])]
  refine if_congr ?_ rfl (if_congr ?_ rfl rfl)
  · simp [and_comm]
  · simp [and_assoc]

/-! ### The end of a cycle -/

/-- As a cycle ends, teams that stop halt their groups, and cores choose whom they trace; nothing else changes. -/
theorem State.chooseTraced_eq (s : State) (core : Nat) : ∃ cs, s.chooseTraced core = { s with cores := cs } := by
  unfold State.chooseTraced
  split
  · split
    · dsimp only
      split
      · exact ⟨_, rfl⟩
      · exact ⟨_, rfl⟩
    · exact ⟨_, rfl⟩
  · exact ⟨_, rfl⟩

theorem State.foldl_chooseTraced_eq (l : List Nat) (s : State) : ∃ cs, l.foldl State.chooseTraced s = { s with cores := cs } := by
  induction l generalizing s with
  | nil => exact ⟨_, rfl⟩
  | cons c l ih =>
    obtain ⟨cs, h⟩ := s.chooseTraced_eq c
    obtain ⟨cs', h'⟩ := ih (s.chooseTraced c)
    exact ⟨cs', h'.trans (by rw [h])⟩

/-- A change of groups alone, which leaves the counts of R351 as they are. -/
def State.SameReady (s u : State) : Prop := u.dies = s.dies ∧ ∀ g, (u.group g).sch.ready = (s.group g).sch.ready

theorem State.SameReady.refl (s : State) : State.SameReady s s := ⟨rfl, fun _ => rfl⟩

theorem State.SameReady.trans {s t u : State} (h : State.SameReady s t) (k : State.SameReady t u) : State.SameReady s u :=
  ⟨k.1.trans h.1, fun g => (k.2 g).trans (h.2 g)⟩

theorem State.SameReady.foldl {α : Type} {f : State → α → State} (hf : ∀ s a, State.SameReady s (f s a)) (l : List α) (s : State) :
    State.SameReady s (l.foldl f s) := by
  induction l generalizing s with
  | nil => exact .refl s
  | cons a l ih => exact (hf s a).trans (ih _)

theorem State.halt_sameReady (s : State) (g : Nat) : State.SameReady s (s.modGroup g Group.halt) := by
  refine ⟨rfl, fun k => ?_⟩
  by_cases hk : k = g
  · subst hk
    rw [State.group_modGroup]
    rfl
  · rw [State.group_modGroup_ne _ _ hk]

theorem State.haltTeam_sameReady (s : State) (t : Nat) : State.SameReady s (s.haltTeam t) := by
  refine State.SameReady.foldl (fun s e => ?_) _ _
  dsimp only
  split
  · exact .refl s
  · exact s.halt_sameReady _

theorem State.cycleEdge_sameReady (s : State) (d : Nat) : State.SameReady s (s.cycleEdge d) := by
  unfold State.cycleEdge
  have hhalt : State.SameReady s ((s.teams.filter fun (_, (x : Team)) => dieOf x.core == d && x.stop.isSome).foldl (fun s (t, _) => s.haltTeam t) s) :=
    State.SameReady.foldl (fun s (e : Nat × Team) => s.haltTeam_sameReady e.1) _ _
  dsimp only
  split
  · exact hhalt
  · obtain ⟨cs, h⟩ := State.foldl_chooseTraced_eq _ _
    rw [h]
    exact hhalt.trans ⟨rfl, fun _ => rfl⟩

/-- One of the other dies follows die `d` (R398). -/
def State.followed (d : Nat) (s : State) (e : Nat) : State := if e = d then s else s.setDie e ((s.die e).follow (s.die d).time)

/-- The other dies follow, and the die at hand stays. -/
theorem State.followAll_spec (s : State) (d : Nat) : (s.followAll d).die d = s.die d ∧ ∃ ds, s.followAll d = { s with dies := ds } := by
  have step (s : State) (e : Nat) : (State.followed d s e).die d = s.die d ∧ ∃ ds, State.followed d s e = { s with dies := ds } := by
    unfold State.followed
    split
    case isTrue => exact ⟨rfl, _, rfl⟩
    case isFalse h => exact ⟨State.die_setDie_ne _ _ fun hd => h hd.symm, _, rfl⟩
  have steps (l : List Nat) (s : State) : (l.foldl (State.followed d) s).die d = s.die d ∧ ∃ ds, l.foldl (State.followed d) s = { s with dies := ds } := by
    induction l generalizing s with
    | nil => exact ⟨rfl, _, rfl⟩
    | cons e l ih =>
      obtain ⟨hd, ds, hs⟩ := step s e
      obtain ⟨hd', ds', hs'⟩ := ih (State.followed d s e)
      exact ⟨hd'.trans hd, ds', hs'.trans (by rw [hs])⟩
  exact steps [0, 1, 2, 3] s

/-- A group as a cycle of die `d` counts it (R351). -/
def State.recount (s : State) (d g : Nat) (x : Group) : Group :=
  if dieOf (s.team x.team).core != d then x
  else
    let n := if s.issuedNow g x || !s.groupReady g x then 0 else x.sch.ready + 1
    { x with sch := { x.sch with ready := n, promoted := if n = 0 then none else x.sch.promoted } }

theorem State.countReady_groups (s : State) (d : Nat) : (s.countReady d).groups = s.groups.map fun e => (e.1, s.recount d e.1 e.2) := by
  refine List.map_congr_left fun e _ => ?_
  unfold State.recount
  dsimp only
  split <;> rfl

/-- The count of a group of the die whose cycle ends (R351). -/
theorem State.countReady_group {s : State} {d g : Nat} {x : Group} (hx : Tab.look s.groups g = some x) (hd : dieOf (s.team x.team).core = d) :
    ((s.countReady d).group g).sch.ready = if s.groupReady g x = true ∧ s.issuedNow g x = false then x.sch.ready + 1 else 0 := by
  have hg : (s.countReady d).group g = s.recount d g x := by
    rw [State.group, Tab.get, State.countReady_groups, Tab.look_map s.groups (fun e => (e.1, s.recount d e.1 e.2)) fun _ => rfl, hx]
    rfl
  rw [hg, State.recount, if_neg (by simp [hd])]
  dsimp only
  cases s.issuedNow g x <;> cases s.groupReady g x <;> rfl

/-- As a cycle of a die ends, its counter advances and no unit has issued in the next; each of its groups is counted. -/
theorem State.tick_spec (s : State) (d : Nat) : ((s.tick d).die d).cyc = (s.die d).cyc + 1 ∧ ((s.tick d).die d).busy = [] ∧
    ∀ g x, Tab.look s.groups g = some x → dieOf (s.team x.team).core = d →
      ((s.tick d).group g).sch.ready = if s.groupReady g x = true ∧ s.issuedNow g x = false then x.sch.ready + 1 else 0 := by
  set y := ({ (s.die d).run 1 with busy := [] } : Die).halt with hy
  have hdie : (s.countReady d).die d = s.die d := rfl
  obtain ⟨hdies, hready⟩ := (((s.countReady d).setDie d y).followAll d).cycleEdge_sameReady d
  obtain ⟨hfollow, ds, hsame⟩ := ((s.countReady d).setDie d y).followAll_spec d
  have htick : s.tick d = (((s.countReady d).setDie d y).followAll d).cycleEdge d := by
    rw [State.tick, hdie]
  have hd : (s.tick d).die d = y := by
    rw [htick, State.die, hdies, ← State.die, hfollow, State.die_setDie]
  have hhalt : y.cyc = (s.die d).cyc + 1 ∧ y.busy = [] := by
    rw [hy, Die.halt]
    split <;> exact ⟨rfl, rfl⟩
  rw [hd]
  refine ⟨hhalt.1, hhalt.2, fun g x hx hcore => ?_⟩
  rw [htick, hready, hsame]
  exact State.countReady_group hx hcore

end Sys2Proof.Machine
end


section
/-! SUPPORT. What the end of a team leaves as it is, and what a termination leaves behind (R137, R191, R203, R369). -/

namespace Sys2Proof.Machine

/-! ### Teams that end -/

/-- A part of the state that teams, launches, cores, the agents' messages and free values do not belong to. -/
structure EndFree {α : Type} (F : State → α) : Prop where
  teams : ∀ s x, F { s with teams := x } = F s
  launches : ∀ s x, F { s with launches := x } = F s
  cores : ∀ s x, F { s with cores := x } = F s
  notices : ∀ s x, F { s with notices := x } = F s
  arrivals : ∀ s x, F { s with arrivals := x } = F s
  free : ∀ s x, F { s with free := x } = F s

section
variable {α : Type} {F : State → α}

/-- A run of steps keeps what each step keeps. -/
theorem foldl_keeps {β : Type} {f : State → β → State} (hf : ∀ s a, F (f s a) = F s) (l : List β) (s : State) : F (l.foldl f s) = F s := by
  induction l generalizing s with
  | nil => rfl
  | cons a l ih => exact (ih _).trans (hf s a)

variable (hF : EndFree F)
include hF

theorem EndFree.modTeam (s : State) (t : Nat) (f : Team → Team) : F (s.modTeam t f) = F s := hF.teams s _
theorem EndFree.modLaunch (s : State) (l : Nat) (f : Launch → Launch) : F (s.modLaunch l f) = F s := hF.launches s _
theorem EndFree.modCore (s : State) (k : Nat) (f : Core → Core) : F (s.modCore k f) = F s := hF.cores s _

theorem EndFree.settleX (s : State) (l level u n : Nat) : F (s.settleX l level u n) = F s := by
  unfold State.settleX
  dsimp only
  split
  · refine (hF.notices _ _).trans ?_
    split
    · exact (hF.modTeam _ _ _).trans (hF.modLaunch _ _ _)
    · exact hF.modLaunch _ _ _
  · rfl

theorem EndFree.settleBar (s : State) (t k : Nat) : F (s.settleBar t k) = F s := by
  unfold State.settleBar
  split
  · exact hF.modTeam _ _ _
  · unfold State.settleTeamX
    dsimp only
    split
    · exact (hF.arrivals _ _).trans (hF.modTeam _ _ _)
    · rfl

theorem EndFree.withdrawTeam (s : State) (t : Nat) : F (s.withdrawTeam t) = F s := by
  unfold State.withdrawTeam
  refine foldl_keeps (fun s k => ?_) _ _
  dsimp only
  split
  · exact hF.settleX _ _ _ _ _
  · rfl

theorem EndFree.withdraw (s : State) (g : Nat) : F (s.withdraw g) = F s := by
  unfold State.withdraw
  exact (foldl_keeps (fun s k => hF.settleBar s _ k) _ _).trans (hF.modTeam _ _ _)

theorem EndFree.freeWindow (s : State) (t : Nat) : F (s.freeWindow t) = F s := by
  unfold State.freeWindow
  dsimp only
  split
  · exact hF.modCore _ _ _
  · rfl

theorem EndFree.settleTasks (s : State) (l : Nat) : F (s.settleTasks l) = F s := by
  unfold State.settleTasks
  have first (u : State) (js : List Nat) : F (js.foldl (fun s j => (s.modTeam (teamKey l j) fun t =>
      { t with st := .queued, stage2 := 2, started := false }).modLaunch l fun y => y.stageEnd 1 j) u) = F u :=
    foldl_keeps (fun s j => (hF.modLaunch _ _ _).trans (hF.modTeam _ _ _)) _ _
  dsimp only
  split
  · exact (foldl_keeps (fun s j => (hF.withdrawTeam _ _).trans ((hF.modLaunch _ _ _).trans (hF.modTeam _ _ _))) _ _).trans (first _ _)
  · exact first _ _

theorem EndFree.endOne (s : State) (t : Nat) : F (s.endOne t) = F s := by
  unfold State.endOne
  dsimp only
  split
  · rfl
  · split
    · exact (hF.settleTasks _ _).trans ((hF.modLaunch _ _ _).trans ((hF.free _ _).trans ((hF.modTeam _ _ _).trans (hF.freeWindow _ _))))
    · exact (hF.withdrawTeam _ _).trans ((hF.modLaunch _ _ _).trans ((hF.modTeam _ _ _).trans (hF.freeWindow _ _)))

theorem EndFree.endPixels (s : State) (l : Nat) : F (s.endPixels l) = F s := by
  unfold State.endPixels
  split
  · rfl
  · exact foldl_keeps (fun s (e : Nat × Team) => hF.endOne s e.1) _ _

theorem EndFree.endTeam (s : State) (t : Nat) : F (s.endTeam t) = F s := (hF.endPixels _ _).trans (hF.endOne s t)

end

theorem endFree_groups : EndFree State.groups :=
  ⟨fun _ _ => rfl, fun _ _ => rfl, fun _ _ => rfl, fun _ _ => rfl, fun _ _ => rfl, fun _ _ => rfl⟩

theorem endFree_faults : EndFree State.faults :=
  ⟨fun _ _ => rfl, fun _ _ => rfl, fun _ _ => rfl, fun _ _ => rfl, fun _ _ => rfl, fun _ _ => rfl⟩

/-! ### A group that leaves -/

/-- The key of what trails a group is not its own. -/
theorem State.trailKey_ne (s : State) (g : Nat) : s.trailKey g ≠ g := by
  unfold State.trailKey
  have h : 0 < 2 ^ 128 * (1 + Tab.fresh s.groups / 2 ^ 128) := by positivity
  omega

/-- A group that leaves is no longer there under its own key. -/
theorem State.removeGroup_look (s : State) (g : Nat) : Tab.look (s.removeGroup g).groups g = none := by
  unfold State.removeGroup
  dsimp only
  split
  · refine (Tab.look_put_ne _ _ (State.trailKey_ne _ g).symm).trans ?_
    exact Tab.look_del_self _ _
  · exact Tab.look_del_self _ _

theorem State.removeGroup_faults (s : State) (g : Nat) : (s.removeGroup g).faults = s.faults := by
  have hleave : ((s.freeHeld g).releaseBlocks g 0).faults = s.faults := by
    unfold State.releaseBlocks
    dsimp only
    split <;> rfl
  have hw : (((s.freeHeld g).releaseBlocks g 0).withdraw g).faults = s.faults := (endFree_faults.withdraw _ _).trans hleave
  rw [← hw]
  unfold State.removeGroup
  dsimp only
  generalize ((s.freeHeld g).releaseBlocks g 0).withdraw g = w
  split <;> rfl

/-! ### A termination (R369) -/

theorem State.performWr_faults (s : State) (g : Nat) (p : PathClass) (w : Wr) : (s.performWr g p w).faults = s.faults := by
  unfold State.performWr
  split
  · unfold State.wrSpad State.passUndo
    split <;> rfl
  · split
    · exact State.poolErrors_free (F := State.faults) ⟨fun _ _ _ _ => rfl, fun _ _ => rfl⟩ _ _
    · split
      · rfl
      · split
        · obtain ⟨c, hc⟩ := (s.wrBytes w.pa w.data).l1Update_eq (s.coreOf g) w.pa w.data
          rw [hc]; rfl
        · rfl

theorem State.performStore_faults (s : State) (g : Nat) (p : PathClass) (last : Bool) (ws : List Wr) (locks : List Nat) :
    (s.performStore g p last ws locks).faults = s.faults := by
  obtain ⟨cs, ks, h⟩ := s.performStore_eq g p last ws locks
  rw [h]
  exact foldl_keeps (F := State.faults) (fun s w => s.performWr_faults g p w) _ _

theorem State.flushStores_faults (s : State) (g : Nat) : (s.flushStores g).faults = s.faults := by
  unfold State.flushStores
  refine foldl_keeps (F := State.faults) (fun s h => ?_) _ _
  split
  · exact State.performStore_faults _ _ _ _ _ _
  · exact State.performStore_faults _ _ _ _ _ _
  · rfl
  · rfl
  · rfl

theorem State.killGroup_faults (s : State) (g : Nat) : (s.killGroup g).faults = s.faults := by
  rw [State.killGroup, State.removeGroup_faults, State.modGroup_faults, State.flushStores_faults, State.discard_faults]

theorem State.killTrails_faults (s : State) (t : Nat) : (s.killTrails t).faults = s.faults := by
  unfold State.killTrails
  refine foldl_keeps (F := State.faults) (fun s e => ?_) _ _
  exact s.flushStores_faults e.1

theorem State.poisonBars_faults (s : State) (t : Nat) : (s.poisonBars t).faults = s.faults := by
  unfold State.poisonBars
  dsimp only
  split <;> rfl

/-- Team `t`, once terminated, stays so. -/
def State.StaysTerminated (t : Nat) (s u : State) : Prop := (s.team t).st = .terminated → (u.team t).st = .terminated

theorem State.StaysTerminated.foldl {β : Type} {t : Nat} {f : State → β → State} (l : List β) (s : State)
    (hf : ∀ s, ∀ a ∈ l, State.StaysTerminated t s (f s a)) : State.StaysTerminated t s (l.foldl f s) := by
  induction l generalizing s with
  | nil => exact id
  | cons a l ih => exact fun h => ih _ (fun s b hb => hf s b (List.mem_cons_of_mem _ hb)) (hf s a List.mem_cons_self h)

theorem State.StaysTerminated.trans {t : Nat} {s u v : State} (h : State.StaysTerminated t s u) (k : State.StaysTerminated t u v) :
    State.StaysTerminated t s v := fun hs => k (h hs)

theorem State.modLaunch_staysTerminated (t : Nat) (s : State) (l : Nat) (f : Launch → Launch) : State.StaysTerminated t s (s.modLaunch l f) := by
  intro hs
  rw [State.team_modLaunch, hs]

/-- A change of a team that is not `t`, and a change of `t` that keeps where it stands. -/
theorem State.modTeam_staysTerminated (t : Nat) (s : State) (k : Nat) (f : Team → Team) (h : k ≠ t ∨ ∀ x, (f x).st = x.st) :
    State.StaysTerminated t s (s.modTeam k f) := by
  intro hs
  by_cases hk : k = t
  · subst hk
    rw [State.team_modTeam, h.resolve_left (fun hn => hn rfl), hs]
  · rw [State.team_modTeam_ne _ _ (Ne.symm hk), hs]

theorem State.settleX_staysTerminated (t : Nat) (s : State) (l level u n : Nat) : State.StaysTerminated t s (s.settleX l level u n) := by
  unfold State.settleX
  dsimp only
  split
  · intro hs
    show (State.team (if _ then _ else _) t).st = _
    split
    · exact State.modTeam_staysTerminated t _ _ (fun y => { y with bars := _ }) (.inr fun _ => rfl) hs
    · exact hs
  · exact id

theorem State.withdrawTeam_staysTerminated (t : Nat) (s : State) (k : Nat) : State.StaysTerminated t s (s.withdrawTeam k) := by
  unfold State.withdrawTeam
  refine State.StaysTerminated.foldl _ _ fun s k _ => ?_
  dsimp only
  split
  · exact State.settleX_staysTerminated _ _ _ _ _ _
  · exact id

/-- A terminated team's task stage is not over. -/
theorem State.taskOver_ne {s : State} {t l j : Nat} (hs : (s.team t).st = .terminated) (hj : s.taskOver l j = true) : teamKey l j ≠ t := by
  rintro rfl
  unfold State.taskOver at hj
  split at hj
  next x hx =>
    have hst : x.st = .terminated := by rw [State.team, Tab.get, hx] at hs; exact hs
    simp [hst] at hj
  · cases hj

theorem State.settleTasks_staysTerminated (t : Nat) (s : State) (l : Nat) : State.StaysTerminated t s (s.settleTasks l) := by
  intro hs
  have first (js : List Nat) : State.StaysTerminated t s ((js.filter (s.taskOver l)).foldl (fun s j => (s.modTeam (teamKey l j) fun t =>
      { t with st := .queued, stage2 := 2, started := false }).modLaunch l fun y => y.stageEnd 1 j) s) :=
    State.StaysTerminated.foldl _ _ fun u j hj => (State.modTeam_staysTerminated t u (teamKey l j) _
      (.inl (State.taskOver_ne hs (List.mem_filter.1 hj).2))).trans (State.modLaunch_staysTerminated t _ l _)
  unfold State.settleTasks
  dsimp only
  split
  · refine State.StaysTerminated.foldl _ _ (fun u j hj => ?_) (first _ hs)
    exact ((State.modTeam_staysTerminated t u (teamKey l j) (fun x => { x with stage2 := 3 }) (.inr fun _ => rfl)).trans
      (State.modLaunch_staysTerminated t _ l _)).trans (State.withdrawTeam_staysTerminated t _ _)
  · exact first _ hs

theorem State.freeWindow_teams (s : State) (t : Nat) : (s.freeWindow t).teams = s.teams := by
  unfold State.freeWindow
  dsimp only
  split <;> rfl

theorem State.endOne_staysTerminated (t : Nat) (s : State) (k : Nat) : State.StaysTerminated t s (s.endOne k) := by
  intro hs
  unfold State.endOne
  dsimp only
  split
  · exact hs
  next hover =>
    have hk : k ≠ t := by
      rintro rfl
      simp [Team.over?, hs] at hover
    have hend : (((s.freeWindow k).modTeam k fun x => { x with st := .ended }).team t).st = .terminated := by
      rw [State.team_modTeam_ne _ _ (Ne.symm hk), State.team, State.freeWindow_teams]
      exact hs
    split
    · exact State.settleTasks_staysTerminated t _ _ hend
    · exact State.withdrawTeam_staysTerminated t _ _ hend

theorem State.endPixels_staysTerminated (t : Nat) (s : State) (l : Nat) : State.StaysTerminated t s (s.endPixels l) := by
  unfold State.endPixels
  split
  · exact id
  · exact State.StaysTerminated.foldl _ _ fun s e _ => State.endOne_staysTerminated t s e.1

theorem State.team_withRays (s : State) (r : Tab Ray) (t : Nat) : State.team { s with rays := r } t = s.team t := rfl

/-- A termination leaves its team terminated, and the records as they were. -/
theorem State.terminate_spec {s : State} {t : Nat} (h : (s.team t).over? = false) :
    ((s.terminate t).team t).st = .terminated ∧ (s.terminate t).faults = s.faults := by
  unfold State.terminate
  rw [if_neg (ne_true_of_eq_false h)]
  dsimp only
  generalize hv : State.poisonBars _ t = v
  have hfaults : v.faults = s.faults := by
    rw [← hv, State.poisonBars_faults, endFree_faults.freeWindow, State.modCore_faults, State.killTrails_faults]
    exact foldl_keeps (F := State.faults) (fun s (e : Nat × Nat) => s.killGroup_faults e.2) _ _
  constructor
  · refine State.endPixels_staysTerminated t _ _ (State.settleTasks_staysTerminated t _ _ (State.withdrawTeam_staysTerminated t _ _ ?_))
    rw [State.team_withRays, State.team_modLaunch, State.team_modTeam]
  · rw [endFree_faults.endPixels, endFree_faults.settleTasks, endFree_faults.withdrawTeam]
    exact hfaults

end Sys2Proof.Machine
end


section
/-! SUPPORT. Waits that end, and the issue of a scheduler and of a service core (R34, R55, R113, R191, R330, R382). -/

namespace Sys2Proof.Machine

/-! ### Waits that end -/

/-- A state but for its dies, the thread at hand and the free values that are left. -/
def State.SameButIssue (t c : State) : Prop := ∃ ds f k, c = { t with dies := ds, free := f, cur := k }

theorem State.SameButIssue.refl (t : State) : State.SameButIssue t t := ⟨_, _, _, rfl⟩

theorem State.SameButIssue.trans {s t u : State} (h : State.SameButIssue s t) (k : State.SameButIssue t u) : State.SameButIssue s u := by
  obtain ⟨_, _, _, rfl⟩ := h
  obtain ⟨ds, f, k, rfl⟩ := k
  exact ⟨ds, f, k, rfl⟩

/-- What a resumed group has met does not depend on them. -/
theorem resumed_of_sameButIssue {t c u v : State} {g : Nat} {w : Wait} (ht : State.SameButIssue t c) (hu : State.SameButIssue u v)
    (h : Claim.Resumed c u g w) : Claim.Resumed t v g w := by
  obtain ⟨_, _, _, rfl⟩ := ht
  obtain ⟨_, _, _, rfl⟩ := hu
  cases w with
  | retry r => trivial
  | barrier d l n => exact h
  | ring p k => exact h
  | waitm => exact h
  | yield a => exact h
  | sgrow b => exact h
  | efence => exact h
  | exit => exact h

theorem State.disarm_eq {s : State} {g : Nat} (hc : s.cur = .group g) :
    ∃ m l, s.disarm = s.modGroup g fun x => { x with mon := m, l1drop := l } := by
  unfold State.disarm State.setMonitor
  simp only [hc, State.modGroup_cur]
  split
  · exact ⟨{ s.monitor with armed := false }, true, by rw [State.modGroup_modGroup]⟩
  · exact ⟨{ s.monitor with armed := false }, (s.group g).l1drop, rfl⟩

theorem State.barDone_passes {s : State} {g d k : Nat} (h : s.barPoison g k = false) : ((s.barDone g d k).group g).thr =
    ((s.group g).thr.wr d (if (Tab.look (s.group g).arrivals k).isSome && s.isLast g k then 1 else 0)).next 4 := by
  unfold State.barDone
  dsimp only
  rw [if_neg (ne_true_of_eq_false h), State.group_modGroup]

theorem State.barDone_mem (s : State) (g d k : Nat) : (s.barDone g d k).mem = s.mem := by
  unfold State.barDone
  dsimp only
  split
  · exact State.trapGroup_mem _ _ _ _
  · rfl

theorem State.barDone_cur (s : State) (g d k : Nat) : (s.barDone g d k).cur = s.cur := by
  unfold State.barDone
  dsimp only
  split
  · unfold State.trapGroup
    rw [if_neg (by decide)]
    rfl
  · rfl

theorem State.ringDone_cur (s : State) (g : Nat) (p : Bool) (k : Nat) : (s.ringDone g p k).cur = s.cur := by
  unfold State.ringDone
  split
  · rfl
  · cases p <;> rfl

theorem State.ringDone_mem (s : State) (g : Nat) (p : Bool) (k : Nat) : (s.ringDone g p k).mem = s.mem := by
  unfold State.ringDone
  split
  · rfl
  · cases p <;> rfl

/-- A fence that ends without an error: its group goes on, its core's copies are gone (R113). -/
theorem State.fenceDone_none {s : State} {g : Nat} (h : (s.group g).impr = none) : s.fenceDone g =
    (s.l1Drop (s.coreOf g)).modGroup g fun x => { x with thr := x.thr.next 4, sch := { x.sch with wait := none } } := by
  have hg : ((s.l1Drop (s.coreOf g)).group g).impr = none := h
  unfold State.fenceDone State.reportHeld
  simp only [hg]

/-- A report of held errors records them and parks the group (R366). -/
theorem State.reportHeld_some {s t : State} {g : Nat} {r : Resume} (h : s.reportHeld g r = some t) :
    t.cur = s.cur ∧ t.mem = s.mem ∧ (t.group g).sch.parked = true := by
  unfold State.reportHeld at h
  split at h
  · cases h
  · obtain rfl := Option.some.inj h
    exact ⟨rfl, rfl, by rw [State.group_modGroup]; rfl⟩

theorem State.fenceDone_frame (s : State) (g : Nat) : (s.fenceDone g).cur = s.cur ∧ (s.fenceDone g).mem = s.mem := by
  unfold State.fenceDone
  dsimp only
  split
  next t ht =>
    obtain ⟨hcur, hmem, _⟩ := State.reportHeld_some ht
    exact ⟨hcur, hmem⟩
  · exact ⟨rfl, rfl⟩

/-- A group that ends is gone (R191). -/
theorem State.exitDone_look {s : State} {g : Nat} (h : (s.group g).impr = none) : Tab.look (s.exitDone g).groups g = none := by
  have hr : (s.l1Drop (s.coreOf g)).reportHeld g .exit = none := by
    unfold State.reportHeld
    rw [show ((s.l1Drop (s.coreOf g)).group g).impr = none from h]
  unfold State.exitDone
  dsimp only
  rw [hr]
  dsimp only
  rw [endFree_groups.endTeam]
  exact State.removeGroup_look _ _

/-- A parked group has nothing to issue, and neither has one that is gone. -/
theorem State.goes_parked {s : State} {g : Nat} (h : (s.group g).sch.parked = true) : s.goes g = false := by
  simp [State.goes, State.groupReady, State.groupLive, h]

theorem State.goes_gone {s : State} {g : Nat} (h : Tab.look s.groups g = none) : s.goes g = false := by
  simp [State.goes, h]

theorem State.exitDone_goes (s : State) (g : Nat) : (s.exitDone g).goes g = false := by
  cases h : (s.l1Drop (s.coreOf g)).reportHeld g .exit with
  | some t =>
    have he : s.exitDone g = t := by unfold State.exitDone; dsimp only; rw [h]
    rw [he]
    exact State.goes_parked (State.reportHeld_some h).2.2
  | none =>
    refine State.goes_gone (State.exitDone_look ?_)
    unfold State.reportHeld at h
    split at h
    next hi => exact hi
    · cases h

/-- The three words that pass with the group's own change alone. -/
theorem State.endWait_waitm {s : State} {g : Nat} (hc : s.cur = .group g) (hw : (s.group g).sch.wait = some .waitm) :
    ∃ m l, s.endWait g = s.modGroup g fun x => { x with mon := m, l1drop := l, thr := x.thr.next 4, sch := { x.sch with wait := none } } := by
  obtain ⟨m, l, h⟩ := State.disarm_eq hc
  refine ⟨m, l, ?_⟩
  unfold State.endWait
  rw [hw]
  dsimp only
  rw [h, State.pass_modGroup hc, State.modGroup_modGroup]

theorem State.endWait_yield {s : State} {g : Nat} {a : DWord} (hc : s.cur = .group g) (hw : (s.group g).sch.wait = some (.yield a)) :
    ∃ m l, s.endWait g = s.modGroup g fun x => { x with mon := m, l1drop := l, thr := x.thr.jump a, sch := { x.sch with wait := none } } := by
  obtain ⟨m, l, h⟩ := State.disarm_eq hc
  refine ⟨m, l, ?_⟩
  have hc' : (s.modGroup g fun x => { x with mon := m, l1drop := l }).cur = .group g := by rw [State.modGroup_cur, hc]
  unfold State.endWait
  rw [hw]
  dsimp only
  rw [h, State.modThr, State.setThr_group hc', State.thr_group hc', State.group_modGroup, State.modGroup_modGroup, State.modGroup_modGroup]
  rfl

theorem State.endWait_sgrow {s : State} {g b : Nat} (hc : s.cur = .group g) (hw : (s.group g).sch.wait = some (.sgrow b)) :
    s.endWait g = s.modGroup g fun x => { x with thr := x.thr.next 4, sch := { x.sch with wait := none } } := by
  unfold State.endWait
  rw [hw]
  dsimp only
  rw [State.pass_group hc, State.modGroup_modGroup]

theorem State.endWait_retry {s : State} {g r : Nat} (hw : (s.group g).sch.wait = some (.retry r)) : s.endWait g = s := by
  unfold State.endWait; rw [hw]
theorem State.endWait_barrier {s : State} {g d l n : Nat} (hw : (s.group g).sch.wait = some (.barrier d l n)) :
    s.endWait g = s.barDone g d (barKey l n) := by unfold State.endWait; rw [hw]
theorem State.endWait_ring {s : State} {g k : Nat} {p : Bool} (hw : (s.group g).sch.wait = some (.ring p k)) :
    s.endWait g = s.ringDone g p k := by unfold State.endWait; rw [hw]
theorem State.endWait_efence {s : State} {g : Nat} (hw : (s.group g).sch.wait = some .efence) : s.endWait g = s.fenceDone g := by
  unfold State.endWait; rw [hw]
theorem State.endWait_exit {s : State} {g : Nat} (hw : (s.group g).sch.wait = some .exit) : s.endWait g = s.exitDone g := by
  unfold State.endWait; rw [hw]

/-- A group at hand goes on past its wait: where it then is, and that it is still at hand, or has nothing to issue. -/
theorem State.endWait_spec {s : State} {g : Nat} {w : Wait} (hc : s.cur = .group g) (hw : (s.group g).sch.wait = some w) :
    Claim.Resumed s (s.endWait g) g w ∧ (w ≠ .exit → (s.endWait g).mem = s.mem) ∧
      ((s.endWait g).goes g = true → (s.endWait g).cur = .group g) := by
  cases w with
  | retry r =>
    rw [State.endWait_retry hw]
    exact ⟨trivial, fun _ => rfl, fun _ => hc⟩
  | barrier d l n =>
    rw [State.endWait_barrier hw]
    exact ⟨fun hp => State.barDone_passes hp, fun _ => State.barDone_mem _ _ _ _, fun _ => (State.barDone_cur _ _ _ _).trans hc⟩
  | ring p k =>
    rw [State.endWait_ring hw]
    refine ⟨fun r hr => ?_, fun _ => State.ringDone_mem _ _ _ _, fun _ => (State.ringDone_cur _ _ _ _).trans hc⟩
    obtain ⟨hring, hthr, _⟩ := State.ringDone_spec p hr
    exact ⟨hthr, hring⟩
  | waitm =>
    obtain ⟨m, l, h⟩ := State.endWait_waitm hc hw
    rw [h]
    refine ⟨?_, fun _ => rfl, fun _ => hc⟩
    show _ ∧ _
    rw [State.group_modGroup]
    exact ⟨rfl, rfl⟩
  | yield a =>
    obtain ⟨m, l, h⟩ := State.endWait_yield hc hw
    rw [h]
    refine ⟨?_, fun _ => rfl, fun _ => hc⟩
    show _ = _
    rw [State.group_modGroup]
  | sgrow b =>
    rw [State.endWait_sgrow hc hw]
    refine ⟨?_, fun _ => rfl, fun _ => hc⟩
    show _ ∧ _
    rw [State.group_modGroup]
    exact ⟨rfl, rfl⟩
  | efence =>
    rw [State.endWait_efence hw]
    obtain ⟨hcur, hmem⟩ := s.fenceDone_frame g
    refine ⟨fun hi => ?_, fun _ => hmem, fun _ => hcur.trans hc⟩
    rw [State.fenceDone_none hi, State.group_modGroup, State.core_modGroup, State.l1Drop, State.core_modCore]
    exact ⟨rfl, rfl⟩
  | exit =>
    rw [State.endWait_exit hw]
    refine ⟨fun hi => State.exitDone_look hi, fun h => absurd rfl h, fun h => ?_⟩
    rw [State.exitDone_goes] at h
    cases h

/-! ### The issue of a scheduler -/

theorem State.unBusy_cyc (s : State) (u : IssueUnit) (d : Nat) : ((s.unBusy u).die d).cyc = (s.die d).cyc := by
  unfold State.unBusy
  dsimp only
  by_cases hd : d = unitDie u
  · subst hd
    rw [State.die_setDie]
  · rw [State.die_setDie_ne _ _ hd]

/-- Whether a group has something to issue does not depend on which units have issued. -/
theorem State.goes_unBusy (s : State) (u : IssueUnit) (g : Nat) : State.goes { s.unBusy u with cur := .none } g = s.goes g := by
  have hlive : State.groupLive { s.unBusy u with cur := .none } g (s.group g) = s.groupLive g (s.group g) := rfl
  have hcyc : (State.die { s.unBusy u with cur := .none } (dieOf (s.team (s.group g).team).core)).cyc =
    (s.die (dieOf (s.team (s.group g).team).core)).cyc := s.unBusy_cyc u _
  have hready : State.groupReady { s.unBusy u with cur := .none } g (s.group g) = s.groupReady g (s.group g) := by
    unfold State.groupReady
    rw [hlive]
    exact congrArg (fun c => s.groupLive g (s.group g) && ((s.group g).sch.wait.isSome || (s.group g).blk.isNone ||
      decide ((s.group g).sch.notBefore ≤ c))) hcyc
  unfold State.goes
  exact congrArg (fun b => (Tab.look s.groups g).isSome && b && (s.group g).sch.wait.isNone) hready

/-- The state in which a scheduler has chosen `g`. -/
def State.atHand (s : State) (u : IssueUnit) (g : Nat) : State := { s.setBusy u with cur := .group g }

theorem State.atHand_issue (s : State) (u : IssueUnit) (g : Nat) : State.SameButIssue s (s.atHand u g) := ⟨_, _, _, rfl⟩

/-- A group that waits with reason `r`, to try its word again. -/
def Group.waiting (r : Nat) (x : Group) : Group :=
  { x with thr := { x.thr with pfx := none }, sch := { x.sch with wait := some (.retry r), ready := 0, promoted := none } }

/-- The trace unit cannot take the record: the group waits, and has not issued (log entry 34). -/
theorem State.issueGroup_held {s : State} {u : IssueUnit} {g : Nat} (h : s.traceHeld g = true) :
    ((s.setBusy u).issueGroup u g none).cur = .none ∧ ((s.setBusy u).issueGroup u g none).mem = s.mem ∧
      (((s.setBusy u).issueGroup u g none).group g).sch.wait = some (.retry 25) ∧
      (((s.setBusy u).issueGroup u g none).group g).thr.pcs = (s.group g).thr.pcs := by
  have he : (s.setBusy u).issueGroup u g none = { ((s.atHand u g).takeFree.modGroup g (Group.waiting 25)).unBusy u with cur := .none } := if_pos h
  have hg : ((s.setBusy u).issueGroup u g none).group g = (s.group g).waiting 25 := by
    rw [he]
    exact State.group_modGroup (s.atHand u g).takeFree g (Group.waiting 25)
  exact ⟨by rw [he], by rw [he]; rfl, by rw [hg]; rfl, by rw [hg]; rfl⟩

/-- The group at hand, once its record has its place. -/
def State.recorded (s : State) (g : Nat) : State := if s.tracedFull g then s.takeFree else s

theorem State.recorded_issue (s : State) (g : Nat) : State.SameButIssue s (s.recorded g) ∧ (s.recorded g).cur = s.cur := by
  unfold State.recorded
  split
  · exact ⟨⟨_, _, _, rfl⟩, rfl⟩
  · exact ⟨.refl s, rfl⟩

theorem State.issueGroup_free {s : State} {u : IssueUnit} {g : Nat} (h : s.traceHeld g = false) : (s.setBusy u).issueGroup u g none =
    if (s.group g).sch.wait.isSome then
      if (((s.atHand u g).recorded g).endWait g).goes g then ((s.atHand u g).recorded g).endWait g
      else { (((s.atHand u g).recorded g).endWait g).unBusy u with cur := .none }
    else (s.atHand u g).recorded g := by
  have hw : (((s.atHand u g).recorded g).group g).sch.wait = (s.group g).sch.wait := by
    obtain ⟨⟨_, _, _, hr⟩, _⟩ := (s.atHand u g).recorded_issue g
    rw [hr]
    rfl
  rw [← hw]
  exact if_neg (ne_true_of_eq_false h)

theorem State.recorded_dies (s : State) (g : Nat) : (s.recorded g).dies = s.dies := by
  unfold State.recorded; split <;> rfl

/-- A group without a wait is at hand for its next instruction. -/
theorem State.issueGroup_runs {s : State} {u : IssueUnit} {g : Nat} (h : s.traceHeld g = false) (hw : (s.group g).sch.wait = none) :
    let v := (s.setBusy u).issueGroup u g none
    v.cur = .group g ∧ v.groups = s.groups ∧ v.teams = s.teams ∧ v.mem = s.mem ∧ unitNum u ∈ (v.die (unitDie u)).busy := by
  intro v
  have hv : v = (s.atHand u g).recorded g := by
    simp only [v, State.issueGroup_free h, hw]
    rfl
  have hdie : (v.die (unitDie u)).busy = unitNum u :: (s.die (unitDie u)).busy := by
    rw [hv, State.die, State.recorded_dies, ← State.die]
    show ((s.setBusy u).die _).busy = _
    rw [State.setBusy, State.die_setDie]
  obtain ⟨⟨_, _, _, hr⟩, hcur⟩ := (s.atHand u g).recorded_issue g
  rw [hdie]
  refine ⟨by rw [hv, hcur]; rfl, ?_, ?_, ?_, List.mem_cons_self⟩
  · rw [hv, hr]; rfl
  · rw [hv, hr]; rfl
  · rw [hv, hr]; rfl

/-- A group whose wait is over goes on past it, and stays at hand while it has an instruction to issue. -/
theorem State.issueGroup_resumes {s : State} {u : IssueUnit} {g : Nat} {w : Wait} (h : s.traceHeld g = false) (hw : (s.group g).sch.wait = some w) :
    let v := (s.setBusy u).issueGroup u g none
    v.cur = (if v.goes g = true then .group g else .none) ∧ (w ≠ .exit → v.mem = s.mem) ∧ Claim.Resumed s v g w := by
  intro v
  obtain ⟨hrec, hcur⟩ := (s.atHand u g).recorded_issue g
  have hsame := (s.atHand_issue u g).trans hrec
  have hmem : ((s.atHand u g).recorded g).mem = s.mem := by
    obtain ⟨_, _, _, hr⟩ := hsame
    rw [hr]
  have hwait : (((s.atHand u g).recorded g).group g).sch.wait = some w := by
    obtain ⟨_, _, _, hr⟩ := hsame
    rw [hr]
    exact hw
  obtain ⟨hres, hm, hgo⟩ := State.endWait_spec hcur hwait
  have hv : v = if (((s.atHand u g).recorded g).endWait g).goes g then ((s.atHand u g).recorded g).endWait g
      else { (((s.atHand u g).recorded g).endWait g).unBusy u with cur := .none } := by
    simp only [v, State.issueGroup_free h, hw]
    rfl
  rw [hv]
  split
  case isTrue hg =>
    exact ⟨hgo hg, fun he => (hm he).trans hmem, resumed_of_sameButIssue hsame (.refl _) hres⟩
  case isFalse hg =>
    rw [State.goes_unBusy, if_neg hg]
    exact ⟨rfl, fun he => (hm he).trans hmem, resumed_of_sameButIssue hsame ⟨_, _, _, rfl⟩ hres⟩

/-! ### Soft errors (R55) -/

/-- What an upset leaves as it was. -/
theorem State.corrupt_spec (s : State) (g : Nat) (r : Word) : (s.corrupt g r).teams = s.teams ∧ (s.corrupt g r).faults = s.faults ∧
    ∃ up, (s.corrupt g r).group g = { s.group g with upset := up } := by
  unfold State.corrupt
  dsimp only
  split
  · exact ⟨rfl, rfl, _, rfl⟩
  · exact ⟨rfl, rfl, _, State.group_modGroup _ _ _⟩

/-- A soft error discards the region (R32, R33). -/
theorem State.issueGroup_soft {s : State} {u : IssueUnit} {g : Nat} (r : Word) (hn : (s.group g).soft < 2) (ho : (s.group g).reg.opened = true) :
    let v := (s.setBusy u).issueGroup u g (some r)
    v.cur = .none ∧ (v.group g).soft = (s.group g).soft + 1 ∧ (v.group g).reg.held = [] ∧ (v.group g).thr.pcs = (s.group g).reg.entry := by
  intro v
  have hsoft : (s.atHand u g).softError g r = ((s.atHand u g).discard g).modGroup g fun x =>
      { x with soft := (s.group g).soft + 1, sch := { x.sch with upset := none } } := if_neg (by
    show ¬ 3 ≤ (s.group g).soft + 1
    omega)
  have hv : v = { ((s.atHand u g).softError g r).corrupt g r with cur := .none } := rfl
  obtain ⟨_, _, up, hup⟩ := ((s.atHand u g).softError g r).corrupt_spec g r
  obtain ⟨m, hm⟩ := State.discard_group (s := s.atHand u g) (g := g) ho
  have hr := Group.restart_restarted { (s.atHand u g).group g with mon := m }
  have hg : v.group g = { Group.restart { (s.atHand u g).group g with mon := m } with
      soft := (s.group g).soft + 1, sch := { (Group.restart { (s.atHand u g).group g with mon := m }).sch with upset := none }, upset := up } := by
    rw [hv]
    refine Eq.trans hup ?_
    rw [hsoft, State.group_modGroup, hm]
  rw [hg]
  exact ⟨rfl, rfl, hr.held, hr.pcs⟩

/-- A hard error records itself, with the register it names, and ends the team (R369). -/
theorem State.hardError_spec {s : State} {g : Nat} (r : Word) (ho : (s.team (s.group g).team).over? = false) :
    ((s.hardError g r).team (s.group g).team).st = .terminated ∧ ∃ x ∈ (s.hardError g r).faults, x.cause = .hardError ∧ x.aux32 = r := by
  unfold State.hardError
  dsimp only
  set rec_ := s.groupRec g .hardError { aux := r, flm := (s.group g).flm }
  set e := s.event rec_.source 1 (dieOf (s.coreOf g)) (BitVec.ofNat 64 (r.toNat + 2 ^ 32 * rec_.launch.toNat))
  have hteams : e.teams = s.teams := State.event_free (F := State.teams) ⟨fun _ _ _ _ => rfl, fun _ _ => rfl⟩ _ _ _ _ _
  have hgroups : e.groups = s.groups := State.event_free (F := State.groups) ⟨fun _ _ _ _ => rfl, fun _ _ => rfl⟩ _ _ _ _ _
  have hteam : (e.group g).team = (s.group g).team := by rw [State.group, hgroups, ← State.group]
  have hover : ((e.record rec_).team (s.group g).team).over? = false := by
    show (Tab.get Team.zero e.teams _).over? = false
    rw [hteams]
    exact ho
  obtain ⟨hst, hf⟩ := State.terminate_spec hover
  rw [hteam]
  exact ⟨hst, rec_, by rw [hf]; exact List.mem_append_right _ (List.mem_singleton_self _), rfl, rfl⟩

/-- The third soft error in a row ends the team, with its record (R33, R369). -/
theorem State.issueGroup_hard {s : State} {u : IssueUnit} {g : Nat} (r : Word) (hn : 2 ≤ (s.group g).soft)
    (ho : (s.team (s.group g).team).over? = false) :
    let v := (s.setBusy u).issueGroup u g (some r)
    (v.team (s.group g).team).st = .terminated ∧ ∃ x ∈ v.faults, x.cause = .hardError ∧ x.aux32 = r := by
  intro v
  have hsoft : (s.atHand u g).softError g r = (s.atHand u g).hardError g r := if_pos (by
    show 3 ≤ (s.group g).soft + 1
    omega)
  have hv : v = { ((s.atHand u g).hardError g r).corrupt g r with cur := .none } := by rw [← hsoft]; rfl
  obtain ⟨hteams, hfaults, _⟩ := ((s.atHand u g).hardError g r).corrupt_spec g r
  obtain ⟨hst, x, hx, hcause, haux⟩ := State.hardError_spec (s := s.atHand u g) (g := g) r ho
  rw [hv]
  refine ⟨?_, x, ?_, hcause, haux⟩
  · show (Tab.get Team.zero (((s.atHand u g).hardError g r).corrupt g r).teams _).st = _
    rw [hteams]
    exact hst
  · show x ∈ (((s.atHand u g).hardError g r).corrupt g r).faults
    rw [hfaults]
    exact hx

/-! ### The issue itself -/

/-- What a unit with a thread to issue does. -/
def State.issueNow (t : State) (soft : Option Word) : IssueUnit → Out
  | .sched core sch => match t.choose (t.readyOn core sch) with
    | some g => .next ((t.setBusy (.sched core sch)).issueGroup (.sched core sch) g soft)
    | none => .next t
  | .service core => match (t.svcOrder core).find? t.svcReady with
    | some k => .next ((t.setBusy (.service core)).issueSvc core k)
    | none => .next t

theorem issue_cycle {s t : State} {u : IssueUnit} {soft : Option Word} (hstart : s.startSvc u soft = none) (hc : s.cycleOf u = some t)
    (hstop : (t.die (unitDie u)).stopped = false) (hedge : t.edgeDue (unitDie u) = false) (hr : t.unitReady u = true) :
    exec (.issue u soft) s = t.issueNow soft u := by
  show execIssue u soft s = _
  unfold execIssue
  rw [hstart]
  dsimp only
  rw [hc]
  dsimp only
  rw [hstop, hedge, hr]
  cases u <;> rfl

theorem issue_idle {s t : State} {u : IssueUnit} {soft : Option Word} (hstart : s.startSvc u soft = none) (hc : s.cycleOf u = some t)
    (hr : t.unitReady u = false) : exec (.issue u soft) s = .next t := by
  show execIssue u soft s = _
  unfold execIssue
  rw [hstart]
  dsimp only
  rw [hc]
  dsimp only
  rw [hr, Bool.not_false, Bool.or_true, if_pos rfl]

theorem issue_noCycle {s : State} {u : IssueUnit} {soft : Option Word} (hstart : s.startSvc u soft = none) (hc : s.cycleOf u = none) :
    exec (.issue u soft) s = .next s := by
  show execIssue u soft s = _
  unfold execIssue
  rw [hstart]
  dsimp only
  rw [hc]

/-- What the issue of a chosen group does, case by case. -/
theorem sched_issues {s t : State} {core sch : Nat} {soft : Option Word} (hc : core < 288) (hs : sch < 4)
    (ht : s.cycleOf (.sched core sch) = some t) (hstop : (t.die (dieOf core)).stopped = false) (hedge : t.edgeDue (dieOf core) = false)
    (hr : t.readyOn core sch ≠ []) : ∃ g ∈ t.readyOn core sch, (∀ h ∈ t.readyOn core sch, t.issuesBefore h g = false) ∧
      exec (.issue (.sched core sch) soft) s = .next ((t.setBusy (.sched core sch)).issueGroup (.sched core sch) g soft) := by
  obtain ⟨g, hg, hm, hb⟩ := t.choose_spec hr
  have hready : t.unitReady (.sched core sch) = true := by simp [State.unitReady, hc, hs, hr]
  refine ⟨g, hm, hb, ?_⟩
  rw [issue_cycle rfl ht hstop hedge hready, State.issueNow, hg]

/-! ### The issue of a service core (R330) -/

/-- The bits of a number below 64 lie below bit 6. -/
theorem getLsbD_ofNat_high {n : Nat} (hn : n < 64) (b : Nat) : (BitVec.ofNat 64 n).getLsbD (b + 6) = false := by
  have hlt : n < 2 ^ (b + 6) := lt_of_lt_of_le hn (Nat.pow_le_pow_right (n := 2) (by decide) (Nat.le_add_left 6 b))
  rw [BitVec.getLsbD_ofNat, Nat.testBit_lt_two_pow hlt, Bool.and_false]

theorem getLsbD_ite_zero (c : Bool) (x : DWord) (b : Nat) : (if c then x else 0).getLsbD b = (c && x.getLsbD b) := by
  cases c
  · exact BitVec.getLsbD_zero
  · rfl

/-- sstat as a handler begins (R330): PIE := IE, IE := 0, PPL := PL, PL := HOST. -/
theorem Svc.enter_sstat (v : Svc) (epc cause einfo : DWord) (b : Nat) : (v.enter epc cause einfo).sstat.getLsbD b = match b with
    | 0 => false
    | 1 => v.sstat.getLsbD 0
    | 4 => true
    | 5 => v.sstat.getLsbD 4
    | _ => v.sstat.getLsbD b := by
  have hbit : (v.enter epc cause einfo).sstat.getLsbD b = (v.sstat.getLsbD b && (decide (b < 64) && !(0x33 : DWord).getLsbD b) ||
      (v.sstat.getLsbD 0 && (2 : DWord).getLsbD b) || (v.sstat.getLsbD 4 && (0x20 : DWord).getLsbD b) || (0x10 : DWord).getLsbD b) := by
    unfold Svc.enter sstatIe sstatHost
    simp only [BitVec.getLsbD_or, BitVec.getLsbD_and, BitVec.getLsbD_not, getLsbD_ite_zero]
  rw [hbit]
  match b with
  | 0 => simp
  | 1 => simp
  | 2 => simp
  | 3 => simp
  | 4 => simp
  | 5 => simp
  | b + 6 =>
    have h33 : (0x33 : DWord).getLsbD (b + 6) = false := getLsbD_ofNat_high (by decide) b
    have h02 : (2 : DWord).getLsbD (b + 6) = false := getLsbD_ofNat_high (by decide) b
    have h20 : (0x20 : DWord).getLsbD (b + 6) = false := getLsbD_ofNat_high (by decide) b
    have h10 : (0x10 : DWord).getLsbD (b + 6) = false := getLsbD_ofNat_high (by decide) b
    rw [h33, h02, h20, h10]
    by_cases h : b + 6 < 64
    · simp [h]
    · simp [h, BitVec.getLsbD_of_ge _ _ (Nat.le_of_not_lt h)]

/-- A service thread that enters its handler, whatever events are left. -/
theorem Svc.enter_entered (v : Svc) (epc cause einfo : DWord) (evs : List DWord) :
    Claim.Entered v { v.enter epc cause einfo with evs := evs } epc cause einfo :=
  ⟨⟨rfl, rfl, rfl⟩, rfl, fun b => v.enter_sstat epc cause einfo b, rfl, rfl, rfl, rfl, rfl⟩

/-- A service core issues its first ready thread after the last: into its handler where an event is due, or to its next instruction. -/
theorem issueSvc_spec (t : State) (u : IssueUnit) (core k : Nat) :
    let v := (t.setBusy u).issueSvc core k
    (∀ a rest, (t.svc k).evs = a :: rest → (t.svc k).due = true →
      Claim.Entered (t.svc k) (v.svc k) (t.svc k).thr.pcs (BitVec.ofNat 64 (2 ^ 26)) a ∧ (v.svc k).evs = rest) ∧
    ((t.svc k).due = false → (t.svc k).wait = none → v.cur = .svc k ∧ v.svcs = t.svcs ∧ v.groups = t.groups ∧ v.mem = t.mem) := by
  intro v
  refine ⟨fun a rest he hd => ?_, fun hd hw => ?_⟩
  · have hv : v.svc k = { (t.svc k).enter (t.svc k).thr.pcs (BitVec.ofNat 64 (2 ^ 26)) a with evs := rest } := by
      have h1 : v = State.enterEvent { t.setBusy u with ctl := { (t.setBusy u).ctl with svcTurn := Tab.put (t.setBusy u).ctl.svcTurn core (k % 8) } } k :=
        if_pos hd
      rw [h1]
      unfold State.enterEvent
      simp only [show State.svc { t.setBusy u with ctl := { (t.setBusy u).ctl with svcTurn := Tab.put (t.setBusy u).ctl.svcTurn core (k % 8) } } k = t.svc k from rfl,
        he, State.svc_setSvc]
    rw [hv]
    exact ⟨Svc.enter_entered _ _ _ _ _, rfl⟩
  · have h1 : v = { t.setBusy u with ctl := { (t.setBusy u).ctl with svcTurn := Tab.put (t.setBusy u).ctl.svcTurn core (k % 8) }, cur := .svc k } := by
      refine (if_neg (ne_true_of_eq_false hd)).trans (if_neg ?_)
      show ¬(t.svc k).wait.isSome = true
      rw [hw]
      exact Bool.false_ne_true
    rw [h1]
    exact ⟨rfl, rfl, rfl, rfl⟩

/-- Thread 0 starts a stopped thread (log entry 93). -/
theorem issue_starts {core : Nat} {w : Word} {s : State} (hc : core < 4) (hk : 8 * core + w.toNat % 8 ≠ 0) (hstop : (s.svc 0).stopped = false)
    (hhalt : (s.svc 0).halted = false) (hs : (s.svc (8 * core + w.toNat % 8)).stopped = true) :
    exec (.issue (.service core) (some w)) s = .next (s.takeFree.setSvc (8 * core + w.toNat % 8)
      { Svc.zero with stopped := false, thr := { Thread.zero with pcs := BitVec.ofNat 64 (Config.freeNat s.free) } }) := by
  have hlt : ¬ 32 ≤ 8 * core + w.toNat % 8 := by omega
  have h : s.startSvc (.service core) (some w) = some (s.takeFree.setSvc (8 * core + w.toNat % 8)
      { Svc.zero with stopped := false, thr := { Thread.zero with pcs := BitVec.ofNat 64 (Config.freeNat s.free) } }) := by
    unfold State.startSvc
    simp only [hstop, hhalt, hk, hlt, hs]
    rfl
  show execIssue _ _ s = _
  unfold execIssue
  rw [h]

theorem promotion_promotes {g : Nat} {s : State} (hg : (Tab.look s.groups g).isSome = true) (hr : s.groupReady g (s.group g) = true)
    (hp : (s.group g).sch.promoted = none) (hn : 256 ≤ (s.group g).sch.ready) : exec (.promotion g) s =
      .next (s.modGroup g fun y => { y with sch := { y.sch with promoted := some (s.die (dieOf (s.coreOf g))).cyc } }) := by
  refine if_pos ?_
  simp [hg, hr, hp, promoteCycles, hn]

/-- Settles O43: the choice by `State.choose_spec`, the end of a cycle by `State.tick_spec`, the waits by `State.endWait_spec`, a hard
error by `State.terminate_spec`. -/
theorem issueAndWaits : Obligations.IssueAndWaits := by
  unfold Obligations.IssueAndWaits
  refine ⟨fun core sch soft s => ?_, fun core sch soft s t hc hs ht hstop hedge => ?_, fun core s t hc ht hstop hedge => ⟨fun h => ?_, fun k hk => ?_⟩,
    fun core w s => ?_, fun g s hg hr hp hn => ?_⟩
  · refine ⟨fun h => issue_noCycle rfl h, fun hc hs hstop hedge hr hn => ?_, fun hc hs hstop hedge h => ?_, fun _ _ => s.tick_spec _⟩
    · rw [State.cycleOf_sched hc hs hstop hedge, if_pos ⟨hr, hn⟩]
    · rw [State.cycleOf_sched hc hs hstop hedge, if_neg]
      rintro ⟨hr, hn⟩
      exact h.elim hr hn
  · refine ⟨fun hr => issue_idle rfl ht (by simp [State.unitReady, hr]), fun hr => ?_⟩
    obtain ⟨g, hm, hb, he⟩ := sched_issues (soft := soft) hc hs ht hstop hedge hr
    refine ⟨g, hm, hb, _, he, ?_, ?_, ?_, ?_, ?_⟩
    · rintro rfl htr
      obtain ⟨hcur, hmem, hwait, hpcs⟩ := State.issueGroup_held (u := .sched core sch) htr
      exact ⟨hcur, hwait, hpcs, hmem⟩
    · rintro rfl htr hw
      exact State.issueGroup_runs htr hw
    · rintro w rfl htr hw
      exact State.issueGroup_resumes htr hw
    · rintro r rfl hn ho
      exact State.issueGroup_soft r hn ho
    · rintro r rfl hn ho
      exact State.issueGroup_hard r hn ho
  · refine issue_idle rfl ht ?_
    simp only [State.unitReady, List.any_eq_false.2 fun k hk => ne_true_of_eq_false (h k hk), Bool.and_false]
  · have hready : t.unitReady (.service core) = true := by
      have hany : (t.svcOrder core).any t.svcReady = true := List.any_eq_true.2 ⟨k, List.mem_of_find?_eq_some hk, List.find?_some hk⟩
      simp [State.unitReady, hc, hany]
    refine ⟨_, ?_, issueSvc_spec t (.service core) core k⟩
    rw [issue_cycle rfl ht hstop hedge hready, State.issueNow, hk]
  · intro k hc hk hstop hhalt hs
    refine ⟨_, issue_starts hc hk hstop hhalt hs, ?_⟩
    rw [State.svc_setSvc]
    exact ⟨rfl, (by decide : Svc.zero.sstat.getLsbD 4 = true), rfl, fun j hj => State.svc_setSvc_ne _ _ hj, rfl, rfl⟩
  · refine ⟨_, promotion_promotes hg hr hp hn, ?_, rfl, fun h hh => State.group_modGroup_ne _ _ hh⟩
    rw [State.group_modGroup]

end Sys2Proof.Machine
end


section
/-! SUPPORT. What a function table reads as depends on the tables of address spaces, the memory, the links, and the launch's
record (R256, R352-R356). -/

namespace Sys2Proof.Machine

/-! ### Reads of a launch's tables -/

/-- Two states in which every translation and every byte is the same. -/
structure State.SameMaps (s u : State) : Prop where
  mem : u.mem = s.mem
  bad : u.bad = s.bad
  links : u.links = s.links
  decoders : u.decoders = s.decoders
  hearth : u.hearth = s.hearth
  asids : u.asids = s.asids

theorem State.SameMaps.refl (s : State) : State.SameMaps s s := ⟨rfl, rfl, rfl, rfl, rfl, rfl⟩

theorem State.SameMaps.trans {s u v : State} (h : State.SameMaps s u) (k : State.SameMaps u v) : State.SameMaps s v :=
  ⟨k.mem.trans h.mem, k.bad.trans h.bad, k.links.trans h.links, k.decoders.trans h.decoders, k.hearth.trans h.hearth,
    k.asids.trans h.asids⟩

section
variable {s u : State} (h : State.SameMaps s u)
include h

theorem State.SameMaps.rdBytes (pa n : Nat) : u.rdBytes pa n = s.rdBytes pa n := by
  induction n generalizing pa with
  | zero => rfl
  | succ n ih => rw [State.rdBytes, State.rdBytes, ih, State.rdByte, State.rdByte, h.mem]

theorem State.SameMaps.isBad (pa n : Nat) : u.isBad pa n = s.isBad pa n := by
  simp only [State.isBad, State.cutOff, State.behind, State.link, h.bad, h.links]

theorem State.SameMaps.portCovers (p port lo hi fuel : Nat) : u.portCovers p port lo hi fuel = s.portCovers p port lo hi fuel := by
  induction fuel generalizing lo with
  | zero => rfl
  | succ fuel ih => simp only [State.portCovers, ih, h.decoders]

theorem State.SameMaps.malformed (p level : Nat) (e : DWord) : u.malformed p level e = s.malformed p level e := by
  simp only [State.malformed, State.ownsPa, State.hearthCovers, State.poolCovers, h.portCovers, h.hearth, h.decoders]

theorem State.SameMaps.walkFrom (p va table level : Nat) : u.walkFrom p va table level = s.walkFrom p va table level := by
  induction level generalizing table with
  | zero => rfl
  | succ level ih =>
    have hr : u.rdLe = s.rdLe := funext fun a => funext fun n => by rw [State.rdLe, State.rdLe, h.rdBytes]
    have hm : u.malformed = s.malformed := funext fun p => funext fun k => funext fun e => h.malformed p k e
    have hb : u.isBad = s.isBad := funext fun a => funext fun n => h.isBad a n
    rw [State.walkFrom, State.walkFrom]
    rw [hr, hm, hb, ih]

theorem State.SameMaps.tableBytes (asid : Nat) (va : DWord) (n : Nat) : u.tableBytes asid va n = s.tableBytes asid va n := by
  have ht : u.translate = s.translate := funext fun a => funext fun va => funext fun acc => by
    rw [State.translate, State.translate, State.walk, State.walk, State.asidEntry, State.asidEntry, h.asids]
    rw [h.walkFrom]
  rw [State.tableBytes, State.tableBytes, ht]
  simp only [h.isBad, h.rdBytes]

end

/-! ### Launches -/

/-- Two states whose launches have the same records and contexts, and whose teams are of the same launches. -/
structure State.SameLaunches (s u : State) : Prop where
  lr : ∀ l, (u.launch l).lr = (s.launch l).lr
  ctx : ∀ l, (u.launch l).ctx = (s.launch l).ctx
  team : ∀ t, (u.team t).launch = (s.team t).launch
  asid : ∀ c, (u.ctx c).asid = (s.ctx c).asid

theorem State.SameLaunches.refl (s : State) : State.SameLaunches s s := ⟨fun _ => rfl, fun _ => rfl, fun _ => rfl, fun _ => rfl⟩

theorem State.SameLaunches.trans {s u v : State} (h : State.SameLaunches s u) (k : State.SameLaunches u v) : State.SameLaunches s v :=
  ⟨fun l => (k.lr l).trans (h.lr l), fun l => (k.ctx l).trans (h.ctx l), fun t => (k.team t).trans (h.team t),
    fun c => (k.asid c).trans (h.asid c)⟩

/-- A function's entry reads the same where translations, bytes and launches are the same. -/
theorem State.function_congr {s u : State} (h : State.SameMaps s u) (k : State.SameLaunches s u) (l f : Nat) :
    u.function l f = s.function l f := by
  simp only [State.function, k.lr, k.ctx, k.asid, h.tableBytes]

theorem State.modTeam_sameLaunches (s : State) (t : Nat) {f : Team → Team} (hf : (f (s.team t)).launch = (s.team t).launch) :
    State.SameLaunches s (s.modTeam t f) := by
  refine ⟨fun _ => rfl, fun _ => rfl, fun k => ?_, fun _ => rfl⟩
  by_cases hk : k = t
  · rw [hk, State.team_modTeam, hf]
  · rw [State.team_modTeam_ne _ _ hk]

theorem State.modLaunch_sameLaunches (s : State) (l : Nat) {f : Launch → Launch} (hr : (f (s.launch l)).lr = (s.launch l).lr)
    (hc : (f (s.launch l)).ctx = (s.launch l).ctx) : State.SameLaunches s (s.modLaunch l f) := by
  refine ⟨fun k => ?_, fun k => ?_, fun _ => rfl, fun _ => rfl⟩
  · by_cases hk : k = l
    · rw [hk, State.launch_modLaunch, hr]
    · rw [State.launch_modLaunch_ne _ _ hk]
  · by_cases hk : k = l
    · rw [hk, State.launch_modLaunch, hc]
    · rw [State.launch_modLaunch_ne _ _ hk]

/-- A count of a profile is no matter of a context's space. -/
theorem State.bump_sameLaunches (s : State) (c e : Nat) : State.SameLaunches s (s.bump c e) := by
  unfold State.bump State.bumpBy
  split
  · exact .refl s
  · refine ⟨fun _ => rfl, fun _ => rfl, fun _ => rfl, fun k => ?_⟩
    by_cases hk : k = c
    · rw [hk, State.ctx_setCtx]
    · rw [State.ctx_setCtx_ne _ _ hk]

/-! ### A commit keeps each group's record -/

/-- Two states in which every group's launch has the same record. -/
structure State.SameRecs (s u : State) : Prop where
  launches : State.SameLaunches s u
  team : ∀ g, (u.group g).team = (s.group g).team

theorem State.SameRecs.refl (s : State) : State.SameRecs s s := ⟨.refl s, fun _ => rfl⟩

theorem State.SameRecs.trans {s u v : State} (h : State.SameRecs s u) (k : State.SameRecs u v) : State.SameRecs s v :=
  ⟨h.launches.trans k.launches, fun g => (k.team g).trans (h.team g)⟩

theorem State.SameRecs.recOf {s u : State} (h : State.SameRecs s u) (g : Nat) : u.recOf g = s.recOf g := by
  rw [State.recOf, State.recOf, State.launchOf, State.launchOf, h.team, h.launches.team, h.launches.lr]

theorem State.SameRecs.foldl {α : Type} {f : State → α → State} (hf : ∀ s a, State.SameRecs s (f s a)) (l : List α) (s : State) :
    State.SameRecs s (l.foldl f s) := by
  induction l generalizing s with
  | nil => exact .refl s
  | cons a l ih => exact (hf s a).trans (ih _)

theorem State.modTeam_sameRecs (s : State) (t : Nat) {f : Team → Team} (hf : (f (s.team t)).launch = (s.team t).launch) :
    State.SameRecs s (s.modTeam t f) := ⟨s.modTeam_sameLaunches t hf, fun _ => rfl⟩

theorem State.modGroup_sameRecs (s : State) (g : Nat) {f : Group → Group} (hf : (f (s.group g)).team = (s.group g).team) :
    State.SameRecs s (s.modGroup g f) := by
  refine ⟨⟨fun _ => rfl, fun _ => rfl, fun _ => rfl, fun _ => rfl⟩, fun k => ?_⟩
  by_cases hk : k = g
  · rw [hk, State.group_modGroup, hf]
  · rw [State.group_modGroup_ne _ _ hk]

theorem State.modCore_sameRecs (s : State) (k : Nat) (f : Core → Core) : State.SameRecs s (s.modCore k f) :=
  ⟨⟨fun _ => rfl, fun _ => rfl, fun _ => rfl, fun _ => rfl⟩, fun _ => rfl⟩

theorem State.hashHeld_sameRecs (s : State) (g : Nat) (hs : List Held) : State.SameRecs s (s.hashHeld g hs) := by
  unfold State.hashHeld
  dsimp only
  split
  · exact .refl s
  · exact ⟨s.modLaunch_sameLaunches _ rfl rfl, fun _ => rfl⟩

theorem State.commitReplays_sameRecs (s : State) (g : Nat) (hs : List Held) : State.SameRecs s (s.commitReplays g hs) :=
  ⟨⟨fun _ => rfl, fun _ => rfl, fun _ => rfl, fun _ => rfl⟩, fun _ => rfl⟩

theorem State.releaseRec_sameRecs (s : State) (t : Nat) (ws : List (Nat × SwLane)) : State.SameRecs s (s.releaseRec t ws) := by
  refine State.SameRecs.foldl (fun u w => ?_) ws s
  dsimp only
  split
  · exact u.modTeam_sameRecs t rfl
  · exact .refl u

theorem State.decRec_sameRecs (s : State) (t r : Nat) : State.SameRecs s (s.decRec t r) := by
  unfold State.decRec
  split
  · exact .refl s
  · split
    · exact (s.modTeam_sameRecs t rfl).trans (State.releaseRec_sameRecs _ _ _)
    · exact s.modTeam_sameRecs t rfl

theorem State.dropStack_sameRecs (s : State) (t : Nat) (l : Lane) : State.SameRecs s (s.dropStack t l) := by
  unfold State.dropStack
  refine (State.SameRecs.foldl (fun u e => ?_) l.stack s).trans (State.SameRecs.foldl (fun u e => u.decRec_sameRecs t e.2) l.owed _)
  obtain ⟨_, _ | k⟩ := e
  · exact .refl u
  · exact u.decRec_sameRecs t k

theorem Group.leak_team (x : Group) : x.leak.team = x.team := by
  unfold Group.leak
  split <;> rfl

theorem Group.leakIf_team (c : Bool) (x : Group) : (if c then x.leak else x).team = x.team := by
  cases c
  · rfl
  · exact x.leak_team

theorem State.endLanes_sameRecs (s : State) (g : Nat) (m : Word) : State.SameRecs s (s.endLanes g m) := by
  refine State.SameRecs.foldl (fun u k => ?_) (lanesOf m) s
  refine State.SameRecs.trans (u.modGroup_sameRecs g ?_) (State.dropStack_sameRecs _ _ _)
  exact Group.leakIf_team _ _

/-- What a window's write and a monitor's change leave of a group is enough. -/
theorem State.sameRecs_of_groups {s u : State} (ht : u.teams = s.teams) (hl : u.launches = s.launches) (hc : u.ctxs = s.ctxs)
    (hg : ∀ g, (u.group g).team = (s.group g).team) : State.SameRecs s u :=
  ⟨⟨fun _ => by rw [State.launch, hl]; rfl, fun _ => by rw [State.launch, hl]; rfl, fun _ => by rw [State.team, ht]; rfl,
    fun _ => by rw [State.ctx, hc]; rfl⟩, hg⟩

theorem State.fireMonitors_sameRecs (s : State) (t : Option Nat) (a n : Nat) : State.SameRecs s (s.fireMonitors t a n) :=
  State.sameRecs_of_groups rfl rfl rfl fun g => by obtain ⟨_, h⟩ := s.fireMonitors_group t a n g; rw [h]

theorem State.passUndo_sameRecs (s : State) (t off : Nat) (bs : List Byte) : State.SameRecs s (s.passUndo t off bs) := by
  unfold State.passUndo
  split
  · refine State.sameRecs_of_groups rfl rfl rfl fun g => ?_
    refine Tab.get_map (R := fun x y : Group => y.team = x.team) (by rfl) (fun _ => by rfl) rfl (fun e => ?_) g
    dsimp only
    split <;> rfl
  · exact .refl s

theorem State.wrSpad_sameRecs (s : State) (t off : Nat) (bs : List Byte) : State.SameRecs s (s.wrSpad t off bs) := by
  rw [State.wrSpad, State.putSpad]
  refine State.SameRecs.trans ?_ (State.fireMonitors_sameRecs _ _ _ _)
  exact (s.passUndo_sameRecs t off bs).trans (State.modTeam_sameRecs _ t rfl)

theorem State.landPushes_sameRecs (s : State) (t q : Nat) (ps : List (Nat × Word × Bool)) : State.SameRecs s (s.landPushes t q ps) := by
  induction ps generalizing s with
  | nil => exact .refl s
  | cons p ps ih =>
    obtain ⟨_, v, _ | _⟩ := p
    · exact .refl s
    · exact (s.wrSpad_sameRecs t _ _).trans ((State.modTeam_sameRecs _ t rfl).trans (ih _))

theorem State.release_sameRecs (s : State) (g : Nat) (h : Held) : State.SameRecs s (s.release g h) := by
  unfold State.release
  split
  · exact (s.modTeam_sameRecs _ rfl).trans (State.landPushes_sameRecs _ _ _ _)
  · exact s.fireMonitors_sameRecs _ _ _
  · exact .refl s

theorem State.freeAtOnce_sameRecs (s : State) (g : Nat) : State.SameRecs s (s.freeAtOnce g) := by
  unfold State.freeAtOnce
  dsimp only
  split
  · exact .refl s
  · exact (s.modGroup_sameRecs g rfl).trans (State.SameRecs.foldl (fun u h => u.release_sameRecs g h) _ _)

theorem State.configure_sameRecs (s : State) (g : Nat) (qs : List (Nat × Nat × Nat)) : State.SameRecs s (s.configure g qs) := by
  induction qs generalizing s with
  | nil => exact .refl s
  | cons q qs ih =>
    rw [State.configure]
    refine State.SameRecs.trans ?_ (ih _)
    split
    · exact s.modGroup_sameRecs g rfl
    · exact s.modTeam_sameRecs _ rfl

theorem State.releaseBlocks_sameRecs (s : State) (g b : Nat) : State.SameRecs s (s.releaseBlocks g b) := by
  unfold State.releaseBlocks
  dsimp only
  have hcore : State.SameRecs s (if (s.team (s.group g).team).onCore then s.modCore (s.coreOf g) fun c =>
      { c with used := c.used - ((s.group g).blocks - b - (s.quarOf g b).length), quar := c.quar ++ s.quarOf g b } else s) := by
    split
    · exact s.modCore_sameRecs _ _
    · exact .refl s
  refine State.SameRecs.trans ?_ (State.modGroup_sameRecs _ g rfl)
  exact hcore.trans (State.sameRecs_of_groups rfl rfl rfl fun _ => rfl)

theorem State.commit_sameRecs (s : State) (g : Nat) : State.SameRecs s (s.commit g) := by
  unfold State.commit
  dsimp only
  split
  · exact .refl s
  · refine State.SameRecs.trans ?_ ⟨State.bump_sameLaunches _ _ _, fun h => by rw [State.bump_group]⟩
    have hshrink (u : State) (r : Option Nat) : State.SameRecs u (match r with | some b => u.releaseBlocks g b | none => u) := by
      cases r with
      | none => exact .refl u
      | some b => exact u.releaseBlocks_sameRecs g b
    refine State.SameRecs.trans ?_ (hshrink _ _)
    refine State.SameRecs.trans ?_ (State.modCore_sameRecs _ _ _)
    refine State.SameRecs.trans ?_ (State.modTeam_sameRecs _ _ rfl)
    refine State.SameRecs.trans ?_ (State.configure_sameRecs _ _ _)
    refine State.SameRecs.trans ?_ (State.freeAtOnce_sameRecs _ _)
    refine State.SameRecs.trans ?_ (State.SameRecs.foldl (fun u p => u.modTeam_sameRecs _ rfl) _ _)
    refine State.SameRecs.trans ?_ (State.modTeam_sameRecs _ _ rfl)
    refine State.SameRecs.trans ?_ (State.modGroup_sameRecs _ _ rfl)
    refine State.SameRecs.trans ?_ (State.modGroup_sameRecs _ _ rfl)
    exact (s.hashHeld_sameRecs g _).trans ((State.commitReplays_sameRecs _ _ _).trans (State.endLanes_sameRecs _ _ _))

end Sys2Proof.Machine
end


section
/-! SUPPORT. Swage: lanes enter bins and stay there, and a group that leaves keeps what its team holds (R24, R260-R262). -/

namespace Sys2Proof.Machine

/-! ### What a leaving group keeps -/

/-- Two states whose translations and launches are the same, and so are their teams' bins and call records. -/
structure State.SameSwage (s u : State) : Prop where
  maps : State.SameMaps s u
  launches : State.SameLaunches s u
  bins : ∀ t, (u.team t).bins = (s.team t).bins
  recs : ∀ t, (u.team t).recs = (s.team t).recs

theorem State.SameSwage.refl (s : State) : State.SameSwage s s := ⟨.refl s, .refl s, fun _ => rfl, fun _ => rfl⟩

theorem State.SameSwage.trans {s u v : State} (h : State.SameSwage s u) (k : State.SameSwage u v) : State.SameSwage s v :=
  ⟨h.maps.trans k.maps, h.launches.trans k.launches, fun t => (k.bins t).trans (h.bins t), fun t => (k.recs t).trans (h.recs t)⟩

theorem State.SameSwage.foldl {α : Type} {f : State → α → State} (hf : ∀ s a, State.SameSwage s (f s a)) (l : List α) (s : State) :
    State.SameSwage s (l.foldl f s) := by
  induction l generalizing s with
  | nil => exact .refl s
  | cons a l ih => exact (hf s a).trans (ih _)

/-- A change to none of launches, teams and contexts. -/
theorem State.sameSwage_of_maps {s u : State} (h : State.SameMaps s u) (ht : u.teams = s.teams) (hl : u.launches = s.launches)
    (hc : u.ctxs = s.ctxs) : State.SameSwage s u :=
  ⟨h, ⟨fun _ => by rw [State.launch, hl]; rfl, fun _ => by rw [State.launch, hl]; rfl, fun _ => by rw [State.team, ht]; rfl,
    fun _ => by rw [State.ctx, hc]; rfl⟩, fun _ => by rw [State.team, ht]; rfl, fun _ => by rw [State.team, ht]; rfl⟩

theorem State.modTeam_sameSwage (s : State) (t : Nat) {f : Team → Team} (hl : (f (s.team t)).launch = (s.team t).launch)
    (hb : (f (s.team t)).bins = (s.team t).bins) (hr : (f (s.team t)).recs = (s.team t).recs) : State.SameSwage s (s.modTeam t f) := by
  refine ⟨⟨rfl, rfl, rfl, rfl, rfl, rfl⟩, s.modTeam_sameLaunches t hl, fun k => ?_, fun k => ?_⟩
  · by_cases hk : k = t
    · rw [hk, State.team_modTeam, hb]
    · rw [State.team_modTeam_ne _ _ hk]
  · by_cases hk : k = t
    · rw [hk, State.team_modTeam, hr]
    · rw [State.team_modTeam_ne _ _ hk]

theorem State.setGroup_sameSwage (s : State) (g : Nat) (x : Group) : State.SameSwage s (s.setGroup g x) :=
  State.sameSwage_of_maps ⟨rfl, rfl, rfl, rfl, rfl, rfl⟩ rfl rfl rfl

theorem State.modGroup_sameSwage (s : State) (g : Nat) (f : Group → Group) : State.SameSwage s (s.modGroup g f) :=
  s.setGroup_sameSwage g _

theorem State.modCore_sameSwage (s : State) (k : Nat) (f : Core → Core) : State.SameSwage s (s.modCore k f) :=
  State.sameSwage_of_maps ⟨rfl, rfl, rfl, rfl, rfl, rfl⟩ rfl rfl rfl

theorem State.releaseBlocks_sameSwage (s : State) (g b : Nat) : State.SameSwage s (s.releaseBlocks g b) := by
  unfold State.releaseBlocks
  dsimp only
  have hcore : State.SameSwage s (if (s.team (s.group g).team).onCore then s.modCore (s.coreOf g) fun c =>
      { c with used := c.used - ((s.group g).blocks - b - (s.quarOf g b).length), quar := c.quar ++ s.quarOf g b } else s) := by
    split
    · exact s.modCore_sameSwage _ _
    · exact .refl s
  refine State.SameSwage.trans ?_ (State.modGroup_sameSwage _ g _)
  exact hcore.trans (State.sameSwage_of_maps ⟨rfl, rfl, rfl, rfl, rfl, rfl⟩ rfl rfl rfl)

/-- A phase of a team's barrier is no matter of its bins. -/
theorem Team.settle_eq (t : Team) (det : Bool) (k : Nat) : ∃ b, t.settle det k = { t with bars := b } := by
  unfold Team.settle
  dsimp only
  split
  · exact ⟨_, rfl⟩
  · exact ⟨_, rfl⟩

theorem State.settleBar_sameSwage (s : State) (t k : Nat) : State.SameSwage s (s.settleBar t k) := by
  unfold State.settleBar
  split
  · obtain ⟨b, hb⟩ := (s.team t).settle_eq (s.launch (s.team t).launch).lr.det k
    exact s.modTeam_sameSwage t (by rw [hb]) (by rw [hb]) (by rw [hb])
  · unfold State.settleTeamX
    dsimp only
    split
    · have sent (v : State) (as : List BarMsg) : State.SameSwage v { v with arrivals := as } :=
        State.sameSwage_of_maps ⟨rfl, rfl, rfl, rfl, rfl, rfl⟩ rfl rfl rfl
      exact State.SameSwage.trans (s.modTeam_sameSwage t rfl rfl rfl) (sent _ _)
    · exact .refl s

theorem State.withdraw_sameSwage (s : State) (g : Nat) : State.SameSwage s (s.withdraw g) := by
  unfold State.withdraw
  exact State.SameSwage.trans (s.modTeam_sameSwage _ rfl rfl rfl) (State.SameSwage.foldl (fun u k => u.settleBar_sameSwage _ k) _ _)

theorem State.rekey_sameSwage (s : State) (g k : Nat) : State.SameSwage s (s.rekey g k) := by
  have hl (l : Nat) : ((s.rekey g k).launch l).lr = (s.launch l).lr ∧ ((s.rekey g k).launch l).ctx = (s.launch l).ctx := by
    refine Tab.get_map (R := fun x y : Launch => y.lr = x.lr ∧ y.ctx = x.ctx) (by rfl) (fun _ => by rfl) ⟨rfl, rfl⟩ (fun e => ?_) l
    dsimp only
    split <;> exact ⟨rfl, rfl⟩
  have ht (t : Nat) : ((s.rekey g k).team t).launch = (s.team t).launch ∧ ((s.rekey g k).team t).bins = (s.team t).bins ∧
      ((s.rekey g k).team t).recs = (s.team t).recs := by
    refine Tab.get_map (R := fun x y : Team => y.launch = x.launch ∧ y.bins = x.bins ∧ y.recs = x.recs) (by rfl) (fun _ => by rfl)
      ⟨rfl, rfl, rfl⟩ (fun e => ?_) t
    exact ⟨rfl, rfl, rfl⟩
  exact ⟨⟨rfl, rfl, rfl, rfl, rfl, rfl⟩, ⟨fun l => (hl l).1, fun l => (hl l).2, fun t => (ht t).1, fun _ => rfl⟩,
    fun t => (ht t).2.1, fun t => (ht t).2.2⟩

/-- A group that leaves takes nothing from its team's bins and call records (R262). -/
theorem State.removeGroup_sameSwage (s : State) (g : Nat) : State.SameSwage s (s.removeGroup g) := by
  have hw : State.SameSwage s (((s.freeHeld g).releaseBlocks g 0).withdraw g) :=
    (s.modCore_sameSwage _ _).trans ((State.releaseBlocks_sameSwage _ _ _).trans (State.withdraw_sameSwage _ _))
  unfold State.removeGroup
  dsimp only
  generalize ((s.freeHeld g).releaseBlocks g 0).withdraw g = v at hw
  have same (v : State) (rs : Tab Replay) (gs : Tab Group) : State.SameSwage v { v with replays := rs, groups := gs } :=
    State.sameSwage_of_maps ⟨rfl, rfl, rfl, rfl, rfl, rfl⟩ rfl rfl rfl
  split
  · exact .trans (.trans (hw.trans (same v _ _)) (State.rekey_sameSwage _ g _)) (State.setGroup_sameSwage _ _ _)
  · exact hw.trans (same v _ _)

theorem State.leave_sameSwage (s : State) (g : Nat) : State.SameSwage s (s.leave g) :=
  (s.modGroup_sameSwage g _).trans (State.removeGroup_sameSwage _ g)

/-- Nor does a call's pop of the queues that it has read. -/
theorem State.popFinal_sameSwage (s : State) (g : Nat) (m : Word) (us : List Use) : State.SameSwage s (s.popFinal g m us) := by
  obtain ⟨⟨ts, hts⟩, hq⟩ := s.popAll_sameButQueues g m us
  have hp : State.SameSwage s (s.popAll g m us) := by
    refine ⟨?_, ⟨fun _ => ?_, fun _ => ?_, fun t => ?_, fun _ => ?_⟩, fun t => ?_, fun t => ?_⟩
    · rw [hts]; exact ⟨rfl, rfl, rfl, rfl, rfl, rfl⟩
    · rw [hts]; rfl
    · rw [hts]; rfl
    · obtain ⟨_, h⟩ := hq t; rw [h]
    · rw [hts]; rfl
    · obtain ⟨_, h⟩ := hq t; rw [h]
    · obtain ⟨_, h⟩ := hq t; rw [h]
  exact hp.trans (State.modTeam_sameSwage _ _ rfl rfl rfl)

/-! ### Bins that fill -/

/-- A lane stands in a bin of a team. -/
def Team.Holds (t : Team) (k : Nat) (q : SwLane) : Prop := ∃ n, Tab.look t.bins k = some n ∧ q ∈ n.lanes

theorem mem_insSwLane {x y : SwLane} {l : List SwLane} : y ∈ insSwLane x l ↔ y = x ∨ y ∈ l := by
  induction l with
  | nil => simp [insSwLane]
  | cons z l ih =>
    rw [insSwLane]
    split
    · exact List.mem_cons
    · rw [List.mem_cons, List.mem_cons, ih]; exact or_left_comm

theorem Bin.expire_lanes (b : Bin) (now : Nat) : (b.expire now).lanes = b.lanes := by
  unfold Bin.expire
  split <;> rfl

theorem Team.enter_holds_self (t : Team) (now : Nat) (e : DWord) (b : Nat) (a : DWord) (x : SwLane) :
    (t.enter now e b a x).Holds (binKey e b a) x :=
  ⟨_, Tab.look_put_self _ _ _, mem_insSwLane.2 (.inl rfl)⟩

/-- A lane that stands in a bin stays there when another enters. -/
theorem Team.enter_holds {t : Team} {k : Nat} {q : SwLane} (h : t.Holds k q) (now : Nat) (e : DWord) (b : Nat) (a : DWord) (x : SwLane) :
    (t.enter now e b a x).Holds k q := by
  obtain ⟨n, hn, hq⟩ := h
  by_cases hk : k = binKey e b a
  · subst hk
    refine ⟨_, Tab.look_put_self _ _ _, mem_insSwLane.2 (.inr ?_)⟩
    rw [hn, Bin.expire_lanes]
    exact hq
  · exact ⟨n, (Tab.look_put_ne _ _ hk).trans hn, hq⟩

/-- From `s` to `u` lanes have entered bins of team `t` and none has left one; functions, launches and groups are the same. -/
structure State.Fills (t : Nat) (s u : State) : Prop where
  maps : State.SameMaps s u
  launches : State.SameLaunches s u
  groups : u.groups = s.groups
  holds : ∀ k q, (s.team t).Holds k q → (u.team t).Holds k q

theorem State.Fills.refl (t : Nat) (s : State) : State.Fills t s s := ⟨.refl s, .refl s, rfl, fun _ _ => id⟩

theorem State.Fills.trans {t : Nat} {s u v : State} (h : State.Fills t s u) (k : State.Fills t u v) : State.Fills t s v :=
  ⟨h.maps.trans k.maps, h.launches.trans k.launches, k.groups.trans h.groups, fun n q hq => k.holds n q (h.holds n q hq)⟩

theorem State.Fills.foldl {α : Type} {t : Nat} {f : State → α → State} (hf : ∀ s a, State.Fills t s (f s a)) (l : List α) (s : State) :
    State.Fills t s (l.foldl f s) := by
  induction l generalizing s with
  | nil => exact .refl t s
  | cons a l ih => exact (hf s a).trans (ih _)

/-- Of a run of steps that fill bins, what one of them has put there stays. -/
theorem State.Fills.foldl_holds {α : Type} {t : Nat} {f : State → α → State} (hf : ∀ s a, State.Fills t s (f s a)) {l : List α} {s : State}
    {a : α} (ha : a ∈ l) {k : Nat} {q : SwLane} (hq : ∀ u, State.Fills t s u → ((f u a).team t).Holds k q) :
    ((l.foldl f s).team t).Holds k q := by
  induction l generalizing s with
  | nil => cases ha
  | cons b l ih =>
    rcases List.mem_cons.1 ha with rfl | ha
    · exact (State.Fills.foldl hf l _).holds k q (hq s (.refl t s))
    · exact ih ha fun u hu => hq u ((hf s b).trans hu)

theorem State.modTeam_fills (s : State) (t : Nat) {f : Team → Team} (hl : (f (s.team t)).launch = (s.team t).launch)
    (hb : ∀ k q, (s.team t).Holds k q → (f (s.team t)).Holds k q) : State.Fills t s (s.modTeam t f) :=
  ⟨⟨rfl, rfl, rfl, rfl, rfl, rfl⟩, s.modTeam_sameLaunches t hl, rfl, fun k q h => by rw [State.team_modTeam]; exact hb k q h⟩

theorem State.enterFn_fills (s : State) (t f : Nat) (y : SwLane) : State.Fills t s (s.enterFn t f y) := by
  unfold State.enterFn
  split
  · exact s.modTeam_fills t rfl fun k q h => Team.enter_holds h _ _ _ _ _
  · exact .refl t s

theorem State.enterFn_recs (s : State) (t f : Nat) (y : SwLane) : ((s.enterFn t f y).team t).recs = (s.team t).recs := by
  unfold State.enterFn
  split
  · rw [State.team_modTeam]; rfl
  · rfl

/-- A lane that enters a function stands in its bin. -/
theorem State.enterFn_holds {s : State} {t f b : Nat} {e a : DWord} (h : s.function (s.team t).launch f = some (e, b, a)) (y : SwLane) :
    ((s.enterFn t f y).team t).Holds (binKey e b a) y := by
  unfold State.enterFn
  rw [h]
  dsimp only
  rw [State.team_modTeam]
  exact Team.enter_holds_self _ _ _ _ _ _

theorem State.releaseRec_fills (s : State) (t : Nat) (ws : List (Nat × SwLane)) : State.Fills t s (s.releaseRec t ws) := by
  refine State.Fills.foldl (fun u w => ?_) ws s
  dsimp only
  split
  · exact u.modTeam_fills t rfl fun k q h => Team.enter_holds h _ _ _ _ _
  · exact .refl t u

theorem State.decRec_fills (s : State) (t r : Nat) : State.Fills t s (s.decRec t r) := by
  unfold State.decRec
  split
  · exact .refl t s
  · split
    · exact (s.modTeam_fills t rfl fun _ _ => id).trans (State.releaseRec_fills _ _ _)
    · exact s.modTeam_fills t rfl fun _ _ => id

end Sys2Proof.Machine
end


section
/-! SUPPORT. Calls and returns: what VCALL and VRET do after their commit, outcome by outcome (R256-R262). -/

namespace Sys2Proof.Machine

/-! ### Masks of lanes -/

theorem getLsbD_bit {k l : Nat} (hl : l < 32) : (BitVec.ofNat 32 (2 ^ k)).getLsbD l = decide (k = l) := by
  rw [BitVec.getLsbD_ofNat, Nat.testBit_two_pow]
  simp [hl]

theorem getLsbD_foldl_bits (p : Nat → Bool) (ls : List Nat) (w : Word) {l : Nat} (hl : l < 32) :
    (ls.foldl (fun w k => if p k then w ||| BitVec.ofNat 32 (2 ^ k) else w) w).getLsbD l =
      (w.getLsbD l || (decide (l ∈ ls) && p l)) := by
  induction ls generalizing w with
  | nil => simp
  | cons k ls ih =>
    have hstep : (if p k then w ||| BitVec.ofNat 32 (2 ^ k) else w).getLsbD l = (w.getLsbD l || (decide (k = l) && p k)) := by
      cases p k
      · simp
      · rw [if_pos rfl, BitVec.getLsbD_or, getLsbD_bit hl, Bool.and_true]
    rw [List.foldl_cons, ih, hstep]
    by_cases hk : k = l
    · subst hk
      cases p k <;> simp
    · simp [hk, Ne.symm hk]

/-- The lanes of a mask that satisfy a test. -/
theorem getLsbD_maskWhere (m : Word) (p : Nat → Bool) {l : Nat} (hl : l < 32) :
    (maskWhere m p).getLsbD l = (m.getLsbD l && p l) := by
  rw [maskWhere, getLsbD_foldl_bits p _ _ hl]
  simp [mem_lanesOf, hl]

theorem word_ne_zero_iff (w : Word) : w ≠ 0 ↔ ∃ l, l < 32 ∧ w.getLsbD l = true := by
  constructor
  · intro h
    by_contra hn
    refine h (BitVec.eq_of_getLsbD_eq fun l hl => ?_)
    have : ¬ w.getLsbD l = true := fun hw => hn ⟨l, hl, hw⟩
    simpa using this
  · rintro ⟨l, -, h⟩ rfl
    simp at h

theorem maskWhere_ne_zero_iff (m : Word) (p : Nat → Bool) : maskWhere m p ≠ 0 ↔ ∃ l, l < 32 ∧ m.getLsbD l = true ∧ p l = true := by
  rw [word_ne_zero_iff]
  refine exists_congr fun l => and_congr_right fun hl => ?_
  rw [getLsbD_maskWhere m p hl, Bool.and_eq_true]

/-! ### The group that dissolves -/

/-- What one lane of a dissolving group does: it enters its function, and a lane that returns reduces the records it owes. -/
def State.callLane (t : Nat) (x : Group) (regs : List Nat) (push : Bool) (tgt cont key : Nat → Nat) (r : Option Nat) (s : State) (k : Nat) : State :=
  let y := x.carry regs (key k) k
  if push then s.enterFn t (tgt k) { y with lane := { y.lane with stack := (cont k, r) :: y.lane.stack } }
  else
    let s := s.enterFn t (tgt k) { y with lane := y.lane.ret r }
    let s := match y.lane.stack.head? with | some (_, some q) => s.decRec t q | _ => s
    (dueOwed y.lane.stack.length y.lane.owed).foldl (fun s q => s.decRec t q) s

/-- What a lane carries into the function it enters. -/
def Group.callLane (x : Group) (regs : List Nat) (push : Bool) (cont key : Nat → Nat) (r : Option Nat) (k : Nat) : SwLane :=
  let y := x.carry regs (key k) k
  if push then { y with lane := { y.lane with stack := (cont k, r) :: y.lane.stack } } else { y with lane := y.lane.ret r }

section
variable (t : Nat) (x : Group) (regs : List Nat) (tgt cont key : Nat → Nat) (r : Option Nat)

theorem State.callLane_after_enter (push : Bool) (s : State) (k : Nat) :
    State.Fills t (s.enterFn t (tgt k) (x.callLane regs push cont key r k)) (s.callLane t x regs push tgt cont key r k) := by
  cases push
  case true => exact .refl t _
  case false =>
    have top (u : State) (o : Option (Nat × Option Nat)) : State.Fills t u (match o with | some (_, some q) => u.decRec t q | _ => u) := by
      obtain _ | ⟨_, _ | q⟩ := o
      · exact .refl t u
      · exact .refl t u
      · exact u.decRec_fills t q
    exact State.Fills.trans (top _ _) (State.Fills.foldl (fun u q => u.decRec_fills t q) _ _)

theorem State.callLane_fills (push : Bool) (s : State) (k : Nat) : State.Fills t s (s.callLane t x regs push tgt cont key r k) :=
  (s.enterFn_fills t _ _).trans (s.callLane_after_enter t x regs tgt cont key r push k)

/-- A call reduces no record. -/
theorem State.callLane_recs (s : State) (k : Nat) : ((s.callLane t x regs true tgt cont key r k).team t).recs = (s.team t).recs :=
  s.enterFn_recs t _ _

theorem State.callLane_holds (push : Bool) {s : State} {k b : Nat} {e a : DWord} (h : s.function (s.team t).launch (tgt k) = some (e, b, a)) :
    ((s.callLane t x regs push tgt cont key r k).team t).Holds (binKey e b a) (x.callLane regs push cont key r k) :=
  (s.callLane_after_enter t x regs tgt cont key r push k).holds _ _ (State.enterFn_holds h _)

end

/-- The lanes that stay behind, with their continuations. -/
def Group.staying (x : Group) (m : Word) (regs : List Nat) (cont key : Nat → Nat) : List (Nat × SwLane) :=
  (lanesOf (x.present &&& ~~~m)).map fun k => (cont k, x.carry regs (key k) k)

/-- The team of a group that dissolves, its inactive lanes on their record, and the record's number. -/
def State.suspended (after : State) (m : Word) (x : Group) (regs : List Nat) (cont key : Nat → Nat) : Team × Option Nat :=
  (after.team x.team).suspend (count32 m) (x.staying m regs cont key)

section
variable (s : State) (g : Nat) (m : Word) (regs : List Nat) (push : Bool) (tgt cont : Nat → Nat)

/-- What a call asks of a lane's target: it is a function, and its budget has room for the live registers (R256, R257). -/
def State.callFits (f : Nat) : Prop := ∃ e b a, s.function (s.launchOf g) f = some (e, b, a) ∧ ∀ q ∈ regs, q < 16 * b

def State.callRoom (f : Nat) : Bool :=
  match s.function (s.launchOf g) f with | some (_, b, _) => regs.all fun r => decide (r < 16 * b) | none => false

theorem State.callRoom_iff (f : Nat) : s.callRoom g regs f = true ↔ s.callFits g regs f := by
  unfold State.callRoom State.callFits
  cases s.function (s.launchOf g) f with
  | none => simp
  | some q =>
    obtain ⟨e, b, a⟩ := q
    simp

/-- The lanes with a target or a continuation that is no function. -/
def State.callBad : Word :=
  maskWhere (s.group g).present fun k =>
    (m.getLsbD k && !s.callRoom g regs (tgt k)) || (push && !(s.function (s.launchOf g) (cont k)).isSome)

/-- The lanes with no room on their stacks. -/
def Group.callDeep (x : Group) (m : Word) : Word := maskWhere m fun k => decide (8 ≤ (Tab.get Lane.zero x.lanes k).stack.length)

variable {s g m regs push tgt cont}

theorem State.callBad_ne_zero_iff (hm : ∀ l, l < 32 → m.getLsbD l = true → (s.group g).present.getLsbD l = true) :
    s.callBad g m regs push tgt cont ≠ 0 ↔ ∃ l, l < 32 ∧ (m.getLsbD l = true ∧ ¬ s.callFits g regs (tgt l) ∨
      (s.group g).present.getLsbD l = true ∧ ¬ (push = true → (s.function (s.launchOf g) (cont l)).isSome = true)) := by
  rw [State.callBad, maskWhere_ne_zero_iff]
  refine exists_congr fun l => and_congr_right fun hl => ?_
  rw [← State.callRoom_iff]
  have := hm l hl
  grind

theorem Group.callDeep_ne_zero_iff {x : Group} :
    x.callDeep m ≠ 0 ↔ ∃ l, l < 32 ∧ m.getLsbD l = true ∧ 8 ≤ (Tab.get Lane.zero x.lanes l).stack.length := by
  rw [Group.callDeep, maskWhere_ne_zero_iff]
  simp only [decide_eq_true_iff]

variable {after : State} {key : Nat → Nat}

/-- The dissolution of a group: its lanes are in Swage, or wait on their record. -/
def State.dissolved (after : State) (g : Nat) (m : Word) (x : Group) (regs : List Nat) (push : Bool) (tgt cont key : Nat → Nat) : State :=
  let v := after.suspended m x regs cont key
  (lanesOf m).foldl (State.callLane x.team x regs push tgt cont key v.2) ((after.setTeam x.team v.1).leave g)

/-- The checks of a call in their order (R260, R262; log entry 60). -/
theorem State.dissolve_eq : s.dissolve after g m regs push tgt cont key =
    let x := s.group g
    if s.callBad g m regs push tgt cont != 0 then s.callTrap .callTarget (s.callBad g m regs push tgt cont)
    else if regs.any fun r => decide (16 * x.blocks ≤ r) then s.callTrap .regUnalloc x.present
    else if push && x.callDeep m != 0 then s.callTrap .callDepth (x.callDeep m)
    else if x.present &&& ~~~m != 0 && decide (64 ≤ (s.team x.team).recs.length) then s.callTrap .callDepth m
    else if !x.mayDissolve then .error (s.waitFor 11)
    else .ok (after.dissolved g m x regs push tgt cont key) := by
  unfold State.dissolve
  dsimp only
  refine ite_congr rfl (fun _ => rfl) fun _ => ?_
  refine ite_congr rfl (fun _ => rfl) fun _ => ?_
  refine ite_congr rfl (fun _ => rfl) fun _ => ?_
  refine ite_congr rfl (fun _ => rfl) fun _ => ?_
  refine ite_congr rfl (fun _ => rfl) fun _ => ?_
  rfl

theorem State.dissolve_callTarget (h : s.callBad g m regs push tgt cont ≠ 0) :
    ∃ f, s.dissolve after g m regs push tgt cont key = .error (s.raise .callTarget { flm := f }) :=
  ⟨_, State.dissolve_eq.trans (if_pos (bne_iff_ne.2 h))⟩

variable (hb : s.callBad g m regs push tgt cont = 0)
include hb

theorem State.dissolve_regUnalloc (h : ∃ q ∈ regs, 16 * (s.group g).blocks ≤ q) :
    ∃ f, s.dissolve after g m regs push tgt cont key = .error (s.raise .regUnalloc { flm := f }) := by
  refine ⟨(s.group g).present, ?_⟩
  have hr : (regs.any fun r => decide (16 * (s.group g).blocks ≤ r)) = true := by simpa using h
  rw [State.dissolve_eq]
  simp only [hb, bne_self_eq_false, Bool.false_eq_true, if_false, hr, if_true]
  rfl

variable (hr : ∀ q ∈ regs, q < 16 * (s.group g).blocks)
include hr

theorem State.dissolve_callDepth (hp : push = true) (h : (s.group g).callDeep m ≠ 0) :
    ∃ f, s.dissolve after g m regs push tgt cont key = .error (s.raise .callDepth { flm := f }) := by
  refine ⟨(s.group g).callDeep m, ?_⟩
  have hr' : (regs.any fun r => decide (16 * (s.group g).blocks ≤ r)) = false := by simpa using hr
  have hd : (push && (s.group g).callDeep m != 0) = true := by simpa [hp] using h
  rw [State.dissolve_eq]
  simp only [hb, bne_self_eq_false, Bool.false_eq_true, if_false, hr', hd, if_true]
  rfl

/-- Once its checks have passed, a group waits for its Anvil commands, and dissolves. -/
theorem State.dissolve_checked (hd : push = true → (s.group g).callDeep m = 0) (ht : (s.team (s.group g).team).recs.length < 64) :
    s.dissolve after g m regs push tgt cont key =
      if (s.group g).mayDissolve then .ok (after.dissolved g m (s.group g) regs push tgt cont key) else .error (s.waitFor 11) := by
  have hr' : (regs.any fun r => decide (16 * (s.group g).blocks ≤ r)) = false := by simpa using hr
  have hd' : (push && (s.group g).callDeep m != 0) = false := by
    cases push
    · rfl
    · rw [hd rfl]; rfl
  have ht' : ((s.group g).present &&& ~~~m != 0 && decide (64 ≤ (s.team (s.group g).team).recs.length)) = false := by
    rw [decide_eq_false (Nat.not_le.2 ht), Bool.and_false]
  rw [State.dissolve_eq]
  simp only [hb, bne_self_eq_false, Bool.false_eq_true, if_false, hr', hd', ht']
  cases (s.group g).mayDissolve <;> rfl

end

/-! ### Where the lanes are once their group has dissolved -/

theorem Team.suspend_launch (t : Team) (n : Nat) (ws : List (Nat × SwLane)) : (t.suspend n ws).1.launch = t.launch := by
  unfold Team.suspend
  split <;> rfl

/-- Lanes that stay behind wait on a record of their own, which counts those that leave (R260). -/
theorem Team.suspend_spec (t : Team) (n : Nat) {ws : List (Nat × SwLane)} (h : ws ≠ []) :
    ∃ k, (t.suspend n ws).2 = some k ∧ Tab.look (t.suspend n ws).1.recs k = some ⟨n, ws⟩ := by
  unfold Team.suspend
  rw [if_neg (by simpa using h)]
  exact ⟨_, rfl, Tab.look_put_self _ _ _⟩

theorem lanesOf_ne_nil {w : Word} (h : w ≠ 0) : lanesOf w ≠ [] := by
  obtain ⟨l, hl, hw⟩ := (word_ne_zero_iff w).1 h
  exact List.ne_nil_of_mem (mem_lanesOf.2 ⟨hl, hw⟩)

section
variable (after : State) (g : Nat) (m : Word) (x : Group) (regs : List Nat) (push : Bool) (tgt cont key : Nat → Nat)

theorem State.dissolved_fills : State.Fills x.team ((after.setTeam x.team (after.suspended m x regs cont key).1).leave g)
    (after.dissolved g m x regs push tgt cont key) :=
  State.Fills.foldl (fun u k => u.callLane_fills _ _ _ _ _ _ _ _ k) _ _

/-- The group is gone. -/
theorem State.dissolved_look : Tab.look (after.dissolved g m x regs push tgt cont key).groups g = none := by
  rw [(after.dissolved_fills g m x regs push tgt cont key).groups, State.leave]
  exact State.removeGroup_look _ _

/-- Every lane that leaves is in the bin of its function. -/
theorem State.dissolved_holds {l b : Nat} {e a : DWord} (hl : l ∈ lanesOf m)
    (h : after.function (after.team x.team).launch (tgt l) = some (e, b, a)) :
    ((after.dissolved g m x regs push tgt cont key).team x.team).Holds (binKey e b a)
      (x.callLane regs push cont key (after.suspended m x regs cont key).2 l) := by
  set y := (after.suspended m x regs cont key).1 with hy
  have hmaps : State.SameMaps after (after.setTeam x.team y) := ⟨rfl, rfl, rfl, rfl, rfl, rfl⟩
  have hlaunch : State.SameLaunches after (after.setTeam x.team y) :=
    after.modTeam_sameLaunches x.team (f := fun _ => y) (Team.suspend_launch _ _ _)
  have hleave := State.leave_sameSwage (after.setTeam x.team y) g
  refine State.Fills.foldl_holds (fun u k => u.callLane_fills _ _ _ _ _ _ _ _ k) hl fun u hu => State.callLane_holds _ _ _ _ _ _ _ _ ?_
  have hl' := (hlaunch.trans hleave.launches).trans hu.launches
  rw [hl'.team, State.function_congr ((hmaps.trans hleave.maps).trans hu.maps) hl']
  exact h

/-- A call reduces no record of its team. -/
theorem State.dissolved_recs : ((after.dissolved g m x regs true tgt cont key).team x.team).recs = (after.suspended m x regs cont key).1.recs := by
  refine (foldl_keeps (F := fun s => (s.team x.team).recs) (fun s k => s.callLane_recs _ _ _ _ _ _ _ k) _ _).trans ?_
  rw [(State.leave_sameSwage _ g).recs, State.team_setTeam]

end

end Sys2Proof.Machine
end

section
/-! SUPPORT. VCALL and VRET as words: their call site, their reads, and their course once it is read (R256-R261). -/

namespace Sys2Proof.Machine

/-! ### The call site -/

/-- An entry that the call-site table does not have: CALL_TABLE (R257). -/
theorem State.callSite_absent {s : State} {g i : Nat} {m : Word} (h : (s.recOf g).csCount ≤ i ∨ (s.recOf g).csBase = 0) :
    s.callSite g i m = .error (s.raise .callTable { flm := m }) := by
  unfold State.callSite
  exact if_pos (by simpa using h)

/-- An entry that the rule refuses: CALL_TABLE (R257). -/
theorem State.callSite_refused {s : State} {g i : Nat} {m : Word} {ps : List (Nat × Nat × DWord)} (hi : i < (s.recOf g).csCount)
    (hb : (s.recOf g).csBase ≠ 0) (hp : s.tableRead g ((lanesOf m).map fun l => (l, (s.recOf g).csBase + BitVec.ofNat 64 (32 * i))) = .ok ps)
    (hn : siteRegs (s.rdBytes (ps.headD (0, 0, 0)).2.1 32) = none) : s.callSite g i m = .error (s.raise .callTable { flm := m }) := by
  have hc : ((s.recOf g).csCount ≤ i || (s.recOf g).csBase == 0) = false := by
    simpa [hi] using hb
  unfold State.callSite
  simp only [hc, Bool.false_eq_true, if_false, hp, bind, Except.bind, hn]

/-! ### The course of the word -/

/-- A group's step names the group. -/
theorem State.gid_of_group {s : State} {g : Nat} (hc : s.cur = .group g) : s.gid.getD 0 = g := by rw [State.gid, hc]; rfl

/-- The sources of a call or return once it has committed, as their lanes read them. -/
def State.callRead (s : State) (g : Nat) (call : Bool) (o : LaneOp) : State × List (Tab Nat) :=
  (s.commit g).readUses g (Claim.lanes s g o.h) (callUses (s.group g) call o (Claim.lanes s g o.h))

/-- The top of a lane's stack. -/
def State.callTop (s : State) (g l : Nat) : Option (Nat × Option Nat) := (Tab.get Lane.zero (s.group g).lanes l).stack.head?

/-- The function that a lane enters, its continuation and its key. -/
def State.callTgt (s : State) (g : Nat) (call : Bool) (o : LaneOp) (l : Nat) : Nat :=
  if call then Tab.get 0 ((s.callRead g call o).2.getD 0 []) l else ((s.callTop g l).getD (0, none)).1
def State.callCont (s : State) (g : Nat) (call : Bool) (o : LaneOp) (l : Nat) : Nat :=
  if call then Tab.get 0 ((s.callRead g call o).2.getD 1 []) l else ((s.callTop g l).getD (0, none)).1
def State.callKey (s : State) (g : Nat) (call : Bool) (o : LaneOp) (l : Nat) : Nat :=
  if LaneOp.xbit o 12 then 0 else Tab.get 0 ((s.callRead g call o).2.getD (if call then 2 else 0) []) l

/-- The function table entries that a call reads. -/
def State.callReads (s : State) (g : Nat) (call : Bool) (o : LaneOp) : Try Unit :=
  (s.callRead g call o).1.fnsRead g ((lanesOf (Claim.lanes s g o.h)).map (fun l => (l, s.callTgt g call o l)) ++
    (lanesOf (s.group g).present).map fun l => (l, s.callCont g call o l))

/-- The dissolution that a call comes to. -/
def State.callDissolve (s : State) (g : Nat) (call : Bool) (o : LaneOp) (regs : List Nat) : Try State :=
  let t := (s.callRead g call o).1
  let m := Claim.lanes s g o.h
  t.dissolve (t.popFinal g m (callUses (s.group g) call o m)) g m regs call (s.callTgt g call o) (s.callCont g call o) (s.callKey g call o)

section
variable {s : State} {g : Nat} {o : LaneOp} {call : Bool} (hr : Claim.LaneReady s g o.h .call (callUses (s.group g) call o) none)
include hr

theorem State.callWord_noLanes (hm : Claim.lanes s g o.h = 0) :
    s.callWord call o = .next ((s.commit g).modGroup g fun x => { x with blk := none }) := by
  rw [State.callWord, State.gid_of_group hr.runs, State.laneWord_of_ready hr, State.callCommit]
  exact if_pos hm

variable (hm : Claim.lanes s g o.h ≠ 0)
include hm

theorem State.callWord_siteError {u : State}
    (h : (s.commit g).callSite g (LaneOp.xfield o 0 12) (Claim.lanes s g o.h) = .error u) : s.callWord call o = .next u := by
  rw [State.callWord, State.gid_of_group hr.runs, State.laneWord_of_ready hr, State.callCommit, if_neg hm, h]

variable {regs : List Nat} (hs : (s.commit g).callSite g (LaneOp.xfield o 0 12) (Claim.lanes s g o.h) = .ok regs)
include hs

theorem State.callWord_waits (h : (s.commit g).callReady g (s.group g).present regs = false) :
    s.callWord call o = .next ((s.commit g).waitFor 11) := by
  rw [State.callWord, State.gid_of_group hr.runs, State.laneWord_of_ready hr, State.callCommit, if_neg hm, hs]
  exact if_pos (by rw [h]; rfl)

variable (hready : (s.commit g).callReady g (s.group g).present regs = true)
  (hsound : (s.group g).mismatch (liveKeys regs (s.group g).present) = none)
include hready hsound

/-- A VRET of lanes with nothing to return to: RET_EMPTY. -/
theorem State.callWord_retEmpty (hc : call = false) (h : maskWhere (s.group g).present (fun l => (s.callTop g l).isNone) ≠ 0) :
    s.callWord call o = .next ((s.commit g).raise .retEmpty { flm := maskWhere (s.group g).present fun l => (s.callTop g l).isNone }) := by
  rw [State.callWord, State.gid_of_group hr.runs, State.laneWord_of_ready hr, State.callCommit, if_neg hm, hs]
  simp only [hready, hsound, Bool.not_true, Bool.false_eq_true, if_false]
  exact if_pos (by rw [hc]; exact bne_iff_ne.2 h)

/-- A call that may go on reads its functions' entries, and dissolves. -/
theorem State.callWord_goes (h : call = true ∨ maskWhere (s.group g).present (fun l => (s.callTop g l).isNone) = 0) :
    (∀ u, s.callReads g call o = .error u → s.callWord call o = .next u) ∧
      (s.callReads g call o = .ok () → s.callWord call o = ofTry (s.callDissolve g call o regs)) := by
  have he : (!call && maskWhere (s.group g).present (fun l => (s.callTop g l).isNone) != 0) = false := by
    rcases h with h | h
    · rw [h]; rfl
    · rw [h]; simp
  have hgo : s.callWord call o = match s.callReads g call o with
      | .error u => .next u
      | .ok _ => ofTry (s.callDissolve g call o regs) := by
    rw [State.callWord, State.gid_of_group hr.runs, State.laneWord_of_ready hr, State.callCommit, if_neg hm, hs]
    simp only [hready, hsound, Bool.not_true, Bool.false_eq_true, if_false]
    exact if_neg (ne_true_of_eq_false he)
  constructor
  · intro u hu
    rw [hgo, hu]
  · intro hu
    rw [hgo, hu]

end

end Sys2Proof.Machine
end


section
/-! SUPPORT. A call's dissolution in terms of the committed state: its checks, and where its lanes are then (R256-R262). -/

namespace Sys2Proof.Machine

section
variable (s : State) (g : Nat) (call : Bool) (o : LaneOp)

/-- Reading its sources changes nothing of a call's state but the free values taken. -/
theorem State.callRead_eq : ∃ n, (s.callRead g call o).1 = { s.commit g with free := n } := State.readUses_free _ _ _ _

theorem State.callRead_group (h : Nat) : (s.callRead g call o).1.group h = (s.commit g).group h := by
  obtain ⟨n, h⟩ := s.callRead_eq g call o
  rw [h]; rfl

theorem State.callRead_team (t : Nat) : (s.callRead g call o).1.team t = (s.commit g).team t := by
  obtain ⟨n, h⟩ := s.callRead_eq g call o
  rw [h]; rfl

theorem State.callRead_launchOf (h : Nat) : (s.callRead g call o).1.launchOf h = (s.commit g).launchOf h := by
  obtain ⟨n, h⟩ := s.callRead_eq g call o
  rw [h]; rfl

theorem State.callRead_function (l f : Nat) : (s.callRead g call o).1.function l f = (s.commit g).function l f := by
  obtain ⟨n, h⟩ := s.callRead_eq g call o
  rw [h]
  have taken (v : State) : State.SameSwage v { v with free := n } := State.sameSwage_of_maps ⟨rfl, rfl, rfl, rfl, rfl, rfl⟩ rfl rfl rfl
  exact State.function_congr (taken _).maps (taken _).launches l f

/-- The state that a call's dissolution leaves. -/
def State.callGone (regs : List Nat) : State :=
  let m := Claim.lanes s g o.h
  ((s.callRead g call o).1.popFinal g m (callUses (s.group g) call o m)).dissolved g m ((s.commit g).group g) regs call
    (s.callTgt g call o) (s.callCont g call o) (s.callKey g call o)

theorem State.callGone_look (regs : List Nat) : Tab.look (s.callGone g call o regs).groups g = none := State.dissolved_look _ _ _ _ _ _ _ _ _

/-- The record on which the lanes that a call leaves behind wait. -/
def State.callRec (regs : List Nat) : Option Nat :=
  let m := Claim.lanes s g o.h
  (((s.callRead g call o).1.popFinal g m (callUses (s.group g) call o m)).suspended m ((s.commit g).group g) regs
    (s.callCont g call o) (s.callKey g call o)).2

/-- Each lane that a call takes along is in the bin of its function, with its key and its live registers. -/
theorem State.callGone_holds (regs : List Nat) {l b : Nat} {e a : DWord} (hl : l < 32) (hm : (Claim.lanes s g o.h).getLsbD l = true)
    (h : (s.commit g).function ((s.commit g).launchOf g) (s.callTgt g call o l) = some (e, b, a)) :
    ((s.callGone g call o regs).team ((s.commit g).group g).team).Holds (binKey e b a)
      (((s.commit g).group g).callLane regs call (s.callCont g call o) (s.callKey g call o) (s.callRec g call o regs) l) := by
  refine State.dissolved_holds _ _ _ _ _ _ _ _ _ (mem_lanesOf.2 ⟨hl, hm⟩) ?_
  have hpop := State.popFinal_sameSwage (s.callRead g call o).1 g (Claim.lanes s g o.h) (callUses (s.group g) call o (Claim.lanes s g o.h))
  rw [State.function_congr hpop.maps hpop.launches, hpop.launches.team, s.callRead_function, s.callRead_team]
  exact h

/-- Where every lane goes, none waits on a record. -/
theorem State.callRec_none (regs : List Nat) (h : ((s.commit g).group g).present &&& ~~~Claim.lanes s g o.h = 0) :
    s.callRec g call o regs = none := by
  have hnil : ((s.commit g).group g).staying (Claim.lanes s g o.h) regs (s.callCont g call o) (s.callKey g call o) = [] := by
    rw [Group.staying, h]
    rfl
  rw [State.callRec, State.suspended, hnil]
  rfl

/-- The lanes that a VCALL finds inactive wait on one record, each with its continuation; it counts the active ones (R260). -/
theorem State.callGone_record (regs : List Nat) (h : ((s.commit g).group g).present &&& ~~~Claim.lanes s g o.h ≠ 0) :
    ∃ k, s.callRec g true o regs = some k ∧
      Tab.look ((s.callGone g true o regs).team ((s.commit g).group g).team).recs k = some ⟨count32 (Claim.lanes s g o.h),
        ((s.commit g).group g).staying (Claim.lanes s g o.h) regs (s.callCont g true o) (s.callKey g true o)⟩ := by
  have hne : ((s.commit g).group g).staying (Claim.lanes s g o.h) regs (s.callCont g true o) (s.callKey g true o) ≠ [] :=
    mt List.map_eq_nil_iff.1 (lanesOf_ne_nil h)
  obtain ⟨k, hk, hlook⟩ := Team.suspend_spec (((s.callRead g true o).1.popFinal g (Claim.lanes s g o.h)
    (callUses (s.group g) true o (Claim.lanes s g o.h))).team ((s.commit g).group g).team) (count32 (Claim.lanes s g o.h)) hne
  refine ⟨k, hk, ?_⟩
  rw [State.callGone, State.dissolved_recs]
  exact hlook

theorem mem_staying {x : Group} {m : Word} (regs : List Nat) (cont key : Nat → Nat) {l : Nat} (hl : l < 32) (hx : x.present.getLsbD l = true)
    (hm : m.getLsbD l = false) : (cont l, x.carry regs (key l) l) ∈ x.staying m regs cont key :=
  List.mem_map.2 ⟨l, mem_lanesOf.2 ⟨hl, by rw [BitVec.getLsbD_and, BitVec.getLsbD_not, hx, hm]; simp [hl]⟩, rfl⟩

end

/-! ### A call's dissolution -/

section
variable {s : State} {g : Nat} {call : Bool} {o : LaneOp} {regs : List Nat}
  (hm : ∀ l, l < 32 → (Claim.lanes s g o.h).getLsbD l = true → ((s.commit g).group g).present.getLsbD l = true)

theorem State.callRead_fits {f : Nat} : (s.callRead g call o).1.callFits g regs f ↔ (s.commit g).callFits g regs f := by
  rw [State.callFits, State.callFits, s.callRead_launchOf, s.callRead_function]

include hm

/-- The lanes whose target or continuation is no function, in terms of the committed state. -/
theorem State.callRead_bad : (s.callRead g call o).1.callBad g (Claim.lanes s g o.h) regs call (s.callTgt g call o) (s.callCont g call o) ≠ 0 ↔
    ∃ l, l < 32 ∧ ((Claim.lanes s g o.h).getLsbD l = true ∧ ¬ (s.commit g).callFits g regs (s.callTgt g call o l) ∨
      ((s.commit g).group g).present.getLsbD l = true ∧
        ¬ (call = true → ((s.commit g).function ((s.commit g).launchOf g) (s.callCont g call o l)).isSome = true)) := by
  rw [State.callBad_ne_zero_iff (by rw [s.callRead_group]; exact hm)]
  simp only [s.callRead_group, s.callRead_launchOf, s.callRead_function, State.callRead_fits]

theorem State.callDissolve_callTarget (h : ∃ l, l < 32 ∧
      ((Claim.lanes s g o.h).getLsbD l = true ∧ ¬ (s.commit g).callFits g regs (s.callTgt g call o l) ∨
        ((s.commit g).group g).present.getLsbD l = true ∧
          ¬ (call = true → ((s.commit g).function ((s.commit g).launchOf g) (s.callCont g call o l)).isSome = true))) :
    ∃ f, s.callDissolve g call o regs = .error ((s.callRead g call o).1.raise .callTarget { flm := f }) :=
  State.dissolve_callTarget ((State.callRead_bad hm).2 h)

variable (hfits : ∀ l, l < 32 → (Claim.lanes s g o.h).getLsbD l = true → (s.commit g).callFits g regs (s.callTgt g call o l))
  (hback : ∀ l, l < 32 → ((s.commit g).group g).present.getLsbD l = true →
    (call = true → ((s.commit g).function ((s.commit g).launchOf g) (s.callCont g call o l)).isSome = true))
include hfits hback

theorem State.callRead_good :
    (s.callRead g call o).1.callBad g (Claim.lanes s g o.h) regs call (s.callTgt g call o) (s.callCont g call o) = 0 := by
  by_contra hn
  obtain ⟨l, hl, ⟨h, hf⟩ | ⟨h, hb⟩⟩ := (State.callRead_bad hm).1 hn
  · exact hf (hfits l hl h)
  · exact hb (hback l hl h)

theorem State.callDissolve_regUnalloc (h : ∃ q ∈ regs, 16 * ((s.commit g).group g).blocks ≤ q) :
    ∃ f, s.callDissolve g call o regs = .error ((s.callRead g call o).1.raise .regUnalloc { flm := f }) :=
  State.dissolve_regUnalloc (State.callRead_good hm hfits hback) (by rw [s.callRead_group]; exact h)

variable (hregs : ∀ q ∈ regs, q < 16 * ((s.commit g).group g).blocks)
include hregs

theorem State.callDissolve_callDepth (hc : call = true) (h : ∃ l, l < 32 ∧ (Claim.lanes s g o.h).getLsbD l = true ∧
      8 ≤ (Tab.get Lane.zero ((s.commit g).group g).lanes l).stack.length) :
    ∃ f, s.callDissolve g call o regs = .error ((s.callRead g call o).1.raise .callDepth { flm := f }) :=
  State.dissolve_callDepth (State.callRead_good hm hfits hback) (by rw [s.callRead_group]; exact hregs) hc
    (Group.callDeep_ne_zero_iff.2 (by rw [s.callRead_group]; exact h))

/-- Once its checks have passed, a call waits for the group's Anvil commands, and dissolves the group. -/
theorem State.callDissolve_checked (hd : call = true → ∀ l, l < 32 → (Claim.lanes s g o.h).getLsbD l = true →
      (Tab.get Lane.zero ((s.commit g).group g).lanes l).stack.length < 8)
    (ht : ((s.commit g).team ((s.commit g).group g).team).recs.length < 64) :
    s.callDissolve g call o regs = if ((s.commit g).group g).mayDissolve then .ok (s.callGone g call o regs)
      else .error ((s.callRead g call o).1.waitFor 11) := by
  have hdeep : call = true → ((s.commit g).group g).callDeep (Claim.lanes s g o.h) = 0 := by
    intro hc
    by_contra hn
    obtain ⟨l, hl, h, h8⟩ := Group.callDeep_ne_zero_iff.1 hn
    exact absurd (hd hc l hl h) (Nat.not_lt.2 h8)
  have h := State.dissolve_checked (after := (s.callRead g call o).1.popFinal g (Claim.lanes s g o.h)
    (callUses (s.group g) call o (Claim.lanes s g o.h))) (key := s.callKey g call o) (State.callRead_good hm hfits hback)
    (by rw [s.callRead_group]; exact hregs) (by rw [s.callRead_group]; exact hdeep) (by rw [s.callRead_group, s.callRead_team]; exact ht)
  rw [s.callRead_group] at h
  exact h

end

end Sys2Proof.Machine
end

section
namespace Sys2Proof.Machine

/-- Settles O38: the lemmas above say what the call site refuses (`State.callSite_absent`), how the word goes on
(`State.callWord_goes`), what its dissolution checks (`State.callDissolve_checked`), and where its lanes are then
(`State.callGone_holds`, `State.callGone_record`). -/
theorem callsAndReturns : Obligations.CallsAndReturns := by
  unfold Obligations.CallsAndReturns
  intro o s g call i x m hr c q site r at_ top y lane tgt cont key
  have hexec : exec i s = s.callWord call o := by
    cases call
    · exact rfl
    · exact rfl
  have hrec : c.recOf g = q := (s.commit_sameRecs g).recOf g
  rw [hexec]
  refine ⟨State.callWord_noLanes hr, fun hm h => ?_, fun ps hm hi hb hp hn => ?_, fun u hm h => State.callWord_siteError hr hm h,
    fun regs hm hs => ⟨State.callWord_waits hr hm hs, fun hready hsound hc he => ?_, fun hready hsound hc hpres => ?_⟩⟩
  · exact State.callWord_siteError hr hm (State.callSite_absent (by rw [hrec]; exact h))
  · exact State.callWord_siteError hr hm (State.callSite_refused (by rw [hrec]; exact hi) (by rw [hrec]; exact hb) (by rw [hrec]; exact hp) hn)
  · obtain ⟨l, hl, hx, ht⟩ := he
    refine ⟨_, fun k hk => ?_, State.callWord_retEmpty hr hm hs hready hsound hc ?_⟩
    · rw [getLsbD_maskWhere _ _ hk]
      exact congrArg _ (Bool.eq_iff_iff.2 (Option.isNone_iff_eq_none.trans decide_eq_true_iff.symm))
    · exact (maskWhere_ne_zero_iff _ _).2 ⟨l, hl, hx, Option.isNone_iff_eq_none.2 ht⟩
  · intro reads
    have hfull : call = true ∨ maskWhere (s.group g).present (fun l => (s.callTop g l).isNone) = 0 := by
      refine hc.imp_right fun h => ?_
      by_contra hn
      obtain ⟨l, hl, hx, ht⟩ := (maskWhere_ne_zero_iff _ _).1 hn
      exact h l hl hx (Option.isNone_iff_eq_none.1 ht)
    obtain ⟨herr, hgo⟩ := State.callWord_goes hr hm hs hready hsound hfull
    refine ⟨herr, fun hok => ?_⟩
    intro fits back
    rw [hgo hok]
    refine ⟨fun h => ?_, fun hfits hback => ⟨fun h => ?_, fun hregs hcall h => ?_, fun hregs hd ht => ?_⟩⟩
    · obtain ⟨f, hf⟩ := State.callDissolve_callTarget hpres h
      exact ⟨f, by rw [hf]; rfl⟩
    · obtain ⟨f, hf⟩ := State.callDissolve_regUnalloc hpres hfits hback h
      exact ⟨f, by rw [hf]; rfl⟩
    · obtain ⟨f, hf⟩ := State.callDissolve_callDepth hpres hfits hback hregs hcall h
      exact ⟨f, by rw [hf]; rfl⟩
    · rw [State.callDissolve_checked hpres hfits hback hregs hd ht]
      refine ⟨fun h => ?_, fun h => ⟨s.callGone g call o regs, ?_, s.callGone_look g call o regs, fun l hl hm e b a hf => ?_, ?_⟩⟩
      · rw [if_neg (ne_true_of_eq_false h)]
        rfl
      · rw [if_pos h]
        rfl
      · obtain ⟨n, hn, hq⟩ := s.callGone_holds g call o regs hl hm hf
        refine ⟨n, _, hn, hq, ?_⟩
        cases call
        · exact ⟨rfl, rfl, rfl, fun _ => rfl, nofun⟩
        · exact ⟨rfl, rfl, rfl, nofun, fun _ hstay => by rw [s.callRec_none g true o regs hstay]; rfl⟩
      · rintro rfl hstay
        obtain ⟨k, hk, hlook⟩ := s.callGone_record g o regs hstay
        refine ⟨k, _, hlook, rfl, fun l hl hm e b a hf => ?_, fun l hl hx hm => ?_⟩
        · obtain ⟨n, hn, hq⟩ := s.callGone_holds g true o regs hl hm hf
          exact ⟨n, _, hn, hq, rfl, by rw [hk]; rfl⟩
        · exact ⟨_, mem_staying regs _ _ hl hx hm, rfl, rfl, rfl, rfl⟩

end Sys2Proof.Machine
end

section
/-! SUPPORT. A dyadic value `sig × 2^t` is rounded exactly where its significand fits (R63, R68, R69). -/

namespace Sys2Proof.Machine

theorem pow2_eq (e : Int) : pow2 e = (2 ^ e.toNat, 2 ^ (-e).toNat) := by
  unfold pow2
  split
  · rw [show (-e).toNat = 0 by omega, pow_zero]
  · rw [show e.toNat = 0 by omega, pow_zero]

/-- A whole number of units is its own rounding, in every mode. -/
theorem roundNat_mul (m : Rnd) (neg : Bool) (r : Nat) {d : Nat} (hd : 0 < d) : roundNat m neg (r * d) d = r := by
  have hup : roundsUp m neg r 0 d = false := by cases m <;> simp [roundsUp] <;> omega
  rw [roundNat, Nat.mul_div_cancel r hd, Nat.mul_mod_left, hup]
  rfl

theorem roundAt_pow2 (m : Rnd) (neg : Bool) (sig : Nat) (t : Int) :
    roundAt m neg (sig * (pow2 t).1) (pow2 t).2 t = (sig, true) := by
  have hd : 0 < (pow2 t).2 * (pow2 t).1 := by rw [pow2_eq]; positivity
  have hn : sig * (pow2 t).1 * (pow2 t).2 = sig * ((pow2 t).2 * (pow2 t).1) := by ring
  unfold roundAt
  simp only [hn, roundNat_mul m neg sig hd, Nat.mul_mod_left, beq_self_eq_true]

theorem log2_mul_two_pow {n : Nat} (hn : 0 < n) (k : Nat) : Nat.log2 (n * 2 ^ k) = Nat.log2 n + k := by
  obtain ⟨hle, hlt⟩ := (Nat.log2_eq_iff hn.ne').1 rfl
  rw [Nat.log2_eq_iff (by positivity), pow_add, show Nat.log2 n + k + 1 = Nat.log2 n + 1 + k by omega, pow_add (n := k)]
  exact ⟨Nat.mul_le_mul_right _ hle, Nat.mul_lt_mul_of_pos_right hlt (by positivity)⟩

/-- The exponent of `sig × 2^t` is that of `sig`, moved by `t`. -/
theorem ilog2_pow2 {sig : Nat} (hs : 0 < sig) (t : Int) : ilog2 (sig * (pow2 t).1) (pow2 t).2 = Nat.log2 sig + t := by
  have hk : (Nat.log2 (sig * (pow2 t).1) : Int) - Nat.log2 (pow2 t).2 = Nat.log2 sig + t := by
    rw [pow2_eq, log2_mul_two_pow hs, Nat.log2_two_pow]
    omega
  have hle : (pow2 (Nat.log2 sig + t)).1 * (pow2 t).2 ≤ sig * (pow2 t).1 * (pow2 (Nat.log2 sig + t)).2 := by
    simp only [pow2_eq, ← pow_add, mul_assoc]
    calc 2 ^ ((Nat.log2 sig + t).toNat + (-t).toNat)
        = 2 ^ Nat.log2 sig * 2 ^ (t.toNat + (-(Nat.log2 sig + t)).toNat) := by rw [← pow_add]; congr 1; omega
      _ ≤ sig * 2 ^ (t.toNat + (-(Nat.log2 sig + t)).toNat) := Nat.mul_le_mul_right _ (Nat.log2_self_le hs.ne')
  unfold ilog2
  simp only [hk]
  exact if_pos hle

/-- The rounding of `sig × 2^t` where `t` is the unit of its last place (R68) and its encoding is not past the largest: exact, so
it raises no flag. -/
theorem roundTo_pow2 (f : Fmt) (m : Rnd) (sat neg : Bool) {sig : Nat} {t : Int} (hs : 0 < sig)
    (ht : max (Nat.log2 sig + t) (1 - bias f) = t + fracBits f)
    (hmax : (t + fracBits f - (1 - bias f)).toNat * 2 ^ fracBits f + sig ≤ maxEnc f) :
    roundTo f m sat (.num neg (sig * (pow2 t).1) (pow2 t).2) =
      ((if neg then signBit f else 0) + ((t + fracBits f - (1 - bias f)).toNat * 2 ^ fracBits f + sig), 0) := by
  have hn : sig * (pow2 t).1 ≠ 0 := by rw [pow2_eq]; positivity
  simp only [roundTo, if_neg hn, ilog2_pow2 hs, ht, add_sub_cancel_right, roundAt_pow2, if_neg hmax.not_gt]
  simp

end Sys2Proof.Machine
end

section
/-! SUPPORT. The value of a finite encoding by its exponent field: zero and the subnormals, and the normals (R63). -/

namespace Sys2Proof.Machine

variable {f : Fmt} {p : Nat} (hfin : p % signBit f ≤ maxEnc f)

include hfin

theorem toVal_subnormal (he : p % signBit f / 2 ^ fracBits f = 0) :
    let t : Int := 1 - bias f - fracBits f
    toVal f p = .num (decide (signBit f ≤ p)) (p % signBit f * (pow2 t).1) (pow2 t).2 := by
  have hfr : p % signBit f % 2 ^ fracBits f = p % signBit f := Nat.mod_eq_of_lt ((Nat.div_eq_zero_iff_lt (by positivity)).1 he)
  simp only [toVal, if_neg hfin.not_gt, he, hfr, if_true]

theorem toVal_normal (he : p % signBit f / 2 ^ fracBits f ≠ 0) :
    let t : Int := ↑(p % signBit f / 2 ^ fracBits f) - bias f - fracBits f
    toVal f p = .num (decide (signBit f ≤ p)) ((2 ^ fracBits f + p % signBit f % 2 ^ fracBits f) * (pow2 t).1) (pow2 t).2 := by
  simp only [toVal, if_neg hfin.not_gt, if_neg he]

end Sys2Proof.Machine
end

section
/-! A finite encoding rounds to itself. -/

namespace Sys2Proof.Machine

/-- The sign bit and the magnitude make up an encoding. -/
theorem signBit_add_mag {f : Fmt} {p : Nat} (hp : p < 2 ^ Fmt.width f) :
    (if decide (signBit f ≤ p) then signBit f else 0) + p % signBit f = p := by
  have hw : 2 ^ Fmt.width f = 2 * signBit f := by cases f <;> rfl
  simp only [decide_eq_true_eq]
  split
  · rw [Nat.mod_eq_sub_mod ‹_›, Nat.mod_eq_of_lt (by omega)]
    omega
  · rw [Nat.mod_eq_of_lt (by omega), Nat.zero_add]

/-- A subnormal magnitude counts units of the last place of the smallest normals, and a zero keeps its sign. -/
theorem roundTo_subnormal (f : Fmt) (m : Rnd) (sat neg : Bool) {fr : Nat} (hfr : fr < 2 ^ fracBits f) (hmax : fr ≤ maxEnc f) :
    let t : Int := 1 - bias f - fracBits f
    roundTo f m sat (.num neg (fr * (pow2 t).1) (pow2 t).2) = ((if neg then signBit f else 0) + fr, 0) := by
  intro t
  rcases Nat.eq_zero_or_pos fr with rfl | hpos
  · simp [roundTo]
  · have hlog : Nat.log2 fr < fracBits f := (Nat.log2_lt hpos.ne').2 hfr
    have henc : (t + fracBits f - (1 - bias f)).toNat * 2 ^ fracBits f + fr = fr := by
      rw [show (t + fracBits f - (1 - bias f)).toNat = 0 by omega, Nat.zero_mul, Nat.zero_add]
    rw [roundTo_pow2 f m sat neg hpos (by omega) (henc.trans_le hmax), henc]

/-- A normal's exponent field counts binades above the smallest normals, its significand having the hidden bit. -/
theorem roundTo_normal (f : Fmt) (m : Rnd) (sat neg : Bool) {e fr : Nat} (he : e ≠ 0) (hfr : fr < 2 ^ fracBits f)
    (hmax : e * 2 ^ fracBits f + fr ≤ maxEnc f) :
    let t : Int := e - bias f - fracBits f
    roundTo f m sat (.num neg ((2 ^ fracBits f + fr) * (pow2 t).1) (pow2 t).2) =
      ((if neg then signBit f else 0) + (e * 2 ^ fracBits f + fr), 0) := by
  intro t
  have hlog : Nat.log2 (2 ^ fracBits f + fr) = fracBits f :=
    (Nat.log2_eq_iff (by omega)).2 ⟨by omega, by rw [pow_succ]; omega⟩
  have henc : (t + fracBits f - (1 - bias f)).toNat * 2 ^ fracBits f + (2 ^ fracBits f + fr) = e * 2 ^ fracBits f + fr := by
    rw [show (t + fracBits f - (1 - bias f)).toNat = e - 1 by omega, ← Nat.add_assoc, ← Nat.succ_mul, Nat.succ_eq_add_one,
      Nat.sub_add_cancel (by omega)]
  rw [roundTo_pow2 f m sat neg (by omega) (by omega) (henc.trans_le hmax), henc]

/-- Settles O6: an encoding's value is `sig × 2^t` with `t` the unit of its last place (`toVal_subnormal`, `toVal_normal`), and such
a value is rounded exactly (`roundTo_pow2`). -/
theorem encodingsRoundToThemselves : Obligations.EncodingsRoundToThemselves := by
  unfold Obligations.EncodingsRoundToThemselves
  intro f m sat p _ hp hfin
  replace hfin : p % signBit f ≤ maxEnc f := hfin
  by_cases he : p % signBit f / 2 ^ fracBits f = 0
  · have hfr : p % signBit f < 2 ^ fracBits f := (Nat.div_eq_zero_iff_lt (by positivity)).1 he
    rw [toVal_subnormal hfin he, roundTo_subnormal f m sat _ hfr hfin, signBit_add_mag hp]
  · have hfr : p % signBit f % 2 ^ fracBits f < 2 ^ fracBits f := Nat.mod_lt _ (by positivity)
    have hmag : p % signBit f / 2 ^ fracBits f * 2 ^ fracBits f + p % signBit f % 2 ^ fracBits f = p % signBit f := Nat.div_add_mod' _ _
    rw [toVal_normal hfin he, roundTo_normal f m sat _ he hfr (hmag.trans_le hfin), hmag, signBit_add_mag hp]

end Sys2Proof.Machine
end

section
/-! SUPPORT. The elements of a packed value, one by one (R64), and the flags of an operation on them (R217). -/

namespace Sys2Proof.Machine

theorem getD_elems (ew : Nat) {n k : Nat} (hk : k < n) (v : Nat) : (elems ew n v).getD k 0 = v / 2 ^ (ew * k) % 2 ^ ew := by
  induction n generalizing k v with
  | zero => omega
  | succ n ih =>
    cases k with
    | zero => simp [elems]
    | succ k => rw [elems, List.getD_cons_succ, ih (by omega), Nat.div_div_eq_div_mul, ← pow_add, Nat.mul_succ, Nat.add_comm]

theorem packElems_elem (ew : Nat) (es : List Nat) (k : Nat) : packElems ew es / 2 ^ (ew * k) % 2 ^ ew = es.getD k 0 % 2 ^ ew := by
  induction es generalizing k with
  | nil => simp [packElems]
  | cons e es ih =>
    have hpos : 0 < 2 ^ ew := by positivity
    cases k with
    | zero => simp [packElems]
    | succ k =>
      rw [packElems, List.getD_cons_succ, ← ih, Nat.mul_succ, Nat.add_comm (ew * k), pow_add, ← Nat.div_div_eq_div_mul,
        Nat.add_mul_div_left _ _ hpos, Nat.div_eq_of_lt (Nat.mod_lt _ hpos), Nat.zero_add]

theorem and_or_absorb {fl w : Word} (h : fl &&& w = fl) (v : Word) : fl &&& (w ||| v) = fl := by
  rw [BitVec.and_or_distrib_left, h]
  ext i
  simp only [BitVec.getElem_or, BitVec.getElem_and]
  cases fl[i] <;> simp

/-- What a union holds to begin with it keeps. -/
theorem and_foldl_or_of_start {fl : Word} (l : List Word) {w : Word} (h : fl &&& w = fl) : fl &&& l.foldl (· ||| ·) w = fl := by
  induction l generalizing w with
  | nil => exact h
  | cons a l ih => exact ih (and_or_absorb h a)

/-- A union of flags holds those of every member. -/
theorem and_foldl_or_of_mem {fl : Word} {l : List Word} (h : fl ∈ l) (w : Word) : fl &&& l.foldl (· ||| ·) w = fl := by
  induction l generalizing w with
  | nil => exact absurd h List.not_mem_nil
  | cons a l ih =>
    rcases List.mem_cons.1 h with rfl | h
    · have hfl : fl &&& (w ||| fl) = fl := BitVec.or_comm fl w ▸ and_or_absorb (BitVec.and_self ..) w
      exact and_foldl_or_of_start l hfl
    · exact ih h _

/-- Element `j` of each operand. -/
def elemsAt (ew j : Nat) (vs : List Nat) : List Nat := vs.map fun v => v / 2 ^ (ew * j) % 2 ^ ew

theorem getD_elemsAt (ew j : Nat) (vs : List Nat) (k : Nat) : (elemsAt ew j vs).getD k 0 = vs.getD k 0 / 2 ^ (ew * j) % 2 ^ ew := by
  simpa [elemsAt] using List.getD_map vs 0 (n := k) fun v => v / 2 ^ (ew * j) % 2 ^ ew

theorem getD_ints (f : Fmt) (es : List Nat) (k : Nat) : (ints f es).getD k 0 = intOf (Fmt.isI f) (Fmt.width f) (es.getD k 0) := by
  have h : intOf (Fmt.isI f) (Fmt.width f) 0 = 0 := by simp [intOf]
  rw [ints, ← List.getD_map (f := intOf _ _), h]

/-- `onElems` works on the elements of one place at a time. -/
theorem onElems_eq (ew n : Nat) (f : List Nat → Nat × Word) (vs : List Nat) :
    onElems ew n f vs = (packElems ew ((List.range n).map fun k => (f (elemsAt ew k vs)).1),
      ((List.range n).map fun k => (f (elemsAt ew k vs)).2).foldl (· ||| ·) 0) := by
  have h : ((List.range n).map fun k => f ((vs.map (elems ew n)).map fun e => e.getD k 0)) =
      (List.range n).map fun k => f (elemsAt ew k vs) :=
    List.map_congr_left fun k hk => congrArg f <| by
      rw [List.map_map]
      exact List.map_congr_left fun v _ => getD_elems ew (List.mem_range.1 hk) v
  rw [onElems, h, List.map_map, ← List.foldl_map, List.map_map]
  rfl

section
variable {ew n j : Nat} (hj : j < n) (f : List Nat → Nat × Word) (vs : List Nat)

include hj

theorem onElems_elem : (onElems ew n f vs).1 / 2 ^ (ew * j) % 2 ^ ew = (f (elemsAt ew j vs)).1 % 2 ^ ew := by
  simp [onElems_eq, packElems_elem, hj]

theorem and_onElems_flags : (f (elemsAt ew j vs)).2 &&& (onElems ew n f vs).2 = (f (elemsAt ew j vs)).2 := by
  rw [onElems_eq]
  exact and_foldl_or_of_mem (List.mem_map (f := fun k => (f (elemsAt ew k vs)).2).2 ⟨j, List.mem_range.2 hj, rfl⟩) 0

end

theorem onElems_noFlags (ew n : Nat) {f : List Nat → Nat × Word} (hf : ∀ es, (f es).2 = 0) (vs : List Nat) :
    (onElems ew n f vs).2 = 0 := by
  have hzero (l : List Nat) : (l.map fun _ => (0 : Word)).foldl (· ||| ·) 0 = 0 := by
    induction l with
    | nil => rfl
    | cons _ l ih => simpa using ih
  simp only [onElems_eq, hf, hzero]

end Sys2Proof.Machine
end

section
/-! Packed elements wrap, saturate and round one by one. -/

namespace Sys2Proof.Machine

/-- The integer operation on one element of each operand, exact and then wrapped or saturated (R220). -/
def intElem (f : Fmt) (sat : Bool) (op : Int → Int → Int → Int) (es : List Nat) : Nat × Word :=
  let i (k : Nat) := intOf (Fmt.isI f) (Fmt.width f) (es.getD k 0)
  putInt (Fmt.isI f) (Fmt.width f) sat (op (i 0) (i 1) (i 2))

theorem intElems_eq (f : Fmt) (sat : Bool) (op : Int → Int → Int → Int) :
    intElems f sat op = onElems (Fmt.width f) (Fmt.count f) (intElem f sat op) := by
  funext vs
  simp only [intElems, getD_ints]
  rfl

/-- Settles O30: each of the three kinds of operation is its element operation under `onElems`, whose elements are those results
(`onElems_elem`) and whose flags are the union of theirs (`and_onElems_flags`, `onElems_noFlags`). -/
theorem packedElements : Obligations.PackedElements := by
  unfold Obligations.PackedElements
  intro f vs j hj w e
  have he (k : Nat) : e k = (elemsAt w j vs).getD k 0 := (getD_elemsAt w j vs k).symm
  simp only [he]
  refine ⟨fun sat op _ => ?_, fun m sat op _ => onElems_elem hj _ vs, fun op _ => ⟨onElems_elem hj _ vs, ?_⟩⟩
  · rw [intElems_eq]
    exact ⟨onElems_elem hj _ vs, and_onElems_flags hj (intElem f sat op) vs⟩
  · exact onElems_noFlags _ _ (fun _ => rfl) vs

end Sys2Proof.Machine
end

section
/-! SUPPORT. What MFENCE and EFENCE wait for, and a service thread's word that only passes (R112, R113, R206, R207, R328). -/

namespace Sys2Proof.Machine

/-! ### Fences of a group -/

/-- What a fence of class `x` waits for has performed (R112, third row; log entry 24). -/
def State.fencePast (s : State) (g : Nat) (x : PathClass) : Prop :=
  heldOf x (s.group g).inflight = false ∧ (x = .mx → tldAhead (s.group g).anvil = false) ∧
    (x = .rp → ∀ e ∈ s.replays, e.2.g = g → ∀ r ∈ e.2.threads, r.word = [])

/-- A fence lets its group on where it asks for nothing, or what it asks for has performed. -/
theorem State.fenceWaits_eq_false_iff (s : State) (g : Nat) (x y : PathClass) (sc : Scope) :
    s.fenceWaits g x y sc = false ↔ x = .ls ∧ y = .ls ∧ sc = .grp ∨ s.fencePast g x := by
  have hls : (x == .ls && y == .ls && sc == .grp) = true ↔ x = .ls ∧ y = .ls ∧ sc = .grp := by simp [and_assoc]
  have hmx : (x == .mx && tldAhead (s.group g).anvil) = false ↔ (x = .mx → tldAhead (s.group g).anvil = false) := by simp
  have hrp : (x == .rp && s.replays.any fun e => e.2.g == g && e.2.threads.any fun t => !t.word.isEmpty) = false ↔
      (x = .rp → ∀ e ∈ s.replays, e.2.g = g → ∀ r ∈ e.2.threads, r.word = []) := by simp
  rw [State.fencePast, ← hls, ← hmx, ← hrp, State.fenceWaits, Bool.and_eq_false_iff, Bool.not_eq_false', Bool.or_eq_false_iff,
    Bool.or_eq_false_iff, and_assoc]

theorem mfence_waits {s : State} {g : Nat} {x y : PathClass} {sc : Scope} (hc : s.cur = .group g) (h : s.fenceWaits g x y sc = true) :
    exec (.mfence x y sc) s = .next (s.waitFor 31) := by
  show execMfence x y sc s = _
  rw [execMfence, State.running_of (by simp [hc])]
  simp only [hc, h, if_true]

/-- A group past its MFENCE: its marker is among what its region holds, and its core's copies are to go where loads follow. -/
def Group.fence (z : Group) (x y : PathClass) (sc : Scope) : Group :=
  { z with
    reg := { z.reg with held := z.reg.held ++ [.fence x y sc] }
    l1drop := z.l1drop || (y == .ls && (x != .ls || !(sc == .grp || sc == .team))) }

theorem mfence_passes {s : State} {g : Nat} {x y : PathClass} {sc : Scope} (hc : s.cur = .group g) (h : s.fenceWaits g x y sc = false) :
    exec (.mfence x y sc) s = .next ((s.modGroup g fun z => z.fence x y sc).pass 4) := by
  show execMfence x y sc s = _
  rw [execMfence, State.running_of (by simp [hc])]
  simp only [hc, h, Bool.false_eq_true, if_false, State.hold, State.modGroup_modGroup]
  rfl

/-- EFENCE commits, and passes once everything has performed. -/
theorem efence_group {s : State} {g : Nat} (hc : s.cur = .group g) :
    exec .efence s = if ((s.commit g).hashCheckpoint g).quiet g then .next (((s.commit g).hashCheckpoint g).fenceDone g)
      else .next (((s.commit g).hashCheckpoint g).park? g .efence) := by
  show execEfence s = _
  rw [execEfence, State.running_of (by simp [hc])]
  simp only [hc]

/-! ### Words of a service thread that only pass -/

/-- A service thread that passes a word has moved its program counter, and nothing else. -/
theorem State.pass_wrote {s : State} {k : Nat} (hc : s.cur = .svc k) (len : DWord) :
    Claim.Wrote s (s.pass len) 0 0 0 (s.thr.wordAt + len) := by
  have hthr : (s.pass len).thr = s.thr.next len := State.thr_modThr _ (by simp [hc])
  have hcur : (s.pass len).cur = .svc k := (State.modThr_cur _ _).trans hc
  refine ⟨?_, fun n => ?_, fun n _ => ?_, ?_, ?_, ?_, fun n => ?_, ?_, fun g hg => ?_, fun a => ?_⟩
  case refine_1 =>
    rw [Claim.OnlyThread, hc]
    exact ⟨_, State.setThr_svc hc _⟩
  case refine_2 => rw [hthr, if_neg fun h => h.2 h.1]; rfl
  case refine_8 => simp [Claim.flagsIn, hcur, hc, hthr]
  case refine_9 => rw [hc] at hg; cases hg
  case refine_10 => rw [State.rdByte, State.pass, State.modThr_mem]; rfl
  all_goals rw [hthr]; rfl

theorem fences_svc {s : State} {k : Nat} (hc : s.cur = .svc k) (x y : PathClass) (sc : Scope) :
    exec (.mfence x y sc) s = .next (s.pass 4) ∧ exec .efence s = .next (s.pass 4) := by
  have hr : s.cur ≠ .none := by simp [hc]
  constructor
  · show execMfence x y sc s = _
    rw [execMfence, State.running_of hr]
    simp only [hc]
  · show execEfence s = _
    rw [execEfence, State.running_of hr]
    simp only [hc]

/-- Settles O21: `State.fenceWaits_eq_false_iff` says what MFENCE waits for, and `State.fenceDone_none` how EFENCE ends. -/
theorem fences : Obligations.Fences := by
  unfold Obligations.Fences
  refine ⟨fun x y sc s g hc => ?_, fun s g hc => ?_, fun s g hc => ?_, fun s k x y sc hc => ?_⟩
  · intro past
    have hw := s.fenceWaits_eq_false_iff g x y sc
    refine ⟨fun h => mfence_waits hc ?_, fun h => ?_⟩
    · exact Bool.not_eq_false _ ▸ mt hw.1 h
    · refine ⟨_, (mfence_passes hc (hw.2 h)).trans (congrArg _ (State.pass_modGroup hc _ 4)), ?_, ?_, rfl, rfl, fun hy hd => ?_⟩
      · rw [State.group_modGroup]; rfl
      · rw [State.thr_group ((State.modGroup_cur _ _ _).trans hc), State.group_modGroup, State.thr_group hc]; rfl
      · rw [State.group_modGroup]
        have hdrop : (y == .ls && (x != .ls || !(sc == .grp || sc == .team))) = true := by simpa [hy] using hd
        exact Bool.or_eq_true_iff.2 (.inr hdrop)
  · intro c hq hi
    refine ⟨c.fenceDone g, (efence_group hc).trans (if_pos hq), ?_⟩
    rw [State.fenceDone_none hi]
    exact ⟨by rw [State.group_modGroup]; rfl, by rw [State.group_modGroup], by simp [State.l1Drop], rfl, rfl⟩
  · intro c hq
    refine ⟨_, (efence_group hc).trans (if_neg (ne_true_of_eq_false hq)), ?_, ?_⟩
    · rw [State.park?, State.group_modGroup]
    · rw [State.park?, State.group_modGroup]
  · obtain ⟨hm, he⟩ := fences_svc hc x y sc
    exact ⟨⟨_, hm, State.pass_wrote hc 4⟩, _, he, State.pass_wrote hc 4⟩

end Sys2Proof.Machine
end

section
/-! SUPPORT. Lane words whose stores enter their region's buffer (R29, R107, R246, R248). -/

namespace Sys2Proof.Machine

/-! ### The state in which a memory word has read its sources -/

section
variable (s : State) (g : Nat) (o : LaneOp) (r : LaneRule)

theorem after_group (k : Nat) : (Claim.after s g o r).group k = s.group k := by
  obtain ⟨n, h⟩ : State.SameButFree s (Claim.after s g o r) := State.readUses_free _ _ _ _
  rw [h]; rfl

theorem after_thr : (Claim.after s g o r).thr = s.thr := by
  obtain ⟨n, h⟩ : State.SameButFree s (Claim.after s g o r) := State.readUses_free _ _ _ _
  rw [h]; rfl

theorem after_lockBit (b : Nat) : (Claim.after s g o r).lockBit g b = s.lockBit g b := by
  obtain ⟨n, h⟩ : State.SameButFree s (Claim.after s g o r) := State.readUses_free _ _ _ _
  rw [h]; rfl

end

/-! ### The course of a memory word -/

/-- A memory word whose checks fail ends as they say. -/
theorem State.memWord_error {s : State} {g : Nat} {o : LaneOp} {r : LaneRule} {k : Nat → Word → List (Tab Nat) → State → Try State} {u : State}
    (hr : Claim.LaneReady s g o.h .other (usesOf r 32 o) (putOf r o)) (hm : Claim.lanes s g o.h ≠ 0)
    (hk : k g (Claim.lanes s g o.h) (Claim.srcs s g o r) (Claim.after s g o r) = .error u) : s.memWord o r k = .next u := by
  rw [State.memWord, State.laneWord_of_ready hr, if_neg hm]
  simp only [Claim.srcs, Claim.after] at hk
  simp only [hk]

/-- A region that has issued no global atomic may access memory (R30). -/
theorem State.placement_ok {s : State} {g : Nat} {m : Word} (h : (s.group g).reg.atom = false) : s.placement g m = .ok () := by
  rw [State.placement, h]; rfl

theorem after_placement {s : State} {g : Nat} {o : LaneOp} {r : LaneRule} (hr : Claim.MemReady s g o r) (m : Word) :
    (Claim.after s g o r).placement g m = .ok () :=
  State.placement_ok (by rw [after_group]; exact hr.atom)

/-- What a word does that puts `h` in its region's buffer: it ends with `h` the last of what the region holds, or finds the buffer
full (R29, R246). -/
def State.Buffers (s : State) (g : Nat) (o : LaneOp) (i : Instr) (r : LaneRule) (h : Held) : Prop :=
  (storeCount (s.group g).reg.held < 64 → ∃ u, Claim.MemDone s u i g o r ∧
    u = (Claim.after s g o r).modGroup g fun x => { x with reg := { x.reg with held := x.reg.held ++ [h] } }) ∧
  (64 ≤ storeCount (s.group g).reg.held →
    exec i s = .next ((Claim.after s g o r).raise .storeBufferFull { flm := s.thr.em }))

section
variable {s : State} {g : Nat} {o : LaneOp} {i : Instr} {r : LaneRule} {k : Nat → Word → List (Tab Nat) → State → Try State}
  (hr : Claim.MemReady s g o r) (hi : exec i s = s.memWord o r k)
include hr hi

/-- A memory word whose effect is to buffer a store. -/
theorem State.memWord_buffers {h : Held} (hk : k g (Claim.lanes s g o.h) (Claim.srcs s g o r) (Claim.after s g o r) =
      (Claim.after s g o r).buffer g h (Claim.after s g o r).thr.em) : s.Buffers g o i r h := by
  rw [State.buffer, after_group, after_thr] at hk
  refine ⟨fun hroom => ⟨_, hi.trans (State.memWord_ok hr.word hr.some (hk.trans ?_)), rfl⟩,
    fun hfull => hi.trans (State.memWord_error hr.word hr.some (hk.trans ?_))⟩
  · exact if_neg (Nat.not_le.2 hroom)
  · exact if_pos hfull

end

/-! ### The words -/

section
variable {s : State} {g : Nat} {o : LaneOp}

theorem vst_buffers (hr : Claim.MemReady s g o (ruleVst o)) {ps : List (Nat × Nat × DWord)}
    (hp : (Claim.after s g o (ruleVst o)).globalCheck g { write := true, path := some 0 } (memBytes o) false
      (globalAds o ((s.group g).writers (Claim.lanes s g o.h)) (Claim.srcs s g o (ruleVst o))) = .ok ps) :
    s.Buffers g o (.vst o) (ruleVst o) (.store .ls (vstGlobal (memBytes o) (Claim.srcs s g o (ruleVst o))
      (globalAds o ((s.group g).writers (Claim.lanes s g o.h)) (Claim.srcs s g o (ruleVst o))) ps) [] true true (ps.any fun p => pteSc p.2.2)) := by
  refine State.memWord_buffers hr (show exec (.vst o) s = execVst o s from rfl) ?_
  simp only [after_placement hr, after_group, hp, bind, Except.bind]

theorem vsts_buffers (hr : Claim.MemReady s g o (ruleVsts o)) {offs : List (Nat × Nat)}
    (hp : (Claim.after s g o (ruleVsts o)).spadCheck g (memBytes o)
      (spadAds o ((s.group g).writers (Claim.lanes s g o.h)) (Claim.srcs s g o (ruleVsts o))) = .ok offs) :
    s.Buffers g o (.vsts o) (ruleVsts o) (.store .ls (vstSpad (memBytes o) (Claim.srcs s g o (ruleVsts o)) offs) [] true true false) := by
  refine State.memWord_buffers hr (show exec (.vsts o) s = execVsts o s from rfl) ?_
  simp only [after_placement hr, after_group, hp, bind, Except.bind]

variable {offs : List (Nat × Nat)} (hr : Claim.MemReady s g o (ruleVstul o))
  (hp : (Claim.after s g o (ruleVstul o)).spadCheck g 4 (spadAds o (Claim.lanes s g o.h) (Claim.srcs s g o (ruleVstul o))) = .ok offs)
include hr hp

/-- VSTUL of a bit that is not the group's (R91). -/
theorem vstul_notHeld (h : ∃ a ∈ offs, (s.lockBit g (lockOf a.2)).mine g = false) :
    ∃ f, exec (.vstul o) s = .next ((Claim.after s g o (ruleVstul o)).raise .lockNotHeld { flm := f }) := by
  have hbad : (!(offs.filter fun a => !(s.lockBit g (lockOf a.2)).mine g).isEmpty) = true := by simpa using h
  refine ⟨maskOf ((offs.filter fun a => !(s.lockBit g (lockOf a.2)).mine g).map Prod.fst),
    (show exec (.vstul o) s = execVstul o s from rfl).trans (State.memWord_error hr.word hr.some ?_)⟩
  simp only [after_placement hr, after_group, after_lockBit, hp, bind, Except.bind, hbad, if_true]

theorem vstul_buffers (h : ∀ a ∈ offs, (s.lockBit g (lockOf a.2)).mine g = true) :
    s.Buffers g o (.vstul o) (ruleVstul o) (.store .ls (vstSpad 4 (Claim.srcs s g o (ruleVstul o))
      (offs.filter fun a => ((s.group g).writers (Claim.lanes s g o.h)).getLsbD a.1)) ((offs.map fun a => lockOf a.2).dedup) true true false) := by
  have hgood : (!(offs.filter fun a => !(s.lockBit g (lockOf a.2)).mine g).isEmpty) = false := by simpa using h
  refine State.memWord_buffers hr (show exec (.vstul o) s = execVstul o s from rfl) ?_
  simp only [after_placement hr, after_group, after_lockBit, hp, bind, Except.bind, hgood, Bool.false_eq_true, if_false]

end

/-- Settles O34: each word's effect past its checks is to buffer its store (`State.memWord_buffers`). -/
theorem laneStores : Obligations.LaneStores := by
  unfold Obligations.LaneStores
  intro o s g m w holds
  refine ⟨fun ps hr => ?_, fun offs hr => ?_, fun offs hr => ?_⟩
  · intro vs hp
    exact vst_buffers hr hp
  · intro vs hp
    exact vsts_buffers hr hp
  · intro vs hp
    exact ⟨vstul_notHeld hr hp, vstul_buffers hr hp⟩

end Sys2Proof.Machine
end

section
/-! SUPPORT. Words that hold a command for their commit, and RRES (R106, R279, R280, R282, R284, R287, R288). -/

namespace Sys2Proof.Machine

/-! ### What a word leaves that holds a command -/

/-- What is held last comes last at the commit; no register, byte or window has changed. -/
theorem State.hold_keeps {s t : State} (ht : State.SameButFree s t) (g : Nat) (h : Held) :
    ((t.hold g h).group g).reg.held = (s.group g).reg.held ++ [h] ∧ ((t.hold g h).group g).thr = (s.group g).thr ∧
      ((t.hold g h).group g).f = (s.group g).f ∧ (t.hold g h).mem = s.mem ∧ (t.hold g h).teams = s.teams := by
  obtain ⟨n, rfl⟩ := ht
  rw [State.hold, State.group_modGroup]
  exact ⟨rfl, rfl, rfl, rfl, rfl⟩

theorem State.popped_hold (s : State) (g q n : Nat) (h : Held) : (s.hold g h).popped g q n = (s.popped g q n).hold g h := by
  have hteam : ((s.hold g h).group g).team = (s.group g).team := by rw [State.hold, State.group_modGroup]
  unfold State.popped
  split
  · rfl
  · rw [hteam]; rfl

/-- A word may pop its queues before or after it holds its command. -/
theorem State.popAll_hold (s : State) (g : Nat) (m : Word) (us : List Use) (h : Held) :
    (s.hold g h).popAll g m us = (s.popAll g m us).hold g h := by
  unfold State.popAll
  generalize (us.filterMap useQueue).dedup = qs
  induction qs generalizing s with
  | nil => rfl
  | cons q qs ih => rw [List.foldl_cons, List.foldl_cons, State.popped_hold, ih]

/-! ### Command words -/

section
variable {s : State} {g : Nat} {o : LaneOp} {cls : LaneClass} {r : LaneRule} (hr : Claim.LaneReady s g o.h cls (usesOf r 32 o) none)
  (c : (Nat → DWord) → Cmd)
include hr

theorem State.commandWord_noLanes (hm : Claim.lanes s g o.h = 0) : s.commandWord o cls r c = .next (s.laneDone g o.h) := by
  rw [State.commandWord, State.laneWord_of_ready hr, if_pos hm]

theorem State.commandWord_holds (hm : Claim.lanes s g o.h ≠ 0) :
    let v := s.readUses g (Claim.lanes s g o.h) (usesOf r 32 o (Claim.lanes s g o.h))
    s.commandWord o cls r c = .next ((v.1.hold g (.cmd (c (snapVal (Claim.lanes s g o.h) v.2)))).laneDone g o.h) := by
  rw [State.commandWord, State.laneWord_of_ready hr, if_neg hm]

end

/-! ### RTRACE (R284) -/

/-- The slot of a lane's ray, and those of the active lanes. -/
def laneSlot (vs : List (Tab Nat)) (l : Nat) : DWord := BitVec.ofNat 64 (Tab.get 0 (vs.getD 0 []) l)
def laneSlots (m : Word) (vs : List (Tab Nat)) : List (Nat × DWord) := (lanesOf m).map fun l => (l, laneSlot vs l)

/-- A slot that is refused: it, or the counter, lies outside the address space, or is not aligned. -/
def slotFar (counter : Option DWord) (a : DWord) : Bool :=
  a.toNat / 2 ^ 58 != 0 || match counter with | some c => c.toNat / 2 ^ 58 != 0 | none => false
def slotOdd (counter : Option DWord) (a : DWord) : Bool :=
  a.toNat % 128 != 0 || match counter with | some c => c.toNat % 8 != 0 | none => false

theorem slotFar_iff (counter : Option DWord) (a : DWord) : slotFar counter a = true ↔ 2 ^ 58 ≤ a.toNat ∨ ∃ c ∈ counter, 2 ^ 58 ≤ c.toNat := by
  cases counter <;> simp [slotFar]

theorem slotOdd_iff (counter : Option DWord) (a : DWord) : slotOdd counter a = true ↔ a.toNat % 128 ≠ 0 ∨ ∃ c ∈ counter, c.toNat % 8 ≠ 0 := by
  cases counter <;> simp [slotOdd]

/-- What holds for a word with an active lane holds beside one of its lanes. -/
theorem exists_lane_or {m : Word} (hm : m ≠ 0) {p : Prop} {q : Nat → Prop} (h : p ∨ ∃ l ∈ lanesOf m, q l) : ∃ l ∈ lanesOf m, q l ∨ p := by
  rcases h with h | ⟨l, hl, h⟩
  · obtain ⟨l, hl⟩ := List.exists_mem_of_ne_nil _ (lanesOf_ne_nil hm)
    exact ⟨l, hl, .inr h⟩
  · exact ⟨l, hl, .inl h⟩

section
variable {s : State} {m : Word} {vs : List (Tab Nat)} {counter : Option DWord}

/-- The trap of the lanes whose slots meet a test. -/
def State.slotTrap (s : State) (c : Cause) (m : Word) (vs : List (Tab Nat)) (p : DWord → Bool) : State :=
  s.trapLanes c 4 (((laneSlots m vs).filter fun e => p e.2).map fun e => (e.1, e.2, none))

theorem State.slotTrap_raise (c : Cause) {p : DWord → Bool} (h : ∃ l ∈ lanesOf m, p (laneSlot vs l) = true) :
    ∃ i, s.slotTrap c m vs p = s.raise c i := by
  obtain ⟨l, hl, hp⟩ := h
  have hmem : (l, laneSlot vs l) ∈ (laneSlots m vs).filter fun e => p e.2 := List.mem_filter.2 ⟨List.mem_map_of_mem hl, hp⟩
  unfold State.slotTrap
  generalize (laneSlots m vs).filter (fun e => p e.2) = bad at hmem
  cases bad with
  | nil => cases hmem
  | cons e bad => exact ⟨_, rfl⟩

/-- The checks of the slots in their order (R284). -/
theorem State.rtraceSlots_eq : s.rtraceSlots m vs counter =
    if (∃ l ∈ lanesOf m, slotFar counter (laneSlot vs l) = true) then .error (s.slotTrap .addrRange m vs (slotFar counter))
    else if (∃ l ∈ lanesOf m, slotOdd counter (laneSlot vs l) = true) then .error (s.slotTrap .misaligned m vs (slotOdd counter))
    else .ok (laneSlots m vs) := by
  have hany (p : DWord → Bool) : (!((laneSlots m vs).filter fun e => p e.2).isEmpty) = true ↔ ∃ l ∈ lanesOf m, p (laneSlot vs l) = true := by
    simp [laneSlots]
  simp only [← hany]
  rfl

theorem State.rtraceSlots_addrRange (hm : m ≠ 0) (h : (∃ c ∈ counter, 2 ^ 58 ≤ c.toNat) ∨ ∃ l ∈ lanesOf m, 2 ^ 58 ≤ (laneSlot vs l).toNat) :
    ∃ i, s.rtraceSlots m vs counter = .error (s.raise .addrRange i) := by
  replace h := exists_lane_or hm h
  simp only [← slotFar_iff] at h
  obtain ⟨i, hi⟩ := State.slotTrap_raise (s := s) .addrRange h
  exact ⟨i, by rw [State.rtraceSlots_eq, if_pos h, hi]⟩

variable (hs : ∀ l ∈ lanesOf m, (laneSlot vs l).toNat < 2 ^ 58) (hc : ∀ c ∈ counter, c.toNat < 2 ^ 58)
include hs hc

theorem slots_inRange : ¬∃ l ∈ lanesOf m, slotFar counter (laneSlot vs l) = true := by
  rintro ⟨l, hl, h⟩
  rcases (slotFar_iff _ _).1 h with h | ⟨c, hcm, h⟩
  · exact absurd (hs l hl) (Nat.not_lt.2 h)
  · exact absurd (hc c hcm) (Nat.not_lt.2 h)

theorem State.rtraceSlots_misaligned (hm : m ≠ 0) (h : (∃ c ∈ counter, c.toNat % 8 ≠ 0) ∨ ∃ l ∈ lanesOf m, (laneSlot vs l).toNat % 128 ≠ 0) :
    ∃ i, s.rtraceSlots m vs counter = .error (s.raise .misaligned i) := by
  replace h := exists_lane_or hm h
  simp only [← slotOdd_iff] at h
  obtain ⟨i, hi⟩ := State.slotTrap_raise (s := s) .misaligned h
  exact ⟨i, by rw [State.rtraceSlots_eq, if_neg (slots_inRange hs hc), if_pos h, hi]⟩

theorem State.rtraceSlots_ok (hs' : ∀ l ∈ lanesOf m, (laneSlot vs l).toNat % 128 = 0) (hc' : ∀ c ∈ counter, c.toNat % 8 = 0) :
    s.rtraceSlots m vs counter = .ok (laneSlots m vs) := by
  rw [State.rtraceSlots_eq, if_neg (slots_inRange hs hc), if_neg]
  rintro ⟨l, hl, h⟩
  rcases (slotOdd_iff _ _).1 h with h | ⟨c, hcm, h⟩
  · exact h (hs' l hl)
  · exact h (hc' c hcm)

end

section
variable (s : State) (g : Nat) (o : LaneOp)

/-- The checks of an RTRACE that has read its sources: a trap, or the slots of its rays. -/
def State.rtraceChecked : Try (List (Nat × DWord)) :=
  let vs := Claim.srcs s g o (ruleRtrace false o)
  (Claim.after s g o (ruleRtrace false o)).rtraceSlots (Claim.lanes s g o.h) vs (some (snapVal (Claim.lanes s g o.h) vs 1))

/-- The command of an RTRACE: the identity and the slot of each active lane, and the counter. -/
def State.rtraceCmd : Cmd :=
  let vs := Claim.srcs s g o (ruleRtrace false o)
  .rtrace ((lanesOf (Claim.lanes s g o.h)).map fun l => ((Tab.get Lane.zero (s.group g).lanes l).glid, laneSlot vs l))
    (snapVal (Claim.lanes s g o.h) vs 1)

variable {s g o} (hr : Claim.LaneReady s g o.h .other (usesOf (ruleRtrace false o) 32 o) none) (hm : Claim.lanes s g o.h ≠ 0)
include hr hm

theorem rtrace_error {u : State} (h : s.rtraceChecked g o = .error u) : exec (.rtrace o) s = .next u := by
  show execRtrace o s = _
  rw [execRtrace, State.laneWord_of_ready hr, if_neg hm]
  simp only [State.rtraceChecked, Claim.srcs, Claim.after] at h
  simp only [h]

theorem rtrace_holds (h : s.rtraceChecked g o = .ok (laneSlots (Claim.lanes s g o.h) (Claim.srcs s g o (ruleRtrace false o)))) :
    Claim.Done s ((Claim.after s g o (ruleRtrace false o)).hold g (.cmd (s.rtraceCmd g o))) (.rtrace o) g o.h (usesOf (ruleRtrace false o) 32 o) := by
  have hids : (laneSlots (Claim.lanes s g o.h) (Claim.srcs s g o (ruleRtrace false o))).map
      (fun e => ((Tab.get Lane.zero (s.group g).lanes e.1).glid, e.2)) =
        (lanesOf (Claim.lanes s g o.h)).map fun l =>
          ((Tab.get Lane.zero (s.group g).lanes l).glid, laneSlot (Claim.srcs s g o (ruleRtrace false o)) l) := by
    rw [laneSlots, List.map_map]; rfl
  show execRtrace o s = _
  rw [execRtrace, State.laneWord_of_ready hr, if_neg hm, State.popAll_hold, State.rtraceCmd, ← hids]
  simp only [State.rtraceChecked, Claim.srcs, Claim.after] at h
  simp only [h]
  rfl

end

/-! ### RRES (R288) -/

/-- Keys that are only ever written with one value read as it. -/
theorem Tab.get_setAll_const {α : Type} [DecidableEq α] (d v : α) (t : Tab α) {ks : List Nat} {k : Nat} (h : k ∈ ks) :
    Tab.get d (Tab.setAll d t (ks.map fun k => (k, v))) k = v := by
  induction ks generalizing t with
  | nil => cases h
  | cons j ks ih =>
    rw [List.map_cons, Tab.setAll]
    by_cases hk : k ∈ ks
    · exact ih _ hk
    · obtain rfl := (List.mem_cons.1 h).resolve_right hk
      rw [Tab.get_setAll_notMem _ _ (by simpa using hk), Tab.get_set_self]

/-- A value that is handed over is the last to come, and its registers are empty until it lands (R44, R53). -/
theorem State.addPending_spec (s : State) (g : Nat) (p : Pending) :
    ((s.addPending g p).group g).pend.map Pending.rres = (s.group g).pend.map Pending.rres ++ [p.rres] ∧
      ((s.addPending g p).group g).pend.map Pending.vdst = (s.group g).pend.map Pending.vdst ++ [p.vdst] ∧
      (∀ k ∈ p.vdst.map Prod.fst, Tab.get false ((s.addPending g p).group g).f.vempty k = true) ∧
      ((s.addPending g p).group g).f.v = (s.group g).f.v := by
  rw [State.addPending, State.group_modGroup]
  refine ⟨by rw [List.map_append]; rfl, by rw [List.map_append]; rfl, fun k hk => ?_, rfl⟩
  have hmap : (p.vdst.map fun (k, _) => (k, true)) = (p.vdst.map Prod.fst).map fun k => (k, true) := by rw [List.map_map]; rfl
  rw [hmap]
  exact Tab.get_setAll_const false true _ hk

section
variable {s : State} {g : Nat} {o : LaneOp} (hr : Claim.LaneReady s g o.h .other (fun _ => []) (putOf ruleRres o))
  (hm : Claim.lanes s g o.h ≠ 0)
include hr hm

theorem rres_nothing (h : s.uncovered g = []) : exec (.rres o) s =
    .next ((s.writeDst g ⟨o.d, 1⟩ ((lanesOf (Claim.lanes s g o.h)).map fun l => (l, 0))).laneDone g o.h) := by
  show execRres o s = _
  rw [execRres, State.laneWord_of_ready hr, if_neg hm]
  simp only [h]

/-- An RRES that covers replays hands over a value of its registers, which stands for what they come to. -/
theorem rres_covers (h : s.uncovered g ≠ []) : ∃ rs : Tab Replay, exec (.rres o) s =
    .next (({ s with replays := rs }.addPending g ⟨0, 0, 0, none, ((s.group g).putKeys ⟨o.d, 1⟩ (Claim.lanes s g o.h)).map fun k => (k, 0), [], 0, 17, [],
      some (s.uncovered g)⟩).laneDone g o.h) := by
  obtain ⟨n, ns, hu⟩ := List.exists_cons_of_ne_nil h
  refine ⟨(s.uncovered g).foldl (fun t n => Tab.upd t n fun (r : Replay) => { r with cover := some (s.group g).regen }) s.replays, ?_⟩
  show execRres o s = _
  rw [execRres, State.laneWord_of_ready hr, if_neg hm]
  simp only [hu]

end

end Sys2Proof.Machine
end

section
/-! SUPPORT. RTRACE.SHADE: the rays on which its lanes wait, and what its group hands over as it dissolves (R106, R262, R286). -/

namespace Sys2Proof.Machine

/-! ### Rays that are added -/

theorem Tab.look_fresh {α : Type} (t : Tab α) {n : Nat} (h : Tab.fresh t ≤ n) : Tab.look t n = none := by
  induction t with
  | nil => rfl
  | cons e t ih =>
    obtain ⟨k, v⟩ := e
    have hk : k + 1 ≤ n := (Nat.le_max_left _ _).trans h
    rw [Tab.look, if_neg (by omega), ih ((Nat.le_max_right _ _).trans h)]

section
variable {α : Type} (ray : State → α → Ray)

/-- One more ray, under a key of its own, which is listed. -/
def State.addRay (p : State × List Nat) (a : α) : State × List Nat :=
  (p.1.setRay (Tab.fresh p.1.rays) (ray p.1 a), p.2 ++ [Tab.fresh p.1.rays])

/-- Rays that are listed stay. -/
theorem State.addRays_keeps {p : State × List Nat} {k : Nat} {r : Ray} (hk : k ∈ p.2) (hr : Tab.look p.1.rays k = some r) (l : List α) :
    k ∈ (l.foldl (State.addRay ray) p).2 ∧ Tab.look (l.foldl (State.addRay ray) p).1.rays k = some r := by
  induction l generalizing p with
  | nil => exact ⟨hk, hr⟩
  | cons a l ih =>
    refine ih (List.mem_append_left _ hk) ?_
    have hne : k ≠ Tab.fresh p.1.rays := by
      rintro rfl
      rw [Tab.look_fresh _ le_rfl] at hr
      cases hr
    exact (Tab.look_put_ne _ _ hne).trans hr

/-- Each ray that is added is listed, as it was made. -/
theorem State.addRays_mem {l : List α} {a : α} (ha : a ∈ l) (p : State × List Nat) :
    ∃ k v, k ∈ (l.foldl (State.addRay ray) p).2 ∧ Tab.look (l.foldl (State.addRay ray) p).1.rays k = some (ray v a) := by
  induction l generalizing p with
  | nil => cases ha
  | cons b l ih =>
    rcases List.mem_cons.1 ha with rfl | ha
    · exact ⟨_, p.1, State.addRays_keeps ray (List.mem_append_right _ (List.mem_singleton_self _)) (Tab.look_put_self _ _ _) l⟩
    · exact ih ha _

end

/-! ### A group that leaves while a command of its is to come -/

theorem endFree_rays : EndFree State.rays :=
  ⟨fun _ _ => rfl, fun _ _ => rfl, fun _ _ => rfl, fun _ _ => rfl, fun _ _ => rfl, fun _ _ => rfl⟩

/-- A group's commands outlast its blocks. -/
theorem State.releaseBlocks_cmd {s : State} {g : Nat} {c : Cmd} (b : Nat) (h : Held.cmd c ∈ (s.group g).inflight) :
    Held.cmd c ∈ ((s.releaseBlocks g b).group g).inflight ∧ (s.releaseBlocks g b).rays = s.rays := by
  unfold State.releaseBlocks
  dsimp only
  rw [State.group_modGroup]
  constructor
  · split
    · exact List.mem_map.2 ⟨_, h, rfl⟩
    · exact List.mem_map.2 ⟨_, h, rfl⟩
  · split <;> rfl

/-- The rays of a group that has gone are known under another key of the group. -/
def Ray.rekey (g k : Nat) (r : Ray) : Ray := if r.g = g then { r with g := k } else r

theorem Ray.rekey_eq (g k : Nat) (r : Ray) : ∃ j, r.rekey g k = { r with g := j } := by
  unfold Ray.rekey
  split
  · exact ⟨_, rfl⟩
  · exact ⟨_, rfl⟩

/-- What a group that leaves has handed over goes on under another key, and so do its rays (R109, R262). -/
theorem State.removeGroup_cmd {s : State} {g : Nat} {c : Cmd} (h : Held.cmd c ∈ (s.group g).inflight) :
    ∃ n z, Tab.look (s.removeGroup g).groups n = some z ∧ Held.cmd c ∈ z.inflight ∧
      ∀ k, Tab.look (s.removeGroup g).rays k = (Tab.look s.rays k).map (Ray.rekey g n) := by
  obtain ⟨hcmd, hrays⟩ := State.releaseBlocks_cmd (s := s.freeHeld g) 0 h
  have hw : Held.cmd c ∈ ((((s.freeHeld g).releaseBlocks g 0).withdraw g).group g).inflight := by
    rw [State.group, endFree_groups.withdraw]
    exact hcmd
  have hwr : (((s.freeHeld g).releaseBlocks g 0).withdraw g).rays = s.rays := (endFree_rays.withdraw _ _).trans hrays
  unfold State.removeGroup
  dsimp only
  generalize ((s.freeHeld g).releaseBlocks g 0).withdraw g = w at hw hwr
  have htrail : Held.cmd c ∈ (w.group g).trail.inflight := List.mem_filter.2 ⟨hw, rfl⟩
  have htrails : (w.group g).trail.trails = true := by
    have hne : (w.group g).trail.inflight.isEmpty = false := List.isEmpty_eq_false_iff.2 (List.ne_nil_of_mem htrail)
    rw [Group.trails, hne]
    rfl
  rw [if_pos (by exact htrails)]
  refine ⟨_, _, Tab.look_put_self _ _ _, htrail, fun k => ?_⟩
  rw [← hwr]
  exact Tab.look_map w.rays _ (fun _ => by rfl) k

theorem State.leave_cmd {s : State} {g : Nat} {c : Cmd} (h : Held.cmd c ∈ (s.group g).inflight) :
    ∃ n z, Tab.look (s.leave g).groups n = some z ∧ Held.cmd c ∈ z.inflight ∧
      ∀ k, Tab.look (s.leave g).rays k = (Tab.look s.rays k).map (Ray.rekey g n) :=
  State.removeGroup_cmd (s := s.modGroup g fun x => { x with lanes := [] }) (by rw [State.group_modGroup]; exact h)

/-! ### The shading call -/

section
variable (after : State) (l g : Nat) (m : Word) (x : Group) (regs : List Nat) (table : DWord) (ads : List (Nat × DWord)) (cont : Nat → Nat)

/-- The ray of a lane and its slot, which is held for its release; the lane waits on it with its continuation. -/
def shadeRay (r : Option Nat) (v : State) (e : Nat × DWord) : Ray :=
  let y := x.callLane regs true cont (fun _ => 0) r e.1
  { Ray.new l x.team g (v.team x.team).core e.2 0 (some (table, y)) y.lane.glid with st := .held }

/-- The state with the rays of a shading call, and their keys. -/
def State.shadeRays : State × List Nat :=
  let v := after.suspended m x regs cont fun _ => 0
  ads.foldl (State.addRay (shadeRay l g x regs table cont v.2)) (after.setTeam x.team v.1, [])

/-- What a shading call makes of the state: the rays are there, and what releases them is the last that the group hands over. -/
def State.shaded : State :=
  let v := after.shadeRays l g m x regs table ads cont
  (v.1.modGroup g fun y => { y with inflight := y.inflight ++ [.cmd (.shade v.2)] }).leave g

theorem State.shaded_look : Tab.look (after.shaded l g m x regs table ads cont).groups g = none := State.removeGroup_look _ _

/-- Every active lane waits on a ray of its own, which the group's last command releases. -/
theorem State.shaded_rays : ∃ n z ks, Tab.look (after.shaded l g m x regs table ads cont).groups n = some z ∧ Held.cmd (.shade ks) ∈ z.inflight ∧
    ∀ e ∈ ads, ∃ k v r, k ∈ ks ∧ Tab.look (after.shaded l g m x regs table ads cont).rays k = some ((shadeRay l g x regs table cont r v e).rekey g n) := by
  set v := after.shadeRays l g m x regs table ads cont with hv
  obtain ⟨n, z, hz, hcmd, hrays⟩ := State.leave_cmd (s := v.1.modGroup g fun y => { y with inflight := y.inflight ++ [.cmd (.shade v.2)] })
    (g := g) (c := .shade v.2) (by rw [State.group_modGroup]; exact List.mem_append_right _ (List.mem_singleton_self _))
  refine ⟨n, z, v.2, hz, hcmd, fun e he => ?_⟩
  obtain ⟨k, u, hk, hu⟩ := State.addRays_mem (shadeRay l g x regs table cont (after.suspended m x regs cont fun _ => 0).2) he
    (after.setTeam x.team (after.suspended m x regs cont fun _ => 0).1, [])
  exact ⟨k, u, _, hk, (hrays k).trans (congrArg (Option.map (Ray.rekey g n)) hu)⟩

end

section
variable {s after : State} {g : Nat} {m : Word} {regs : List Nat} {table : DWord} {ads : List (Nat × DWord)} {cont : Nat → Nat}

/-- Past its checks a shading call dissolves its group (R286). -/
theorem State.shade_checked (hcont : ∀ l, l < 32 → (s.group g).present.getLsbD l = true → (s.function (s.launchOf g) (cont l)).isSome = true)
    (hregs : ∀ q ∈ regs, q < 16 * (s.group g).blocks) (hdeep : ∀ l ∈ lanesOf m, (Tab.get Lane.zero (s.group g).lanes l).stack.length < 8)
    (hrecs : (s.team (s.group g).team).recs.length < 64)
    (hmay : (s.group g).mayDissolve = true) :
    s.shade after g m regs table ads cont = .ok (after.shaded (s.launchOf g) g m (s.group g) regs table ads cont) := by
  have hbad : maskWhere (s.group g).present (fun k => (s.function (s.launchOf g) (cont k)).isNone) = 0 := by
    by_contra h
    obtain ⟨l, hl, hp, hn⟩ := (maskWhere_ne_zero_iff _ _).1 h
    have hsome := hcont l hl hp
    rw [Option.isNone_iff_eq_none.1 hn] at hsome
    cases hsome
  have hdeep' : (s.group g).callDeep m = 0 := by
    by_contra h
    obtain ⟨l, hl, hb, h8⟩ := Group.callDeep_ne_zero_iff.1 h
    exact absurd (hdeep l (mem_lanesOf.2 ⟨hl, hb⟩)) (Nat.not_lt.2 h8)
  have hregs' : ¬(regs.any fun r => decide (16 * (s.group g).blocks ≤ r)) = true := by simpa using hregs
  have hrecs' : ¬((s.group g).present &&& ~~~m != 0 && decide (64 ≤ (s.team (s.group g).team).recs.length)) = true := by
    rw [decide_eq_false (Nat.not_le.2 hrecs), Bool.and_false]; exact Bool.false_ne_true
  unfold State.shade
  dsimp only
  rw [if_neg (by simpa using hbad), if_neg hregs', if_neg (by rw [bne_iff_ne]; exact not_not.2 hdeep'), if_neg hrecs', if_neg (by rw [hmay]; decide)]
  rfl

end

/-! ### The word -/

/-- The sources of an RTRACE.SHADE, as its lanes read them. -/
def State.shadeRead (s : State) (g : Nat) (o : LaneOp) : State × List (Tab Nat) :=
  s.readUses g (Claim.lanes s g o.h) (shadeUses (s.group g) o (Claim.lanes s g o.h))

section
variable {s : State} {g : Nat} {o : LaneOp} (hr : Claim.LaneReady s g o.h .other (shadeUses (s.group g) o) none)
include hr

/-- RTRACE.SHADE anywhere but at the end of a region (R286). -/
theorem rtraceShade_misplaced (hp : s.shadePlaced g = false) :
    exec (.rtraceShade o) s = .next (s.raise .tracePlacement { flm := Claim.lanes s g o.h }) := by
  show execRtraceShade o s = _
  rw [execRtraceShade, State.gid_of_group hr.runs, State.laneWord_of_ready hr, hp]
  rfl

variable (hm : Claim.lanes s g o.h ≠ 0) (hp : s.shadePlaced g = true) {ads : List (Nat × DWord)} {regs : List Nat}
  (ha : (s.shadeRead g o).1.rtraceSlots (Claim.lanes s g o.h) (s.shadeRead g o).2 none = .ok ads)
  (hs : ((s.shadeRead g o).1.commit g).callSite g (LaneOp.xfield o 2 11) (Claim.lanes s g o.h) = .ok regs)
include hm hp ha hs

theorem rtraceShade_lowRegs (h : ∃ q ∈ regs, q < 8) :
    exec (.rtraceShade o) s = .next (((s.shadeRead g o).1.commit g).raise .callTable { flm := Claim.lanes s g o.h }) := by
  have h' : (regs.any fun r => decide (r < 8)) = true := by simpa using h
  show execRtraceShade o s = _
  rw [execRtraceShade, State.gid_of_group hr.runs, State.laneWord_of_ready hr, hp]
  rw [State.shadeRead] at ha hs ⊢
  simp only [Bool.not_true, Bool.false_eq_true, if_false, ha, State.callCommit, if_neg hm, hs, h', if_true]

variable (hlow : ∀ q ∈ regs, 8 ≤ q)
include hlow

theorem rtraceShade_waits (h : ((s.shadeRead g o).1.commit g).callReady g (s.group g).present regs = false) :
    exec (.rtraceShade o) s = .next (((s.shadeRead g o).1.commit g).waitFor 11) := by
  have h' : (regs.any fun r => decide (r < 8)) = false := by simpa using hlow
  show execRtraceShade o s = _
  rw [execRtraceShade, State.gid_of_group hr.runs, State.laneWord_of_ready hr, hp]
  rw [State.shadeRead] at ha hs h ⊢
  simp only [Bool.not_true, Bool.false_eq_true, if_false, ha, State.callCommit, if_neg hm, hs, h', h, Bool.not_false, if_true]

/-- Once its live registers are full and the functions it names have been read, an RTRACE.SHADE is a shading call. -/
theorem rtraceShade_goes (h : ((s.shadeRead g o).1.commit g).callReady g (s.group g).present regs = true)
    (hsound : (s.group g).mismatch (liveKeys regs (s.group g).present) = none)
    (hfns : ((s.shadeRead g o).1.commit g).fnsRead g
      ((lanesOf (s.group g).present).map fun l => (l, Tab.get 0 ((s.shadeRead g o).2.getD 2 []) l)) = .ok ()) :
    let c := (s.shadeRead g o).1.commit g
    exec (.rtraceShade o) s = ofTry (c.shade (c.popFinal g (Claim.lanes s g o.h) (shadeUses (s.group g) o (Claim.lanes s g o.h))) g
      (Claim.lanes s g o.h) regs (snapVal (Claim.lanes s g o.h) (s.shadeRead g o).2 1) ads fun l => Tab.get 0 ((s.shadeRead g o).2.getD 2 []) l) := by
  have h' : (regs.any fun r => decide (r < 8)) = false := by simpa using hlow
  intro c
  show execRtraceShade o s = _
  rw [execRtraceShade, State.gid_of_group hr.runs, State.laneWord_of_ready hr, hp]
  simp only [c]
  rw [State.shadeRead] at ha hs h hfns ⊢
  simp only [Bool.not_true, Bool.false_eq_true, if_false, ha, State.callCommit, if_neg hm, hs, h', h, hsound, hfns]

end

end Sys2Proof.Machine
end

section
/-! The engine words of a group's lanes are held, or they take their trap; an RTRACE.SHADE dissolves its group. -/

namespace Sys2Proof.Machine

/-- The words that only hold a command, each with its class, its fields, and the command of the snapshots that it reads. -/
def heldWords (o : LaneOp) : List (Instr × LaneClass × LaneRule × ((Nat → DWord) → Cmd)) :=
  [(.stage o, .bellows, ruleBare, fun _ => .stage),
    (.cpyred o, .bellows, ruleCpyred o, fun v => .cpyred (LaneOp.xfield o 0 2) o.fmt o.sat (v 0) ((v 1).setWidth 32)),
    (.cpynet o, .bellows, ruleCpynet o, fun v => .cpynet (v 0) (v 1)),
    (.replay o, .other, ruleReplay o, fun v => .replay (v 0))]

theorem exec_heldWords {o : LaneOp} {i : Instr} {cls : LaneClass} {r : LaneRule} {c : (Nat → DWord) → Cmd} (h : (i, cls, r, c) ∈ heldWords o)
    (s : State) : exec i s = s.commandWord o cls r c := by
  suffices hall : ∀ e ∈ heldWords o, exec e.1 s = s.commandWord o e.2.1 e.2.2.1 e.2.2.2 from hall _ h
  simp only [heldWords, List.forall_mem_cons]
  exact ⟨rfl, rfl, rfl, rfl, List.forall_mem_nil _⟩

/-- With no active lane such a word ends; otherwise its command is the last of what its region holds (R106). -/
theorem heldWord_holds {s : State} {g : Nat} {o : LaneOp} {i : Instr} {cls : LaneClass} {r : LaneRule} {c : (Nat → DWord) → Cmd}
    (h : (i, cls, r, c) ∈ heldWords o) (hr : Claim.LaneReady s g o.h cls (usesOf r 32 o) none) :
    let m := Claim.lanes s g o.h
    (m = 0 → exec i s = .next (s.laneDone g o.h)) ∧
      (m ≠ 0 → ∃ u, exec i s = .next (State.laneDone u g o.h) ∧
        (u.group g).reg.held = (s.group g).reg.held ++ [.cmd (c (snapVal m (s.readUses g m (usesOf r 32 o m)).2))] ∧
        (u.group g).thr = (s.group g).thr ∧ (u.group g).f = (s.group g).f ∧ u.mem = s.mem ∧ u.teams = s.teams) := by
  intro m
  rw [exec_heldWords h s]
  exact ⟨State.commandWord_noLanes hr c, fun hm => ⟨_, State.commandWord_holds hr c hm, State.hold_keeps (State.readUses_free _ _ _ _) g _⟩⟩

/-- Settles O42: the held commands by `heldWord_holds` and `rtrace_ok`, the slots' checks by `State.rtraceSlots_eq`, RRES by
`rres_covers`, and what an RTRACE.SHADE leaves behind by `State.shaded_rays`. -/
theorem engineWords : Obligations.EngineWords := by
  unfold Obligations.EngineWords
  intro o s g m x vs kept
  refine ⟨fun i cls r c hi hr => ?_, fun hr hm => ?_, fun hr hm => ⟨fun h => rres_nothing hr hm h, fun h => ?_⟩, fun hr hm => ?_⟩
  · obtain ⟨⟨i, cls, r, c⟩, hw, he⟩ := List.mem_map.1 (show (i, cls, r, c) ∈ (heldWords o).map fun e =>
      (e.1, e.2.1, e.2.2.1, e.2.2.2 (snapVal m (vs e.2.2.1))) from hi)
    cases he
    exact heldWord_holds hw hr
  · intro a c
    refine ⟨fun h => ?_, fun hc ha h => ?_, fun hc ha hc' ha' => ?_⟩
    · obtain ⟨i, hi⟩ := State.rtraceSlots_addrRange (s := Claim.after s g o (ruleRtrace false o)) (vs := vs (ruleRtrace false o))
        (counter := some c) hm (h.imp_left fun h => ⟨c, rfl, h⟩)
      exact ⟨_, i, rtrace_error hr hm hi⟩
    · obtain ⟨i, hi⟩ := State.rtraceSlots_misaligned (s := Claim.after s g o (ruleRtrace false o)) (vs := vs (ruleRtrace false o))
        (counter := some c) ha (by simpa using hc) hm (h.imp_left fun h => ⟨c, rfl, h⟩)
      exact ⟨_, i, rtrace_error hr hm hi⟩
    · have hslots := State.rtraceSlots_ok (s := Claim.after s g o (ruleRtrace false o)) (counter := some c) ha (by simpa using hc)
        ha' (by simpa using hc')
      exact ⟨_, rtrace_holds hr hm hslots, State.hold_keeps (State.readUses_free _ _ _ _) g _⟩
  · obtain ⟨rs, hrs⟩ := rres_covers hr hm h
    obtain ⟨hres, hdst, hempty, hv⟩ := State.addPending_spec { s with replays := rs } g ⟨0, 0, 0, none,
      (x.putKeys ⟨o.d, 1⟩ m).map fun k => (k, 0), [], 0, 17, [], some (s.uncovered g)⟩
    have hkeys : ((x.putKeys ⟨o.d, 1⟩ m).map fun k => (k, (0 : Word))).map Prod.fst = x.putKeys ⟨o.d, 1⟩ m := by
      rw [List.map_map]
      exact List.map_id _
    exact ⟨_, _, hrs, hres, hdst, hkeys, fun k hk => hempty k (by rw [hkeys]; exact hk), hv, rfl⟩
  · intro vs c a y
    refine ⟨rtraceShade_misplaced hr, fun regs hp ha hs => ?_⟩
    have hslots : (s.shadeRead g o).1.rtraceSlots m vs none = .ok (laneSlots m vs) :=
      State.rtraceSlots_ok (fun l hl => (ha l hl).1) nofun (fun l hl => (ha l hl).2) nofun
    refine ⟨rtraceShade_lowRegs hr hm hp hslots hs, fun hlow h => rtraceShade_waits hr hm hp hslots hs hlow h,
      fun hregs hready hmay hsound hfns hcont hdeep hrecs => ?_⟩
    have hgo := rtraceShade_goes hr hm hp hslots hs (fun q hq => (hregs q hq).1) hready hsound hfns
    have hshade := State.shade_checked (after := c.popFinal g m (shadeUses x o m)) (table := snapVal m vs 1) (ads := laneSlots m vs)
      hcont (fun q hq => (hregs q hq).2) hdeep hrecs hmay
    obtain ⟨n, z, ks, hz, hcmd, hrays⟩ := State.shaded_rays (c.popFinal g m (shadeUses x o m)) (c.launchOf g) g m y regs (snapVal m vs 1)
      (laneSlots m vs) fun l => Tab.get 0 (vs.getD 2 []) l
    refine ⟨_, n, z, ks, hgo.trans (congrArg ofTry hshade), State.shaded_look _ _ _ _ _ _ _ _ _, hz, hcmd, fun l hl => ?_⟩
    obtain ⟨k, v, r, hk, hray⟩ := hrays (l, laneSlot vs l) (List.mem_map_of_mem hl)
    obtain ⟨j, hj⟩ := Ray.rekey_eq g n (shadeRay (c.launchOf g) g y regs (snapVal m vs 1) (fun l => Tab.get 0 (vs.getD 2 []) l) r v (l, laneSlot vs l))
    exact ⟨k, _, _, _, hk, hray.trans (congrArg some hj), rfl, rfl, rfl, rfl, rfl, rfl, rfl, rfl, rfl⟩

end Sys2Proof.Machine
end


section
/-! SUPPORT. One draw of a lane, mode by mode (R119, R122). -/

namespace Sys2Proof.Machine

/-! ### The cursor and the window (R122) -/

/-- The cursor stops at the first entry that is not used, where the mask has one within the steps. -/
theorem slide_spec (n c m : Nat) (h : m < 2 ^ n) :
    ∃ k, (∀ i, i < k → m / 2 ^ i % 2 = 1) ∧ m / 2 ^ k % 2 = 0 ∧ slide n c m = (c + k, m / 2 ^ k) := by
  induction n generalizing c m with
  | zero =>
    obtain rfl : m = 0 := by omega
    exact ⟨0, nofun, rfl, rfl⟩
  | succ n ih =>
    have hdiv (i : Nat) : m / 2 / 2 ^ i = m / 2 ^ (i + 1) := by rw [Nat.div_div_eq_div_mul, Nat.pow_succ']
    by_cases hm : m % 2 = 1
    · obtain ⟨k, hones, hzero, hk⟩ := ih (c + 1) (m / 2) (by omega)
      refine ⟨k + 1, fun i hi => ?_, by rw [← hdiv]; exact hzero, ?_⟩
      · cases i with
        | zero => simpa using hm
        | succ i => rw [← hdiv]; exact hones i (by omega)
      · rw [slide, if_pos hm, hk, hdiv, Nat.add_assoc, Nat.add_comm 1]
    · exact ⟨0, nofun, by omega, by rw [slide, if_neg hm]; simp⟩

/-- Entry `j` of the window is unused, and one of this site and occurrence. -/
abbrev Draw.Hits (d : Draw) (n site : Nat) (entry : Nat → Nat) (j : Nat) : Prop :=
  d.cursor + j < n ∧ d.used / 2 ^ j % 2 = 0 ∧ entry (d.cursor + j) / 2 ^ 32 % 2 ^ 12 = site ∧
    entry (d.cursor + j) / 2 ^ 44 % 2 ^ 12 = Tab.get 0 d.occ site % 2 ^ 12

section
variable {d : Draw} {n site : Nat} {entry : Nat → Nat}

theorem siteHit_eq_find : siteHit d n site (Tab.get 0 d.occ site) entry = (List.range 8).find? fun j => decide (d.Hits n site entry j) := by
  refine congrArg (List.find? · (List.range 8)) (funext fun j => Bool.eq_iff_iff.2 ?_)
  simp only [Draw.Hits, ventrySite, ventryOcc, Bool.and_eq_true, decide_eq_true_eq, beq_iff_eq, and_assoc]

/-- A SITE draw hits the first entry of the window that it may take. -/
theorem siteHit_first {j : Nat} (hj : j < 8) (h : d.Hits n site entry j) (hfirst : ∀ i, i < j → ¬d.Hits n site entry i) :
    siteHit d n site (Tab.get 0 d.occ site) entry = some j := by
  rw [siteHit_eq_find, List.find?_range_eq_some]
  exact ⟨decide_eq_true h, List.mem_range.2 hj, fun i hi => by rw [decide_eq_false (hfirst i hi)]; rfl⟩

theorem siteHit_none (h : ∀ j, j < 8 → ¬d.Hits n site entry j) : siteHit d n site (Tab.get 0 d.occ site) entry = none := by
  rw [siteHit_eq_find, List.find?_range_eq_none]
  exact fun j hj => by rw [decide_eq_false (h j hj)]; rfl

end

/-! ### What a draw does, mode by mode -/

/-- A draw takes `value`: it counts, counts its site's occurrence, and buffers the value's entry with its flags. -/
def Draw.take (d : Draw) (site value : Nat) (fr mu sp : Bool) (c m : Nat) : Draw × Nat :=
  ({ d with
      cursor := c, used := m, count := d.count + 1, fresh := d.fresh + (if fr then 1 else 0)
      occ := Tab.put d.occ site (Tab.get 0 d.occ site + 1)
      buf := d.buf ++ [ventry value site (Tab.get 0 d.occ site) fr mu sp] }, value)

/-- A draw takes the fresh value, and leaves the input vector's cursor as it was. -/
def Draw.takeFresh (d : Draw) (site fresh : Nat) : Draw × Nat := d.take site fresh true false false d.cursor d.used

/-- A draw takes the value of the input entry `e`. -/
def Draw.takeEntry (d : Draw) (site e c m : Nat) : Draw × Nat :=
  d.take site (ventryValue e) false (ventryMut e) (ventrySpliced e) c m

section
variable (d : Draw) (n site fresh : Nat) (entry : Nat → Nat)

theorem Draw.draw_record : d.draw 0 n site fresh entry = d.takeFresh site fresh := rfl

theorem Draw.draw_linear : d.draw 1 n site fresh entry =
    if d.count < n then d.takeEntry site (entry d.count) d.cursor d.used else d.takeFresh site fresh := rfl

variable {d n site entry} {mode : Nat} (h2 : 2 ≤ mode)
include h2

theorem Draw.draw_site_hit {j : Nat} (h : siteHit d n site (Tab.get 0 d.occ site) entry = some j) :
    d.draw mode n site fresh entry = d.takeEntry site (entry (d.cursor + j)) (slide 9 d.cursor (d.used ||| 2 ^ j)).1
      (slide 9 d.cursor (d.used ||| 2 ^ j)).2 := by
  obtain ⟨k, rfl⟩ := Nat.exists_eq_add_of_le' h2
  simp only [Draw.draw, h]
  rfl

theorem Draw.draw_site_miss (h : siteHit d n site (Tab.get 0 d.occ site) entry = none) :
    d.draw mode n site fresh entry = d.takeFresh site fresh := by
  obtain ⟨k, rfl⟩ := Nat.exists_eq_add_of_le' h2
  simp only [Draw.draw, h]
  rfl

end

/-- Every draw takes a value, in every mode. -/
theorem Draw.draw_takes (d : Draw) (mode n site fresh : Nat) (entry : Nat → Nat) :
    ∃ value fr mu sp c m, d.draw mode n site fresh entry = d.take site value fr mu sp c m := by
  match mode with
  | 0 => exact ⟨_, _, _, _, _, _, d.draw_record n site fresh entry⟩
  | 1 =>
    rw [Draw.draw_linear]
    split
    · exact ⟨_, _, _, _, _, _, rfl⟩
    · exact ⟨_, _, _, _, _, _, rfl⟩
  | k + 2 =>
    have h2 : 2 ≤ k + 2 := Nat.le_add_left 2 k
    cases h : siteHit d n site (Tab.get 0 d.occ site) entry with
    | none => exact ⟨_, _, _, _, _, _, Draw.draw_site_miss fresh h2 h⟩
    | some j => exact ⟨_, _, _, _, _, _, Draw.draw_site_hit fresh h2 h⟩

/-! ### The entries of the draw buffer (R119, R125) -/

/-- The draw has buffered the entry of its value, with these flags. -/
def Draw.Buffered (d : Draw) (site : Nat) (r : Draw × Nat) (fl : Nat) : Prop :=
  r.1.buf = d.buf ++ [BitVec.ofNat 64
    (r.2 % 2 ^ 32 + 2 ^ 32 * (site % 2 ^ 12) + 2 ^ 44 * (Tab.get 0 d.occ site % 2 ^ 12) + 2 ^ 56 * fl)]

theorem Draw.takeFresh_buffered (d : Draw) (site fresh : Nat) : d.Buffered site (d.takeFresh site fresh) 1 := rfl

/-- MUTATED and SPLICED of an input entry go on to the output entry. -/
theorem Draw.takeEntry_buffered (d : Draw) (site e c m : Nat) :
    d.Buffered site (d.takeEntry site e c m) (2 * (e / 2 ^ 57 % 2) + 4 * (e / 2 ^ 58 % 2)) := by
  have hflag (b k : Nat) : (if (b % 2 == 1) = true then k else 0) = k * (b % 2) := by
    rcases Nat.mod_two_eq_zero_or_one b with h | h <;> simp [h]
  rw [← hflag, ← hflag, ← Nat.zero_add (ite _ 2 0)]
  rfl

/-- Every draw counts, counts its site's occurrence and no other's, and buffers one entry. -/
theorem Draw.draw_counts (d : Draw) (mode n site fresh : Nat) (entry : Nat → Nat) :
    let r := d.draw mode n site fresh entry
    r.1.count = d.count + 1 ∧ r.1.buf.length = d.buf.length + 1 ∧ Tab.get 0 r.1.occ site = Tab.get 0 d.occ site + 1 ∧
      (∀ k, k ≠ site → Tab.get 0 r.1.occ k = Tab.get 0 d.occ k) ∧ r.1.outcome = d.outcome ∧ r.1.oset = d.oset := by
  obtain ⟨value, fr, mu, sp, c, m, hr⟩ := d.draw_takes mode n site fresh entry
  rw [hr]
  exact ⟨rfl, List.length_append, Tab.get_put_self _ _ _ _, fun k hk => Tab.get_put_ne _ _ _ hk, rfl, rfl⟩

/-- What one draw does in each mode: `Draw.draw_counts` in all of them, the fresh value or the entry's by the mode. -/
theorem drawModes : Claim.DrawModes := by
  intro d mode n site fresh entry r
  obtain ⟨hcount, hlen, hocc, hothers, houtcome, hset⟩ := d.draw_counts mode n site fresh entry
  refine ⟨hcount, hlen, hocc, hothers, houtcome, hset, ?_⟩
  intro out flags
  have hfresh (h : r = d.takeFresh site fresh) :
      r.2 = fresh ∧ r.1.fresh = d.fresh + 1 ∧ r.1.cursor = d.cursor ∧ r.1.used = d.used ∧ out 1 := by
    have hout : out 1 := show d.Buffered site r 1 by rw [h]; exact d.takeFresh_buffered site fresh
    exact ⟨congrArg (·.2) h, congrArg (·.1.fresh) h, congrArg (·.1.cursor) h, congrArg (·.1.used) h, hout⟩
  have hentry {e c m : Nat} (h : r = d.takeEntry site e c m) :
      r.2 = e % 2 ^ 32 ∧ r.1.fresh = d.fresh ∧ r.1.cursor = c ∧ r.1.used = m ∧ out (flags e) := by
    have hout : out (flags e) := show d.Buffered site r (flags e) by rw [h]; exact d.takeEntry_buffered site e c m
    exact ⟨congrArg (·.2) h, congrArg (·.1.fresh) h, congrArg (·.1.cursor) h, congrArg (·.1.used) h, hout⟩
  refine ⟨fun h => ?_, fun h hlt => ?_, fun h hle => ?_, fun h2 => ⟨fun j hj hhit hfirst => ?_, fun hmiss => ?_⟩⟩
  · subst h
    exact hfresh (d.draw_record n site fresh entry)
  · subst h
    exact hentry ((d.draw_linear n site fresh entry).trans (if_pos hlt))
  · subst h
    exact hfresh ((d.draw_linear n site fresh entry).trans (if_neg (Nat.not_lt.2 hle)))
  · obtain ⟨hvalue, hnew, hcursor, hused, hout⟩ := hentry (Draw.draw_site_hit fresh h2 (siteHit_first hj hhit hfirst))
    refine ⟨hvalue, hnew, hout, fun h8 => ?_⟩
    have hbit : 2 ^ j < 2 ^ 8 := Nat.pow_lt_pow_right (by decide) hj
    obtain ⟨k, hones, hzero, hk⟩ := slide_spec 9 d.cursor (d.used ||| 2 ^ j) ((Nat.or_lt_two_pow h8 hbit).trans (by decide))
    rw [hk] at hcursor hused
    exact ⟨k, hones, hzero, hcursor, hused⟩
  · exact hfresh (Draw.draw_site_miss fresh h2 (siteHit_none hmiss))

end Sys2Proof.Machine
end


section
/-! SUPPORT. VDRAW and VOUTCOME: the draw states of a word's lanes, and the course of VDRAW (R121-R125, R254, R255). -/

namespace Sys2Proof.Machine

/-! ### Masks of lanes, and lanes that change -/

theorem maskWhere_eq_zero {m : Word} {p : Nat → Bool} (h : ∀ l, m.getLsbD l = true → p l = false) : maskWhere m p = 0 := by
  by_contra hn
  obtain ⟨l, -, hl, hp⟩ := (maskWhere_ne_zero_iff m p).1 hn
  rw [h l hl] at hp
  cases hp

theorem maskWhere_ne_zero {m : Word} {p : Nat → Bool} {l : Nat} (hl : m.getLsbD l = true) (hp : p l = true) : maskWhere m p ≠ 0 :=
  (maskWhere_ne_zero_iff m p).2 ⟨l, BitVec.lt_of_getLsbD hl, hl, hp⟩

theorem ne_zero_of_getLsbD {m : Word} {l : Nat} (hl : m.getLsbD l = true) : m ≠ 0 :=
  (word_ne_zero_iff m).2 ⟨l, BitVec.lt_of_getLsbD hl, hl⟩

/-- Of changes of single keys that are all different, each key takes its own. -/
theorem Tab.get_foldl_put {α : Type} (d : α) (f : Nat → α → α) {ls : List Nat} (hn : ls.Nodup) (t : Tab α) (k : Nat) :
    Tab.get d (ls.foldl (fun t l => Tab.put t l (f l (Tab.get d t l))) t) k = if k ∈ ls then f k (Tab.get d t k) else Tab.get d t k := by
  induction ls generalizing t with
  | nil => rfl
  | cons l ls ih =>
    obtain ⟨hl, hn⟩ := List.nodup_cons.1 hn
    rw [List.foldl_cons, ih hn]
    by_cases hk : k = l
    · subst hk
      rw [if_neg hl, if_pos List.mem_cons_self, Tab.get_put_self]
    · simp only [Tab.get_put_ne _ _ _ hk, List.mem_cons, hk, false_or]

/-- Lanes of a group change as `f` says. -/
def Group.eachLane (x : Group) (m : Word) (f : Nat → Lane → Lane) : Group :=
  { x with lanes := (lanesOf m).foldl (fun t l => Tab.put t l (f l (Tab.get Lane.zero t l))) x.lanes }

theorem Group.eachLane_get (x : Group) (m : Word) (f : Nat → Lane → Lane) {l : Nat} (hl : l < 32) :
    Tab.get Lane.zero (x.eachLane m f).lanes l =
      if m.getLsbD l = true then f l (Tab.get Lane.zero x.lanes l) else Tab.get Lane.zero x.lanes l := by
  rw [Group.eachLane, Tab.get_foldl_put _ _ (lanesOf_nodup m)]
  simp only [mem_lanesOf, hl, true_and]

/-! ### The input vector (R122, R124) -/

/-- What the reads of the input leave of the state: only copies in the L1 go. -/
structure State.SameButCopies (s t : State) (g : Nat) : Prop where
  group : ∃ b, t.group g = { s.group g with l1drop := b }
  mem : t.mem = s.mem
  teams : t.teams = s.teams

theorem State.l1Sync_sameButCopies (s : State) (g : Nat) : State.SameButCopies s (s.l1Sync g) g := by
  unfold State.l1Sync
  split
  · exact ⟨⟨false, State.group_modGroup _ _ _⟩, rfl, rfl⟩
  · exact ⟨⟨_, rfl⟩, rfl, rfl⟩

/-- With no input vector, and in RECORD mode, no input is read. -/
theorem State.drawInputs_none {s : State} {g : Nat} {ls : List Nat} (h : (s.recOf g).ivBase = 0 ∨ (s.recOf g).drawMode = 0) :
    s.drawInputs g ls = .ok (s, [], []) := by
  rw [State.drawInputs]
  exact if_pos (by simpa using h)

theorem State.drawInputs_sameButCopies {s t : State} {g : Nat} {ls : List Nat} {ns : Tab Nat} {es : Tab (Tab Nat)}
    (h : s.drawInputs g ls = .ok (t, ns, es)) : State.SameButCopies s t g := by
  by_cases hno : (s.recOf g).ivBase = 0 ∨ (s.recOf g).drawMode = 0
  · rw [State.drawInputs_none hno] at h
    cases h
    exact ⟨⟨_, rfl⟩, rfl, rfl⟩
  · rw [State.drawInputs] at h
    simp only [Bool.or_eq_true, decide_eq_true_eq, hno, if_false, bind, Except.bind] at h
    repeat' split at h
    all_goals cases h
    exact State.l1Sync_sameButCopies s g

/-! ### The course of VDRAW (R254) -/

/-- The draw of a lane, with the input that was read. -/
def State.laneDraw (s : State) (g : Nat) (o : LaneOp) (ns : Tab Nat) (es : Tab (Tab Nat)) (l : Nat) : Draw × Nat :=
  let y := Tab.get Lane.zero (s.group g).lanes l
  y.draw.draw (s.recOf g).drawMode (Tab.get 0 ns l) (LaneOp.xfield o 0 12)
    (freshDraw (s.recOf g).seed y.glid (LaneOp.xfield o 0 12) (Tab.get 0 y.draw.occ (LaneOp.xfield o 0 12)))
    fun k => Tab.get 0 (Tab.get [] es l) k

/-- The active lanes at their capacity (R123). -/
def State.drawLimit (s : State) (g : Nat) (m : Word) : Word :=
  maskWhere m fun l => decide ((s.recOf g).cap ≤ (Tab.get Lane.zero (s.group g).lanes l).draw.count)

/-- The active lanes whose draw buffer is full (R125). -/
def State.drawFull (s : State) (g : Nat) (m : Word) : Word :=
  maskWhere m fun l => decide (32 ≤ (Tab.get Lane.zero (s.group g).lanes l).draw.buf.length)

/-- What the draws of the active lanes come to: their draw states, the count of fresh draws, and the values on their way. -/
def State.drawn (s : State) (g : Nat) (m : Word) (o : LaneOp) (t : State) (ns : Tab Nat) (es : Tab (Tab Nat)) : State :=
  let d := s.laneDraw g o ns es
  let u := t.modGroup g fun x => x.eachLane m fun l y => { y with draw := (d l).1 }
  (u.bumpBy (u.ctxOf g) 8 (((lanesOf m).map fun l =>
      (d l).1.fresh - (Tab.get Lane.zero (s.group g).lanes l).draw.fresh).sum)).addPending g
    ⟨0, 0, 0, none, ((lanesOf m).map fun l => cutRegs (((s.group g).mainDst ⟨o.d, 1⟩ l).getD 0) l (d l).2 1).flatten, [], 0, 17, [], none⟩

/-- VDRAW checks its limits, reads its input, and draws. -/
theorem State.vdraw_eq (s : State) (g : Nat) (m : Word) (o : LaneOp) : s.vdraw g m o =
    if s.drawLimit g m ≠ 0 then .error (s.raise .drawLimit { flm := s.drawLimit g m })
    else if s.drawFull g m ≠ 0 then .error (s.raise .drawBufferFull { flm := s.drawFull g m })
    else (s.drawInputs g (lanesOf m)).map fun r => s.drawn g m o r.1 r.2.1 r.2.2 := by
  simp only [State.vdraw, bne_iff_ne, List.map_map, List.foldl_map]
  rfl

/-- With no lane at its capacity, and none with a full buffer, a draw goes as its input's reads do. -/
theorem State.vdraw_roomy {s : State} {g : Nat} {m : Word} {o : LaneOp}
    (h : ∀ l, m.getLsbD l = true → (Tab.get Lane.zero (s.group g).lanes l).draw.count < (s.recOf g).cap ∧
      (Tab.get Lane.zero (s.group g).lanes l).draw.buf.length < 32) :
    s.vdraw g m o = (s.drawInputs g (lanesOf m)).map fun r => s.drawn g m o r.1 r.2.1 r.2.2 := by
  have hlim : s.drawLimit g m = 0 := maskWhere_eq_zero fun l hl => decide_eq_false (Nat.not_le.2 (h l hl).1)
  have hfull : s.drawFull g m = 0 := maskWhere_eq_zero fun l hl => decide_eq_false (Nat.not_le.2 (h l hl).2)
  rw [State.vdraw_eq, if_neg (not_not.2 hlim), if_neg (not_not.2 hfull)]

/-- The draws leave memory, the teams, the registers' values and the thread as they were; each active lane has its draw state, and
the last of the group's values to come are theirs. -/
structure State.DrawsKeep (s u : State) (g : Nat) (m : Word) (o : LaneOp) (d : Nat → Draw × Nat) : Prop where
  lanes : ∀ l, l < 32 → Tab.get Lane.zero (u.group g).lanes l =
    if m.getLsbD l = true then { Tab.get Lane.zero (s.group g).lanes l with draw := (d l).1 } else Tab.get Lane.zero (s.group g).lanes l
  pend : (u.group g).pend.map Pending.vdst = (s.group g).pend.map Pending.vdst ++
    [((lanesOf m).map fun l => cutRegs (((s.group g).mainDst ⟨o.d, 1⟩ l).getD 0) l (d l).2 1).flatten]
  regs : (u.group g).f.v = (s.group g).f.v
  thr : (u.group g).thr = (s.group g).thr
  mem : u.mem = s.mem
  teams : u.teams = s.teams

theorem State.bumpBy_teams (s : State) (c e n : Nat) : (s.bumpBy c e n).teams = s.teams := by
  unfold State.bumpBy
  split <;> rfl

/-- A value on its way to lanes' registers changes neither the group's lanes nor its thread. -/
theorem State.addPending_lanes (s : State) (g : Nat) (p : Pending) : ((s.addPending g p).group g).lanes = (s.group g).lanes := by
  rw [State.addPending, State.group_modGroup]

theorem State.addPending_thr (s : State) (g : Nat) {p : Pending} (h : p.sdst = none) : ((s.addPending g p).group g).thr = (s.group g).thr := by
  rw [State.addPending, State.group_modGroup, h]

theorem State.drawn_keeps {s t : State} {g : Nat} (h : State.SameButCopies s t g) (m : Word) (o : LaneOp) (ns : Tab Nat) (es : Tab (Tab Nat)) :
    State.DrawsKeep s (s.drawn g m o t ns es) g m o (s.laneDraw g o ns es) := by
  obtain ⟨⟨b, hg⟩, hmem, hteams⟩ := h
  unfold State.drawn
  extract_lets d u
  generalize ((lanesOf m).map fun l => (d l).1.fresh - (Tab.get Lane.zero (s.group g).lanes l).draw.fresh).sum = n
  generalize hw : u.bumpBy (u.ctxOf g) 8 n = w
  have hwg : w.group g = { s.group g with l1drop := b }.eachLane m fun l y => { y with draw := (d l).1 } := by
    rw [← hw, State.bumpBy_group, State.group_modGroup, hg]
  obtain ⟨-, hpend, -, hregs⟩ := State.addPending_spec w g
    ⟨0, 0, 0, none, ((lanesOf m).map fun l => cutRegs (((s.group g).mainDst ⟨o.d, 1⟩ l).getD 0) l (d l).2 1).flatten, [], 0, 17, [], none⟩
  refine ⟨fun l hl => ?_, hpend.trans ?_, hregs.trans ?_, (State.addPending_thr w g rfl).trans ?_, ?_, ?_⟩
  · rw [State.addPending_lanes, hwg, Group.eachLane_get _ _ _ hl]
  · rw [hwg]; rfl
  · rw [hwg]; rfl
  · rw [hwg]; rfl
  · rw [State.addPending_mem, ← hw, State.bumpBy_mem, State.modGroup_mem, hmem]
  · show w.teams = s.teams
    rw [← hw, State.bumpBy_teams]
    exact hteams

/-! ### The words -/

section
variable {s : State} {g : Nat} {o : LaneOp}

section
variable (hr : Claim.LaneReady s g o.h .other (fun _ => []) (putOf (ruleDraw o) o))
include hr

/-- With no active lane VDRAW only ends (R16). -/
theorem vdraw_noLanes (hm : Claim.lanes s g o.h = 0) : exec (.vdraw o) s = .next (s.laneDone g o.h) := by
  show execVdraw o s = _
  rw [execVdraw, State.laneWord_of_ready hr, if_pos hm]

variable (hm : Claim.lanes s g o.h ≠ 0)
include hm

theorem vdraw_error {u : State} (h : s.vdraw g (Claim.lanes s g o.h) o = .error u) : exec (.vdraw o) s = .next u := by
  show execVdraw o s = _
  rw [execVdraw, State.laneWord_of_ready hr, if_neg hm]
  simp only [h]

theorem vdraw_ok {u : State} (h : s.vdraw g (Claim.lanes s g o.h) o = .ok u) : exec (.vdraw o) s = .next (u.laneDone g o.h) := by
  show execVdraw o s = _
  rw [execVdraw, State.laneWord_of_ready hr, if_neg hm]
  simp only [h]

end

/-- VOUTCOME records each active lane's source as its outcome, and changes nothing else of the group. -/
theorem voutcome_records (hr : Claim.LaneReady s g o.h .other (usesOf ruleOutcome 32 o) none) :
    ∃ u : State, exec (.voutcome o) s = .next (u.laneDone g o.h) ∧ u.mem = s.mem ∧
      u.group g = (s.group g).eachLane (Claim.lanes s g o.h) fun l y => { y with draw := { y.draw with
        outcome := BitVec.ofNat 32 (Claim.source s g o.h (usesOf ruleOutcome 32 o) 0 l), oset := true } } := by
  show ∃ u : State, execVoutcome o s = _ ∧ _
  rw [execVoutcome, State.laneWord_of_ready hr]
  refine ⟨_, rfl, ?_, ?_⟩
  · rw [State.modGroup_mem, State.popAll_mem, State.readUses_mem]
  · obtain ⟨n, hn⟩ := s.readUses_free g (Claim.lanes s g o.h) (usesOf ruleOutcome 32 o (Claim.lanes s g o.h))
    rw [State.group_modGroup, State.popAll_group, hn]
    rfl

end

/-- The checks of VDRAW come in the order of `State.vdraw_eq`, and what its draws leave is `State.drawn_keeps`. -/
theorem drawsAndOutcomes_words : Claim.DrawsAndOutcomes := by
  intro o s g m lane r site
  refine ⟨fun hr => ⟨fun hm => ?_, fun ⟨l, hl, hcap⟩ => ?_, fun hcap ⟨l, hl, hbuf⟩ => ?_, State.drawInputs_none,
    fun u hm hroom hin => ?_, fun t ns es hm hroom hin => ?_⟩, fun hr => ?_⟩
  · exact vdraw_noLanes hr hm
  · have hlim : s.drawLimit g m ≠ 0 := maskWhere_ne_zero hl (decide_eq_true hcap)
    refine ⟨s.drawLimit g m, fun l hl => getLsbD_maskWhere _ _ hl, vdraw_error hr (ne_zero_of_getLsbD hl) ?_⟩
    rw [State.vdraw_eq, if_pos hlim]
  · have hlim : s.drawLimit g m = 0 := maskWhere_eq_zero fun l hl => decide_eq_false (Nat.not_le.2 (hcap l hl))
    have hfull : s.drawFull g m ≠ 0 := maskWhere_ne_zero hl (decide_eq_true hbuf)
    refine ⟨s.drawFull g m, fun l hl => getLsbD_maskWhere _ _ hl, vdraw_error hr (ne_zero_of_getLsbD hl) ?_⟩
    rw [State.vdraw_eq, if_neg (not_not.2 hlim), if_pos hfull]
  · refine vdraw_error hr hm ?_
    rw [State.vdraw_roomy hroom, hin]
    rfl
  · obtain ⟨hlanes, hpend, hregs, hthr, hmem, hteams⟩ := State.drawn_keeps (State.drawInputs_sameButCopies hin) m o ns es
    refine ⟨_, _, vdraw_ok hr hm ?_, hlanes, hpend, rfl, hregs, hthr, hmem, hteams⟩
    rw [State.vdraw_roomy hroom, hin]
    rfl
  · obtain ⟨u, hu, hmem, hg⟩ := voutcome_records hr
    refine ⟨u, hu, hmem, by rw [hg]; rfl, by rw [hg]; rfl, fun l hl => ?_⟩
    show Tab.get Lane.zero (u.group g).lanes l = _
    rw [hg, Group.eachLane_get _ _ _ hl]

/-- Settles O37: the two words by their course past their operands, and each draw by its mode. -/
theorem drawsAndOutcomes : Obligations.DrawsAndOutcomes := by
  unfold Obligations.DrawsAndOutcomes
  exact ⟨drawsAndOutcomes_words, drawModes⟩

end Sys2Proof.Machine
end


section
/-! SUPPORT. Ordered sections and lanes that end (R17, R144-R147, R263, R265). -/

namespace Sys2Proof.Machine

/-- Whether a lane's VORDB waits: its last token is still on its way, or an earlier fragment of its pixel is due (R145). -/
def State.orderHeld (s : State) (g l : Nat) : Bool :=
  (s.group g).released l || match (Tab.get Lane.zero (s.group g).lanes l).frag with
    | some f => orderWaits (s.recOf g).order (s.rasterDue (s.launchOf g)) (s.fragsOf (s.launchOf g)) f
    | none => false

/-- A lane holds its fragment's token (R145); a helper lane takes none, and the unordered class keeps none (log entry 80). -/
def Lane.takeToken (cls : Nat) (y : Lane) : Lane :=
  { y with frag := y.frag.map fun f => if f.helper || 2 ≤ cls then f else { f with token := true, done := false } }

/-- The tokens of the lanes of `m` are taken. -/
def State.takeTokens (s : State) (g : Nat) (m : Word) : State :=
  s.modGroup g fun x => { x.eachLane m fun _ => Lane.takeToken (s.recOf g).order with
    l1drop := x.l1drop || m != 0, sch := { x.sch with orderFrom := none, stalled := false } }

/-- A VORDB waits, from its first try on (R147). -/
def State.orderWait (s : State) (g : Nat) : State :=
  (s.waitFor 9).modGroup g fun x =>
    { x with sch := { x.sch with orderFrom := some (x.sch.orderFrom.getD (s.die (s.orderDie g)).cyc) } }

/-- The lanes of `m` that hold their tokens. -/
def Group.tokens (x : Group) (m : Word) : Word :=
  maskWhere m fun l => match (Tab.get Lane.zero x.lanes l).frag with | some f => f.token | none => false

/-- The lanes of `m` leave em for xm (R265). -/
def State.exitLanes (s : State) (g : Nat) (m : Word) : State :=
  s.modGroup g fun x =>
    { x with xm := x.xm ||| m, thr := { x.thr with em := x.thr.em &&& ~~~m }, reg := { x.reg with exited := x.reg.exited ||| m } }

theorem Group.noFrag_ne_zero_iff (x : Group) (m : Word) :
    x.noFrag m ≠ 0 ↔ ∃ l, l < 32 ∧ m.getLsbD l = true ∧ (Tab.get Lane.zero x.lanes l).frag = none := by
  simp only [Group.noFrag, maskWhere_ne_zero_iff, Option.isNone_iff_eq_none]

/-- Where lanes' fragments are at hand, none is missing. -/
theorem Group.noFrag_eq_zero {x : Group} {m : Word}
    (h : ∀ l, l < 32 → m.getLsbD l = true → (Tab.get Lane.zero x.lanes l).frag ≠ none) : x.noFrag m = 0 := by
  by_contra hn
  obtain ⟨l, hl, hm, hf⟩ := (x.noFrag_ne_zero_iff m).1 hn
  exact h l hl hm hf

theorem State.orderHeld_iff (s : State) (g l : Nat) : s.orderHeld g l = true ↔ (s.group g).released l = true ∨
    ∃ f, (Tab.get Lane.zero (s.group g).lanes l).frag = some f ∧
      orderWaits (s.recOf g).order (s.rasterDue (s.launchOf g)) (s.fragsOf (s.launchOf g)) f = true := by
  rw [State.orderHeld, Bool.or_eq_true]
  cases (Tab.get Lane.zero (s.group g).lanes l).frag <;> simp

/-! ### The words -/

section
variable {s : State} {g : Nat} {o : LaneOp}

section
variable (hr : Claim.LaneReady s g o.h .other (fun _ => []) none)
include hr

/-- A lane without a fragment is ORDER_CONTEXT, for VORDB and for VORDE. -/
theorem orderWords_context (h : (s.group g).noFrag (Claim.lanes s g o.h) ≠ 0) :
    exec (.vordb o) s = .next (s.raise .orderContext { flm := (s.group g).noFrag (Claim.lanes s g o.h) }) ∧
    exec (.vorde o) s = .next (s.raise .orderContext { flm := (s.group g).noFrag (Claim.lanes s g o.h) }) := by
  constructor
  · show execVordb o s = _
    rw [execVordb, State.laneWord_of_ready hr, if_pos (bne_iff_ne.2 h)]
  · show execVorde o s = _
    rw [execVorde, State.laneWord_of_ready hr, if_pos (bne_iff_ne.2 h)]

variable (h : (s.group g).noFrag (Claim.lanes s g o.h) = 0)
include h

theorem vordb_eq : exec (.vordb o) s =
    if (lanesOf (Claim.lanes s g o.h)).any (s.orderHeld g) = true then .next (s.orderWait g)
    else .next ((s.takeTokens g (Claim.lanes s g o.h)).laneDone g o.h) := by
  show execVordb o s = _
  rw [execVordb, State.laneWord_of_ready hr, if_neg (by simp [h])]
  rfl

theorem vorde_marks : exec (.vorde o) s = .next ((s.modGroup g fun x =>
    { x with reg := { x.reg with orde := x.reg.orde ||| (s.group g).tokens (Claim.lanes s g o.h) } }).laneDone g o.h) := by
  show execVorde o s = _
  rw [execVorde, State.laneWord_of_ready hr, if_neg (by simp [h])]
  rfl

end

/-- VEXIT moves its lanes, and the group goes for its EXIT once none is left (R17, R265). -/
theorem vexit_eq (hr : Claim.LaneReady s g o.h .basic (fun _ => []) none) : exec (.vexit o) s =
    if (s.group g).xm ||| Claim.lanes s g o.h = 0xFFFFFFFF ∧ Claim.lanes s g o.h ≠ 0 then
      .next ((s.exitLanes g (Claim.lanes s g o.h)).startExit g)
    else .next ((s.exitLanes g (Claim.lanes s g o.h)).laneDone g o.h) := by
  show execVexit o s = _
  rw [execVexit, State.laneWord_of_ready hr]
  simp only [Bool.and_eq_true, beq_iff_eq, bne_iff_ne]
  rfl

end

/-- The fragment of each lane once the tokens of those of `m` are taken. -/
theorem State.takeTokens_frag (s : State) (g : Nat) (m : Word) {l : Nat} (hl : l < 32) :
    (Tab.get Lane.zero ((s.takeTokens g m).group g).lanes l).frag =
      if m.getLsbD l = true then (Tab.get Lane.zero (s.group g).lanes l).frag.map fun f =>
        if f.helper = true ∨ 2 ≤ (s.recOf g).order then f else { f with token := true, done := false }
      else (Tab.get Lane.zero (s.group g).lanes l).frag := by
  rw [State.takeTokens, State.group_modGroup]
  refine (congrArg Lane.frag (Group.eachLane_get (s.group g) m _ hl)).trans ?_
  rw [apply_ite Lane.frag]
  simp only [Lane.takeToken, Bool.or_eq_true, decide_eq_true_eq]

theorem State.orderWait_waits {s : State} {g : Nat} (hc : s.cur = .group g) :
    ((s.orderWait g).group g).sch.wait = some (.retry 9) ∧ ((s.orderWait g).group g).sch.orderFrom.isSome = true ∧
      ((s.orderWait g).group g).lanes = (s.group g).lanes ∧ (s.orderWait g).mem = s.mem := by
  rw [State.orderWait, State.waitFor, hc]
  rw [State.modGroup_modGroup, State.group_modGroup]
  exact ⟨rfl, rfl, rfl, rfl⟩

end Sys2Proof.Machine
end

section
namespace Sys2Proof.Machine

/-- Settles O39: each word by its equation, once the lanes that have no fragment, or wait, are told apart. -/
theorem orderAndExit : Obligations.OrderAndExit := by
  unfold Obligations.OrderAndExit
  intro o s g m x frag
  refine ⟨fun hr => ?_, fun hr => ?_⟩
  · intro cls earlier
    have held (l : Nat) : s.orderHeld g l = true ↔ earlier l := s.orderHeld_iff g l
    refine ⟨fun hnone => ?_, fun hall => ⟨fun hfree => ?_, fun ⟨l, hl, hm, hwait⟩ => ?_, ?_⟩⟩
    · obtain ⟨hb, he⟩ := orderWords_context hr ((x.noFrag_ne_zero_iff m).2 hnone)
      exact ⟨⟨_, hb⟩, _, he⟩
    · have hgo : ¬(lanesOf m).any (s.orderHeld g) = true := by
        rw [List.any_eq_true]
        rintro ⟨l, hl, hw⟩
        obtain ⟨hl, hm⟩ := mem_lanesOf.1 hl
        exact hfree l hl hm ((held l).1 hw)
      refine ⟨s.takeTokens g m, (vordb_eq hr (Group.noFrag_eq_zero hall)).trans (if_neg hgo), rfl, ?_, ?_, fun l => ?_⟩
      · rw [State.takeTokens, State.group_modGroup]; rfl
      · rw [State.takeTokens, State.group_modGroup]; rfl
      · exact s.takeTokens_frag g m
    · have hstop : (lanesOf m).any (s.orderHeld g) = true :=
        List.any_eq_true.2 ⟨l, mem_lanesOf.2 ⟨hl, hm⟩, (held l).2 hwait⟩
      exact ⟨s.orderWait g, (vordb_eq hr (Group.noFrag_eq_zero hall)).trans (if_pos hstop), State.orderWait_waits hr.runs⟩
    · refine ⟨_, vorde_marks hr (Group.noFrag_eq_zero hall), rfl, ?_, ?_, fun l hl => ?_⟩
      · rw [State.group_modGroup]
      · rw [State.group_modGroup]
      · rw [State.group_modGroup]
        show (x.reg.orde ||| x.tokens m).getLsbD l = _
        rw [BitVec.getLsbD_or]
        exact congrArg (x.reg.orde.getLsbD l || ·) (getLsbD_maskWhere m _ hl)
  · refine ⟨fun hsome => ⟨s.exitLanes g m, (vexit_eq hr).trans (if_neg fun h => hsome h.1), ?_⟩, fun hlast hm => ?_⟩
    · rw [State.exitLanes, State.group_modGroup]
      exact ⟨rfl, rfl, rfl, rfl, rfl⟩
    · exact (vexit_eq hr).trans (if_pos ⟨hlast, hm⟩)

end Sys2Proof.Machine
end


section
/-! SUPPORT. Mesh words: their common course, the excess of their lanes, and what they hold (R138, R264). -/

namespace Sys2Proof.Machine

/-! ### Masks -/

/-- The lanes of a mask without those that satisfy a test. -/
theorem lanesOf_and_not_maskWhere (m : Word) (p : Nat → Bool) :
    lanesOf (m &&& ~~~maskWhere m p) = (lanesOf m).filter fun l => !p l := by
  rw [lanesOf, lanesOf, List.filter_filter]
  refine List.filter_congr fun l hl => ?_
  have hl : l < 32 := List.mem_range.1 hl
  rw [BitVec.getLsbD_and, BitVec.getLsbD_not, getLsbD_maskWhere m p hl, decide_eq_true hl]
  cases m.getLsbD l <;> cases p l <;> rfl

theorem maskWhere_ne_zero_iff_mem (m : Word) (p : Nat → Bool) : maskWhere m p ≠ 0 ↔ ∃ l ∈ lanesOf m, p l = true := by
  simp only [maskWhere_ne_zero_iff, mem_lanesOf, and_assoc]

/-- No lane of a mask satisfies a test that all its lanes fail. -/
theorem maskWhere_eq_zero_of_mem {m : Word} {p : Nat → Bool} (h : ∀ l ∈ lanesOf m, p l = false) : maskWhere m p = 0 :=
  maskWhere_eq_zero fun l hl => h l (mem_lanesOf.2 ⟨BitVec.lt_of_getLsbD hl, hl⟩)

theorem lanesOf_head_mem {m : Word} (hm : m ≠ 0) : (lanesOf m).headD 0 ∈ lanesOf m := by
  cases h : lanesOf m with
  | nil => exact absurd h (lanesOf_ne_nil hm)
  | cons l ls => exact List.mem_cons_self

/-! ### The course of a mesh word -/

/-- The state in which a mesh word has read its sources. -/
def State.meshRead (s : State) (g : Nat) (o : LaneOp) (q : BitVec 13) : State :=
  (s.readUses g (Claim.lanes s g o.h) (usesOf (ruleMesh q) 32 o (Claim.lanes s g o.h))).1

theorem State.meshRead_free (s : State) (g : Nat) (o : LaneOp) (q : BitVec 13) : State.SameButFree s (s.meshRead g o q) :=
  State.readUses_free _ _ _ _

section
variable {s : State} {g : Nat} {o : LaneOp} {q : BitVec 13}
  {k : Nat → Word → (Nat → Nat) → (Nat → Nat) → State → Try State}
  (hr : Claim.LaneReady s g o.h .other (usesOf (ruleMesh q) 32 o) none)
include hr

/-- With no active lane a mesh word only ends (R16). -/
theorem State.meshWord_noLanes (hm : Claim.lanes s g o.h = 0) : s.meshWord o q k = .next (s.laneDone g o.h) := by
  rw [State.meshWord, State.laneWord_of_ready hr, if_pos hm]

variable (hm : Claim.lanes s g o.h ≠ 0)
include hm

/-- Outside a mesh team it is MESH_BOUND. -/
theorem State.meshWord_outside (h : (s.team (s.group g).team).stage2 ≠ 2) :
    s.meshWord o q k = .next (s.raise .meshBound { flm := Claim.lanes s g o.h }) := by
  rw [State.meshWord, State.laneWord_of_ready hr, if_neg hm, if_pos (bne_iff_ne.2 h)]

variable (h2 : (s.team (s.group g).team).stage2 = 2)
include h2

/-- In a mesh team it pops the queues it names and ends, where its effect is `u`. -/
theorem State.meshWord_ok {u : State} (hk : k g (Claim.lanes s g o.h) (Claim.source s g o.h (usesOf (ruleMesh q) 32 o) 0)
    (Claim.source s g o.h (usesOf (ruleMesh q) 32 o) 1) (s.meshRead g o q) = .ok u) :
    s.meshWord o q k = .next ((u.popAll g (Claim.lanes s g o.h) (usesOf (ruleMesh q) 32 o (Claim.lanes s g o.h))).laneDone g o.h) := by
  rw [State.meshWord, State.laneWord_of_ready hr, if_neg hm, if_neg (by simp [h2])]
  refine Eq.trans (b := match k g (Claim.lanes s g o.h) (Claim.source s g o.h (usesOf (ruleMesh q) 32 o) 0)
    (Claim.source s g o.h (usesOf (ruleMesh q) 32 o) 1) (s.meshRead g o q) with | .ok _ => _ | .error _ => _) rfl ?_
  rw [hk]

/-- A mesh word whose effect is refused ends there. -/
theorem State.meshWord_error {u : State} (hk : k g (Claim.lanes s g o.h) (Claim.source s g o.h (usesOf (ruleMesh q) 32 o) 0)
    (Claim.source s g o.h (usesOf (ruleMesh q) 32 o) 1) (s.meshRead g o q) = .error u) : s.meshWord o q k = .next u := by
  rw [State.meshWord, State.laneWord_of_ready hr, if_neg hm, if_neg (by simp [h2])]
  refine Eq.trans (b := match k g (Claim.lanes s g o.h) (Claim.source s g o.h (usesOf (ruleMesh q) 32 o) 0)
    (Claim.source s g o.h (usesOf (ruleMesh q) 32 o) 1) (s.meshRead g o q) with | .ok _ => _ | .error _ => _) rfl ?_
  rw [hk]

end

/-! ### Lanes beyond the counts (R138) -/

theorem State.meshExcess_traps {s t : State} {g : Nat} {bad : Word} (hst : State.SameButFree s t) (hb : bad ≠ 0)
    (ht : (s.recOf g).meshTrap = true) (k : State → Try State) :
    (t.meshExcess g bad).bind k = .error (t.raise .meshBound { flm := bad }) := by
  obtain ⟨n, rfl⟩ := hst
  have htrap : (State.recOf { s with free := n } g).meshTrap = true := ht
  rw [State.meshExcess, if_neg hb, if_pos htrap]
  rfl

/-- A group that raises MESH_OVERFLOW where some lane of its word is in excess. -/
def Group.overflow (x : Group) (bad : Word) : Group :=
  { x with reg := { x.reg with fset := x.reg.fset ||| if bad = 0 then 0 else 2 } }

theorem State.meshExcess_flags {s : State} {g : Nat} {bad : Word} (hc : s.cur = .group g)
    (h : (s.recOf g).meshTrap = false ∨ bad = 0) :
    ∃ u, s.meshExcess g bad = .ok u ∧ u.mem = s.mem ∧ u.group g = (s.group g).overflow bad := by
  by_cases hb : bad = 0
  · refine ⟨s, by rw [State.meshExcess, if_pos hb], rfl, ?_⟩
    have hz : (s.group g).reg.fset ||| 0 = (s.group g).reg.fset := BitVec.or_zero
    rw [Group.overflow, if_pos hb, hz]
  · have ht : ¬(s.recOf g).meshTrap = true := by rw [h.resolve_right hb]; decide
    refine ⟨s.capture 2, by rw [State.meshExcess, if_neg hb, if_neg ht], s.capture_mem 2, ?_⟩
    rw [State.capture, hc, Group.overflow, if_neg hb]
    exact State.group_modGroup _ _ _

/-- What a mesh word leaves that holds its words by `f`. -/
theorem State.meshHold {s t : State} {g : Nat} {bad : Word} (hst : State.SameButFree s t) (hc : s.cur = .group g)
    (h : (s.recOf g).meshTrap = false ∨ bad = 0) (f : Group → Group) :
    ∃ u, (t.meshExcess g bad).bind (fun v => .ok (v.modGroup g f)) = .ok u ∧ u.mem = s.mem ∧
      u.group g = f ((s.group g).overflow bad) := by
  obtain ⟨n, rfl⟩ := hst
  obtain ⟨v, hv, hmem, hg⟩ := State.meshExcess_flags (s := { s with free := n }) (bad := bad) hc h
  refine ⟨v.modGroup g f, by rw [hv]; rfl, hmem, ?_⟩
  rw [State.group_modGroup, hg]
  rfl

theorem Group.overflow_fset (x : Group) (m : Word) (p : Nat → Bool) :
    (x.overflow (maskWhere m p)).reg.fset = x.reg.fset ||| if ∃ l ∈ lanesOf m, p l = true then 2 else 0 := by
  show x.reg.fset ||| (if maskWhere m p = 0 then 0 else 2) = _
  by_cases h : ∃ l ∈ lanesOf m, p l = true
  · rw [if_pos h, if_neg ((maskWhere_ne_zero_iff_mem m p).2 h)]
  · rw [if_neg h, if_pos (not_not.1 (mt (maskWhere_ne_zero_iff_mem m p).1 h))]

end Sys2Proof.Machine
end

section
/-! SUPPORT. VMCNT, VMVTX and VMPRIM in a mesh team (R264). -/

namespace Sys2Proof.Machine

/-! ### The words' effects -/

/-- A group that holds words of vertices, and of primitives, for its commit. -/
def Group.holdV (ws : List (Nat × Word)) (x : Group) : Group := { x with reg := { x.reg with meshV := x.reg.meshV ++ ws } }
def Group.holdP (ws : List (Nat × Word)) (x : Group) : Group := { x with reg := { x.reg with meshP := x.reg.meshP ++ ws } }

/-- What VMCNT does with its sources `a` and `b`; VMVTX and VMPRIM follow. -/
def vmcntEffect (g : Nat) (m : Word) (a b : Nat → Nat) (s : State) : Try State :=
  let l := (lanesOf m).headD 0
  if (s.extOf g).maxV < a l ∨ (s.extOf g).maxP < b l ∨ (s.team (s.group g).team).mesh.isSome = true then
    .error (s.raise .meshBound { flm := BitVec.ofNat 32 (2 ^ l) })
  else .ok ((s.modTeam (s.group g).team fun x => { x with mesh := some (a l, b l) }).modGroup g fun x =>
    { x with reg := { x.reg with meshDecl := true } })
def vmvtxEffect (o : LaneOp) (g : Nat) (m : Word) (a b : Nat → Nat) (s : State) : Try State :=
  let bad := maskWhere m fun l => decide (((s.team (s.group g).team).mesh.getD (0, 0)).1 ≤ a l)
  if (s.extOf g).attrW ≤ LaneOp.xfield o 0 6 then .error (s.raise .meshBound { flm := m })
  else (s.meshExcess g bad).bind fun s => .ok (s.modGroup g (Group.holdV
    ((lanesOf (m &&& ~~~bad)).map fun l => (a l * 64 + LaneOp.xfield o 0 6, BitVec.ofNat 32 (b l)))))
def vmprimEffect (g : Nat) (m : Word) (a b : Nat → Nat) (s : State) : Try State :=
  let c := (s.team (s.group g).team).mesh.getD (0, 0)
  let out := maskWhere m fun l => decide (c.2 ≤ a l)
  let bad := maskWhere m fun l => decide (c.2 ≤ a l) || (List.range 3).any fun j => decide (c.1 ≤ b l / 2 ^ (8 * j) % 256)
  (s.meshExcess g bad).bind fun s => .ok (s.modGroup g (Group.holdP
    ((lanesOf (m &&& ~~~out)).map fun l => (a l, BitVec.ofNat 32 (b l % 2 ^ 24)))))

theorem exec_vmcnt (o : LaneOp) (s : State) : exec (.vmcnt o) s = s.meshWord o 0 vmcntEffect := by
  refine Eq.trans (b := execVmcnt o s) rfl ?_
  rw [execVmcnt]
  congr 1
  funext g m a b s
  simp only [vmcntEffect, Bool.or_eq_true, decide_eq_true_eq, or_assoc]

theorem exec_vmvtx (o : LaneOp) (s : State) : exec (.vmvtx o) s = s.meshWord o 0x3F (vmvtxEffect o) := rfl

theorem exec_vmprim (o : LaneOp) (s : State) : exec (.vmprim o) s = s.meshWord o 0 vmprimEffect := rfl

/-- The words of mesh output, each with the mask of its fields, are cases of the mesh words' common course. -/
theorem exec_meshWords {o : LaneOp} {i : Instr} {q : BitVec 13} (hi : (i, q) ∈ [(Instr.vmcnt o, (0 : BitVec 13)), (.vmvtx o, 0x3F), (.vmprim o, 0)])
    (s : State) : ∃ k, exec i s = s.meshWord o q k := by
  suffices h : ∀ e ∈ [(Instr.vmcnt o, (0 : BitVec 13)), (.vmvtx o, 0x3F), (.vmprim o, 0)], ∃ k, exec e.1 s = s.meshWord o e.2 k from h _ hi
  simp only [List.forall_mem_cons]
  exact ⟨⟨_, exec_vmcnt o s⟩, ⟨_, exec_vmvtx o s⟩, ⟨_, exec_vmprim o s⟩, List.forall_mem_nil _⟩

/-! ### The words in a mesh team -/

variable {s : State} {g : Nat} {o : LaneOp}

/-- Source `j` of a lane of a mesh word. -/
def State.meshSrc (s : State) (g : Nat) (o : LaneOp) (q : BitVec 13) (j l : Nat) : Nat :=
  Claim.source s g o.h (usesOf (ruleMesh q) 32 o) j l

/-- The lanes whose vertex, or whose primitive, is beyond the counts, and those whose primitive names a vertex beyond them. -/
def State.vertexOver (s : State) (g : Nat) (o : LaneOp) (l : Nat) : Bool :=
  decide (((s.team (s.group g).team).mesh.getD (0, 0)).1 ≤ s.meshSrc g o 0x3F 0 l)
def State.primOver (s : State) (g : Nat) (o : LaneOp) (l : Nat) : Bool :=
  decide (((s.team (s.group g).team).mesh.getD (0, 0)).2 ≤ s.meshSrc g o 0 0 l)
def State.primBad (s : State) (g : Nat) (o : LaneOp) (l : Nat) : Bool :=
  s.primOver g o l || (List.range 3).any fun j =>
    decide (((s.team (s.group g).team).mesh.getD (0, 0)).1 ≤ s.meshSrc g o 0 1 l / 2 ^ (8 * j) % 256)

/-- What VMVTX and VMPRIM hold: of each lane within the counts, the place of its word, and the word. -/
def State.vertexWords (s : State) (g : Nat) (o : LaneOp) : List (Nat × Word) :=
  ((lanesOf (Claim.lanes s g o.h)).filter fun l => !s.vertexOver g o l).map fun l =>
    (s.meshSrc g o 0x3F 0 l * 64 + LaneOp.xfield o 0 6, BitVec.ofNat 32 (s.meshSrc g o 0x3F 1 l))
def State.primWords (s : State) (g : Nat) (o : LaneOp) : List (Nat × Word) :=
  ((lanesOf (Claim.lanes s g o.h)).filter fun l => !s.primOver g o l).map fun l =>
    (s.meshSrc g o 0 0 l, BitVec.ofNat 32 (s.meshSrc g o 0 1 l % 2 ^ 24))

/-- VMVTX of a word that the draw has, and VMPRIM: their excess, and then what they hold. -/
theorem vmvtxEffect_eq (hk : LaneOp.xfield o 0 6 < (s.extOf g).attrW) :
    vmvtxEffect o g (Claim.lanes s g o.h) (s.meshSrc g o 0x3F 0) (s.meshSrc g o 0x3F 1) (s.meshRead g o 0x3F) =
      ((s.meshRead g o 0x3F).meshExcess g (maskWhere (Claim.lanes s g o.h) (s.vertexOver g o))).bind fun v =>
        .ok (v.modGroup g (Group.holdV (s.vertexWords g o))) := by
  obtain ⟨n, hn⟩ := s.meshRead_free g o 0x3F
  rw [State.vertexWords, ← lanesOf_and_not_maskWhere, hn]
  exact if_neg (Nat.not_le.2 hk)

theorem vmprimEffect_eq :
    vmprimEffect g (Claim.lanes s g o.h) (s.meshSrc g o 0 0) (s.meshSrc g o 0 1) (s.meshRead g o 0) =
      ((s.meshRead g o 0).meshExcess g (maskWhere (Claim.lanes s g o.h) (s.primBad g o))).bind fun v =>
        .ok (v.modGroup g (Group.holdP (s.primWords g o))) := by
  obtain ⟨n, hn⟩ := s.meshRead_free g o 0
  rw [State.primWords, ← lanesOf_and_not_maskWhere, hn]
  rfl

/-- The counts that VMCNT declares exceed the extension's limits, or are the team's second. -/
def State.countsRefused (s : State) (g : Nat) (o : LaneOp) (l : Nat) : Prop :=
  (s.extOf g).maxV < s.meshSrc g o 0 0 l ∨ (s.extOf g).maxP < s.meshSrc g o 0 1 l ∨ (s.team (s.group g).team).mesh.isSome = true

/-- The state in which VMCNT has declared its counts. -/
def State.declared (s : State) (g : Nat) (o : LaneOp) : State :=
  let l := (lanesOf (Claim.lanes s g o.h)).headD 0
  ((s.meshRead g o 0).modTeam (s.group g).team fun x => { x with mesh := some (s.meshSrc g o 0 0 l, s.meshSrc g o 0 1 l) }).modGroup g
    fun x => { x with reg := { x.reg with meshDecl := true } }

section
variable (hr : Claim.LaneReady s g o.h .other (usesOf (ruleMesh 0) 32 o) none)
  (hm : Claim.lanes s g o.h ≠ 0) (h2 : (s.team (s.group g).team).stage2 = 2)
include hr hm h2

theorem vmcnt_refused (h : s.countsRefused g o ((lanesOf (Claim.lanes s g o.h)).headD 0)) :
    exec (.vmcnt o) s = .next ((s.meshRead g o 0).raise .meshBound { flm := BitVec.ofNat 32 (2 ^ (lanesOf (Claim.lanes s g o.h)).headD 0) }) := by
  rw [exec_vmcnt]
  refine State.meshWord_error hr hm h2 (if_pos ?_)
  obtain ⟨n, hn⟩ := s.meshRead_free g o 0
  rw [hn]
  exact h

theorem vmcnt_declares (h : ¬s.countsRefused g o ((lanesOf (Claim.lanes s g o.h)).headD 0)) :
    exec (.vmcnt o) s = .next (((s.declared g o).popAll g (Claim.lanes s g o.h)
      (usesOf (ruleMesh 0) 32 o (Claim.lanes s g o.h))).laneDone g o.h) := by
  rw [exec_vmcnt]
  obtain ⟨n, hn⟩ := s.meshRead_free g o 0
  refine State.meshWord_ok hr hm h2 (Eq.trans (if_neg ?_) ?_)
  · rw [hn]
    exact h
  · rw [State.declared, hn]
    rfl

theorem vmprim_traps (ht : (s.recOf g).meshTrap = true) (h : ∃ l ∈ lanesOf (Claim.lanes s g o.h), s.primBad g o l = true) :
    exec (.vmprim o) s = .next ((s.meshRead g o 0).raise .meshBound { flm := maskWhere (Claim.lanes s g o.h) (s.primBad g o) }) := by
  rw [exec_vmprim]
  exact State.meshWord_error hr hm h2 (vmprimEffect_eq.trans
    (State.meshExcess_traps (s.meshRead_free g o 0) ((maskWhere_ne_zero_iff_mem _ _).2 h) ht _))

theorem vmprim_holds (h : (s.recOf g).meshTrap = false ∨ maskWhere (Claim.lanes s g o.h) (s.primBad g o) = 0) :
    ∃ u : State, exec (.vmprim o) s =
        .next ((u.popAll g (Claim.lanes s g o.h) (usesOf (ruleMesh 0) 32 o (Claim.lanes s g o.h))).laneDone g o.h) ∧ u.mem = s.mem ∧
      u.group g = ((s.group g).overflow (maskWhere (Claim.lanes s g o.h) (s.primBad g o))).holdP (s.primWords g o) := by
  rw [exec_vmprim]
  obtain ⟨u, hu, hkeeps⟩ := State.meshHold (s.meshRead_free g o 0) hr.runs h (Group.holdP (s.primWords g o))
  exact ⟨u, State.meshWord_ok hr hm h2 (vmprimEffect_eq.trans hu), hkeeps⟩

end

section
variable (hr : Claim.LaneReady s g o.h .other (usesOf (ruleMesh 0x3F) 32 o) none)
  (hm : Claim.lanes s g o.h ≠ 0) (h2 : (s.team (s.group g).team).stage2 = 2)
include hr hm h2

/-- A vertex word beyond those that the draw has. -/
theorem vmvtx_noWord (h : (s.extOf g).attrW ≤ LaneOp.xfield o 0 6) :
    exec (.vmvtx o) s = .next ((s.meshRead g o 0x3F).raise .meshBound { flm := Claim.lanes s g o.h }) := by
  rw [exec_vmvtx]
  refine State.meshWord_error hr hm h2 (if_pos ?_)
  obtain ⟨n, hn⟩ := s.meshRead_free g o 0x3F
  rw [hn]
  exact h

variable (hk : LaneOp.xfield o 0 6 < (s.extOf g).attrW)
include hk

theorem vmvtx_traps (ht : (s.recOf g).meshTrap = true) (h : ∃ l ∈ lanesOf (Claim.lanes s g o.h), s.vertexOver g o l = true) :
    exec (.vmvtx o) s = .next ((s.meshRead g o 0x3F).raise .meshBound { flm := maskWhere (Claim.lanes s g o.h) (s.vertexOver g o) }) := by
  rw [exec_vmvtx]
  exact State.meshWord_error hr hm h2 ((vmvtxEffect_eq hk).trans
    (State.meshExcess_traps (s.meshRead_free g o 0x3F) ((maskWhere_ne_zero_iff_mem _ _).2 h) ht _))

theorem vmvtx_holds (h : (s.recOf g).meshTrap = false ∨ maskWhere (Claim.lanes s g o.h) (s.vertexOver g o) = 0) :
    ∃ u : State, exec (.vmvtx o) s =
        .next ((u.popAll g (Claim.lanes s g o.h) (usesOf (ruleMesh 0x3F) 32 o (Claim.lanes s g o.h))).laneDone g o.h) ∧ u.mem = s.mem ∧
      u.group g = ((s.group g).overflow (maskWhere (Claim.lanes s g o.h) (s.vertexOver g o))).holdV (s.vertexWords g o) := by
  rw [exec_vmvtx]
  obtain ⟨u, hu, hkeeps⟩ := State.meshHold (s.meshRead_free g o 0x3F) hr.runs h (Group.holdV (s.vertexWords g o))
  exact ⟨u, State.meshWord_ok hr hm h2 ((vmvtxEffect_eq hk).trans hu), hkeeps⟩

end

/-- Settles O40: the common course of the mesh words, and each word's own checks in their order. -/
theorem meshOutput : Obligations.MeshOutput := by
  unfold Obligations.MeshOutput
  intro o s g m tm us v l0 done k bound flagged
  have masked (p : Nat → Bool) (l : Nat) (hl : l < 32) : (maskWhere m p).getLsbD l = (m.getLsbD l && p l) := getLsbD_maskWhere m p hl
  refine ⟨fun i q hi hr => ?_, fun hm h2 => ⟨fun hr hV hP hmesh => ?_, fun hr hbad => ?_, fun hr hk => ?_, fun hr hk => ?_, fun hr => ?_⟩⟩
  · obtain ⟨k, hk⟩ := exec_meshWords hi s
    exact ⟨fun hm => hk.trans (State.meshWord_noLanes hr hm), fun hm h2 => hk.trans (State.meshWord_outside hr hm h2)⟩
  · have hgo : ¬s.countsRefused g o l0 := by
      rintro (h | h | h)
      · exact absurd hV (Nat.not_le.2 h)
      · exact absurd hP (Nat.not_le.2 h)
      · rw [show (s.team (s.group g).team).mesh = none from hmesh] at h; cases h
    obtain ⟨n, hn⟩ := s.meshRead_free g o 0
    refine ⟨s.declared g o, vmcnt_declares hr hm h2 hgo, ?_, ?_, ?_⟩
    · rw [State.declared, State.team_modGroup, State.team_modTeam]; rfl
    · rw [State.declared, State.group_modGroup]
    · rw [State.declared, State.modGroup_mem, State.modTeam_mem, hn]
  · refine ⟨_, fun l hl => ?_, vmcnt_refused hr hm h2 hbad⟩
    have hmem : m.getLsbD l0 = true := (mem_lanesOf.1 (lanesOf_head_mem hm)).2
    rw [getLsbD_bit hl]
    show decide (l0 = l) = (m.getLsbD l && l == l0)
    by_cases h : l0 = l
    · rw [← h, hmem]; simp
    · simp [h, Ne.symm h]
  · exact ⟨m, fun l _ => (Bool.and_true _).symm, vmvtx_noWord hr hm h2 hk⟩
  · intro excess
    refine ⟨fun h => ?_, fun ht h => ⟨_, masked excess, vmvtx_traps hr hm h2 hk ht h⟩⟩
    obtain ⟨u, hu, hmem, hg⟩ := vmvtx_holds hr hm h2 hk (h.imp_right maskWhere_eq_zero_of_mem)
    refine ⟨u, hu, hmem, ?_, ?_⟩
    · show (u.group g).reg.fset = _
      rw [hg]
      exact Group.overflow_fset _ m excess
    · rw [hg]
      rfl
  · intro excess bad
    refine ⟨fun ht h => ⟨_, masked bad, vmprim_traps hr hm h2 ht h⟩, fun h => ?_⟩
    obtain ⟨u, hu, hmem, hg⟩ := vmprim_holds hr hm h2 (h.imp_right maskWhere_eq_zero_of_mem)
    refine ⟨u, hu, hmem, ?_, ?_⟩
    · show (u.group g).reg.fset = _
      rw [hg]
      exact Group.overflow_fset _ m bad
    · rw [hg]
      rfl

end Sys2Proof.Machine
end


section
/-! SUPPORT. What a core translates depends on its die's walk pointers, its TLBs and the page tables alone (R352-R358); flits that
enter leave these as they are (R399). -/

namespace Sys2Proof.Machine

/-- Two states in which every core translates, and reads, alike. -/
structure State.SameAccess (s u : State) : Prop where
  maps : State.SameMaps s u
  cores : u.cores = s.cores
  quadTlb : u.quadTlb = s.quadTlb
  ptrs : ∀ d, (u.die d).ptrs = (s.die d).ptrs

theorem State.SameMaps.walk {s u : State} (h : State.SameMaps s u) (asid va : Nat) : u.walk asid va = s.walk asid va := by
  rw [State.walk, State.walk, State.asidEntry, State.asidEntry, h.asids, h.walkFrom]

/-- A die's change that keeps its walk pointers. -/
theorem State.setDie_sameAccess (s : State) (d : Nat) {x : Die} (hx : x.ptrs = (s.die d).ptrs) : State.SameAccess s (s.setDie d x) := by
  refine ⟨⟨rfl, rfl, rfl, rfl, rfl, rfl⟩, rfl, rfl, fun e => ?_⟩
  by_cases he : e = d
  · rw [he, State.die_setDie, hx]
  · rw [State.die_setDie_ne _ _ he]

section
variable {s u : State} (h : State.SameAccess s u)
include h

theorem State.SameAccess.walkPtr (d asid va : Nat) : u.walkPtr d asid va = s.walkPtr d asid va := by
  simp only [State.walkPtr, State.partOfAsid, State.asidEntry, h.ptrs, h.maps.asids]

theorem State.SameAccess.walkOn (d asid va : Nat) : u.walkOn d asid va = s.walkOn d asid va := by
  rw [State.walkOn, State.walkOn, h.walkPtr]
  cases s.walkPtr d asid va with
  | none => exact h.maps.walk _ _
  | some w => exact h.maps.walkFrom _ _ _ _

theorem State.SameAccess.translateC (core asid va : Nat) (acc : Acc) : u.translateC core asid va acc = s.translateC core asid va acc := by
  simp only [State.translateC, h.walkOn, State.tlbLook, State.partOfAsid, State.asidEntry, State.core, h.maps.asids, h.cores, h.quadTlb]

theorem State.SameAccess.trRead (core asid : Nat) (va : DWord) (n : Nat) : u.trRead core asid va n = s.trRead core asid va n := by
  have hp : u.rdPieces = s.rdPieces := funext fun ps => by simp only [State.rdPieces, h.maps.rdBytes]
  simp only [State.trRead, State.trRange, h.translateC, h.maps.isBad, hp]

end

/-- A flit that enters leaves its die's walk pointers as they were. -/
theorem State.cross_enters_ptrs {s : State} {d : Nat} {f : Flit} (h : Claim.Enters s d f) (k : State → Out) :
    ∃ ds, s.cross d f k = k { s with dies := ds } ∧ State.SameAccess s { s with dies := ds } := by
  obtain ⟨hstop, hhead⟩ := h
  have same : State.SameAccess s s := ⟨.refl s, rfl, rfl, fun _ => rfl⟩
  unfold State.cross
  simp only [hstop, Bool.false_eq_true, if_false]
  split
  next hq =>
    split
    · exact ⟨s.dies, rfl, same⟩
    · exact ⟨_, rfl, s.setDie_sameAccess d rfl⟩
  next g r hq =>
    rw [hq] at hhead
    have hf : g = f := by simpa using hhead
    rw [if_pos hf]
    exact ⟨_, rfl, s.setDie_sameAccess d rfl⟩

/-- What an access keeps for the next changes caches and TLBs alone. -/
theorem State.walkKeep_eq (s : State) (d asid va : Nat) : ∃ ds, s.walkKeep d asid va = { s with dies := ds } := by
  unfold State.walkKeep
  extract_lets p ps ws
  by_cases hw : ws.isEmpty = true
  · exact ⟨s.dies, if_pos hw⟩
  · exact ⟨_, if_neg hw⟩

theorem State.keepTr_eq (s : State) (core asid : Nat) (va : DWord) :
    ∃ ds cs q e, s.keepTr core asid va = { s with dies := ds, cores := cs, quadTlb := q, evicted := e } := by
  unfold State.keepTr
  split
  · exact ⟨_, _, _, _, rfl⟩
  · split
    · exact ⟨_, _, _, _, rfl⟩
    · obtain ⟨ds, hds⟩ := s.walkKeep_eq (dieOf core) asid va.toNat
      rw [hds]
      exact ⟨_, _, _, _, rfl⟩

end Sys2Proof.Machine
end

section
/-! SUPPORT. A queued ray's record is read and its step begins, or what fails the read is served, or loses the ray (R151, R152, R306). -/

namespace Sys2Proof.Machine

/-! ### Rays that end -/

@[simp] theorem State.look_dropRay (s : State) (k : Nat) : Tab.look (s.dropRay k).rays k = none := Tab.look_del_self _ _

@[simp] theorem State.look_setRay (s : State) (k : Nat) (r : Ray) : Tab.look (s.setRay k r).rays k = some r := Tab.look_put_self _ _ _

/-- A group's count of commands is all that changes where a ray's record has been read, or is lost. -/
theorem State.rayTaken_eq (s : State) (r : Ray) : ∃ gs, s.rayTaken r = { s with groups := gs } := by
  unfold State.rayTaken State.cmdDone
  split
  · split
    · exact ⟨_, rfl⟩
    · exact ⟨_, rfl⟩
  · exact ⟨_, rfl⟩

/-- A lost ray that no lane waits for leaves one record. -/
theorem State.loseRay_eq {r : Ray} (h : r.shade = none) (s : State) (k : Nat) (a : DWord) : ∃ gs,
    s.loseRay k r a = State.dropRay { s with groups := gs, faults := s.faults ++ [State.rayRec { s with groups := gs } r (.rayLost, a, none) 5 0 none] } k := by
  obtain ⟨gs, hgs⟩ := s.rayTaken_eq r
  refine ⟨gs, ?_⟩
  rw [State.loseRay, State.endRay, State.endShaded, h, hgs]
  rfl

/-- Writing on the path of a ray's core keeps every team. -/
theorem State.wrPieces_teams (ps : List (Nat × Nat)) (bs : List Byte) (s : State) : (s.wrPieces ps bs).teams = s.teams := by
  induction ps generalizing s bs with
  | nil => rfl
  | cons p ps ih => exact ih _ _

theorem State.trWrite_teams {s v : State} {core asid : Nat} {va : DWord} {bs : List Byte} (h : s.trWrite core asid va bs = .ok v) :
    v.teams = s.teams := by
  unfold State.trWrite at h
  cases hr : s.trRange core asid true va bs.length with
  | error b => rw [hr] at h; cases h
  | ok ps =>
    rw [hr] at h
    cases h
    exact State.wrPieces_teams _ _ _

theorem State.spill_teams {asid : Nat} {r : Ray} {es : List RayEntry} {i : Nat} {s v : State} (h : s.spill asid r i es = .ok v) :
    v.teams = s.teams := by
  induction es generalizing i s with
  | nil => cases h; rfl
  | cons e es ih =>
    unfold State.spill at h
    split at h
    · cases h
    · rename_i w hw
      exact (ih h).trans (State.trWrite_teams hw)

/-- A record that is written, or lost, keeps the teams where what follows it does and no lane waits for the ray. -/
theorem State.writeRay_teams {r : Ray} (h : r.shade = none) (s : State) (asid k status : Nat) {next : State → Ray → State}
    (hn : ∀ v z, z.shade = none → (next v z).teams = v.teams) : (s.writeRay asid k r status next).teams = s.teams := by
  unfold State.writeRay
  dsimp only
  split
  next v hv => exact (hn _ (r.setStatus status) h).trans (State.trWrite_teams hv)
  next =>
    obtain ⟨gs, hgs⟩ := State.loseRay_eq (r := r.setStatus status) h s k (r.setStatus status).slot
    rw [hgs]
    rfl

theorem State.rayFault_teams {r : Ray} (h : r.shade = none) (s : State) (asid k : Nat) (b : RayBad) :
    (s.rayFault asid k r b).teams = s.teams := by
  unfold State.rayFault
  split
  · exact State.writeRay_teams (r := { r with stack := [] }) h _ _ _ _ fun _ _ _ => rfl
  next v hv =>
    refine (State.writeRay_teams (r := { r.setDepth (r.spillDepth + r.stack.length) with stack := [] }) h _ _ _ _
      fun w z hz => ?_).trans (State.spill_teams hv)
    split
    · rfl
    · rw [State.endRay, State.endShaded, hz]
      rfl

/-! ### A queued ray -/

/-- The first step begins: Tongs fills the record's fields (R284, R291). -/
def State.startRay (k : Nat) (r : Ray) (v : State) (y : Ray) : State :=
  (v.rayTaken r).setRay k { y.init (v.launch r.launch).lr.id (r.word 22) with st := .running, first := false }

/-- A step begins again: the stack is reloaded (R152). -/
def State.reloadRay (k : Nat) (r : Ray) (v : State) (y : Ray) : State :=
  let z := y.setStatus 0
  let n := min 64 z.spillDepth
  if !z.legal then v.rayStep k z
  else match v.unspill (v.asidL r.launch) z (z.spillDepth - n) n with
    | .error b => v.rayFault (v.asidL r.launch) k z b
    | .ok es => v.setRay k { z.setDepth (z.spillDepth - n) with st := .running, stack := es }

def State.loadRay (k : Nat) (r : Ray) : State → Ray → State := if r.first then State.startRay k r else State.reloadRay k r

section
variable {k core : Nat} {s : State} {r : Ray} {e : Instr} (hk : Tab.look s.rays k = some r) (hq : r.st = .queued)
  (he : e = .traversalStep k core ∧ r.first = true ∨ e = .rayResume k core ∧ r.first = false)
include hk hq he

/-- No engine of another partition, none whose clock is stopped, and none while a link retrains, reads a queued ray's record. -/
theorem queuedRay_held (h : s.servesLaunch core r.launch = false ∨ s.still core = true ∨
    s.trHolds { r with core := core } r.slot 128 = true) : exec e s = .next s := by
  obtain ⟨rfl, hf⟩ | ⟨rfl, hf⟩ := he
  · refine Eq.trans (b := execTraversalStep k core s) rfl ?_
    rw [execTraversalStep, State.ray, hk]
    dsimp only
    by_cases hstill : s.still core = true
    · exact State.ticking_stopped hstill _
    · rw [State.ticking_runs (Bool.eq_false_iff.2 hstill)]
      by_cases hs : s.servesLaunch core r.launch = true
      · rw [if_pos (by simp [hq, hf, hs]), if_pos ((h.resolve_left (by simp [hs])).resolve_left hstill)]
      · rw [if_neg (by simp [hs]), if_neg (by simp [hq])]
  · refine Eq.trans (b := execRayResume k core s) rfl ?_
    rw [execRayResume, State.ray, hk]
    dsimp only
    by_cases hstill : s.still core = true
    · exact State.ticking_stopped hstill _
    · rw [State.ticking_runs (Bool.eq_false_iff.2 hstill)]
      rcases h with h | h | h
      · rw [h, if_neg (by simp)]
      · exact absurd h hstill
      · rw [h, if_neg (by simp)]

theorem queuedRay_read (hs : s.servesLaunch core r.launch = true) (hstill : s.still core = false)
    (hfree : s.trHolds { r with core := core } r.slot 128 = false) :
    exec e s = .next (s.readRay k { r with core := core } (State.loadRay k { r with core := core })) := by
  obtain ⟨rfl, hf⟩ | ⟨rfl, hf⟩ := he
  · refine Eq.trans (b := execTraversalStep k core s) rfl ?_
    rw [execTraversalStep, State.ray, hk, State.loadRay, if_pos hf]
    dsimp only
    rw [State.ticking_runs hstill, if_pos (by simp [hq, hf, hs]), if_neg (by simp [hfree])]
    rfl
  · refine Eq.trans (b := execRayResume k core s) rfl ?_
    rw [execRayResume, State.ray, hk, State.loadRay, if_neg (by simp [hf])]
    dsimp only
    rw [State.ticking_runs hstill, hfree, if_pos (by simp [hq, hf, hs])]
    rfl

end

end Sys2Proof.Machine
end

section
/-! SUPPORT. What becomes of a queued ray's read, and of a running ray's step (R151, R152, R290, R304-R307). -/

namespace Sys2Proof.Machine

/-! ### The read of a record (R152) -/

section
variable {s : State} {k : Nat} {r : Ray} {next : State → Ray → State}

/-- A page fault of the read is served: the ray waits, and its record names it. -/
theorem State.readRay_served {b : RayBad} (hb : s.trRead r.core (s.asidL r.launch) r.slot 128 = .error b) (h : serviced b = true) :
    s.readRay k r next = (s.setRay k { r with st := .waiting }).record (s.rayRec r b 0 0 (some (.ray k))) := by
  rw [State.readRay, hb]
  exact if_pos h

/-- Any other fault of the read loses the ray. -/
theorem State.readRay_lost {b : RayBad} (hb : s.trRead r.core (s.asidL r.launch) r.slot 128 = .error b) (h : serviced b = false) :
    s.readRay k r next = s.loseRay k r r.slot := by
  rw [State.readRay, hb]
  exact if_neg (ne_true_of_eq_false h)

theorem State.readRay_ok {bs : List Byte} (hb : s.trRead r.core (s.asidL r.launch) r.slot 128 = .ok bs) :
    s.readRay k r next = next (s.keepTr r.core (s.asidL r.launch) r.slot) { r with words := wordsOf bs 32, got := [] } := by
  rw [State.readRay, hb]

end

/-- A legal record whose stack can be read runs again from there. -/
theorem State.reloadRay_ok {k : Nat} {r y : Ray} {v : State} {es : List RayEntry} (hl : (y.setStatus 0).legal = true)
    (hes : v.unspill (v.asidL r.launch) (y.setStatus 0) ((y.setStatus 0).spillDepth - min 64 (y.setStatus 0).spillDepth)
      (min 64 (y.setStatus 0).spillDepth) = .ok es) :
    State.reloadRay k r v y = v.setRay k { (y.setStatus 0).setDepth ((y.setStatus 0).spillDepth - min 64 (y.setStatus 0).spillDepth) with
      st := .running, stack := es } := by
  rw [State.reloadRay]
  dsimp only
  rw [if_neg (by simp [hl]), hes]

/-- A ray that is loaded and that no lane waits for keeps the teams. -/
theorem State.loadRay_teams {r y : Ray} (hy : y.shade = none) (k : Nat) (v : State) : (State.loadRay k r v y).teams = v.teams := by
  unfold State.loadRay
  split
  · obtain ⟨gs, hgs⟩ := v.rayTaken_eq r
    rw [State.startRay, hgs]
    rfl
  · unfold State.reloadRay
    extract_lets z n
    split
    next hl =>
      rw [State.rayStep, if_pos hl]
      obtain ⟨cs, hcs⟩ := v.bump_eq (v.launch z.launch).ctx 7
      rw [State.rayFault_teams (r := { z with stack := [] }) hy, hcs]
    next =>
      split
      · exact State.rayFault_teams (r := z) hy _ _ _ _
      · rfl

/-! ### A running ray (R290, R307) -/

section
variable {k : Nat} {s : State} {r : Ray} (hk : Tab.look s.rays k = some r)
include hk

theorem traversalStep_stopped (h : s.still r.core = true) : exec (.traversalStep k r.core) s = .next s := by
  refine Eq.trans (b := execTraversalStep k r.core s) rfl ?_
  rw [execTraversalStep, State.ray, hk]
  exact State.ticking_stopped h _

theorem traversalStep_running (hq : r.st = .running) (h : s.still r.core = false) : exec (.traversalStep k r.core) s = .next (s.rayRun k r) := by
  refine Eq.trans (b := execTraversalStep k r.core s) rfl ?_
  rw [execTraversalStep, State.ray, hk]
  dsimp only
  rw [State.ticking_runs h, if_neg (by simp [hq]), if_pos (by simp [hq])]

end

/-- The words of its node that a running ray has still to read. -/
def State.nodeLeft (s : State) (r : Ray) : List Nat := (List.range (s.nodeWords r).length).filter fun w => (Tab.look r.got w).isNone

/-- The word that the FETCH reads next, and the ray once it has. -/
def State.nodeNext (s : State) (r : Ray) : Nat := (s.nodeLeft r).getD (Config.freeNat s.free % (s.nodeLeft r).length) 0
def State.nodeGot (s : State) (r : Ray) (w : Nat) : Ray :=
  { r with got := Tab.put r.got w (BitVec.ofNat 32 (s.rdLe ((s.nodeWords r).getD w 0) 4)) }

section
variable {s : State} {k : Nat} {r : Ray}

theorem State.rayRun_held (h : s.stepHeld r (s.nodeWords r) = true) : s.rayRun k r = s := if_pos h

/-- A FETCH reads one of the words that are left, a free choice. -/
theorem State.rayRun_reads (h : s.stepHeld r (s.nodeWords r) = false) (hl : s.nodeLeft r ≠ []) : ∃ w ∈ s.nodeLeft r,
    (s.rayRun k r).mem = s.mem ∧ Tab.look (s.rayRun k r).rays k = some (s.nodeGot r w) := by
  have hlen : Config.freeNat s.free % (s.nodeLeft r).length < (s.nodeLeft r).length := Nat.mod_lt _ (List.length_pos_iff.2 hl)
  have hrun : s.rayRun k r =
      (s.takeFree.keepTr r.core (s.asidL r.launch) (r.node &&& ~~~0xF)).setRay k (s.nodeGot r (s.nodeNext r)) :=
    (if_neg (ne_true_of_eq_false h)).trans (if_neg fun he => hl (List.isEmpty_iff.1 he))
  obtain ⟨ds, cs, q, e, hkeep⟩ := s.takeFree.keepTr_eq r.core (s.asidL r.launch) (r.node &&& ~~~0xF)
  refine ⟨s.nodeNext r, ?_, ?_, ?_⟩
  · rw [State.nodeNext, List.getD_eq_getElem _ _ hlen]
    exact List.getElem_mem hlen
  · rw [hrun, hkeep]
    rfl
  · rw [hrun, State.look_setRay]

/-- With every word read the step runs (R290). -/
theorem State.rayRun_steps (h : s.stepHeld r (s.nodeWords r) = false) (hl : s.nodeLeft r = []) (hr : r.legal = true) :
    s.rayRun k r = (s.bump (s.launch r.launch).ctx 7).afterStep (s.asidL r.launch) k r
      (TStep.run 65 true r.progpc ⟨s.bump (s.launch r.launch).ctx 7, s.asidL r.launch, r, none, [], none, false⟩) := by
  have hstep : s.rayRun k r = s.rayStep k r := (if_neg (ne_true_of_eq_false h)).trans (if_pos (List.isEmpty_iff.2 hl))
  rw [hstep, State.rayStep]
  exact if_neg (by simp [hr])

end

theorem Ray.hitt_setDword (r : Ray) (v : DWord) : (r.setDword 8 v).hitt = r.hitt := by
  simp [Ray.hitt, Ray.setDword, Ray.setWord, Ray.word, List.getD_eq_getElem?_getD]

/-- A step that ends at DONE writes its record, with whether the ray has hit (R304). -/
theorem State.afterStep_done {t v : State} {x : TStep} {asid k : Nat} {r : Ray}
    (hv : x.s.trWrite x.r.core asid x.r.slot
      (Ray.setStatus (x.r.setDword 8 r.progpc) (if x.r.hitt = 0x7F800000 then 2 else 1)).bytes = .ok v) :
    t.afterStep asid k r (.done x) = v.setRay k { Ray.setStatus (x.r.setDword 8 r.progpc) (if x.r.hitt = 0x7F800000 then 2 else 1) with
      stack := [], st := if x.r.shade.isSome then .delivering else .counting } := by
  rw [State.afterStep]
  dsimp only
  rw [Ray.hitt_setDword, State.writeRay]
  refine Eq.trans (b := match x.s.trWrite x.r.core asid x.r.slot
      (Ray.setStatus (x.r.setDword 8 r.progpc) (if x.r.hitt = 0x7F800000 then 2 else 1)).bytes with
    | .ok v => v.finalRay k _ | .error _ => _) rfl ?_
  rw [hv]
  rfl

/-! ### Callbacks and counts (R285, R305) -/

/-- Where a counted ray goes: one at CALLB stays suspended, any other has finished. -/
def State.rayCounted (k : Nat) (r : Ray) (s : State) : State := if r.status = 6 then s.setRay k { r with st := .callback } else s.dropRay k

section
variable {k : Nat} {s : State} {r : Ray} (hk : Tab.look s.rays k = some r)
include hk

theorem callbackResume_eq (hq : r.st = .callback) (hstill : s.still r.core = false) {pa : Nat} {pte : DWord}
    (ht : s.translateC r.core (s.asidL r.launch) (r.slot.toNat + 61) { path := some 4 } = .ok pa pte) :
    exec (.callbackResume k) s = if s.rdByte pa = 0 then .next (s.setRay k { r.setStatus 0 with st := .queued }) else .next s := by
  refine Eq.trans (b := execCallbackResume k s) rfl ?_
  rw [execCallbackResume, State.ray, hk]
  dsimp only
  rw [hq, hstill, ht]
  rfl

theorem rayCount_held (h : s.still r.core = true ∨ s.trHolds r r.counter 8 = true) : exec (.rayCount k) s = .next s := by
  refine Eq.trans (b := execRayCount k s) rfl ?_
  rw [execRayCount, State.ray, hk]
  refine if_pos ?_
  rcases h with h | h <;> simp [h]

variable (hq : r.st = .counting) (hstill : s.still r.core = false) (hfree : s.trHolds r r.counter 8 = false)
include hq hstill hfree

theorem rayCount_lands {ps : List (Nat × Nat)} (ht : s.trRange r.core (s.asidL r.launch) true r.counter 8 = .ok ps) :
    exec (.rayCount k) s = .next (State.rayCounted k r
      (s.wrLe (ps.headD (0, 0)).1 8 ((s.rdLe (ps.headD (0, 0)).1 8 + 1) % 2 ^ 64))) := by
  refine Eq.trans (b := execRayCount k s) rfl ?_
  rw [execRayCount, State.ray, hk]
  refine (if_neg (by simp [hq, hstill, hfree])).trans ?_
  rw [ht]
  rfl

theorem rayCount_lost {b : RayBad} (ht : s.trRange r.core (s.asidL r.launch) true r.counter 8 = .error b) (hb : serviced b = false) :
    exec (.rayCount k) s = .next (State.rayCounted k r (s.record (s.rayRec r (.rayLost, r.counter, none) 5 0 none))) := by
  refine Eq.trans (b := execRayCount k s) rfl ?_
  rw [execRayCount, State.ray, hk]
  refine (if_neg (by simp [hq, hstill, hfree])).trans ?_
  rw [ht]
  exact if_neg (ne_true_of_eq_false hb)

end

theorem State.rayCounted_mem (k : Nat) (r : Ray) (s : State) : (State.rayCounted k r s).mem = s.mem := by
  unfold State.rayCounted
  split <;> rfl

theorem State.rayCounted_look (k : Nat) (r : Ray) (s : State) :
    Tab.look (State.rayCounted k r s).rays k = if r.status = 6 then some { r with st := .callback } else none := by
  unfold State.rayCounted
  split
  · exact State.look_setRay _ _ _
  · exact State.look_dropRay _ _

/-! ### Hits (R153, R286, R399) -/

theorem State.SameAccess.shaderOf {s u : State} (h : State.SameAccess s u) (k : State.SameLaunches s u) (r : Ray) (t : DWord) :
    u.shaderOf r t = s.shaderOf r t := by
  simp only [State.shaderOf, h.trRead, State.asidL, k.ctx, k.asid]

/-- A hit that enters: the lane goes into the function that the hit selects, and ends where there is none (R286). -/
def State.landHit (s : State) (k : Nat) (r : Ray) (t : DWord) (y : SwLane) : Out :=
  let s := s.dropRay k
  match s.shaderOf r t with
  | some f => match s.function r.launch f with
    | some _ => .next (s.enterFn r.team f (r.carried y))
    | none => .next (s.endShaded r)
  | none => .next (s.endShaded r)

theorem State.enterFn_rays (s : State) (t f : Nat) (y : SwLane) : (s.enterFn t f y).rays = s.rays := by
  unfold State.enterFn
  split <;> rfl

section
variable {k : Nat} {s : State} {r : Ray} {t : DWord} {y : SwLane} (hk : Tab.look s.rays k = some r) (hq : r.st = .delivering)
  (hsh : r.shade = some (t, y))
include hk hq hsh

/-- Where a shaded ray's team stands decides whether its hit is delivered. -/
theorem hitDelivery_eq : exec (.hitDelivery k) s =
    if (s.team r.team).st = .terminated then .next (s.dropRay k)
    else if ((s.team r.team).st != .running) = true then .next s
    else s.cross (dieOf (s.team r.team).core) (.hit k) fun s => s.landHit k r t y := by
  refine Eq.trans (b := execHitDelivery k s) rfl ?_
  rw [execHitDelivery, State.ray, hk]
  dsimp only
  rw [hq, hsh]
  rfl

/-- A hit that enters puts its lane into the bin of the function that it selects. -/
theorem hitDelivery_enters {f b : Nat} {e a : DWord} (hrun : (s.team r.team).st = .running)
    (hent : Claim.Enters s (dieOf (s.team r.team).core) (.hit k)) (hl : (s.team r.team).launch = r.launch)
    (hf : s.shaderOf r t = some f) (hfn : s.function r.launch f = some (e, b, a)) :
    ∃ u, exec (.hitDelivery k) s = .next u ∧ Tab.look u.rays k = none ∧ (u.team r.team).Holds (binKey e b a) (r.carried y) := by
  rw [hitDelivery_eq hk hq hsh, if_neg (by simp [hrun]), if_neg (by simp [hrun])]
  obtain ⟨ds, hcross, hsame⟩ := State.cross_enters_ptrs hent fun s => s.landHit k r t y
  have hacc : State.SameAccess s (State.dropRay { s with dies := ds } k) := ⟨⟨rfl, rfl, rfl, rfl, rfl, rfl⟩, rfl, rfl, hsame.ptrs⟩
  have hlch : State.SameLaunches s (State.dropRay { s with dies := ds } k) :=
    ⟨fun _ => rfl, fun _ => rfl, fun _ => rfl, fun _ => rfl⟩
  have hfn' : (State.dropRay { s with dies := ds } k).function r.launch f = some (e, b, a) :=
    (State.function_congr hacc.maps hlch _ _).trans hfn
  refine ⟨(State.dropRay { s with dies := ds } k).enterFn r.team f (r.carried y), hcross.trans ?_, ?_, ?_⟩
  · rw [State.landHit, hacc.shaderOf hlch, hf]
    dsimp only
    rw [hfn']
  · rw [State.enterFn_rays, State.look_dropRay]
  · exact State.enterFn_holds (by rw [show (State.team (State.dropRay { s with dies := ds } k) r.team).launch = r.launch from hl]; exact hfn') _

end

end Sys2Proof.Machine
end

section
namespace Sys2Proof.Machine

/-- Settles O47: a ray's events by where the ray stands. -/
theorem rayEvents : Obligations.RayEvents := by
  unfold Obligations.RayEvents
  intro k core s r hk asid
  refine ⟨fun e he hq => ?_, fun hq hcore => ?_, fun hq hstill pa pte ht => ?_,
    fun _ h => rayCount_held hk h, fun hq hstill hfree => ⟨fun b hb hns h6 => ?_, fun pa hpa => ?_⟩, fun t y hq hsh => ?_⟩
  · intro q
    refine ⟨queuedRay_held hk hq he, fun hs hstill hfree => ?_⟩
    have hread := queuedRay_read hk hq he hs hstill hfree
    refine ⟨fun b hb hsv => ?_, fun b hb hsv hsh => ?_, fun bs hbs => ?_⟩
    · rw [State.readRay_served (r := { r with core := core }) hb hsv] at hread
      exact ⟨_, hread, State.look_setRay _ _ _, _, rfl, rfl, rfl, rfl⟩
    · obtain ⟨gs, hgs⟩ := State.loseRay_eq (r := { r with core := core }) hsh s k r.slot
      rw [State.readRay_lost (r := { r with core := core }) hb hsv, hgs] at hread
      exact ⟨_, hread, State.look_dropRay _ _, _, rfl, rfl, rfl⟩
    · intro y v z n
      rw [State.readRay_ok (r := { r with core := core }) hbs] at hread
      obtain ⟨hlch, hasid, hteams⟩ : v.launch r.launch = s.launch r.launch ∧ v.asidL r.launch = asid ∧ v.teams = s.teams := by
        obtain ⟨ds, cs, tl, ev, hkeep⟩ := s.keepTr_eq core asid r.slot
        rw [show v = _ from hkeep]
        exact ⟨rfl, rfl, rfl⟩
      refine ⟨fun hf => hread.trans ?_, fun hf hleg es hes => hread.trans ?_, _, hread, fun hsh => ?_⟩
      · rw [State.loadRay, if_pos hf]
        show Host.Outcome.next ((v.rayTaken r).setRay k
          { y.init (v.launch r.launch).lr.id (r.word 22) with st := .running, first := false }) = _
        rw [hlch]
      · rw [State.loadRay, if_neg (by simp [hf])]
        exact congrArg _ (State.reloadRay_ok (r := { r with core := core }) hleg (hasid.symm ▸ hes))
      · exact (State.loadRay_teams (y := y) hsh k _).trans hteams
  · subst hcore
    intro ws left
    refine ⟨fun h => ?_, fun hstill hh hl => ?_, fun hstill hh hl hleg => ?_⟩
    · by_cases hstill : s.still r.core = true
      · exact traversalStep_stopped hk hstill
      · rw [traversalStep_running hk hq (Bool.eq_false_iff.2 hstill), State.rayRun_held (h.resolve_left hstill)]
    · obtain ⟨w, hw, hmem, hlook⟩ := State.rayRun_reads (k := k) hh hl
      exact ⟨_, w, hw, traversalStep_running hk hq hstill, hmem, hlook⟩
    · intro e
      have hrun := traversalStep_running hk hq hstill
      rw [State.rayRun_steps hh hl hleg] at hrun
      refine ⟨fun x hx => ?_, fun x hx => ?_⟩
      · rw [show TStep.run 65 _ _ _ = _ from hx] at hrun
        exact ⟨_, hrun, State.look_setRay _ _ _, rfl⟩
      · intro y v hv
        rw [show TStep.run 65 _ _ _ = _ from hx, State.afterStep_done hv] at hrun
        exact ⟨_, hrun, rfl, State.look_setRay _ _ _⟩
  · rw [callbackResume_eq hk hq hstill ht]
    exact ⟨fun h0 => if_pos h0, fun h0 => if_neg h0⟩
  · refine ⟨_, rayCount_lost hk hq hstill hfree hb hns, State.rayCounted_mem _ _ _, ?_,
      s.rayRec r (.rayLost, r.counter, none) 5 0 none, ?_, rfl, rfl⟩
    · rw [State.rayCounted_look, if_neg h6]
    · rw [State.rayCounted, if_neg h6]
      rfl
  · refine ⟨_, rayCount_lands hk hq hstill hfree hpa, ?_, fun a ha => ?_, State.rayCounted_look _ _ _⟩
    · rw [State.rdLe_of_mem (State.rayCounted_mem _ _ _)]
      exact (s.rdLe_wrLe pa 8 _).trans (Nat.mod_mod _ _)
    · rw [State.rdByte_of_mem (State.rayCounted_mem _ _ _)]
      exact State.rdByte_wrBytes_out s (by rw [leBytes_length]; exact ha)
  · refine ⟨fun h => ?_, fun h h' => ?_, ?_⟩
    · rw [hitDelivery_eq hk hq hsh, if_pos h]
    · rw [hitDelivery_eq hk hq hsh, if_neg h', if_pos (bne_iff_ne.2 h)]
    · intro d
      refine ⟨fun hrun hent => ?_, fun f e b a hrun hent hl hf hfn => ?_⟩
      · rw [hitDelivery_eq hk hq hsh, if_neg (by simp [hrun]), if_neg (by simp [hrun])]
        exact State.cross_waits hent _
      · obtain ⟨u, hu, hgone, n, hn, hmem⟩ := hitDelivery_enters hk hq hsh hrun hent hl hf hfn
        exact ⟨u, hu, hgone, n, hn, hmem⟩

end Sys2Proof.Machine
end


section
/-! SUPPORT. Page walks that end, and fault records (R358, R363-R365). -/

namespace Sys2Proof.Machine

/-! ### Walks (R358) -/

theorem State.tlbFill_holds {s : State} {k c : Nat} {e : TlbEntry} (h : k = c ∨ e ∈ (s.core c).tlb) : e ∈ ((s.tlbFill k e).core c).tlb := by
  show e ∈ ((s.modCore k fun x => { x with tlb := (tlbWith e (s.core k).tlb).take 128 }).core c).tlb
  by_cases hk : c = k
  · rw [hk, State.core_modCore]
    exact List.mem_cons_self
  · rw [State.core_modCore_ne _ _ hk]
    exact h.resolve_left (Ne.symm hk)

/-- Each core that is filled holds the translation, and keeps it while others are filled. -/
theorem State.foldl_tlbFill_holds (cs : List Nat) (s : State) {c : Nat} {e : TlbEntry} (h : c ∈ cs ∨ e ∈ (s.core c).tlb) :
    e ∈ ((cs.foldl (fun s k => s.tlbFill k e) s).core c).tlb := by
  induction cs generalizing s with
  | nil => exact h.resolve_left List.not_mem_nil
  | cons k cs ih =>
    rcases h with h | h
    · rcases List.mem_cons.1 h with rfl | h
      · exact ih _ (.inr (State.tlbFill_holds (.inl rfl)))
      · exact ih _ (.inl h)
    · exact ih _ (.inr (State.tlbFill_holds (.inr h)))

/-- A group that is there learns why its walk failed. -/
def State.tellWalk (s : State) (g : Nat) (e : Nat × Cause × Option PfKind) : State :=
  if (Tab.look s.groups g).isSome then s.modGroup g fun x => { x with walks := x.walks ++ [e] } else s

theorem State.tellWalk_holds {s : State} {k g : Nat} {e : Nat × Cause × Option PfKind} (hg : (Tab.look s.groups g).isSome = true)
    (h : k = g ∨ e ∈ (s.group g).walks) :
    (Tab.look (s.tellWalk k e).groups g).isSome = true ∧ e ∈ ((s.tellWalk k e).group g).walks := by
  unfold State.tellWalk
  by_cases hk : g = k
  · subst hk
    rw [if_pos hg, State.group_modGroup]
    exact ⟨by rw [State.modGroup, State.setGroup, Tab.look_put_self]; rfl, List.mem_append_right _ (List.mem_singleton_self e)⟩
  · have he : e ∈ (s.group g).walks := h.resolve_left (Ne.symm hk)
    split
    · rw [State.group_modGroup_ne _ _ hk]
      exact ⟨by rw [State.modGroup, State.setGroup, Tab.look_put_ne _ _ hk]; exact hg, he⟩
    · exact ⟨hg, he⟩

theorem State.tellWalk_look_ne (s : State) (k : Nat) (e : Nat × Cause × Option PfKind) {g : Nat} (hg : g ≠ k) :
    (Tab.look (s.tellWalk k e).groups g).isSome = (Tab.look s.groups g).isSome := by
  unfold State.tellWalk
  split
  · rw [State.modGroup, State.setGroup, Tab.look_put_ne _ _ hg]
  · rfl

theorem State.foldl_tellWalk_holds (who : List (Nat × Nat)) (s : State) {g : Nat} {e : Nat × Cause × Option PfKind}
    (hg : (Tab.look s.groups g).isSome = true) (h : g ∈ who.map Prod.fst ∨ e ∈ (s.group g).walks) :
    e ∈ ((who.foldl (fun s x => s.tellWalk x.1 e) s).group g).walks := by
  induction who generalizing s with
  | nil => exact h.resolve_left List.not_mem_nil
  | cons x who ih =>
    by_cases hx : x.1 = g ∨ e ∈ (s.group g).walks
    · obtain ⟨hg', he⟩ := State.tellWalk_holds hg hx
      exact ih _ hg' (.inr he)
    · obtain ⟨hne, hno⟩ := not_or.1 hx
      have hmem : g ∈ who.map Prod.fst := (List.mem_cons.1 (h.resolve_right hno)).resolve_left (Ne.symm hne)
      exact ih _ ((State.tellWalk_look_ne s x.1 e (Ne.symm hne)).trans hg) (.inl hmem)

/-- A walk that has ended changes TLBs, or groups. -/
theorem State.walkDone_dies (s : State) (w : Walk) (r : Except (Cause × Option PfKind) (DWord × Nat)) : (s.walkDone w r).dies = s.dies := by
  unfold State.walkDone
  split
  · exact foldl_keeps (F := State.dies) (f := fun s c => s.tlbFill c _) (fun _ _ => rfl) _ _
  · exact foldl_keeps (F := State.dies) (fun s x => by dsimp only; split <;> rfl) _ _

theorem State.walkDone_mem (s : State) (w : Walk) (r : Except (Cause × Option PfKind) (DWord × Nat)) : (s.walkDone w r).mem = s.mem := by
  unfold State.walkDone
  split
  · exact foldl_keeps (F := State.mem) (f := fun s c => s.tlbFill c _) (fun _ _ => rfl) _ _
  · exact foldl_keeps (F := State.mem) (fun s x => by dsimp only; split <;> rfl) _ _

theorem State.walkKeep_walks (s : State) (d asid va e : Nat) : ((s.walkKeep d asid va).die e).walks = (s.die e).walks := by
  unfold State.walkKeep
  extract_lets p ps ws
  split
  · rfl
  · by_cases he : e = d
    · rw [he, State.die_setDie]
    · rw [State.die_setDie_ne _ _ he]

/-- A walker that has ended its walk. -/
def State.withoutWalk (s : State) (die n : Nat) : State := s.setDie die { s.die die with walks := (s.die die).walks.eraseIdx n }

section
variable {die n : Nat} {s : State} {w : Walk} (hw : ((s.die die).walks.take 64)[n]? = some w)
include hw

theorem pageWalk_held (h : s.walkHeld die w.asid (w.vpn * 2 ^ 14) = true) : exec (.pageWalk die n) s = .next s := by
  refine Eq.trans (b := execPageWalk die n s) rfl ?_
  rw [execPageWalk, nWalkers]
  dsimp only
  rw [hw]
  exact if_pos h

theorem pageWalk_ends (h : s.walkHeld die w.asid (w.vpn * 2 ^ 14) = false) : exec (.pageWalk die n) s =
    .next (((s.withoutWalk die n).walkKeep die w.asid (w.vpn * 2 ^ 14)).walkDone w (s.walkOn die w.asid (w.vpn * 2 ^ 14))) := by
  have hon := (s.setDie_sameAccess die (x := { s.die die with walks := (s.die die).walks.eraseIdx n }) rfl).walkOn die w.asid (w.vpn * 2 ^ 14)
  refine Eq.trans (b := execPageWalk die n s) rfl ?_
  rw [execPageWalk, nWalkers]
  dsimp only
  rw [hw]
  refine (if_neg (ne_true_of_eq_false h)).trans ?_
  rw [hon]
  rfl

/-- A walk that ends leaves its walker, and tells its cores or its groups how it has gone. -/
theorem pageWalk_spec (h : s.walkHeld die w.asid (w.vpn * 2 ^ 14) = false) : ∃ u, exec (.pageWalk die n) s = .next u ∧
    (u.die die).walks = (s.die die).walks.eraseIdx n ∧ u.mem = s.mem ∧
    (∀ p lv, s.walkOn die w.asid (w.vpn * 2 ^ 14) = .ok (p, lv) → ∀ x ∈ w.who, leafEntry w.asid w.part w.vpn p lv ∈ (u.core x.2).tlb) ∧
    (∀ c k, s.walkOn die w.asid (w.vpn * 2 ^ 14) = .error (c, k) → ∀ x ∈ w.who, (Tab.look s.groups x.1).isSome = true →
      (w.vpn, c, k) ∈ (u.group x.1).walks) := by
  refine ⟨_, pageWalk_ends hw h, ?_, ?_, fun p lv hok x hx => ?_, fun c k herr x hx hg => ?_⟩
  · rw [State.die, State.walkDone_dies, ← State.die, State.walkKeep_walks, State.withoutWalk, State.die_setDie]
  · obtain ⟨ds, hds⟩ := (s.withoutWalk die n).walkKeep_eq die w.asid (w.vpn * 2 ^ 14)
    rw [State.walkDone_mem, hds]
    rfl
  · rw [hok]
    exact State.foldl_tlbFill_holds _ _ (.inl (List.mem_dedup.2 (List.mem_map_of_mem hx)))
  · rw [herr]
    refine State.foldl_tellWalk_holds w.who _ ?_ (.inl (List.mem_map_of_mem hx))
    obtain ⟨ds, hds⟩ := (s.withoutWalk die n).walkKeep_eq die w.asid (w.vpn * 2 ^ 14)
    rw [hds]
    exact hg

end

/-! ### Fault records (R363-R365) -/

theorem FaultRec.bytes_length (r : FaultRec) : r.bytes.length = 64 := by
  simp only [FaultRec.bytes, List.length_append, leBytes_length]

theorem State.SameMaps.ctxPa {s u : State} (h : State.SameMaps s u) (hc : u.ctxs = s.ctxs) (c : Nat) (va : DWord) (write : Bool) :
    u.ctxPa c va write = s.ctxPa c va write := by
  have hctx : u.ctx c = s.ctx c := by rw [State.ctx, hc]; rfl
  rw [State.ctxPa, State.ctxPa, State.translate, State.translate, hctx, h.walk]

/-- The record as its ring takes it. -/
def FaultRec.numbered (r : FaultRec) (n : Nat) : FaultRec := { r with seq := n % 2 ^ 32 }

/-- What is there once a record is in its ring: its source's number counts, and a served record is outstanding. -/
def State.entered (s : State) (r : FaultRec) (n : Nat) : State :=
  let s := { s with seqs := Tab.set 0 s.seqs r.source (n + 1) }
  if r.waiter.isNone then s
  else s.setCtx r.ctx { s.ctx r.ctx with
    out := (s.ctx r.ctx).out ++ [Outstanding.join ⟨r.seq, r.source, r.asid, r.page, r.cause, r.pfkind, [], []⟩ r.waiter] }

/-- A record that its ring takes counts from then on. -/
theorem State.writeRecord_eq (s : State) (r : FaultRec) : s.writeRecord r =
    (s.pushFault r.ctx (r.numbered (Tab.get 0 s.seqs r.source))).map fun t => 
      t.entered (r.numbered (Tab.get 0 s.seqs r.source)) (Tab.get 0 s.seqs r.source) := by
  -- `State.pushFault` becomes a variable: the ring's arithmetic modulo 2^32 does not evaluate in a proof term.
  have hdef : State.writeRecord = State.writeRecord := rfl
  conv at hdef => rhs; delta State.writeRecord
  obtain ⟨push, hpush⟩ : ∃ push, push = State.pushFault := ⟨_, rfl⟩
  rw [← hpush] at hdef ⊢
  rw [hdef]
  change (match push s r.ctx (r.numbered (Tab.get 0 s.seqs r.source)) with | none => none | some s => _) = _ 
  cases push s r.ctx (r.numbered (Tab.get 0 s.seqs r.source)) with
  | none => rfl
  | some t => exact (apply_ite some _ _ _).symm

/-- A full ring takes no record. -/
theorem State.pushFault_full {s : State} {c : Nat} (h : ringRoom (s.ctx c).frHead (s.ctx c).frTail (s.ctx c).frSize = false)
    (r : FaultRec) : s.pushFault c r = none := by
  unfold State.pushFault
  extract_lets x
  rw [if_pos (by rw [h]; rfl)]

/-- A ring with room takes a record at TAIL, whose next value goes by a name (`tail`): what it computes to never has to evaluate. -/
theorem State.pushFault_room {s : State} {c pa tail : Nat} (h : ringRoom (s.ctx c).frHead (s.ctx c).frTail (s.ctx c).frSize = true)
    (hpa : s.ctxPa c (ringAt (s.ctx c).frBase (s.ctx c).frTail (s.ctx c).frSize 64) true = some pa)
    (htail : ((s.ctx c).frTail + 1) % 2 ^ 32 = tail) (r : FaultRec) :
    s.pushFault c r = some ((s.wrBytes pa r.bytes).setCtx c { s.ctx c with frTail := tail }) := by
  unfold State.pushFault
  extract_lets x
  rw [if_neg (by rw [h]; decide), hpa, ← htail]

/-- What is there of the memory, the other records and the ring is there when the record counts. -/
theorem State.entered_keeps (s : State) {r : FaultRec} {c : Nat} (hc : r.ctx = c) (n : Nat) : (s.entered r n).mem = s.mem ∧
    (s.entered r n).faults = s.faults ∧ ((s.entered r n).ctx c).frTail = (s.ctx c).frTail ∧ Tab.get 0 (s.entered r n).seqs r.source = n + 1 := by
  subst hc
  unfold State.entered
  extract_lets u
  split
  · exact ⟨rfl, rfl, rfl, Tab.get_set_self 0 s.seqs r.source (n + 1)⟩
  · refine ⟨rfl, rfl, ?_, Tab.get_set_self 0 s.seqs r.source (n + 1)⟩
    rw [State.ctx_setCtx]
    rfl

theorem State.wrBytes_faults (s : State) (pa : Nat) (bs : List Byte) : (s.wrBytes pa bs).faults = s.faults := rfl

/-- With no room in the ring a record is not written. -/
theorem State.writeRecord_full {s : State} {r : FaultRec} (h : ringRoom (s.ctx r.ctx).frHead (s.ctx r.ctx).frTail (s.ctx r.ctx).frSize = false) :
    s.writeRecord r = none := by
  rw [State.writeRecord_eq, State.pushFault_full h]
  exact Option.map_none ..

/-- With room it enters the ring under the next number of its source. -/
theorem State.writeRecord_room {s : State} {r : FaultRec} {pa tail : Nat}
    (h : ringRoom (s.ctx r.ctx).frHead (s.ctx r.ctx).frTail (s.ctx r.ctx).frSize = true)
    (hpa : s.ctxPa r.ctx (ringAt (s.ctx r.ctx).frBase (s.ctx r.ctx).frTail (s.ctx r.ctx).frSize 64) true = some pa)
    (htail : ((s.ctx r.ctx).frTail + 1) % 2 ^ 32 = tail) :
    ∃ u, s.writeRecord r = some u ∧ u.faults = s.faults ∧ (u.ctx r.ctx).frTail = tail ∧
      u.mem = putBytes s.mem pa (r.numbered (Tab.get 0 s.seqs r.source)).bytes ∧
      Tab.get 0 u.seqs r.source = Tab.get 0 s.seqs r.source + 1 := by
  rw [State.writeRecord_eq, State.pushFault_room h hpa htail]
  generalize Tab.get 0 s.seqs r.source = n
  have hc : (r.numbered n).ctx = r.ctx := rfl
  rw [show r.source = (r.numbered n).source from rfl]
  generalize r.numbered n = q at *
  obtain ⟨hm, hf, ht, hseq⟩ := ((s.wrBytes pa q.bytes).setCtx r.ctx { s.ctx r.ctx with frTail := tail }).entered_keeps hc n
  rw [State.setCtx_mem, State.wrBytes_mem] at hm
  rw [State.setCtx_faults, State.wrBytes_faults] at hf
  rw [State.ctx_setCtx] at ht
  exact ⟨_, Option.map_some .., hf, ht, hm, hseq⟩

section
variable {n : Nat} {s : State} {r : FaultRec} (hr : s.faults[n]? = some r)
include hr

/-- A record waits behind those of its source. -/
theorem faultRecord_behind (h : ∃ q ∈ s.faults.take n, q.source = r.source) : exec (.faultRecord n) s = .next s := by
  refine Eq.trans (b := execFaultRecord n s) rfl ?_
  rw [execFaultRecord, hr]
  exact if_pos (List.any_eq_true.2 (by simpa using h))

variable (hfirst : ∀ q ∈ s.faults.take n, q.source ≠ r.source)
include hfirst

/-- A served record of a page with an outstanding one joins it. -/
theorem faultRecord_joins (h : r.waiter.isSome = true ∧ ∃ o ∈ (s.ctx r.ctx).out, Outstanding.covers o r = true) :
    exec (.faultRecord n) s = .next (State.setCtx { s with faults := s.faults.eraseIdx n } r.ctx { s.ctx r.ctx with
      out := (s.ctx r.ctx).out.map fun (o : Outstanding) => if o.covers r then o.join r.waiter else o }) := by
  refine Eq.trans (b := execFaultRecord n s) rfl ?_
  rw [execFaultRecord, hr]
  refine (if_neg (by simpa using hfirst)).trans (if_pos ?_)
  rw [h.1, Bool.true_and, List.any_eq_true]
  exact h.2

/-- Any other is written, or waits for room in its ring. -/
theorem faultRecord_writes (h : r.waiter = none ∨ ∀ o ∈ (s.ctx r.ctx).out, Outstanding.covers o r = false) :
    exec (.faultRecord n) s = .next ((State.writeRecord { s with faults := s.faults.eraseIdx n } r).getD s) := by
  refine Eq.trans (b := execFaultRecord n s) rfl ?_
  have hdef : execFaultRecord = execFaultRecord := rfl
  conv at hdef => rhs; delta execFaultRecord
  obtain ⟨write, hwrite⟩ : ∃ write, write = State.writeRecord := ⟨_, rfl⟩
  rw [← hwrite] at hdef ⊢
  rw [hdef]
  dsimp only
  rw [hr]
  refine (if_neg (by simpa using hfirst)).trans ((if_neg ?_).trans ?_)
  · rcases h with h | h
    · simp [h]
    · rw [Bool.and_eq_true, List.any_eq_true]
      rintro ⟨-, o, ho, hc⟩
      rw [h o ho] at hc
      cases hc
  · cases write { s with faults := s.faults.eraseIdx n } r <;> rfl

/-- A record waits while its ring is full. -/
theorem faultRecord_full (h : r.waiter = none ∨ ∀ o ∈ (s.ctx r.ctx).out, Outstanding.covers o r = false)
    (hroom : ringRoom (s.ctx r.ctx).frHead (s.ctx r.ctx).frTail (s.ctx r.ctx).frSize = false) : exec (.faultRecord n) s = .next s := by
  rw [faultRecord_writes hr hfirst h, State.writeRecord_full (s := { s with faults := s.faults.eraseIdx n }) hroom, Option.getD_none]

/-- With room in it, it is there, under the next number of its source. -/
theorem faultRecord_room {pa : Nat} (h : r.waiter = none ∨ ∀ o ∈ (s.ctx r.ctx).out, Outstanding.covers o r = false)
    (hroom : ringRoom (s.ctx r.ctx).frHead (s.ctx r.ctx).frTail (s.ctx r.ctx).frSize = true)
    (hpa : s.ctxPa r.ctx (ringAt (s.ctx r.ctx).frBase (s.ctx r.ctx).frTail (s.ctx r.ctx).frSize 64) true = some pa) :
    ∃ u, exec (.faultRecord n) s = .next u ∧ u.faults = s.faults.eraseIdx n ∧ (u.ctx r.ctx).frTail = ((s.ctx r.ctx).frTail + 1) % 2 ^ 32 ∧
      u.rdBytes pa 64 = FaultRec.bytes { r with seq := Tab.get 0 s.seqs r.source % 2 ^ 32 } ∧
      Tab.get 0 u.seqs r.source = Tab.get 0 s.seqs r.source + 1 := by
  have hmaps : State.SameMaps s { s with faults := s.faults.eraseIdx n } := ⟨rfl, rfl, rfl, rfl, rfl, rfl⟩
  rw [← hmaps.ctxPa rfl] at hpa
  obtain ⟨tail, htail⟩ : ∃ tail, ((s.ctx r.ctx).frTail + 1) % 2 ^ 32 = tail := ⟨_, rfl⟩
  obtain ⟨u, hu, hf, ht, hm, hseq⟩ := State.writeRecord_room (s := { s with faults := s.faults.eraseIdx n }) hroom hpa htail
  refine ⟨u, ?_, hf, ht.trans htail.symm, ?_, hseq⟩
  · rw [faultRecord_writes hr hfirst h, hu, Option.getD_some]
  · rw [State.rdBytes_eq, hm, ← FaultRec.bytes_length (r.numbered _), takeBytes_putBytes]
    rfl

end

end Sys2Proof.Machine
end

section
/-! SUPPORT. Pixel teams that form, order stalls, samples and team stops (R143, R147, R383, R384). -/

namespace Sys2Proof.Machine

/-! ### Pixel teams (R143) -/

/-- What no released entry changes, the stage counter's value does not change. -/
theorem State.stageAt_keeps {β : Type} {F : State → β} {t : Nat} (hF : ∀ s x, F (State.modTeam s t fun y => y.addCopy x) = F s)
    (s : State) (c : Nat) : F (s.stageAt t c) = F s := by
  unfold State.stageAt
  split
  · rfl
  · refine foldl_keeps (F := F) (fun s e => ?_) _ _
    split
    · split
      · exact hF _ _
      · rfl
    · rfl

/-- Where a team stands, whether it runs, and in which window. -/
def Team.placed (x : Team) : TeamState × Nat × Nat := (x.st, x.base, x.size)

theorem Team.addCopy_placed (x : Team) (c : Copy) : (x.addCopy c).placed = x.placed := by
  unfold Team.addCopy
  split <;> rfl

theorem State.stageAt_placed (s : State) (t c : Nat) : ((s.stageAt t c).team t).placed = (s.team t).placed :=
  State.stageAt_keeps (F := fun s => (s.team t).placed)
    (fun s x => by rw [State.team_modTeam, Team.addCopy_placed]) s c

theorem State.stageAt_mem (s : State) (t c : Nat) : (s.stageAt t c).mem = s.mem :=
  State.stageAt_keeps (F := State.mem) (fun _ _ => rfl) s c

theorem State.takeWindow_keeps (s : State) (core base size : Nat) :
    (s.takeWindow core base size).mem = s.mem ∧ (s.takeWindow core base size).teams = s.teams := by
  unfold State.takeWindow
  split <;> exact ⟨rfl, rfl⟩

theorem pixelTeam_forms {l core base : Nat} {s : State}
    (hlook : (Tab.look s.teams (teamKey l ((s.launch l).lr.teams + core))).isSome = true)
    (hbase : windowBase (s.core core).wins (4096 * (s.launch l).lr.spad) = some base)
    (hstage : (s.team (teamKey l ((s.launch l).lr.teams + core))).stage2 = 4)
    (hst : (s.team (teamKey l ((s.launch l).lr.teams + core))).st = .queued) (hctx : s.ctxActive (s.launch l).ctx = true) :
    ∃ u, exec (.pixelTeamForm l core) s = .next u ∧
      (u.team (teamKey l ((s.launch l).lr.teams + core))).placed = (.running, base, 4096 * (s.launch l).lr.spad) ∧ u.mem = s.mem := by
  obtain ⟨y, hy⟩ := Option.isSome_iff_exists.1 hlook
  have hteam : s.team (teamKey l ((s.launch l).lr.teams + core)) = y := by rw [State.team, Tab.get, hy]; rfl
  rw [hteam] at hstage hst
  have hexec : exec (.pixelTeamForm l core) s = execPixelTeamForm l core s := rfl
  rw [hexec, execPixelTeamForm]
  dsimp only
  rw [hy, hbase]
  dsimp only
  rw [if_pos (by rw [hstage, hst, hctx]; rfl)]
  refine ⟨_, rfl, ?_, ?_⟩
  · rw [State.stageAt_placed, State.team, (State.takeWindow_keeps _ _ _ _).2, ← State.team, State.team_modTeam]
    rfl
  · rw [State.stageAt_mem, (State.takeWindow_keeps _ _ _ _).1]
    rfl

/-! ### The order watchdog (R147) -/

section
variable {g c : Nat} {s : State} (hc : (s.group g).sch.orderFrom = some c)
include hc

theorem orderStall_waits (h : (s.group g).sch.stalled = true ∨
    (s.die (s.orderDie g)).cyc < c + 2 ^ (s.queueOf (s.launch (s.launchOf g)).ctx (s.launch (s.launchOf g)).queue).wdog) :
    exec (.orderStall g) s = .next s := by
  refine Eq.trans (b := execOrderStall g s) rfl ?_
  unfold execOrderStall
  dsimp only
  rw [hc]
  refine if_neg fun hb => ?_
  rw [Bool.and_eq_true, Bool.not_eq_true', decide_eq_true_eq] at hb
  exact h.elim (fun h => Bool.noConfusion (h.symm.trans hb.1)) fun h => absurd hb.2 (Nat.not_le.2 h)

theorem orderStall_raises (hs : (s.group g).sch.stalled = false)
    (h : c + 2 ^ (s.queueOf (s.launch (s.launchOf g)).ctx (s.launch (s.launchOf g)).queue).wdog ≤ (s.die (s.orderDie g)).cyc) :
    exec (.orderStall g) s = .next ((s.record (s.groupRec g .orderStall { flm := (s.group g).thr.em })).modGroup g fun x =>
      { x with sch := { x.sch with stalled := true } }) := by
  refine Eq.trans (b := execOrderStall g s) rfl ?_
  unfold execOrderStall
  dsimp only
  rw [hc]
  exact if_pos (by rw [hs, decide_eq_true h]; rfl)

end

/-! ### Trace records (R382-R384) -/

theorem State.wrBytes_teams (s : State) (pa : Nat) (bs : List Byte) : (s.wrBytes pa bs).teams = s.teams := rfl

theorem State.wrBytes_groupKeys (s : State) (pa : Nat) (bs : List Byte) :
    (s.wrBytes pa bs).groups.map Prod.fst = s.groups.map Prod.fst :=
  (List.map_map ..).trans (List.map_congr_left fun _ _ => rfl)

/-- A trace record leaves the teams, and which groups there are. -/
theorem State.traceWrite_keeps (s : State) (t : Trace) (core : Nat) (bs : List Byte) :
    (s.traceWrite t core bs).teams = s.teams ∧ (s.traceWrite t core bs).groups.map Prod.fst = s.groups.map Prod.fst := by
  unfold State.traceWrite
  dsimp only
  split
  · exact ⟨rfl, State.wrBytes_groupKeys _ _ _⟩
  · obtain ⟨cs, hcs⟩ := (s.wrBytes (t.segment core + 64 + 32 * ((s.core core).written % max 1 t.slots)) bs).l1Update_eq core
      (t.segment core + 64 + 32 * ((s.core core).written % max 1 t.slots)) bs
    rw [hcs]
    exact ⟨rfl, (State.wrBytes_groupKeys _ _ _).trans (State.wrBytes_groupKeys _ _ _)⟩

/-! ### Samples (R383) -/

theorem State.ite_bump_groups (p : Prop) [Decidable p] (s : State) (c e : Nat) : (if p then s.bump c e else s).groups = s.groups := by
  obtain ⟨cs, hcs⟩ := s.bump_eq c e
  rw [hcs]
  split <;> rfl

section
variable {core sch g : Nat} {t : Trace} {s : State} (ht : s.traceOf core = some t) (hn : s.nextSlot core sch = some g)
include ht hn

theorem State.sampleOf_none (h : t.sper = 0 ∨ (s.die (dieOf core)).cyc % 2 ^ t.sper ≠ 0 ∨
    ∃ h, Tab.look (s.core core).lastSlot sch = some (h, (s.die (dieOf core)).cyc)) : s.sampleOf core sch = none := by
  unfold State.sampleOf
  rw [ht, hn]
  refine if_pos ?_
  rcases h with h | h | ⟨k, h⟩
  · simp [h]
  · simp [h]
  · simp [h]

theorem State.sampleOf_some (h0 : t.sper ≠ 0) (hper : (s.die (dieOf core)).cyc % 2 ^ t.sper = 0)
    (hdone : ¬∃ h, Tab.look (s.core core).lastSlot sch = some (h, (s.die (dieOf core)).cyc)) : s.sampleOf core sch = some (t, g) := by
  unfold State.sampleOf
  rw [ht, hn]
  refine if_neg ?_
  rcases hl : Tab.look (s.core core).lastSlot sch with _ | ⟨k, c⟩
  · simp [h0, hper]
  · have hc : c ≠ (s.die (dieOf core)).cyc := fun he => hdone ⟨k, by rw [hl, he]⟩
    simp [h0, hper, hc]

theorem sample_not (h : t.sper = 0 ∨ (s.die (dieOf core)).cyc % 2 ^ t.sper ≠ 0 ∨
    (∃ h, Tab.look (s.core core).lastSlot sch = some (h, (s.die (dieOf core)).cyc)) ∨ s.cycleDone (dieOf core) = false ∨ s.still core = true) :
    exec (.sample core sch) s = .next s := by
  refine Eq.trans (b := execSample core sch s) rfl ?_
  unfold execSample
  by_cases hs : t.sper = 0 ∨ (s.die (dieOf core)).cyc % 2 ^ t.sper ≠ 0 ∨
      ∃ h, Tab.look (s.core core).lastSlot sch = some (h, (s.die (dieOf core)).cyc)
  · rw [State.sampleOf_none ht hn hs]
  · obtain ⟨h0, hper, hdone⟩ : t.sper ≠ 0 ∧ (s.die (dieOf core)).cyc % 2 ^ t.sper = 0 ∧
        ¬∃ h, Tab.look (s.core core).lastSlot sch = some (h, (s.die (dieOf core)).cyc) := by tauto
    rw [State.sampleOf_some ht hn h0 hper hdone]
    refine if_pos ?_
    rcases h with h | h | h | h | h
    · exact absurd h h0
    · exact absurd hper h
    · exact absurd h hdone
    · rw [h]; rfl
    · rw [h, Bool.or_true]

theorem sample_takes (h0 : t.sper ≠ 0) (hper : (s.die (dieOf core)).cyc % 2 ^ t.sper = 0)
    (hdone : ¬∃ h, Tab.look (s.core core).lastSlot sch = some (h, (s.die (dieOf core)).cyc)) (hcyc : s.cycleDone (dieOf core) = true)
    (hstill : s.still core = false) : ∃ u, exec (.sample core sch) s = .next u ∧
      Tab.look (u.core core).lastSlot sch = some (g, (s.die (dieOf core)).cyc) ∧ u.groups.map Prod.fst = s.groups.map Prod.fst := by
  have hexec : exec (.sample core sch) s = execSample core sch s := rfl
  rw [hexec, execSample, State.sampleOf_some ht hn h0 hper hdone]
  dsimp only
  rw [if_neg (by rw [hcyc, hstill]; decide)]
  refine ⟨_, rfl, ?_, ?_⟩
  · rw [State.core_modCore]
    exact Tab.look_put_self _ _ _
  · rw [State.modCore_groups, State.ite_bump_groups]
    exact (State.traceWrite_keeps _ _ _ _).2

end

/-! ### Team stops (R384) -/

section
variable {t : Nat} {brks : List Nat} {s : State} (hstop : (s.team t).stop = some brks)
include hstop

theorem teamStop_waits (h : ¬∀ x ∈ (s.team t).groups, (s.group x.2).sch.halted = true ∨ (s.group x.2).sch.parked = true) :
    exec (.teamStop t) s = .next s := by
  refine Eq.trans (b := execTeamStop t s) rfl ?_
  unfold execTeamStop
  dsimp only
  rw [hstop]
  refine if_pos ?_
  rw [Bool.not_eq_true']
  refine Bool.eq_false_iff.2 fun hall => h fun x hx => ?_
  exact (Bool.or_eq_true _ _).mp (List.all_eq_true.1 hall x hx)

theorem teamStop_ends (h : ∀ x ∈ (s.team t).groups, (s.group x.2).sch.halted = true ∨ (s.group x.2).sch.parked = true) :
    ∃ u, exec (.teamStop t) s = .next u ∧ u.teams = (s.modTeam t fun y => { y with stop := none }).teams := by
  have hall : (s.team t).groups.all (fun x => (s.group x.2).sch.halted || (s.group x.2).sch.parked) = true :=
    List.all_eq_true.2 fun x hx => (Bool.or_eq_true _ _).mpr (h x hx)
  have hexec : exec (.teamStop t) s = execTeamStop t s := rfl
  rw [hexec]
  unfold execTeamStop
  dsimp only
  rw [hstop]
  dsimp only
  rw [if_neg (by rw [hall]; decide)]
  split
  · exact ⟨_, rfl, rfl⟩
  · refine ⟨_, rfl, ?_⟩
    refine (foldl_keeps (F := State.teams) (fun s k => ?_) _ _).trans (foldl_keeps (F := State.teams) (fun s k => ?_) _ _)
    · exact (State.traceWrite_keeps _ _ _ _).1
    · exact (State.traceWrite_keeps _ _ _ _).1

end

end Sys2Proof.Machine
end

section
/-! SUPPORT. The output of an ended mesh team (R139): what the end of the pixel teams leaves of it. -/

namespace Sys2Proof.Machine

/-! ### A classified team stays so, and so does what is routed to the fixed rasteriser -/

/-- A classified team `t` stays classified, and the primitives left to the fixed rasteriser of launch `l` stay. -/
structure State.KeepsRouted (t l : Nat) (s u : State) : Prop where
  stage : (s.team t).stage2 = 3 → (u.team t).stage2 = 3
  fixed : (u.launch l).fixed = (s.launch l).fixed

theorem State.KeepsRouted.trans {t l : Nat} {s u v : State} (h : State.KeepsRouted t l s u) (k : State.KeepsRouted t l u v) :
    State.KeepsRouted t l s v := ⟨fun hs => k.stage (h.stage hs), k.fixed.trans h.fixed⟩

theorem State.KeepsRouted.of_eq {t l : Nat} {s u : State} (ht : u.teams = s.teams) (hl : u.launches = s.launches) :
    State.KeepsRouted t l s u := by
  refine ⟨fun hs => ?_, ?_⟩
  · rw [State.team, ht]; exact hs
  · rw [State.launch, hl]; rfl

theorem State.KeepsRouted.refl (t l : Nat) (s : State) : State.KeepsRouted t l s s := .of_eq rfl rfl

theorem State.KeepsRouted.foldl {β : Type} {t l : Nat} {f : State → β → State} (as : List β) (s : State)
    (hf : ∀ s, ∀ a ∈ as, State.KeepsRouted t l s (f s a)) : State.KeepsRouted t l s (as.foldl f s) := by
  induction as generalizing s with
  | nil => exact .refl t l s
  | cons a as ih => exact (hf s a List.mem_cons_self).trans (ih _ fun s b hb => hf s b (List.mem_cons_of_mem _ hb))

theorem State.modLaunch_keepsRouted (t l : Nat) (s : State) (k : Nat) (f : Launch → Launch) (hf : ∀ x, (f x).fixed = x.fixed) :
    State.KeepsRouted t l s (s.modLaunch k f) := by
  refine ⟨id, ?_⟩
  by_cases hk : l = k
  · rw [hk, State.launch_modLaunch, hf]
  · rw [State.launch_modLaunch_ne _ _ hk]

/-- A change of a team that is not `t`, and a change of `t` that keeps its stage. -/
theorem State.modTeam_keepsRouted (t l : Nat) (s : State) (k : Nat) (f : Team → Team) (h : k ≠ t ∨ ∀ x, x.stage2 = 3 → (f x).stage2 = 3) :
    State.KeepsRouted t l s (s.modTeam k f) := by
  refine ⟨fun hs => ?_, rfl⟩
  by_cases hk : k = t
  · subst hk
    rw [State.team_modTeam]
    exact h.resolve_left (fun hn => hn rfl) _ hs
  · rw [State.team_modTeam_ne _ _ (Ne.symm hk), hs]

theorem Launch.stageEnd_fixed (x : Launch) (stage idx : Nat) : (x.stageEnd stage idx).fixed = x.fixed := by
  unfold Launch.stageEnd
  split <;> rfl

theorem State.settleX_keepsRouted (t l : Nat) (s : State) (k level u n : Nat) : State.KeepsRouted t l s (s.settleX k level u n) := by
  unfold State.settleX
  dsimp only
  split
  · refine .trans (u := if _ then _ else _) ?_ (.of_eq rfl rfl)
    split
    · refine (State.modLaunch_keepsRouted t l s k _ ?_).trans (State.modTeam_keepsRouted t l _ _ _ (.inr ?_))
      · exact fun _ => rfl
      · exact fun _ h => h
    · exact State.modLaunch_keepsRouted t l s k _ fun _ => rfl
  · exact .refl t l s

theorem State.withdrawTeam_keepsRouted (t l : Nat) (s : State) (k : Nat) : State.KeepsRouted t l s (s.withdrawTeam k) := by
  unfold State.withdrawTeam
  refine State.KeepsRouted.foldl _ _ fun s k _ => ?_
  dsimp only
  split
  · exact State.settleX_keepsRouted t l _ _ _ _ _
  · exact .refl t l s

/-- A classified team has no task stage to end. -/
theorem State.taskOver_ne_of_classified {s : State} {t k j : Nat} (hs : (s.team t).stage2 = 3) (hj : s.taskOver k j = true) :
    teamKey k j ≠ t := by
  rintro rfl
  unfold State.taskOver at hj
  split at hj
  next x hx =>
    have hstage : x.stage2 = 3 := by rw [State.team, Tab.get, hx] at hs; exact hs
    simp [hstage] at hj
  · cases hj

theorem State.settleTasks_keepsRouted (t l : Nat) {s : State} (hs : (s.team t).stage2 = 3) (k : Nat) :
    State.KeepsRouted t l s (s.settleTasks k) := by
  have first (js : List Nat) : State.KeepsRouted t l s ((js.filter (s.taskOver k)).foldl (fun s j => (s.modTeam (teamKey k j) fun t =>
      { t with st := .queued, stage2 := 2, started := false }).modLaunch k fun y => y.stageEnd 1 j) s) :=
    State.KeepsRouted.foldl _ _ fun u j hj => (State.modTeam_keepsRouted t l u (teamKey k j) _
      (.inl (State.taskOver_ne_of_classified hs (List.mem_filter.1 hj).2))).trans
        (State.modLaunch_keepsRouted t l _ k _ fun y => y.stageEnd_fixed 1 j)
  unfold State.settleTasks
  dsimp only
  split
  · refine (first _).trans (State.KeepsRouted.foldl _ _ fun u j _ => ?_)
    exact ((State.modTeam_keepsRouted t l u (teamKey k j) (fun x => { x with stage2 := 3 }) (.inr fun _ _ => rfl)).trans
      (State.modLaunch_keepsRouted t l _ k _ fun y => y.stageEnd_fixed 3 j)).trans (State.withdrawTeam_keepsRouted t l _ _)
  · exact first _

theorem State.freeWindow_launches (s : State) (t : Nat) : (s.freeWindow t).launches = s.launches := by
  unfold State.freeWindow
  dsimp only
  split <;> rfl

theorem State.endOne_keepsRouted (t l : Nat) {s : State} (hs : (s.team t).stage2 = 3) (k : Nat) : State.KeepsRouted t l s (s.endOne k) := by
  unfold State.endOne
  dsimp only
  split
  · exact .refl t l s
  · have hend : State.KeepsRouted t l s ((s.freeWindow k).modTeam k fun x => { x with st := .ended }) :=
      (State.KeepsRouted.of_eq (s.freeWindow_teams k) (s.freeWindow_launches k)).trans
        (State.modTeam_keepsRouted t l _ k _ (.inr fun _ => id))
    split
    · have hfree := hend.trans (.of_eq (u := ((s.freeWindow k).modTeam k fun x => { x with st := .ended }).takeFree) rfl rfl)
      have hask (c : Launch → Nat) := hfree.trans
        (State.modLaunch_keepsRouted t l _ ((s.freeWindow k).team k).launch (fun x => { x with meshes := c x }) fun _ => rfl)
      exact (hask _).trans (State.settleTasks_keepsRouted t l ((hask _).stage hs) _)
    · exact (hend.trans (State.modLaunch_keepsRouted t l _ _ _ fun y => y.stageEnd_fixed _ _)).trans (State.withdrawTeam_keepsRouted t l _ _)

theorem State.endPixels_keepsRouted (t l : Nat) {s : State} (hs : (s.team t).stage2 = 3) (k : Nat) :
    State.KeepsRouted t l s (s.endPixels k) := by
  unfold State.endPixels
  split
  · exact .refl t l s
  next hext =>
    clear hext
    generalize s.teams.filter _ = es
    induction es generalizing s with
    | nil => exact .refl t l s
    | cons e es ih =>
      have he := State.endOne_keepsRouted t l hs e.1
      exact he.trans (ih (he.stage hs))

theorem endFree_mem : EndFree State.mem :=
  ⟨fun _ _ => rfl, fun _ _ => rfl, fun _ _ => rfl, fun _ _ => rfl, fun _ _ => rfl, fun _ _ => rfl⟩

/-! ### The classifier (R139) -/

theorem meshOutput_refused {t : Nat} {s : State} (tris : List TriInfo) (h : (s.team t).stage2 ≠ 2 ∨ (s.team t).st ≠ .ended) :
    exec (.meshOutputClassify t tris) s = .next s := by
  refine Eq.trans (b := execMeshOutputClassify t tris s) rfl (if_pos ?_)
  rcases h with h | h <;> simp [h]

theorem meshOutput_routes {t : Nat} {tris : List TriInfo} {s : State} (hstage : (s.team t).stage2 = 2) (hst : (s.team t).st = .ended)
    (htris : ∀ k ∈ (s.team t).survivors, ∃ i ∈ tris, TriInfo.prim i = k) : ∃ u, exec (.meshOutputClassify t tris) s = .next u ∧
      (u.team t).stage2 = 3 ∧ u.mem = s.mem ∧ (u.launch (s.team t).launch).fixed = (s.launch (s.team t).launch).fixed ++
        (s.routed t tris false).map (primId ((s.launch (s.team t).launch).ext.getD ⟨0, 0, 0, 0, 0, 0, 0, 0, 0, 0⟩).maxP (s.team t).idx) := by
  have hall : ((s.team t).survivors.all fun k => tris.any fun i => i.prim == k) = true := by simpa using htris
  have hexec : exec (.meshOutputClassify t tris) s = execMeshOutputClassify t tris s := rfl
  rw [hexec, execMeshOutputClassify]
  dsimp only
  rw [if_neg (by rw [hstage, hst, hall]; decide)]
  refine ⟨_, rfl, ?_, ?_, ?_⟩
  · refine (State.endPixels_keepsRouted t 0 ?_ _).stage ?_
    · rw [State.team_modLaunch, State.team_modTeam]
    · rw [State.team_modLaunch, State.team_modTeam]
  · rw [endFree_mem.endPixels]
    rfl
  · rw [(State.endPixels_keepsRouted t (s.team t).launch ?_ _).fixed, State.launch_modLaunch]
    · rfl
    · rw [State.team_modLaunch, State.team_modTeam]

end Sys2Proof.Machine
end

section
/-! SUPPORT. Quads of the fixed rasteriser: visibility words, and lanes that enter Swage (R141-R143). -/

namespace Sys2Proof.Machine

/-! ### Reads of tables, and functions -/

theorem State.SameMaps.vRead {s u : State} (h : State.SameMaps s u) (asid path : Nat) (va : DWord) (n : Nat) :
    u.vRead asid path va n = s.vRead asid path va n := by
  have hpieces : u.rdPieces = s.rdPieces := funext fun ps => by simp only [State.rdPieces, h.rdBytes]
  have hrange : u.vRange asid path false va n = s.vRange asid path false va n := by
    simp only [State.vRange, State.translate, h.walk, h.isBad]
  rw [State.vRead, State.vRead, hpieces, hrange]

theorem State.pixelFn_congr {s u : State} (h : State.SameMaps s u) (k : State.SameLaunches s u) {l : Nat}
    (he : (u.launch l).ext = (s.launch l).ext) (material : Word) : u.pixelFn l material = s.pixelFn l material := by
  have hasid : u.asidL l = s.asidL l := by rw [State.asidL, State.asidL, k.ctx, k.asid]
  simp only [State.pixelFn, he, hasid, h.vRead]

/-- Functions are those of launches: a team more changes none. -/
theorem State.function_setTeam (s : State) (t : Nat) (x : Team) (l f : Nat) : (s.setTeam t x).function l f = s.function l f := by
  have hmaps : State.SameMaps s (s.setTeam t x) := ⟨rfl, rfl, rfl, rfl, rfl, rfl⟩
  rw [State.function, State.function, State.launch_setTeam, State.ctx_setTeam, hmaps.tableBytes]

theorem State.setTeam_spec (s : State) (t : Nat) {x : Team} {l : Nat} (hx : x.launch = l) :
    ((s.setTeam t x).team t).launch = l ∧ (s.setTeam t x).launches = s.launches ∧ ∀ k j, (s.setTeam t x).function k j = s.function k j :=
  ⟨by rw [State.team_setTeam, hx], rfl, s.function_setTeam t x⟩

theorem State.enterFn_launches (s : State) (t f : Nat) (y : SwLane) : (s.enterFn t f y).launches = s.launches := by
  unfold State.enterFn
  split <;> rfl

/-! ### Visibility words (R141) -/

theorem ofLeBytes_lt (bs : List Byte) : ofLeBytes bs < 2 ^ (8 * bs.length) := by
  induction bs with
  | nil => exact Nat.one_pos
  | cons b bs ih =>
    have hb := b.isLt
    rw [ofLeBytes, List.length_cons, Nat.mul_succ, Nat.pow_add]
    omega

theorem State.rdBytes_length (s : State) (pa n : Nat) : (s.rdBytes pa n).length = n := by
  rw [State.rdBytes_eq, takeBytes_length]

theorem State.rdLe_lt (s : State) (pa n : Nat) : s.rdLe pa n < 2 ^ (8 * n) := by
  have h := ofLeBytes_lt (s.rdBytes pa n)
  rwa [State.rdBytes_length] at h

/-- A quad of one covered pixel writes that pixel's word. -/
theorem State.visWords_one {l q pa : Nat} {pte : DWord} {f : FragQuad} {s : State} (hq : q < 4) (hcover : f.cover = BitVec.ofNat 4 (2 ^ q))
    (hbase : (((s.launch l).ext).getD ⟨0, 0, 0, 0, 0, 0, 0, 0, 0, 0⟩).visBase ≠ 0)
    (htr : s.translateC f.core (s.asidL l) (visAddr (((s.launch l).ext).getD ⟨0, 0, 0, 0, 0, 0, 0, 0, 0, 0⟩).visBase
      (f.px + q % 2) (f.py + q / 2)).toNat { write := true, path := some 0 } = .ok pa pte) :
    s.visWords l f = s.wrLe pa 8 (max (s.rdLe pa 8) ((f.keys.getD q 0).toNat * 2 ^ 32 + f.prim.toNat)) := by
  have hone : ((List.range 4).filter fun k => f.cover.getLsbD k) = [q] := by
    rw [hcover]
    interval_cases q <;> decide
  unfold State.visWords
  dsimp only
  rw [if_neg hbase, hone, List.foldl_cons, List.foldl_nil, htr]

theorem State.visWords_none {l : Nat} {f : FragQuad} {s : State} (h : ∀ e, (s.launch l).ext = some e → e.visBase = 0) :
    s.visWords l f = s := by
  have hbase : (((s.launch l).ext).getD ⟨0, 0, 0, 0, 0, 0, 0, 0, 0, 0⟩).visBase = 0 := by
    cases he : (s.launch l).ext with
    | none => rfl
    | some e => exact h e he
  exact if_pos hbase

/-! ### Lanes (R142, R143) -/

theorem State.pixelTeam_mem (s : State) (l core : Nat) : (s.pixelTeam l core).2.mem = s.mem := by
  unfold State.pixelTeam
  dsimp only
  split <;> rfl

theorem State.emitQuad_mem (s : State) (l : Nat) (f : FragQuad) : (s.emitQuad l f).mem = s.mem := by
  have hfill (u : State) (t fn n : Nat) : ((List.range 4).foldl (fun s k => s.enterFn t fn (fragLane f n k)) u).mem = u.mem :=
    (State.Fills.foldl (fun u k => u.enterFn_fills t fn (fragLane f n k)) _ u).maps.mem
  unfold State.emitQuad
  dsimp only
  split
  · rfl
  · split
    · rw [State.modLaunch_mem]
      split <;> rfl
    · split
      · rfl
      · split
        · rfl
        · rw [hfill, State.pixelTeam_mem]
          rfl

/-- A quad takes its lanes' numbers, and its screen tile for its core. -/
def State.takeQuad (s : State) (l : Nat) (f : FragQuad) : State :=
  s.modLaunch l fun x => { x with frags := (s.launch l).frags + 4, tiles := Tab.put x.tiles (tileKey f.px f.py) f.core }

theorem State.takeQuad_sameMaps (s : State) (l : Nat) (f : FragQuad) : State.SameMaps s (s.takeQuad l f) := ⟨rfl, rfl, rfl, rfl, rfl, rfl⟩

theorem State.takeQuad_sameLaunches (s : State) (l : Nat) (f : FragQuad) : State.SameLaunches s (s.takeQuad l f) :=
  s.modLaunch_sameLaunches l rfl rfl

section
variable {l fn b t : Nat} {e a : DWord} {f : FragQuad} {s : State}

/-- A quad within the draw's limit, of a material with a function, enters its lanes. -/
theorem State.emitQuad_enters (hcover : f.cover ≠ 0) (hroom : (s.launch l).frags + 4 ≤ 2 ^ 31)
    (hpixel : s.pixelFn l f.material = some fn) (hfn : s.function l fn = some (e, b, a)) :
    s.emitQuad l f = (List.range 4).foldl (fun u k => u.enterFn ((s.takeQuad l f).pixelTeam l f.core).1 fn (fragLane f (s.launch l).frags k))
      ((s.takeQuad l f).pixelTeam l f.core).2 := by
  have hext : ((s.takeQuad l f).launch l).ext = (s.launch l).ext := by rw [State.takeQuad, State.launch_modLaunch]
  rw [← State.pixelFn_congr (s.takeQuad_sameMaps l f) (s.takeQuad_sameLaunches l f) hext] at hpixel
  rw [← State.function_congr (s.takeQuad_sameMaps l f) (s.takeQuad_sameLaunches l f)] at hfn
  unfold State.emitQuad
  dsimp only
  rw [if_neg hcover, if_neg (Nat.not_lt.2 hroom), ← State.takeQuad, hpixel]
  dsimp only
  rw [hfn]

/-- The team that a quad's lanes enter is the launch's, and functions are what they were. -/
theorem State.pixelTeam_spec (ht : teamKey l ((s.launch l).lr.teams + f.core) = t)
    (hteam : (Tab.look s.teams t).isSome = true → (s.team t).launch = l) :
    (s.pixelTeam l f.core).1 = t ∧ ((s.pixelTeam l f.core).2.team t).launch = l ∧ (s.pixelTeam l f.core).2.launches = s.launches ∧
      ∀ k j, (s.pixelTeam l f.core).2.function k j = s.function k j := by
  unfold State.pixelTeam
  dsimp only
  rw [ht]
  by_cases h : (Tab.look s.teams t).isSome = true
  · rw [if_pos h]
    exact ⟨rfl, hteam h, rfl, fun _ _ => rfl⟩
  · rw [if_neg h]
    exact ⟨rfl, State.setTeam_spec s t rfl⟩

theorem State.emitQuad_holds (ht : teamKey l ((s.launch l).lr.teams + f.core) = t) (hcover : f.cover ≠ 0)
    (hroom : (s.launch l).frags + 4 ≤ 2 ^ 31) (hpixel : s.pixelFn l f.material = some fn) (hfn : s.function l fn = some (e, b, a))
    (hteam : (Tab.look s.teams t).isSome = true → (s.team t).launch = l) :
    ((s.emitQuad l f).launch l).frags = (s.launch l).frags + 4 ∧
      ∀ k < 4, ((s.emitQuad l f).team t).Holds (binKey e b a) (fragLane f (s.launch l).frags k) := by
  have hlr : ((s.takeQuad l f).launch l).lr = (s.launch l).lr := (s.takeQuad_sameLaunches l f).lr l
  obtain ⟨hkey, hlaunch, hlaunches, hfuns⟩ := State.pixelTeam_spec (s := s.takeQuad l f) (f := f) (t := t) (by rw [hlr, ht]) hteam
  rw [State.emitQuad_enters hcover hroom hpixel hfn, hkey]
  constructor
  · rw [State.launch, foldl_keeps (F := State.launches) (fun u k => u.enterFn_launches _ _ _), hlaunches, ← State.launch, State.takeQuad,
      State.launch_modLaunch]
  · refine fun k hk => State.Fills.foldl_holds (fun u k => u.enterFn_fills t fn _) (List.mem_range.2 hk) fun u hu => State.enterFn_holds ?_ _
    rw [hu.launches.team, hlaunch, State.function_congr hu.maps hu.launches, hfuns,
      State.function_congr (s.takeQuad_sameMaps l f) (s.takeQuad_sameLaunches l f), hfn]

theorem fragmentQuad_refused (h : s.quadOk l f = false ∨ s.still f.core = true) : exec (.fragmentQuadEmit l f) s = .next s := by
  refine Eq.trans (b := execFragmentQuadEmit l f s) rfl (if_pos ?_)
  rcases h with h | h <;> simp [h]

theorem fragmentQuad_emits (hok : s.quadOk l f = true) (hstill : s.still f.core = false) (hlast : f.last = false) :
    exec (.fragmentQuadEmit l f) s = .next ((s.visWords l f).emitQuad l f) := by
  refine Eq.trans (b := execFragmentQuadEmit l f s) rfl ?_
  unfold execFragmentQuadEmit
  dsimp only
  rw [hok, hstill, hlast]
  rfl

/-- A covered pixel's word takes the maximum, and no other byte changes. -/
theorem fragmentQuad_visible {q pa : Nat} {pte : DWord} (hok : s.quadOk l f = true) (hstill : s.still f.core = false) (hlast : f.last = false)
    (hq : q < 4) (hcover : f.cover = BitVec.ofNat 4 (2 ^ q))
    (hbase : (((s.launch l).ext).getD ⟨0, 0, 0, 0, 0, 0, 0, 0, 0, 0⟩).visBase ≠ 0)
    (htr : s.translateC f.core (s.asidL l) (visAddr (((s.launch l).ext).getD ⟨0, 0, 0, 0, 0, 0, 0, 0, 0, 0⟩).visBase
      (f.px + q % 2) (f.py + q / 2)).toNat { write := true, path := some 0 } = .ok pa pte) :
    ∃ u, exec (.fragmentQuadEmit l f) s = .next u ∧ u.rdLe pa 8 = max (s.rdLe pa 8) ((f.keys.getD q 0).toNat * 2 ^ 32 + f.prim.toNat) ∧
      ∀ a, (a < pa ∨ pa + 8 ≤ a) → u.rdByte a = s.rdByte a := by
  have hmem : ((s.visWords l f).emitQuad l f).mem =
      (s.wrLe pa 8 (max (s.rdLe pa 8) ((f.keys.getD q 0).toNat * 2 ^ 32 + f.prim.toNat))).mem := by
    rw [State.emitQuad_mem, State.visWords_one hq hcover hbase htr]
  refine ⟨_, fragmentQuad_emits hok hstill hlast, ?_, fun a ha => ?_⟩
  · rw [State.rdLe_of_mem hmem, State.rdLe_wrLe]
    have hold := s.rdLe_lt pa 8
    have hkey := (f.keys.getD q 0).isLt
    have hprim := f.prim.isLt
    refine Nat.mod_eq_of_lt (max_lt hold ?_)
    omega
  · rw [State.rdByte_of_mem hmem]
    exact State.rdByte_wrBytes_out s (by rwa [leBytes_length])

end

end Sys2Proof.Machine
end

section
/-! SUPPORT. The events of the units (R137-R143, R147, R358, R363-R365, R383, R384). -/

namespace Sys2Proof.Machine

/-- A record that joins an outstanding one leaves its queue, and the ring as it is. -/
theorem faultRecord_joins_spec {n : Nat} {s : State} {r : FaultRec} (hr : s.faults[n]? = some r)
    (hfirst : ∀ q ∈ s.faults.take n, q.source ≠ r.source)
    (h : r.waiter.isSome = true ∧ ∃ o ∈ (s.ctx r.ctx).out, Outstanding.covers o r = true) :
    ∃ u, exec (.faultRecord n) s = .next u ∧ u.faults = s.faults.eraseIdx n ∧ u.mem = s.mem ∧
      (u.ctx r.ctx).frTail = (s.ctx r.ctx).frTail := by
  refine ⟨_, faultRecord_joins hr hfirst h, State.setCtx_faults _ _ _, State.setCtx_mem _ _ _, ?_⟩
  rw [State.ctx_setCtx]

/-- The lanes of a quad enter one bin of its core's pixel team. -/
theorem fragmentQuad_enters {l fn b t : Nat} {e a : DWord} {f : FragQuad} {s : State} (ht : teamKey l ((s.launch l).lr.teams + f.core) = t)
    (hok : s.quadOk l f = true) (hstill : s.still f.core = false) (hcover : f.cover ≠ 0) (hlast : f.last = false)
    (hvis : ∀ e, (s.launch l).ext = some e → e.visBase = 0) (hroom : (s.launch l).frags + 4 ≤ 2 ^ 31)
    (hpixel : s.pixelFn l f.material = some fn) (hfn : s.function l fn = some (e, b, a))
    (hteam : (Tab.look s.teams t).isSome = true → (s.team t).launch = l) :
    ∃ u n, exec (.fragmentQuadEmit l f) s = .next u ∧ (u.launch l).frags = (s.launch l).frags + 4 ∧ u.mem = s.mem ∧
      Tab.look (u.team t).bins (binKey e b a) = some n ∧ ∀ k, k < 4 → fragLane f (s.launch l).frags k ∈ n.lanes := by
  obtain ⟨hfrags, hlanes⟩ := State.emitQuad_holds ht hcover hroom hpixel hfn hteam
  obtain ⟨n, hn, -⟩ := hlanes 0 (by decide)
  refine ⟨s.emitQuad l f, n, ?_, hfrags, s.emitQuad_mem l f, hn, fun k hk => ?_⟩
  · rw [fragmentQuad_emits hok hstill hlast, State.visWords_none hvis]
  · obtain ⟨m, hm, hmem⟩ := hlanes k hk
    rwa [Option.some.inj (hn.symm.trans hm)]

/-- A stall is raised once in a wait, for the group's active lanes. -/
theorem orderStall_spec {g c : Nat} {s : State} (hc : (s.group g).sch.orderFrom = some c) (hs : (s.group g).sch.stalled = false)
    (h : c + 2 ^ (s.queueOf (s.launch (s.launchOf g)).ctx (s.launch (s.launchOf g)).queue).wdog ≤ (s.die (s.orderDie g)).cyc) :
    ∃ u, exec (.orderStall g) s = .next u ∧ (u.group g).sch.stalled = true ∧
      ∃ f, u.faults = s.faults ++ [f] ∧ f.cause = .orderStall ∧ f.flm = (s.group g).thr.em := by
  refine ⟨_, orderStall_raises hc hs h, ?_, _, rfl, rfl, rfl⟩
  rw [State.group_modGroup]

/-- Settles O50: each event by what its unit does. A walk's end, a record's way into its ring, the classifier's routes, a quad's words
and lanes, a team's window, a stall, a sample and a stop each have a rule above; the ends of teams that follow a classification leave
the classified team and the primitives left to rasterise as they are. -/
theorem unitEvents : Obligations.UnitEvents := by
  unfold Obligations.UnitEvents
  refine ⟨fun _ _ _ _ hw hheld => pageWalk_held hw hheld, fun _ _ _ _ hw hheld => pageWalk_spec hw hheld, fun n s r hr => ?_,
    fun t tris s => ?_, fun l fn b e a f s => ?_, fun l core base s => ?_, fun g c s hc => ?_, fun core sch g t s ht hn => ?_,
    fun t brks s hstop => ?_⟩
  · refine ⟨faultRecord_behind hr, fun hfirst => ⟨faultRecord_joins_spec hr hfirst, fun h => ⟨faultRecord_full hr hfirst h, ?_⟩⟩⟩
    exact fun _ hroom hpa => faultRecord_room hr hfirst h hroom hpa
  · exact ⟨meshOutput_refused tris, fun hstage hst htris => meshOutput_routes hstage hst htris⟩
  · refine ⟨fragmentQuad_refused, fun q pa pte hok hstill hlast hq hcover => ?_, fun hok hstill hcover hlast hvis hroom hpixel hfn => ?_⟩
    · exact fun hbase htr => fragmentQuad_visible hok hstill hlast hq hcover hbase htr
    · exact fragmentQuad_enters rfl hok hstill hcover hlast hvis hroom hpixel hfn
  · intro t hlook hbase hstage hst hctx
    obtain ⟨u, hu, hplaced, hmem⟩ := pixelTeam_forms hlook hbase hstage hst hctx
    exact ⟨u, hu, congrArg Prod.fst hplaced, congrArg (fun p => p.2.1) hplaced, congrArg (fun p => p.2.2) hplaced, hmem⟩
  · exact ⟨orderStall_waits hc, orderStall_spec hc⟩
  · exact ⟨sample_not ht hn, sample_takes ht hn⟩
  · refine ⟨teamStop_waits hstop, fun hall => ?_⟩
    obtain ⟨u, hu, hteams⟩ := teamStop_ends hstop hall
    refine ⟨u, hu, ?_, ?_⟩ <;> rw [State.team, hteams, ← State.team, State.team_modTeam]

end Sys2Proof.Machine
end

section
/-! SUPPORT. The fields of scalar words and the codes they hold, both ways (R155-R158, R181-R189, R192-R209). -/

namespace Sys2Proof

open Sys2Proof.Machine

/-! ### Answers of the decoder -/

theorem req_eq_ok {c : Bool} {i j : Instr} : req c i = .ok j ↔ c = true ∧ i = j := by
  cases c <;> simp [req]

theorem opt_eq_ok {α : Type} {x : Option α} {f : α → Instr} {j : Instr} : opt x f = .ok j ↔ ∃ a, x = some a ∧ f a = j := by
  cases x <;> simp [opt]

theorem checkWf_eq_ok {r : Decoded} {i : Instr} : checkWf r = .ok i ↔ r = .ok i ∧ i.wf = true := by
  cases r with
  | error e => simp [checkWf]
  | ok j =>
    by_cases hj : j.wf = true <;> simp [checkWf, hj]
    · rintro rfl; exact hj
    · rintro rfl; simpa using hj

/-! ### Fields and words -/

theorem unpackS_packR (f : BitVec 4) (b a d : BitVec 6) (op : Byte) (len : BitVec 2) :
    unpackS (packR f b a d op len) = ⟨f, b, a, d, op, len⟩ := by
  rw [unpackS, packR, SFields.mk.injEq]
  refine ⟨?top, ?_, ?_, ?_, ?_, ?_⟩
  all_goals repeat rw [BitVec.extractLsb'_append_eq_of_le (by decide)]
  case top => exact BitVec.extractLsb'_eq_self
  all_goals exact BitVec.extractLsb'_append_eq_right

/-- The word of its fields (R155). -/
def SFields.word (x : SFields) : Word := packR x.f x.b x.a x.d x.op x.len

theorem unpackS_word (x : SFields) : unpackS x.word = x := unpackS_packR _ _ _ _ _ _

theorem word_unpackS (w : Word) : (unpackS w).word = w := by
  simp only [SFields.word, packR, unpackS]
  iterate 5 rw [BitVec.extractLsb'_append_extractLsb'_eq_extractLsb' (by decide)]
  exact BitVec.extractLsb'_eq_self

/-! ### Codes -/
theorem append_inj {m n : Nat} {x x' : BitVec m} {y y' : BitVec n} : x ++ y = x' ++ y' ↔ x = x' ∧ y = y' := by
  refine ⟨fun h => ⟨?_, ?_⟩, by rintro ⟨rfl, rfl⟩; rfl⟩
  · simpa [BitVec.extractLsb'_append_eq_left] using congrArg (BitVec.extractLsb' n m) h
  · simpa [BitVec.extractLsb'_append_eq_right] using congrArg (BitVec.extractLsb' 0 n) h

theorem append_eq_zero {m n : Nat} {x : BitVec m} {y : BitVec n} : x ++ y = 0 ↔ x = 0 ∧ y = 0 := by
  rw [← append_inj]; simp

/-- A field with zero high bits is its low bits, extended. -/
theorem zeroExtend_extract {m k : Nat} {x : BitVec (m + k)} (h : x.extractLsb' k m = 0) : (x.extractLsb' 0 k).zeroExtend (m + k) = x := by
  conv => rhs; rw [← BitVec.extractLsb'_append_extractLsb' (x := x), h]
  exact BitVec.setWidth_eq_append (by omega)

theorem SFields.top_eq_zero {x : SFields} : x.top = 0 ↔ x.f = 0 ∧ x.b = 0 ∧ x.a = 0 ∧ x.d = 0 := by
  rw [SFields.top]
  constructor
  · intro h
    obtain ⟨h, hd⟩ := append_eq_zero.1 h
    obtain ⟨h, ha⟩ := append_eq_zero.1 h
    obtain ⟨hf, hb⟩ := append_eq_zero.1 h
    exact ⟨hf, hb, ha, hd⟩
  · rintro ⟨hf, hb, ha, hd⟩
    rw [hf, hb, ha, hd]; rfl

theorem packI_imm10 (x : SFields) (a d : BitVec 6) (op : Byte) (len : BitVec 2) :
    packI x.imm10 a d op len = packR x.f x.b a d op len := rfl

theorem packJ_top (x : SFields) (op : Byte) (len : BitVec 2) : packJ x.top op len = packR x.f x.b x.a x.d op len := rfl

/-! ### Field codes: a code stands for a value exactly where the value has that code -/

/-- A table of codes read and written alike, by its two halves. -/
theorem code_iff {α : Type} {w : Nat} {of : Nat → Option α} {code : α → BitVec w} (hof : ∀ n a, of n = some a → (code a).toNat = n)
    (hcode : ∀ a, of (code a).toNat = some a) {c : BitVec w} {a : α} : of c.toNat = some a ↔ code a = c :=
  ⟨fun h => BitVec.eq_of_toNat_eq (hof _ _ h), fun h => h ▸ hcode a⟩

@[simp] theorem rndOf_rndCode (x : Rnd) : rndOf (rndCode x).toNat = some x := by cases x <;> rfl

theorem rndOf_eq_some {c : BitVec 3} {x : Rnd} : rndOf c.toNat = some x ↔ rndCode x = c :=
  code_iff (fun n x h => by unfold rndOf at h; split at h <;> cases h <;> rfl) rndOf_rndCode

@[simp] theorem cvtOfCode_cvtCode (x : CvtKind) : cvtOfCode (cvtCode x).toNat = some x := by cases x <;> rfl

theorem cvtOfCode_eq_some {c : BitVec 4} {x : CvtKind} : cvtOfCode c.toNat = some x ↔ cvtCode x = c :=
  code_iff (fun n x h => by unfold cvtOfCode at h; split at h <;> cases h <;> rfl) cvtOfCode_cvtCode

@[simp] theorem scondOf_scondCode (x : SCond) : scondOf (scondCode x).toNat = some x := by cases x <;> rfl

theorem scondOf_eq_some {c : BitVec 10} {x : SCond} : scondOf c.toNat = some x ↔ scondCode x = c :=
  code_iff (fun n x h => by unfold scondOf at h; split at h <;> cases h <;> rfl) scondOf_scondCode

@[simp] theorem atomOfCode_atomCode (x : AtomOp) : atomOfCode (atomCode x).toNat = some x := by cases x <;> rfl

@[simp] theorem sysOfCode_sysCode (x : SysReg) : sysOfCode (sysCode x).toNat = some x := by cases x <;> rfl

theorem sysOfCode_eq_some {c : BitVec 10} {x : SysReg} : sysOfCode c.toNat = some x ↔ sysCode x = c :=
  code_iff (fun n x h => by unfold sysOfCode at h; split at h <;> cases h <;> rfl) sysOfCode_sysCode

@[simp] theorem pathOf_pathCode (x : PathClass) : pathOf (pathCode x).toNat = some x := by cases x <;> rfl

theorem pathOf_eq_some {c : BitVec 6} {x : PathClass} : pathOf c.toNat = some x ↔ pathCode x = c :=
  code_iff (fun n x h => by unfold pathOf at h; split at h <;> cases h <;> rfl) pathOf_pathCode

@[simp] theorem scopeOf_scopeCode (x : Scope) : scopeOf (scopeCode x).toNat = some x := by cases x <;> rfl

theorem scopeOf_eq_some {c : BitVec 4} {x : Scope} : scopeOf c.toNat = some x ↔ scopeCode x = c :=
  code_iff (fun n x h => by unfold scopeOf at h; split at h <;> cases h <;> rfl) scopeOf_scopeCode

@[simp] theorem fmtOfCode_fmtCode5 (x : Fmt) : fmtOfCode (fmtCode5 x).toNat = some x := by cases x <;> rfl

theorem fmtOfCode_eq_some {c : BitVec 5} {x : Fmt} : fmtOfCode c.toNat = some x ↔ fmtCode5 x = c :=
  code_iff (fun n x h => by unfold fmtOfCode at h; split at h <;> cases h <;> rfl) fmtOfCode_fmtCode5

theorem sregOfCode_sregCode {r : SpecialReg} (h : sregOk r = true) : sregOfCode (sregCode r).toNat = some r := by
  cases r with
  | crd l => revert l; decide
  | _ => rfl

theorem sregOfCode_eq_some {c : BitVec 10} {r : SpecialReg} : sregOfCode c.toNat = some r ↔ sregOk r = true ∧ sregCode r = c := by
  refine ⟨fun h => ?_, fun ⟨hr, h⟩ => h ▸ sregOfCode_sregCode hr⟩
  generalize hn : c.toNat = n at h
  unfold sregOfCode at h
  split at h <;> cases h <;> exact ⟨rfl, BitVec.eq_of_toNat_eq hn.symm⟩

@[simp] theorem sfmtOf_sfmtCode (f : SFmt) : sfmtOf (sfmtCode f) = some f := by cases f <;> rfl

theorem sfmtOf_low_eq_some {f : BitVec 4} {m : SFmt} : sfmtOf (f.extractLsb' 0 2) = some m ↔ fmtCode m (f.extractLsb' 2 2) = f := by
  constructor
  · revert m; revert f; decide
  · cases m <;> revert f <;> decide

@[simp] theorem maskOfCode_maskCode (m : MaskOp) : maskOfCode (maskCode m) = some m := by
  cases m with
  | s n => revert n; decide
  | p n => revert n; decide
  | _ => rfl

theorem maskOfCode_eq_some {c : BitVec 6} {m : MaskOp} : maskOfCode c = some m ↔ maskCode m = c := by
  constructor
  · revert m; revert c; decide
  · rintro rfl; exact maskOfCode_maskCode m

@[simp] theorem fcondCode_fcondOf (c : BitVec 2) : fcondCode (fcondOf c) = c := by revert c; decide

@[simp] theorem fcondOf_fcondCode (c : FCond) : fcondOf (fcondCode c) = c := by cases c <;> rfl

/-! ### What a row's conditions say of its fields -/

theorem SFields.f10_eq_zero {x : SFields} : x.f10 = 0 ↔ x.f = 0 ∧ x.b = 0 := append_eq_zero

theorem packI_f10 (x : SFields) (a d : BitVec 6) (op : Byte) (len : BitVec 2) :
    packI x.f10 a d op len = packR x.f x.b a d op len := rfl

theorem byte_of_toNat {c : Byte} {n : Nat} (h : c.toNat = OfNat.ofNat n) : c = OfNat.ofNat n := by
  have hc : BitVec.ofNat 8 c.toNat = c := by simp
  exact hc.symm.trans (congrArg (BitVec.ofNat 8) h)

theorem intFCode_intF {x : SFields} (h : x.fHi = 0) : intFCode x.intF = x.f := by
  obtain ⟨f, b, a, d, op, len⟩ := x
  simp only [SFields.fHi, SFields.intF] at h ⊢
  revert f; decide

theorem bit4_getLsbD {f : BitVec 4} (h : f.extractLsb' 1 3 = 0) : bit4 (f.getLsbD 0) = f := by
  revert f; decide

theorem barCode_fields {c : BitVec 10} (h : c.extractLsb' 7 3 = 0) : barCode (c.extractLsb' 4 3) (c.extractLsb' 0 4) = c := by
  rw [barCode, ← h]
  iterate 2 rw [BitVec.extractLsb'_append_extractLsb'_eq_extractLsb' (by decide)]
  exact BitVec.extractLsb'_eq_self

theorem zeroExtend_low3 {c : BitVec 6} (h : c.extractLsb' 3 3 = 0) : (c.extractLsb' 0 3).zeroExtend 6 = c := zeroExtend_extract (m := 3) h

theorem zeroExtend_low3_imm {c : BitVec 10} (h : c.extractLsb' 3 7 = 0) : (c.extractLsb' 0 3).zeroExtend 10 = c :=
  zeroExtend_extract (m := 7) h

theorem zeroExtend_low5 {c : BitVec 6} (h : c.getLsbD 5 = false) : (c.extractLsb' 0 5).zeroExtend 6 = c := by revert c; decide

/-- A field with zero high bits, by its low ones. -/
theorem exists_low {m k : Nat} {c : BitVec (m + k)} (h : c.extractLsb' k m = 0) : ∃ lo : BitVec k, c = 0#m ++ lo :=
  ⟨c.extractLsb' 0 k, by rw [← BitVec.ofNat_eq_ofNat, ← h]; exact BitVec.extractLsb'_append_extractLsb'.symm⟩

theorem zeroExtend_intFCode {c : BitVec 10} (h : c.extractLsb' 2 8 = 0) : (intFCode ⟨c.getLsbD 1, c.getLsbD 0⟩).zeroExtend 10 = c := by
  obtain ⟨lo, rfl⟩ := exists_low (m := 8) h
  revert lo; decide

theorem mcondCode_mcondOf {c : BitVec 10} (h : c.extractLsb' 2 8 = 0) : mcondCode (mcondOf (c.extractLsb' 0 2)) = c := by
  obtain ⟨lo, rfl⟩ := exists_low (m := 8) h
  revert lo; decide

theorem ldF_fields {c : BitVec 10} (h : c.extractLsb' 4 6 = 0) :
    ldF (sizeOf (c.extractLsb' 0 2)) (c.getLsbD 2) (c.getLsbD 3) = c := by
  obtain ⟨lo, rfl⟩ := exists_low (m := 6) h
  revert lo; decide

theorem stF_fields {c : BitVec 10} (h : c.extractLsb' 4 6 = 0) (h2 : c.getLsbD 2 = false) :
    ldF (sizeOf (c.extractLsb' 0 2)) false (c.getLsbD 3) = c := by rw [← h2, ldF_fields h]

theorem atomF_fields {c : BitVec 10} {o : AtomOp} (h : c.extractLsb' 8 2 = 0) (h1 : c.getLsbD 1 = true) (h2 : c.getLsbD 2 = false)
    (ho : atomOfCode (c.extractLsb' 4 4).toNat = some o) : atomF o (c.getLsbD 0) (c.getLsbD 3) = c := by
  obtain ⟨lo, rfl⟩ := exists_low (m := 2) h
  revert o; revert lo; decide

end Sys2Proof
end

section
/-! SUPPORT. What a scalar word decodes to is encoded as that word, row by row (R154-R160, R174, R175). -/

namespace Sys2Proof

open Sys2Proof.Machine

/-! ### Rows of the scalar maps -/

/-- Whatever the answer is, it is encoded as the words `c`. -/
def Canon (c : Code) (r : Decoded) : Prop := ∀ i, r = .ok i → encode i = some c

section
variable {c : Code}

theorem canon_error {e : DecodeError} : Canon c (.error e) := fun _ h => nomatch h

theorem canon_ok {i : Instr} : Canon c (.ok i) ↔ encode i = some c := by simp [Canon]

theorem canon_req {b : Bool} {i : Instr} : Canon c (req b i) ↔ (b = true → encode i = some c) := by
  cases b
  · simp [req, canon_error]
  · simp [req, canon_ok]

theorem canon_opt {α : Type} {o : Option α} {k : α → Instr} : Canon c (opt o k) ↔ ∀ a, o = some a → encode (k a) = some c := by
  cases o
  · simp [opt, canon_error]
  · simp [opt, canon_ok]

theorem canon_checkWf {r : Decoded} (h : Canon c r) : Canon c (checkWf r) := fun i hi => h i (checkWf_eq_ok.1 hi).1

theorem canon_withFmt {x : SFields} {b : Bool} {k : SFmt → Instr} :
    Canon c (withFmt x b k) ↔ (b = true → ∀ f, fmtCode f x.fHi = x.f → encode (k f) = some c) := by
  cases b <;> simp [withFmt, canon_opt, sfmtOf_low_eq_some, SFields.fHi]

theorem canon_mask2 {x : SFields} {b : Bool} {k : MaskOp → MaskOp → Instr} :
    Canon c (mask2 x b k) ↔ ∀ d, maskOfCode x.d = some d → ∀ a, maskOfCode x.a = some a → (b && maskDstOk d) = true →
      encode (k d a) = some c := by
  unfold mask2
  cases maskOfCode x.d <;> cases maskOfCode x.a <;> simp [canon_req, canon_error]

theorem canon_mask3 {x : SFields} {k : MaskOp → MaskOp → MaskOp → Instr} :
    Canon c (mask3 x k) ↔ ∀ d, maskOfCode x.d = some d → ∀ a, maskOfCode x.a = some a → ∀ b, maskOfCode x.b = some b →
      (x.f == 0 && maskDstOk d) = true → encode (k d a b) = some c := by
  unfold mask3
  cases maskOfCode x.d <;> cases maskOfCode x.a <;> cases maskOfCode x.b <;> simp [canon_req, canon_error]
end

theorem mfenceOf_eq_some {x : SFields} {m : PathClass × PathClass × Scope} :
    mfenceOf x = some m ↔ pathCode m.1 = x.a ∧ pathCode m.2.1 = x.b ∧ scopeCode m.2.2 = x.f ∧ x.d = 0 := by
  rw [← pathOf_eq_some, ← pathOf_eq_some, ← scopeOf_eq_some, mfenceOf]
  obtain ⟨p, q, n⟩ := m
  cases pathOf x.a.toNat <;> cases pathOf x.b.toNat <;> cases scopeOf x.f.toNat <;> simp; tauto

theorem packJ_zero (op : Byte) (len : BitVec 2) : packJ 0 op len = packR 0 0 0 0 op len :=
  (congrArg (packJ · op len) (SFields.top_eq_zero.2 ⟨rfl, rfl, rfl, rfl⟩).symm).trans (packJ_top ⟨0, 0, 0, 0, op, len⟩ op len)

theorem packI_zero (a d : BitVec 6) (op : Byte) (len : BitVec 2) : packI 0 a d op len = packR 0 0 a d op len :=
  (congrArg (packI · a d op len) (SFields.f10_eq_zero.2 ⟨rfl, rfl⟩).symm).trans (packI_f10 ⟨0, 0, a, d, op, len⟩ a d op len)

/-- Every row of the 32-bit map: what its conditions leave open of the fields, its instruction keeps. -/
theorem canon_decode32 {x : SFields} (hl : x.len = 0) : Canon (.one x.word) (decode32 x) := by
  unfold decode32
  split <;> rename_i hop
  on_goal -1 => exact canon_error
  all_goals
    simp +contextual only [canon_req, canon_opt, canon_withFmt, canon_mask2, canon_mask3, Bool.and_eq_true, beq_iff_eq, Bool.not_eq_true',
      Option.ite_none_right_eq_some, encode, SFields.word, byte_of_toNat hop, hl, SFields.top_eq_zero, packI_imm10, packJ_top, packJ_zero, intFCode_intF,
      fcondCode_fcondOf, maskOfCode_eq_some, cvtOfCode_eq_some, sregOfCode_eq_some, sysOfCode_eq_some, mfenceOf_eq_some, zeroExtend_low3, zeroExtend_low3_imm,
      zeroExtend_low5, bit4_getLsbD, barCode_fields, implies_true]

theorem lrunD_reg {d : BitVec 6} (h : d.extractLsb' 2 4 = 0) (h1 : d.getLsbD 1 = true) (a : SReg) :
    lrunD (d.getLsbD 0) (.reg a) = d := by
  simp only [lrunD]; revert d; decide

theorem lrunD_imm {d : BitVec 6} (h : d.extractLsb' 2 4 = 0) (h1 : d.getLsbD 1 = false) (n : BitVec 10) :
    lrunD (d.getLsbD 0) (.imm n) = d := by
  simp only [lrunD]; revert d; decide

theorem canon_lrunOf {x : SFields} {w : Word} (hl : x.len = 1) (hop : x.op = 0x3F) : Canon (.two x.word w) (lrunOf x w) := by
  have hw : x.word = packI x.f10 x.a x.d 0x3F 1 := by rw [SFields.word, hop, hl, packI_f10]
  unfold lrunOf
  split
  case isTrue => exact canon_error
  case isFalse hd =>
    have hd : x.d.extractLsb' 2 4 = 0 := by simpa using hd
    split
    case isTrue h1 =>
      refine canon_req.2 fun hf => ?_
      rw [encode, lrunD_reg hd h1, lrunA, lrunF, hw, beq_iff_eq.1 hf]
    case isFalse h1 =>
      refine canon_req.2 fun ha => ?_
      rw [encode, lrunD_imm hd (Bool.eq_false_iff.2 h1), lrunA, lrunF, hw, beq_iff_eq.1 ha]

theorem canon_decode64 {x : SFields} {w : Word} (hl : x.len = 1) : Canon (.two x.word w) (decode64 x w) := by
  unfold decode64
  split <;> rename_i hop
  on_goal -1 => exact canon_error
  -- LRUN, whose D and A choose where its count is.
  case h_6 => exact canon_lrunOf hl (byte_of_toNat hop)
  all_goals
    simp +contextual only [canon_req, canon_opt, Bool.and_eq_true, beq_iff_eq, Bool.not_eq_true',
      Option.ite_none_right_eq_some, encode, SFields.word, byte_of_toNat hop, hl, SFields.f10_eq_zero, packI_f10, packI_zero, zeroExtend_intFCode,
      scondOf_eq_some, maskOfCode_eq_some, mcondCode_mcondOf, ldF_fields, stF_fields, atomF_fields, zeroExtend_low3, implies_true]

theorem ofBool_getLsbD {n : Nat} (x : BitVec n) (k : Nat) : BitVec.ofBool (x.getLsbD k) = x.extractLsb' k 1 := by
  ext i hi
  obtain rfl : i = 0 := by omega
  simp

theorem canon_decodePfx {w : Word} (hl : w.extractLsb' 0 2 = 2) : Canon (.one w) (decodePfx w) := by
  unfold decodePfx
  split
  case h_2 => exact canon_error
  case h_1 r hr =>
    split
    case isFalse => exact canon_error
    case isTrue h =>
      simp only [Bool.and_eq_true, beq_iff_eq] at h
      obtain ⟨hz, hhi⟩ := h
      refine canon_ok.2 ?_
      rw [encode, packPfx, ofBool_getLsbD, ofBool_getLsbD, rndOf_eq_some.1 hr, ← hl, ← hz, ← hhi]
      iterate 5 rw [BitVec.extractLsb'_append_extractLsb'_eq_extractLsb' (by decide)]
      rw [BitVec.extractLsb'_eq_self]

/-- A scalar word is encoded with the length selector it has (R154). -/
theorem canon_decodeScalar_one {w w1 : Word} (hl : w.extractLsb' 0 2 ≠ 1) : Canon (.one w) (decodeScalar w w1) := by
  unfold decodeScalar
  split
  case h_1 h => simpa only [word_unpackS] using canon_checkWf (canon_decode32 (x := unpackS w) (BitVec.eq_of_toNat_eq h))
  case h_2 h => exact absurd (BitVec.eq_of_toNat_eq h) hl
  case h_3 h => exact canon_decodePfx (BitVec.eq_of_toNat_eq h)
  case h_4 => exact canon_error

theorem canon_decodeScalar_two {w w1 : Word} (hl : w.extractLsb' 0 2 = 1) : Canon (.two w w1) (decodeScalar w w1) := by
  have h : decodeScalar w w1 = checkWf (decode64 (unpackS w) w1) := by rw [decodeScalar, hl]; rfl
  rw [h]
  simpa only [word_unpackS] using canon_checkWf (canon_decode64 (x := unpackS w) (w := w1) hl)

end Sys2Proof
end

section
/-! SUPPORT. The fields of a lane word, and its sources and destinations, both ways (R165-R168). -/

namespace Sys2Proof

open Sys2Proof.Machine

theorem unpackL_packL (r : LaneRaw) : unpackL (packL r) = r := by
  rw [unpackL, packL, LaneRaw.mk.injEq]
  refine ⟨?top, ?_, ?_, ?_, ?_, ?_, ?_, ?_, ?_, ?_, ?_, ?_, ?_⟩
  all_goals repeat rw [BitVec.extractLsb'_append_eq_of_le (by decide)]
  case top => exact BitVec.extractLsb'_eq_self
  all_goals exact BitVec.extractLsb'_append_eq_right

theorem packL_unpackL (w : BitVec 96) : packL (unpackL w) = w := by
  simp only [packL, unpackL]
  iterate 12 rw [BitVec.extractLsb'_append_extractLsb'_eq_extractLsb' (by decide)]
  exact BitVec.extractLsb'_eq_self

theorem extract_srcField (cls : BitVec 2) (idx : Byte) (fe : Bool) (m : BitVec 2) :
    (srcField cls idx fe m).extractLsb' 11 2 = cls ∧ (srcField cls idx fe m).extractLsb' 3 8 = idx ∧
    (srcField cls idx fe m).getLsbD 2 = fe ∧ (srcField cls idx fe m).extractLsb' 0 2 = m := by
  have hfe : (srcField cls idx fe m).extractLsb' 2 1 = BitVec.ofBool fe := by
    rw [srcField, BitVec.extractLsb'_append_eq_of_le (by decide)]
    exact BitVec.extractLsb'_append_eq_right
  refine ⟨?_, ?_, ?_, BitVec.extractLsb'_append_eq_right⟩
  · rw [srcField]
    iterate 3 rw [BitVec.extractLsb'_append_eq_of_le (by decide)]
    exact BitVec.extractLsb'_eq_self
  · rw [srcField]
    iterate 2 rw [BitVec.extractLsb'_append_eq_of_le (by decide)]
    exact BitVec.extractLsb'_append_eq_right
  · rw [← ofBool_getLsbD] at hfe
    revert hfe
    cases (srcField cls idx fe m).getLsbD 2 <;> cases fe <;> decide

theorem srcField_extract (x : BitVec 13) : srcField (x.extractLsb' 11 2) (x.extractLsb' 3 8) (x.getLsbD 2) (x.extractLsb' 0 2) = x := by
  rw [srcField, ofBool_getLsbD]
  iterate 3 rw [BitVec.extractLsb'_append_extractLsb'_eq_extractLsb' (by decide)]
  exact BitVec.extractLsb'_eq_self

/-- The register a source field names, by its parts (R167, R168). -/
def srcRegOf (cls : BitVec 2) (idx : Byte) (fe : Bool) : Option SrcReg :=
  let n := idx.toNat
  match cls.toNat with
  | 0 => if n < 240 then some (.v idx fe)
         else if fe then none
         else if n < 248 then some (.q (idx.extractLsb' 0 3))
         else if n < 252 then some (.i (idx.extractLsb' 0 2)) else none
  | 1 => if n < 16 && !fe then some (.w (idx.extractLsb' 0 4)) else none
  | 2 => if n < 4 && !fe then some (.z (idx.extractLsb' 0 2))
         else if 64 ≤ n && n < 128 then some (.s (idx.extractLsb' 0 6) fe) else none
  | _ => some (.vi (idx.extractLsb' 6 2) (idx.extractLsb' 0 6) fe)

theorem decodeSrc_eq (x : BitVec 13) :
    decodeSrc x = (srcRegOf (x.extractLsb' 11 2) (x.extractLsb' 3 8) (x.getLsbD 2)).map (⟨·, x.extractLsb' 0 2⟩) := rfl

theorem decodeSrc_srcField {cls : BitVec 2} {idx : Byte} {fe : Bool} {r : SrcReg} (h : srcRegOf cls idx fe = some r) (m : BitVec 2) :
    decodeSrc (srcField cls idx fe m) = some ⟨r, m⟩ := by
  obtain ⟨hcls, hidx, hfe, hm⟩ := extract_srcField cls idx fe m
  rw [decodeSrc_eq, hcls, hidx, hfe, hm, h]
  rfl

/-! An index byte of each range, from the number it names. -/

theorem queue_byte : ∀ i : Byte, ¬i.toNat < 240 → i.toNat < 248 → (0x1E : BitVec 5) ++ i.extractLsb' 0 3 = i := by decide
theorem index_byte : ∀ i : Byte, ¬i.toNat < 248 → i.toNat < 252 → (0x3E : BitVec 6) ++ i.extractLsb' 0 2 = i := by decide
theorem window_byte : ∀ i : Byte, i.toNat < 16 → (0 : BitVec 4) ++ i.extractLsb' 0 4 = i := by decide
theorem z_byte : ∀ i : Byte, i.toNat < 4 → (0 : BitVec 6) ++ i.extractLsb' 0 2 = i := by decide
theorem scalar_byte : ∀ i : Byte, 64 ≤ i.toNat → i.toNat < 128 → (1 : BitVec 2) ++ i.extractLsb' 0 6 = i := by decide
theorem indexed_byte : ∀ i : Byte, i.extractLsb' 6 2 ++ i.extractLsb' 0 6 = i := by decide

theorem class_three {c : BitVec 2} (h0 : c.toNat ≠ 0) (h1 : c.toNat ≠ 1) (h2 : c.toNat ≠ 2) : c = 3 := by
  revert c; decide

/-- What a register's parts name is encoded with these parts. -/
theorem encodeSrc_of_srcRegOf {cls : BitVec 2} {idx : Byte} {fe : Bool} {r : SrcReg} (h : srcRegOf cls idx fe = some r) (m : BitVec 2) :
    encodeSrc ⟨r, m⟩ = srcField cls idx fe m := by
  unfold srcRegOf at h
  simp only at h
  split at h
  case h_1 hc =>
    obtain rfl : cls = 0 := BitVec.eq_of_toNat_eq hc
    split at h
    · cases h; rfl
    · split at h
      · cases h
      · obtain rfl : fe = false := by simpa using ‹¬fe = true›
        split at h
        · cases h; exact congrArg (srcField 0 · false m) (queue_byte idx ‹_› ‹_›)
        · split at h <;> cases h
          exact congrArg (srcField 0 · false m) (index_byte idx ‹_› ‹_›)
  case h_2 hc =>
    obtain rfl : cls = 1 := BitVec.eq_of_toNat_eq hc
    split at h <;> cases h
    obtain ⟨hn, rfl⟩ : idx.toNat < 16 ∧ fe = false := by simp_all
    exact congrArg (srcField 1 · false m) (window_byte idx hn)
  case h_3 hc =>
    obtain rfl : cls = 2 := BitVec.eq_of_toNat_eq hc
    split at h
    · cases h
      obtain ⟨hn, rfl⟩ : idx.toNat < 4 ∧ fe = false := by simp_all
      exact congrArg (srcField 2 · false m) (z_byte idx hn)
    · split at h <;> cases h
      obtain ⟨hlo, hhi⟩ : 64 ≤ idx.toNat ∧ idx.toNat < 128 := by simp_all
      exact congrArg (srcField 2 · fe m) (scalar_byte idx hlo hhi)
  case h_4 h0 h1 h2 =>
    obtain rfl : cls = 3 := class_three h0 h1 h2
    cases h
    exact congrArg (srcField 3 · fe m) (indexed_byte idx)

theorem encodeSrc_of_decodeSrc {x : BitVec 13} {s : Src} (h : decodeSrc x = some s) : encodeSrc s = x := by
  rw [decodeSrc_eq, Option.map_eq_some_iff] at h
  obtain ⟨r, hr, rfl⟩ := h
  rw [encodeSrc_of_srcRegOf hr, srcField_extract]

/-- A source within the limits of its class is decoded from its field. -/
theorem decodeSrc_encodeSrc {s : Src} {n : Nat} {q : Bool} (h : srcRegOk n q s.reg = true) : decodeSrc (encodeSrc s) = some s := by
  obtain ⟨r, m⟩ := s
  have hq : ∀ k, srcRegOf 0 ((0x1E : BitVec 5) ++ k) false = some (.q k) := by decide
  have hi : ∀ k, srcRegOf 0 ((0x3E : BitVec 6) ++ k) false = some (.i k) := by decide
  have hw : ∀ k, srcRegOf 1 ((0 : BitVec 4) ++ k) false = some (.w k) := by decide
  have hz : ∀ k, srcRegOf 2 ((0 : BitVec 6) ++ k) false = some (.z k) := by decide
  have hs : ∀ k fe, srcRegOf 2 ((1 : BitVec 2) ++ k) fe = some (.s k fe) := by decide
  have hvi : ∀ k j fe, srcRegOf 3 (k ++ j) fe = some (.vi k j fe) := by decide
  cases r with
  | v i fe =>
    have hv : i.toNat < 240 := by simp only [srcRegOk, Bool.and_eq_true, decide_eq_true_eq] at h; exact h.1
    exact decodeSrc_srcField (show srcRegOf 0 i fe = some (.v i fe) from if_pos hv) m
  | q k => exact decodeSrc_srcField (hq k) m
  | i k => exact decodeSrc_srcField (hi k) m
  | w k => exact decodeSrc_srcField (hw k) m
  | z k => exact decodeSrc_srcField (hz k) m
  | s k fe => exact decodeSrc_srcField (hs k fe) m
  | vi k j fe => exact decodeSrc_srcField (hvi k j fe) m

theorem decodeSrc_of_srcOk {r : Option SrcRule} {s : Src} (h : srcOk r s = true) : decodeSrc (encodeSrc s) = some s := by
  cases r with
  | none =>
    obtain rfl : s = zeroSrc := beq_iff_eq.1 h
    decide
  | some r => exact decodeSrc_encodeSrc (Bool.and_eq_true_iff.1 h).1

/-! Destinations (R167). -/

theorem encodeDst_of_decodeDst {x : BitVec 10} {d : Dst} (h : decodeDst x = some d) : encodeDst d = x := by
  have hx : x.extractLsb' 8 2 ++ x.extractLsb' 0 8 = x := BitVec.extractLsb'_append_extractLsb' (w := 2)
  rw [← hx]
  unfold decodeDst at h
  simp only at h
  generalize x.extractLsb' 0 8 = idx at h ⊢
  generalize x.extractLsb' 8 2 = cls at h ⊢
  split at h
  case h_1 hc =>
    obtain rfl : cls = 0 := BitVec.eq_of_toNat_eq hc
    split at h
    · cases h; rfl
    · split at h <;> cases h
      rw [encodeDst, BitVec.append_assoc, queue_byte idx ‹_› ‹_›]
      rfl
  case h_2 hc =>
    obtain rfl : cls = 1 := BitVec.eq_of_toNat_eq hc
    split at h <;> cases h
    rw [encodeDst, BitVec.append_assoc, window_byte idx ‹_›]
    rfl
  case h_3 => cases h
  case h_4 h0 h1 h2 =>
    obtain rfl : cls = 3 := class_three h0 h1 h2
    cases h
    rw [encodeDst, BitVec.append_assoc, indexed_byte idx]
    rfl

theorem decodeDst_of_dstOk {r : DstRule} {d : Dst} (h : dstOk r d = true) : decodeDst (encodeDst d) = some d := by
  have hq : ∀ k, decodeDst (encodeDst (.q k)) = some (.q k) := by decide
  have hw : ∀ k, decodeDst (encodeDst (.w k)) = some (.w k) := by decide
  have hvi : ∀ k j, decodeDst (encodeDst (.vi k j)) = some (.vi k j) := by decide
  have hv : ∀ i : Byte, i.toNat < 240 → decodeDst (encodeDst (.v i)) = some (.v i) := by decide
  cases d with
  | v i =>
    refine hv i ?_
    cases r with
    | unused => cases (beq_iff_eq.1 h : Dst.v i = zeroDst); decide
    | any n | main n => simp only [dstOk, Bool.and_eq_true, decide_eq_true_eq] at h; exact h.1
  | q k => exact hq k
  | w k => exact hw k
  | vi k j => exact hvi k j

end Sys2Proof
end

section
/-! SUPPORT. What a lane word decodes to is encoded as that word (R163-R170, R176). -/

namespace Sys2Proof

open Sys2Proof.Machine

theorem ofBool_beq_one (x : BitVec 1) : BitVec.ofBool (x == 1) = x := by revert x; decide

theorem ver_of_current {v : BitVec 2} (h : ¬2 ≤ v.toNat) : (if (v == 1) = true then (1 : BitVec 2) else 0) = v := by revert v; decide

theorem rawHdr_laneHdr {r : LaneRaw} (h : ¬2 ≤ r.ver.toNat) :
    rawHdr r.opc (laneHdr r) = ⟨0, 0, 0, 0, r.pinv, r.pidx, 0, 0, 0, 0, r.scb, r.ver, r.opc⟩ := by
  rw [rawHdr, laneHdr, ofBool_beq_one, ver_of_current h]

theorem laneOpOf_eq_some {r : LaneRaw} {o : LaneOp} (h : laneOpOf r = some o) :
    o.h = laneHdr r ∧ decodeDst r.dst = some o.d ∧ decodeSrc r.sa = some o.a ∧ decodeSrc r.sb = some o.b ∧ decodeSrc r.sc = some o.c ∧
    fmtOfCode r.fmt.toNat = some o.fmt ∧ rndOf r.rnd.toNat = some o.rnd ∧ o.sat = (r.sat == 1) ∧ o.xf = r.xf := by
  unfold laneOpOf at h
  split at h <;> cases h
  exact ⟨rfl, ‹_›, ‹_›, ‹_›, ‹_›, ‹_›, ‹_›, rfl, rfl⟩

theorem packLane_of_laneOpOf {r : LaneRaw} {o : LaneOp} (hv : ¬2 ≤ r.ver.toNat) (h : laneOpOf r = some o) : packLane r.opc o = packL r := by
  obtain ⟨hh, hd, ha, hb, hc, hf, hm, hs, hx⟩ := laneOpOf_eq_some h
  rw [packLane, hh, rawHdr_laneHdr hv, encodeDst_of_decodeDst hd, encodeSrc_of_decodeSrc ha, encodeSrc_of_decodeSrc hb,
    encodeSrc_of_decodeSrc hc, fmtOfCode_eq_some.1 hf, rndOf_eq_some.1 hm, hs, ofBool_beq_one, hx]

/-- Every row of the lane map: its instruction is encoded with its opcode (R176). -/
theorem encode_laneCtor {n : Nat} {k : LaneOp → Instr} (h : laneCtor n = some k) (o : LaneOp) :
    encode (k o) = some (.lane (packLane (BitVec.ofNat 9 n) o)) := by
  unfold laneCtor at h
  split at h <;> cases h
  -- VQNT and RTRACE: a bit of XF chooses between two instructions of one opcode.
  case h_40 | h_83 => show encode (if _ then _ else _) = _; split <;> rfl
  all_goals rfl

theorem canon_laneOp {r : LaneRaw} {k : LaneOp → Instr} (hv : ¬2 ≤ r.ver.toNat) (hk : laneCtor r.opc.toNat = some k) :
    Canon (.lane (packL r)) (opt (laneOpOf r) k) := by
  refine canon_opt.2 fun o ho => ?_
  have hopc : BitVec.ofNat 9 r.opc.toNat = r.opc := by simp
  rw [encode_laneCtor hk, hopc, packLane_of_laneOpOf hv ho]

/-! The words whose operands are not LaneOp: VMOVI, VSETI, VINCI (R223, R252, R253). -/

theorem canon_decodeMovi {r : LaneRaw} (hv : ¬2 ≤ r.ver.toNat) (hopc : r.opc = 0x1A) : Canon (.lane (packL r)) (decodeMovi r) := by
  refine canon_opt.2 fun d h => ?_
  obtain ⟨hz, hd⟩ := Option.ite_none_right_eq_some.1 h
  simp only [Bool.and_eq_true, beq_iff_eq] at hz
  obtain ⟨⟨⟨⟨ha, hf⟩, hm⟩, hs⟩, hx⟩ := hz
  have hcut : ∀ (x : BitVec 6) (y z : BitVec 13), (x ++ y ++ z).extractLsb' 26 6 = x ∧ (x ++ y ++ z).extractLsb' 13 13 = y ∧
      (x ++ y ++ z).extractLsb' 0 13 = z := by
    intro x y z
    refine ⟨?_, ?_, BitVec.extractLsb'_append_eq_right⟩
    · iterate 2 rw [BitVec.extractLsb'_append_eq_of_le (by decide)]
      exact BitVec.extractLsb'_eq_self
    · rw [BitVec.extractLsb'_append_eq_of_le (by decide)]
      exact BitVec.extractLsb'_append_eq_right
  obtain ⟨h1, h2, h3⟩ := hcut (r.xf.extractLsb' 0 6) r.sc r.sb
  have hxf : (0 : BitVec 7) ++ r.xf.extractLsb' 0 6 = r.xf := by
    rw [← hx]; exact BitVec.extractLsb'_append_extractLsb'
  rw [encode, packMovi, ← hopc, rawHdr_laneHdr hv, h1, h2, h3, hxf, encodeDst_of_decodeDst hd]
  simp only [← ha, ← hf, ← hm, ← hs]

theorem idxBare_iff {r : LaneRaw} :
    idxBare r = true ↔ (r.sc = 0 ∧ r.dst = 0 ∧ r.fmt = 0 ∧ r.rnd = 0 ∧ r.sat = 0) ∧ r.xf.extractLsb' 3 2 = 0 := by
  simp only [idxBare, Bool.and_eq_true, beq_iff_eq, and_assoc]

/-- XF of the immediate form, whose bit 2 is set, and of the register form (R252, R253). -/
theorem xf_immForm {x : BitVec 13} (h2 : x.getLsbD 2 = true) (h3 : x.extractLsb' 3 2 = 0) :
    x.extractLsb' 5 8 ++ (1 : BitVec 3) ++ x.extractLsb' 0 2 = x := by
  have hmid : (1 : BitVec 3) = x.extractLsb' 2 3 := by
    have h : x.extractLsb' 3 2 ++ x.extractLsb' 2 1 = x.extractLsb' 2 3 := BitVec.extractLsb'_append_extractLsb'_eq_extractLsb' rfl
    rw [← h, h3, ← ofBool_getLsbD, h2]; rfl
  rw [hmid]
  iterate 2 rw [BitVec.extractLsb'_append_extractLsb'_eq_extractLsb' (by decide)]
  exact BitVec.extractLsb'_eq_self

theorem xf_regForm {x : BitVec 13} (h2 : x.getLsbD 2 = false) (h3 : x.extractLsb' 3 2 = 0) (h5 : x.extractLsb' 5 8 = 0) :
    (0 : BitVec 11) ++ x.extractLsb' 0 2 = x := by
  have hhi : (0 : BitVec 11) = x.extractLsb' 2 11 := by
    have h : x.extractLsb' 5 8 ++ x.extractLsb' 3 2 ++ x.extractLsb' 2 1 = x.extractLsb' 2 11 := by
      iterate 2 rw [BitVec.extractLsb'_append_extractLsb'_eq_extractLsb' (by decide)]
    rw [← h, h3, h5, ← ofBool_getLsbD, h2]; rfl
  rw [hhi]
  exact BitVec.extractLsb'_append_extractLsb'

theorem packL_of_bare {r : LaneRaw} (hv : ¬2 ≤ r.ver.toNat) (h : idxBare r = true) :
    packL r = packL { rawHdr r.opc (laneHdr r) with xf := r.xf, sb := r.sb, sa := r.sa } := by
  obtain ⟨⟨hc, hd, hf, hm, hs⟩, -⟩ := idxBare_iff.1 h
  rw [rawHdr_laneHdr hv]
  simp only [packL, hc, hd, hf, hm, hs]

theorem canon_decodeSeti {r : LaneRaw} (hv : ¬2 ≤ r.ver.toNat) (hopc : r.opc = 0x90) : Canon (.lane (packL r)) (decodeSeti r) := by
  unfold decodeSeti
  split
  case isTrue h2 =>
    refine canon_req.2 fun h => ?_
    simp only [Bool.and_eq_true, beq_iff_eq] at h
    obtain ⟨⟨hbare, ha⟩, hb⟩ := h
    have hsb : (0 : BitVec 5) ++ r.sb.extractLsb' 0 8 = r.sb := by rw [← hb]; exact BitVec.extractLsb'_append_extractLsb'
    rw [packL_of_bare hv hbare, encode, packSeti, xf_immForm h2 (idxBare_iff.1 hbare).2, hsb, ha, hopc]
    rfl
  case isFalse h2 =>
    refine canon_opt.2 fun a h => ?_
    obtain ⟨h, ha⟩ := Option.ite_none_right_eq_some.1 h
    simp only [Bool.and_eq_true, beq_iff_eq] at h
    obtain ⟨⟨hbare, hb⟩, h5⟩ := h
    rw [packL_of_bare hv hbare, encode, packSeti, xf_regForm (Bool.eq_false_iff.2 h2) (idxBare_iff.1 hbare).2 h5,
      encodeSrc_of_decodeSrc ha, hb, hopc]
    rfl

theorem canon_decodeInci {r : LaneRaw} (hv : ¬2 ≤ r.ver.toNat) (hopc : r.opc = 0x91) : Canon (.lane (packL r)) (decodeInci r) := by
  unfold decodeInci
  split
  case isTrue h2 =>
    refine canon_req.2 fun h => ?_
    simp only [Bool.and_eq_true, beq_iff_eq] at h
    obtain ⟨⟨hbare, ha⟩, hb⟩ := h
    rw [packL_of_bare hv hbare, encode, packInci, xf_immForm h2 (idxBare_iff.1 hbare).2, ha, hb, hopc]
    rfl
  case isFalse h2 =>
    refine canon_opt.2 fun a h => ?_
    obtain ⟨h, ha⟩ := Option.ite_none_right_eq_some.1 h
    simp only [Bool.and_eq_true, beq_iff_eq] at h
    obtain ⟨⟨hbare, hb⟩, h5⟩ := h
    rw [packL_of_bare hv hbare, encode, packInci, xf_regForm (Bool.eq_false_iff.2 h2) (idxBare_iff.1 hbare).2 h5,
      encodeSrc_of_decodeSrc ha, hb, hopc]
    rfl

theorem canon_decodeLane (w : BitVec 96) : Canon (.lane w) (decodeLane w) := by
  obtain ⟨r, rfl⟩ : ∃ r, w = packL r := ⟨unpackL w, (packL_unpackL w).symm⟩
  unfold decodeLane
  simp only [unpackL_packL]
  split
  case isTrue => exact canon_error
  case isFalse hv =>
    split
    case h_1 h => exact canon_checkWf (canon_decodeMovi hv (BitVec.eq_of_toNat_eq h))
    case h_2 h => exact canon_checkWf (canon_decodeSeti hv (BitVec.eq_of_toNat_eq h))
    case h_3 h => exact canon_checkWf (canon_decodeInci hv (BitVec.eq_of_toNat_eq h))
    case h_4 =>
      split
      case h_1 => exact canon_error
      case h_2 k hk => exact canon_checkWf (canon_laneOp hv hk)

/-- Settles O57: what a word decodes to is encoded as that word, by the rows of the scalar maps, the prefix and the lane map. -/
theorem wordsAreCanonical : Obligations.WordsAreCanonical := by
  unfold Obligations.WordsAreCanonical
  intro c i hl h
  cases c with
  | one w => exact canon_decodeScalar_one hl i h
  | two w w1 => exact canon_decodeScalar_two hl i h
  | lane w => exact canon_decodeLane w i h

end Sys2Proof
end

section
/-! SUPPORT. The words of a scalar instruction are read back (R154-R160, R174, R175). -/

namespace Sys2Proof

open Sys2Proof.Machine

/-- The fields of a word of format I, and of the first word of format L (R155). -/
def SFields.ofI (c : BitVec 10) (a d : BitVec 6) (op : Byte) (len : BitVec 2) : SFields :=
  ⟨c.extractLsb' 6 4, c.extractLsb' 0 6, a, d, op, len⟩

/-- The fields of a word of format J. -/
def SFields.ofJ (c : BitVec 22) (op : Byte) (len : BitVec 2) : SFields :=
  ⟨c.extractLsb' 18 4, c.extractLsb' 12 6, c.extractLsb' 6 6, c.extractLsb' 0 6, op, len⟩

@[simp] theorem SFields.ofI_imm10 (c : BitVec 10) (a d : BitVec 6) (op : Byte) (len : BitVec 2) : (SFields.ofI c a d op len).imm10 = c :=
  BitVec.extractLsb'_append_extractLsb'

@[simp] theorem SFields.ofI_f10 (c : BitVec 10) (a d : BitVec 6) (op : Byte) (len : BitVec 2) : (SFields.ofI c a d op len).f10 = c :=
  BitVec.extractLsb'_append_extractLsb'

@[simp] theorem SFields.ofI_a (c : BitVec 10) (a d : BitVec 6) (op : Byte) (len : BitVec 2) : (SFields.ofI c a d op len).a = a := rfl
@[simp] theorem SFields.ofI_d (c : BitVec 10) (a d : BitVec 6) (op : Byte) (len : BitVec 2) : (SFields.ofI c a d op len).d = d := rfl

@[simp] theorem SFields.ofJ_top (c : BitVec 22) (op : Byte) (len : BitVec 2) : (SFields.ofJ c op len).top = c := by
  rw [SFields.top, SFields.ofJ]
  iterate 3 rw [BitVec.extractLsb'_append_extractLsb'_eq_extractLsb' (by decide)]
  exact BitVec.extractLsb'_eq_self

theorem packI_eq_word (c : BitVec 10) (a d : BitVec 6) (op : Byte) (len : BitVec 2) : packI c a d op len = (SFields.ofI c a d op len).word := by
  conv => lhs; rw [← SFields.ofI_imm10 c a d op len]
  rfl

theorem packJ_eq_word (c : BitVec 22) (op : Byte) (len : BitVec 2) : packJ c op len = (SFields.ofJ c op len).word := by
  conv => lhs; rw [← SFields.ofJ_top c op len]
  rfl

theorem len_word (x : SFields) : x.word.extractLsb' 0 2 = x.len := BitVec.extractLsb'_append_eq_right

theorem decode_one_word {x : SFields} (hl : x.len = 0) : decode (.one x.word) = checkWf (decode32 x) := by
  rw [decode, decodeScalar, len_word, hl, unpackS_word]; rfl

theorem decode_two_word {x : SFields} (hl : x.len = 1) (w : Word) : decode (.two x.word w) = checkWf (decode64 x w) := by
  rw [decode, decodeScalar, len_word, hl, unpackS_word]; rfl

theorem packR_eq_word (f : BitVec 4) (b a d : BitVec 6) (op : Byte) (len : BitVec 2) :
    packR f b a d op len = (⟨f, b, a, d, op, len⟩ : SFields).word := rfl

/-- A word whose row answers a well-formed instruction decodes to it. -/
theorem decode_one_of {x : SFields} {i : Instr} (hw : i.wf = true) (hl : x.len = 0) (h : decode32 x = .ok i) : decode (.one x.word) = .ok i := by
  rw [decode_one_word hl, h]; exact checkWf_eq_ok.2 ⟨rfl, hw⟩

theorem decode_two_of {x : SFields} {w : Word} {i : Instr} (hw : i.wf = true) (hl : x.len = 1) (h : decode64 x w = .ok i) :
    decode (.two x.word w) = .ok i := by
  rw [decode_two_word hl, h]; exact checkWf_eq_ok.2 ⟨rfl, hw⟩

theorem req_ok {c : Bool} {i j : Instr} (hc : c = true) (h : j = i) : req c j = .ok i := req_eq_ok.2 ⟨hc, h⟩

theorem opt_ok {α : Type} {o : Option α} {a : α} {k : α → Instr} {i : Instr} (ho : o = some a) (h : k a = i) : opt o k = .ok i :=
  opt_eq_ok.2 ⟨a, ho, h⟩

theorem mask2_ok {x : SFields} {c : Bool} {k : MaskOp → MaskOp → Instr} {d a : MaskOp} (hd : x.d = maskCode d) (ha : x.a = maskCode a)
    (hc : c = true) (hm : maskDstOk d = true) : mask2 x c k = .ok (k d a) := by
  rw [mask2, hd, ha, maskOfCode_maskCode, maskOfCode_maskCode]; exact req_ok (by rw [hc, hm]; rfl) rfl

theorem mask3_ok {x : SFields} {k : MaskOp → MaskOp → MaskOp → Instr} {d a b : MaskOp} (hd : x.d = maskCode d) (ha : x.a = maskCode a)
    (hb : x.b = maskCode b) (hf : x.f = 0) (hm : maskDstOk d = true) : mask3 x k = .ok (k d a b) := by
  rw [mask3, hd, ha, hb, maskOfCode_maskCode, maskOfCode_maskCode, maskOfCode_maskCode]; exact req_ok (by rw [hf, hm]; rfl) rfl

@[simp] theorem intF_intFCode (f : IntF) (b a d : BitVec 6) (op : Byte) (len : BitVec 2) : (⟨intFCode f, b, a, d, op, len⟩ : SFields).intF = f := by
  have h : (⟨(intFCode f).getLsbD 1, (intFCode f).getLsbD 0⟩ : IntF) = f := by obtain ⟨_ | _, _ | _⟩ := f <;> decide
  exact h

@[simp] theorem fHi_intFCode (f : IntF) (b a d : BitVec 6) (op : Byte) (len : BitVec 2) : (⟨intFCode f, b, a, d, op, len⟩ : SFields).fHi = 0 := by
  have h : (intFCode f).extractLsb' 2 2 = 0 := by obtain ⟨_ | _, _ | _⟩ := f <;> decide
  exact h

@[simp] theorem fHi_fmtCode (m : SFmt) (c : BitVec 2) (b a d : BitVec 6) (op : Byte) (len : BitVec 2) :
    (⟨fmtCode m c, b, a, d, op, len⟩ : SFields).fHi = c := BitVec.extractLsb'_append_eq_left

@[simp] theorem low_fmtCode (m : SFmt) (c : BitVec 2) : (fmtCode m c).extractLsb' 0 2 = sfmtCode m := BitVec.extractLsb'_append_eq_right

/-! Fields that hold less than their width. -/

@[simp] theorem extract_hi_barCode (l : BitVec 3) (n : BitVec 4) : (barCode l n).extractLsb' 7 3 = 0 := by
  rw [barCode]
  iterate 2 rw [BitVec.extractLsb'_append_eq_of_le (by decide)]
  exact BitVec.extractLsb'_eq_self

@[simp] theorem extract_level_barCode (l : BitVec 3) (n : BitVec 4) : (barCode l n).extractLsb' 4 3 = l := by
  rw [barCode, BitVec.extractLsb'_append_eq_of_le (by decide)]
  exact BitVec.extractLsb'_append_eq_right

@[simp] theorem extract_barrier_barCode (l : BitVec 3) (n : BitVec 4) : (barCode l n).extractLsb' 0 4 = n :=
  BitVec.extractLsb'_append_eq_right

@[simp] theorem extract_bit4 (b : Bool) : (bit4 b).extractLsb' 1 3 = 0 := by revert b; decide
@[simp] theorem getElem_bit4 (b : Bool) : (bit4 b)[0] = b := by revert b; decide
@[simp] theorem extract_hi_setWidth_imm (k : BitVec 3) : (k.setWidth 10).extractLsb' 3 7 = 0 := by revert k; decide
@[simp] theorem extract_lo_setWidth_imm (k : BitVec 3) : (k.setWidth 10).extractLsb' 0 3 = k := by revert k; decide
@[simp] theorem extract_hi_setWidth (k : BitVec 3) : (k.setWidth 6).extractLsb' 3 3 = 0 := by revert k; decide
@[simp] theorem extract_lo_setWidth (k : BitVec 3) : (k.setWidth 6).extractLsb' 0 3 = k := by revert k; decide
@[simp] theorem getLsbD_setWidth_mask (k : BitVec 5) : (k.setWidth 6).getLsbD 5 = false := by revert k; decide
@[simp] theorem extract_lo_setWidth_mask (k : BitVec 5) : (k.setWidth 6).extractLsb' 0 5 = k := by revert k; decide

theorem decode_packPfx (cap sat : Bool) (rnd : Rnd) : decode (.one (packPfx cap sat rnd)) = .ok (.pfx cap sat rnd) := by
  cases cap <;> cases sat <;> cases rnd <;> rfl

/-- R174, R175: the words of a well-formed instruction of 32 bits decode to it. -/
theorem decode_of_encode_one {i : Instr} {w : Word} (hw : i.wf = true) (h : encode i = some (.one w)) : decode (.one w) = .ok i := by
  cases i with
  | pfx cap sat rnd => cases h; exact decode_packPfx cap sat rnd
  | nop | ret | exit | efence | waitm | eret | br off | call off | yield off =>
    cases h
    rw [packJ_eq_word]
    exact decode_one_of hw rfl (req_ok (by simp) (by simp))
  | trap c | brk c | addi d a c | andi d a c | ori d a c | xori d a c | slti d a c | sgrow c | sshrink c | svc c | ringp k | ringg k
  | bara l n | barw d l n | bar d l n =>
    cases h
    rw [packI_eq_word]
    exact decode_one_of hw rfl (req_ok (by simp) (by simp))
  | srd d n | swr n a =>
    cases h
    rw [packI_eq_word]
    exact decode_one_of hw rfl (opt_ok (by simpa using sregOfCode_sregCode hw) rfl)
  | sysrd d n | syswr n a =>
    cases h
    rw [packI_eq_word]
    exact decode_one_of hw rfl (opt_ok (a := n) (by simp) rfl)
  | add f d a b | sub f d a b | mul f d a b | mulh f d a b | div f d a b | rem f d a b | min f d a b | max f d a b | slt f d a b
  | seq f d a b | and f d a b | or f d a b | xor f d a b | shl f d a b | shr f d a b | sar f d a b | mov d a | shli d a n | shri d a n
  | sari d a n | callr a | arm f a b | stcfg n a | l1inv f a | tlbia f a | park d a | unpark d a | halt d a | resume d a | ctxsv d a b
  | ctxld d a b | preempt d a b | semacq d a b | semrel d a | tlbiv a b =>
    cases h
    rw [packR_eq_word]
    exact decode_one_of hw rfl (req_ok (by simp) (by simp))
  | fadd f d a b | fsub f d a b | fmul f d a b | fma f d a b | fdiv f d a b | fmin f d a b | fmax f d a b | fsqrt f d a | fcmp c f d a b
  | fcvt f d a | mcnt d f | join f =>
    cases h
    rw [packR_eq_word]
    exact decode_one_of hw rfl (opt_ok (a := f) (by simp) (by simp))
  | mmov d a =>
    cases h
    rw [packR_eq_word]
    exact decode_one_of hw rfl (mask2_ok rfl rfl rfl hw)
  | mand d a b | mor d a b | mxor d a b | mandn d a b =>
    cases h
    rw [packR_eq_word]
    exact decode_one_of hw rfl (mask3_ok rfl rfl rfl rfl hw)
  | mfence p q n =>
    cases h
    rw [packR_eq_word]
    exact decode_one_of hw rfl (opt_ok (a := (p, q, n)) (mfenceOf_eq_some.2 ⟨rfl, rfl, rfl, rfl⟩) rfl)
  | _ => cases h

/-! Words of 64 bits. -/

theorem zeroExtend_intFCode_fields (f : IntF) : ((intFCode f).setWidth 10).extractLsb' 2 8 = 0 ∧
    (⟨(intFCode f)[1], (intFCode f)[0]⟩ : IntF) = f := by
  obtain ⟨_ | _, _ | _⟩ := f <;> decide

theorem mcondCode_fields (c : MCond) : (mcondCode c).extractLsb' 2 8 = 0 ∧ mcondOf ((mcondCode c).extractLsb' 0 2) = c := by
  cases c <;> decide

theorem ldF_code (z : MemSize) (sx sp : Bool) : (ldF z sx sp).extractLsb' 4 6 = 0 ∧ sizeOf ((ldF z sx sp).extractLsb' 0 2) = z ∧
    (ldF z sx sp)[2] = sx ∧ (ldF z sx sp)[3] = sp := by
  cases z <;> revert sx sp <;> decide

theorem atomF_code (o : AtomOp) (wide sp : Bool) : ((atomF o wide sp).extractLsb' 8 2 = 0 ∧ (atomF o wide sp)[1] = true ∧
    (atomF o wide sp)[2] = false) ∧ (atomF o wide sp).extractLsb' 4 4 = atomCode o ∧ (atomF o wide sp)[0] = wide ∧
    (atomF o wide sp)[3] = sp := by
  cases o <;> revert wide sp <;> decide

theorem lrunD_imm_code (e : Bool) (n : BitVec 10) :
    (lrunD e (.imm n)).extractLsb' 2 4 = 0 ∧ (lrunD e (.imm n)).getLsbD 1 = false ∧ (lrunD e (.imm n)).getLsbD 0 = e := by
  simp only [lrunD]; revert e; decide

theorem lrunD_reg_code (e : Bool) (a : SReg) :
    (lrunD e (.reg a)).extractLsb' 2 4 = 0 ∧ (lrunD e (.reg a)).getLsbD 1 = true ∧ (lrunD e (.reg a)).getLsbD 0 = e := by
  simp only [lrunD]; revert e; decide

theorem lrunOf_code (e : Bool) (n : LrunCount) (op : Byte) (len : BitVec 2) (w : Word) :
    lrunOf (.ofI (lrunF n) (lrunA n) (lrunD e n) op len) w = .ok (.lrun e n w) := by
  cases n with
  | imm c =>
    obtain ⟨hz, h1, he⟩ := lrunD_imm_code e c
    simp [lrunOf, hz, h1, he, lrunF, lrunA, req, -BitVec.getLsbD_eq_getElem]
  | reg a =>
    obtain ⟨hz, h1, he⟩ := lrunD_reg_code e a
    simp [lrunOf, hz, h1, he, lrunF, lrunA, req, -BitVec.getLsbD_eq_getElem]

/-- R174: the words of a well-formed instruction of 64 bits decode to it. -/
theorem decode_of_encode_two {i : Instr} {w w1 : Word} (hw : i.wf = true) (h : encode i = some (.two w w1)) : decode (.two w w1) = .ok i := by
  cases i with
  | movl d c | movh d c | region c | schunk d a c | qcfg q a c =>
    cases h
    rw [packI_eq_word]
    exact decode_two_of hw rfl (req_ok (by simp) (by simp))
  | addl f d a c =>
    cases h
    obtain ⟨hz, hf⟩ := zeroExtend_intFCode_fields f
    rw [packI_eq_word]
    exact decode_two_of hw rfl (req_ok (by simp [hz]) (by simp [hf]))
  | brc c a off =>
    cases h
    rw [packI_eq_word]
    exact decode_two_of hw rfl (opt_ok (a := c) (by simp) rfl)
  | brm c m off =>
    cases h
    obtain ⟨hz, hc⟩ := mcondCode_fields c
    rw [packI_eq_word]
    exact decode_two_of hw rfl (opt_ok (a := m) (by simp [hz]) (by simp [hc]))
  | lrun e n c =>
    cases h
    rw [packI_eq_word]
    exact decode_two_of hw rfl (lrunOf_code e n 0x3F 1 _)
  | ld z sx sp d a off =>
    cases h
    obtain ⟨hz, hsz, hsx, hsp⟩ := ldF_code z sx sp
    rw [packI_eq_word]
    exact decode_two_of hw rfl (req_ok (by simp [hz]) (by simp [hsz, hsx, hsp]))
  | st z sp d a off =>
    cases h
    obtain ⟨hz, hsz, hsx, hsp⟩ := ldF_code z false sp
    rw [packI_eq_word]
    exact decode_two_of hw rfl (req_ok (by simp [hz, hsx]) (by simp [hsz, hsp]))
  | atom o wide sp d a off =>
    cases h
    obtain ⟨⟨hz, h1, h2⟩, ho, hwide, hsp⟩ := atomF_code o wide sp
    rw [packI_eq_word]
    exact decode_two_of hw rfl (opt_ok (a := o) (by simp [hz, h1, h2, ho]) (by simp [hwide, hsp]))
  | _ => cases h

end Sys2Proof
end

section
/-! SUPPORT. The words of a lane instruction are read back (R163-R170, R176); every instruction, both ways. -/

namespace Sys2Proof

open Sys2Proof.Machine

/-- The raw fields of a lane word of LaneOp operands. -/
def rawLane (opc : BitVec 9) (o : LaneOp) : LaneRaw :=
  { rawHdr opc o.h with
    xf := o.xf, sat := BitVec.ofBool o.sat, rnd := rndCode o.rnd, fmt := fmtCode5 o.fmt
    sc := encodeSrc o.c, sb := encodeSrc o.b, sa := encodeSrc o.a, dst := encodeDst o.d }

theorem unpackL_packLane (opc : BitVec 9) (o : LaneOp) : unpackL (packLane opc o) = rawLane opc o := unpackL_packL _

@[simp] theorem ofBool_beq_true (b : Bool) : (BitVec.ofBool b == 1) = b := by revert b; decide

/-- The version that a header is encoded with, read back. -/
theorem current_beq_one (b : Bool) : ((if b = true then (1 : BitVec 2) else 0) == 1) = b := by revert b; decide

theorem current_lt_two (b : Bool) : ¬2 ≤ (if b = true then (1 : BitVec 2) else 0).toNat := by revert b; decide

theorem laneHdr_eq {r : LaneRaw} {h : LaneHdr} (hp : r.pinv = BitVec.ofBool h.pinv) (hi : r.pidx = h.pidx) (hs : r.scb = h.scb)
    (hv : r.ver = if h.current = true then 1 else 0) : laneHdr r = h := by
  rw [laneHdr, hp, hi, hs, hv, ofBool_beq_true, current_beq_one]

theorem LaneRule.ok_fields {r : LaneRule} {o : LaneOp} (h : r.ok o = true) :
    decodeDst (encodeDst o.d) = some o.d ∧ decodeSrc (encodeSrc o.a) = some o.a ∧ decodeSrc (encodeSrc o.b) = some o.b ∧
    decodeSrc (encodeSrc o.c) = some o.c := by
  simp only [LaneRule.ok, Bool.and_eq_true] at h
  obtain ⟨⟨⟨⟨⟨⟨⟨⟨ha, hb⟩, hc⟩, hd⟩, -⟩, -⟩, -⟩, -⟩, -⟩ := h
  exact ⟨decodeDst_of_dstOk hd, decodeSrc_of_srcOk ha, decodeSrc_of_srcOk hb, decodeSrc_of_srcOk hc⟩

theorem laneOpOf_rawLane {r : LaneRule} {opc : BitVec 9} {o : LaneOp} (h : r.ok o = true) : laneOpOf (rawLane opc o) = some o := by
  obtain ⟨hd, ha, hb, hc⟩ := LaneRule.ok_fields h
  have hh : laneHdr (rawLane opc o) = o.h := laneHdr_eq rfl rfl rfl rfl
  rw [laneOpOf]
  simp only [hh]
  simp only [rawLane, hd, ha, hb, hc, fmtOfCode_fmtCode5, rndOf_rndCode, ofBool_beq_true]

/-- A row of the lane map reads the words of its well-formed instructions back. -/
theorem decode_packLane {opc : BitVec 9} {k : LaneOp → Instr} {o : LaneOp} {i : Instr} {r : LaneRule} (hk : laneCtor opc.toNat = some k)
    (hi : k o = i) (ho : r.ok o = true) (hw : i.wf = true) : decode (.lane (packLane opc o)) = .ok i := by
  subst hi
  have hv : ¬2 ≤ (rawLane opc o).ver.toNat := current_lt_two o.h.current
  have hopc : (rawLane opc o).opc = opc := rfl
  rw [decode, decodeLane]
  simp only [unpackL_packLane, if_neg hv, hopc]
  split
  case h_1 h | h_2 h | h_3 h => rw [h] at hk; cases hk
  case h_4 => simp only [hk, laneOpOf_rawLane ho, opt, checkWf, hw, if_true]

/-! VMOVI, VSETI, VINCI (R223, R252, R253). -/

theorem decode_packL_of {r : LaneRaw} {i : Instr} (hw : i.wf = true) (hv : ¬2 ≤ r.ver.toNat)
    (h : r.opc = 0x1A ∧ decodeMovi r = .ok i ∨ r.opc = 0x90 ∧ decodeSeti r = .ok i ∨ r.opc = 0x91 ∧ decodeInci r = .ok i) :
    decode (.lane (packL r)) = .ok i := by
  rw [decode, decodeLane]
  simp only [unpackL_packL, if_neg hv]
  obtain ⟨ho, h⟩ | ⟨ho, h⟩ | ⟨ho, h⟩ := h <;> rw [ho] <;> exact checkWf_eq_ok.2 ⟨h, hw⟩

theorem imm_pieces (imm : Word) : imm.extractLsb' 26 6 ++ imm.extractLsb' 13 13 ++ imm.extractLsb' 0 13 = imm := by
  iterate 2 rw [BitVec.extractLsb'_append_extractLsb'_eq_extractLsb' (by decide)]
  exact BitVec.extractLsb'_eq_self

theorem decode_packMovi (h : LaneHdr) (d : Dst) (imm : Word) (hw : (Instr.vmovi h d imm).wf = true) :
    decode (.lane (packMovi h d imm)) = .ok (.vmovi h d imm) := by
  have hd : decodeDst (encodeDst d) = some d := decodeDst_of_dstOk hw
  have hhi : ((0 : BitVec 7) ++ imm.extractLsb' 26 6).extractLsb' 6 7 = 0 := BitVec.extractLsb'_append_eq_left
  have hlo : ((0 : BitVec 7) ++ imm.extractLsb' 26 6).extractLsb' 0 6 = imm.extractLsb' 26 6 := BitVec.extractLsb'_append_eq_right
  refine decode_packL_of hw (current_lt_two h.current) (.inl ⟨rfl, opt_ok (a := d) ?_ ?_⟩)
  · exact (if_pos (by rw [hhi]; rfl)).trans hd
  · rw [laneHdr_eq rfl rfl rfl rfl, hlo, imm_pieces]

/-- XF of the register form of VSETI and VINCI, and of the immediate form. -/
theorem regForm_xf (n : BitVec 2) : ((0 : BitVec 11) ++ n).getLsbD 2 = false ∧ ((0 : BitVec 11) ++ n).extractLsb' 3 2 = 0 ∧
    ((0 : BitVec 11) ++ n).extractLsb' 5 8 = 0 ∧ ((0 : BitVec 11) ++ n).extractLsb' 0 2 = n := by
  revert n; decide

theorem immForm_xf (v : Byte) (n : BitVec 2) : (v ++ (1 : BitVec 3) ++ n).getLsbD 2 = true ∧ (v ++ (1 : BitVec 3) ++ n).extractLsb' 3 2 = 0 ∧
    (v ++ (1 : BitVec 3) ++ n).extractLsb' 5 8 = v ∧ (v ++ (1 : BitVec 3) ++ n).extractLsb' 0 2 = n := by
  refine ⟨?_, ?_, ?_, BitVec.extractLsb'_append_eq_right⟩
  · have h : (v ++ (1 : BitVec 3) ++ n).extractLsb' 2 1 = (1 : BitVec 3).extractLsb' 0 1 := by
      rw [BitVec.extractLsb'_append_eq_of_le (by decide), BitVec.extractLsb'_append_eq_of_add_le (by decide)]
    rw [← ofBool_getLsbD] at h
    revert h
    cases (v ++ (1 : BitVec 3) ++ n).getLsbD 2 <;> decide
  · rw [BitVec.extractLsb'_append_eq_of_le (by decide), BitVec.extractLsb'_append_eq_of_add_le (by decide)]
    rfl
  · iterate 2 rw [BitVec.extractLsb'_append_eq_of_le (by decide)]
    exact BitVec.extractLsb'_eq_self

theorem decode_packSeti (h : LaneHdr) (n : BitVec 2) (v : SetSrc) (hw : (Instr.vseti h n v).wf = true) :
    decode (.lane (packSeti h n v)) = .ok (.vseti h n v) := by
  cases v with
  | reg a =>
    obtain ⟨h2, h3, h5, h0⟩ := regForm_xf n
    have ha : decodeSrc (encodeSrc a) = some a := decodeSrc_of_srcOk (r := rRaw 1) hw
    refine decode_packL_of hw (current_lt_two h.current) (.inr (.inl ⟨rfl, ?_⟩))
    rw [decodeSeti, if_neg (Bool.eq_false_iff.1 h2), idxBare_iff.2 ⟨⟨rfl, rfl, rfl, rfl, rfl⟩, h3⟩]
    refine opt_ok (a := a) ((if_pos (by simp only [h5]; rfl)).trans ha) ?_
    rw [laneHdr_eq rfl rfl rfl rfl, h0]
  | imm base len =>
    obtain ⟨h2, h3, h5, h0⟩ := immForm_xf base n
    have hhi : ((0 : BitVec 5) ++ len).extractLsb' 8 5 = 0 := BitVec.extractLsb'_append_eq_left
    have hlo : ((0 : BitVec 5) ++ len).extractLsb' 0 8 = len := BitVec.extractLsb'_append_eq_right
    refine decode_packL_of hw (current_lt_two h.current) (.inr (.inl ⟨rfl, ?_⟩))
    rw [decodeSeti, if_pos h2, idxBare_iff.2 ⟨⟨rfl, rfl, rfl, rfl, rfl⟩, h3⟩]
    refine req_ok (by simp only [hhi]; rfl) ?_
    rw [laneHdr_eq rfl rfl rfl rfl, h0, h5, hlo]

theorem decode_packInci (h : LaneHdr) (n : BitVec 2) (v : IncSrc) (hw : (Instr.vinci h n v).wf = true) :
    decode (.lane (packInci h n v)) = .ok (.vinci h n v) := by
  cases v with
  | reg a =>
    obtain ⟨h2, h3, h5, h0⟩ := regForm_xf n
    have ha : decodeSrc (encodeSrc a) = some a := decodeSrc_of_srcOk (r := rRaw 1) hw
    refine decode_packL_of hw (current_lt_two h.current) (.inr (.inr ⟨rfl, ?_⟩))
    rw [decodeInci, if_neg (Bool.eq_false_iff.1 h2), idxBare_iff.2 ⟨⟨rfl, rfl, rfl, rfl, rfl⟩, h3⟩]
    refine opt_ok (a := a) ((if_pos (by simp only [h5]; rfl)).trans ha) ?_
    rw [laneHdr_eq rfl rfl rfl rfl, h0]
  | imm b =>
    obtain ⟨h2, h3, h5, h0⟩ := immForm_xf b n
    refine decode_packL_of hw (current_lt_two h.current) (.inr (.inr ⟨rfl, ?_⟩))
    rw [decodeInci, if_pos h2, idxBare_iff.2 ⟨⟨rfl, rfl, rfl, rfl, rfl⟩, h3⟩]
    refine req_ok rfl ?_
    rw [laneHdr_eq rfl rfl rfl rfl, h0, h5]

theorem LaneRule.ok_xf {r : LaneRule} {o : LaneOp} (h : r.ok o = true) : o.xf &&& ~~~r.xfMask = 0 ∧ r.extra = true := by
  simp only [LaneRule.ok, Bool.and_eq_true, beq_iff_eq] at h
  obtain ⟨⟨-, hx⟩, he⟩ := h
  exact ⟨hx, he⟩

/-- R164: a bit of XF that a row does not use is zero. -/
theorem LaneRule.ok_xbit {r : LaneRule} {o : LaneOp} {k : Nat} (h : r.ok o = true) (hk : (~~~r.xfMask).getLsbD k = true) :
    LaneOp.xbit o k = false := by
  have hx := congrArg (BitVec.getLsbD · k) (LaneRule.ok_xf h).1
  simpa [LaneOp.xbit, hk] using hx

/-- R176: the words of a well-formed lane instruction decode to it. -/
theorem decode_of_encode_lane {i : Instr} {w : BitVec 96} (hw : i.wf = true) (h : encode i = some (.lane w)) : decode (.lane w) = .ok i := by
  cases i with
  | vmovi hd d imm => cases h; exact decode_packMovi hd d imm hw
  | vseti hd n v => cases h; exact decode_packSeti hd n v hw
  | vinci hd n v => cases h; exact decode_packInci hd n v hw
  | vqntScl o =>
    cases h
    have hx : LaneOp.xbit o 3 = true := (LaneRule.ok_xf (r := ruleQntScl o) hw).2
    exact decode_packLane rfl (if_pos hx) hw hw
  | vqnt o =>
    cases h
    have hx : LaneOp.xbit o 3 = false := LaneRule.ok_xbit (r := ruleQnt o) hw (show (~~~0x1007 : BitVec 13).getLsbD 3 = true by decide)
    exact decode_packLane rfl (if_neg (Bool.eq_false_iff.1 hx)) hw hw
  | rtrace o =>
    cases h
    have hx : LaneOp.xfield o 0 2 = 0 := beq_iff_eq.1 (Bool.and_eq_true_iff.1 (LaneRule.ok_xf (r := ruleRtrace false o) hw).2).2
    exact decode_packLane rfl (if_neg (by simp [hx])) hw hw
  | rtraceShade o =>
    cases h
    have hx : (LaneOp.xfield o 0 2 == 1) = true := (Bool.and_eq_true_iff.1 (LaneRule.ok_xf (r := ruleRtrace true o) hw).2).2
    exact decode_packLane rfl (if_pos hx) hw hw
  | vadd o | vsub o | vmul o | vmulh o | vmad o | vmin o | vmax o | vshl o | vshr o | vsar o | vand o | vor o | vxor o | vlop3 o | vbfe o
  | vbfi o | vpopc o | vclz o | vsel o | vmov o | vcmp o | vfadd o | vfsub o | vfmul o | vfma o | vfmin o | vfmax o | vfcmp o | vfclass o
  | vrcp o | vrsq o | vsqrt o | vexp2 o | vlog2 o | vsin o | vcos o | vcvt o | vpack o | vunpk o | vdqnt o | vdot4 o | vdot8 o | vshfl o
  | vbcst o | vred o | vscan o | vbalt o | vtos o | vlsr o | vld o | vst o | vlds o | vsts o | vldlk o | vstul o | vatom o | vfatom o
  | vldu o | vpref o | vdraw o | voutcome o | vcall o | vret o | vordb o | vorde o | vmcnt o | vmvtx o | vmprim o | vexit o | tld o | tst o
  | tzero o | tmma o | tmmas o | ttov o | vtot o | atov o | vtoa o | stage o | cpyred o | cpynet o | replay o | rres o =>
    cases h
    exact decode_packLane rfl rfl hw hw
  | _ => cases h

/-! ### Both ways -/

theorem decode_encode {i : Instr} {c : Code} (hw : i.wf = true) (h : encode i = some c) : decode c = .ok i := by
  cases c with
  | one w => exact decode_of_encode_one hw h
  | two w w1 => exact decode_of_encode_two hw h
  | lane w => exact decode_of_encode_lane hw h

theorem decodePfx_wf {w : Word} {i : Instr} (h : decodePfx w = .ok i) : i.wf = true := by
  unfold decodePfx at h
  split at h
  case h_1 => split at h <;> cases h; rfl
  case h_2 => cases h

theorem decodeScalar_wf {w w1 : Word} {i : Instr} (h : decodeScalar w w1 = .ok i) : i.wf = true := by
  unfold decodeScalar at h
  split at h
  case h_1 | h_2 => exact (checkWf_eq_ok.1 h).2
  case h_3 => exact decodePfx_wf h
  case h_4 => cases h

theorem decodeLane_wf {w : BitVec 96} {i : Instr} (h : decodeLane w = .ok i) : i.wf = true := by
  unfold decodeLane at h
  simp only at h
  split at h
  case isTrue => cases h
  case isFalse =>
    split at h
    case h_1 | h_2 | h_3 => exact (checkWf_eq_ok.1 h).2
    case h_4 =>
      split at h
      case h_1 => cases h
      case h_2 => exact (checkWf_eq_ok.1 h).2

/-- Settles O56: each family of words reads its well-formed instructions back, and every row of a decoder is checked. -/
theorem encodeDecode : Obligations.EncodeDecode := by
  unfold Obligations.EncodeDecode
  refine ⟨fun i c => decode_encode, fun c i h => ?_⟩
  cases c with
  | one w => exact decodeScalar_wf h
  | two w w1 => exact decodeScalar_wf h
  | lane w => exact decodeLane_wf h

/-- Settles O55: each word is the encoding of its instruction, which is well formed, and so decodes to it (`decode_encode`). -/
theorem decodesSpecWords : Obligations.DecodesSpecWords := by
  unfold Obligations.DecodesSpecWords
  intro v h
  exact ⟨decode_encode rfl (by decide), decode_encode rfl (by decide), decode_encode rfl (by decide), decode_encode rfl (by decide),
    decode_encode rfl (by decide), decode_encode rfl (by decide), decode_encode rfl (by decide), decode_encode rfl (by decide),
    decode_encode (by decide) (by decide), decode_encode rfl (by decide)⟩

end Sys2Proof
end

section
/-! SUPPORT. What a prefix checks (R159-R161, R163), and which threads the system words and the words of a group are for (R175,
R327, R328). -/

namespace Sys2Proof.Machine

/-! ### The guards of system words and of a group's words -/

theorem State.groupOnly_svc {s : State} {f : Nat → Out} {k : Nat} (h : s.cur = .svc k) : s.groupOnly f = .next (s.raise .encReserved {}) := by
  rw [State.groupOnly, h]

theorem State.svcOnly_group {s : State} {f : Nat → Svc → Out} {g : Nat} (h : s.cur = .group g) :
    s.svcOnly f = .next (s.raise .privileged {}) := by
  rw [State.svcOnly, h]

theorem State.svcOnly_svc {s : State} {f : Nat → Svc → Out} {k : Nat} (h : s.cur = .svc k) : s.svcOnly f = f k (s.svc k) := by
  rw [State.svcOnly, h]

theorem State.svcRegs_group {s : State} {reads writes : List Nat} {f : Nat → Svc → State → Out} {g : Nat} (h : s.cur = .group g) :
    s.svcRegs reads writes f = .next (s.raise .privileged {}) := State.svcOnly_group h

theorem State.svcRegs_ready {s : State} {reads writes : List Nat} {f : Nat → Svc → State → Out} {k : Nat} (h : s.cur = .svc k)
    (hr : Claim.Ready s reads writes) : s.svcRegs reads writes f = f k (s.svc k) s := by
  rw [State.svcRegs, State.svcOnly_svc h, State.withRegs_ready hr.runs hr.sound hr.free hr.full, State.svcOnly_svc h]

/-! ### System words (R175) -/

theorem exec_eret (s : State) : exec .eret s = execEret s := rfl
theorem exec_svc (c : BitVec 10) (s : State) : exec (.svc c) s = execSvc c s := rfl

/-- A group has no system word: each of them raises PRIVILEGED before it looks at anything else. -/
theorem system_group {s : State} {g : Nat} {i : Instr} (hc : s.cur = .group g) (hi : Claim.system i = true) :
    exec i s = .next (s.raise .privileged {}) := by
  cases i with
  | eret => rw [exec_eret, execEret, State.svcOnly_group hc]
  | svc c => rw [exec_svc, execSvc, State.svcOnly_group hc]
  | sysrd d n | syswr n a | l1inv b a | park d a | unpark d a | halt d a | resume d a | ctxsv d a b | ctxld d a b | preempt d a b
  | semacq d a b | semrel d a | tlbiv a b | tlbia b a => exact State.svcRegs_group hc
  | _ => cases hi

theorem eret_part {s : State} {k : Nat} (hc : s.cur = .svc k) (hp : (s.svc k).sstat.getLsbD 4 = false) :
    exec .eret s = .next (s.raise .privileged {}) := by
  have hh : ¬sstatHost (s.svc k).sstat = true := by rw [sstatHost, hp]; decide
  rw [exec_eret, execEret, State.svcOnly_svc hc, if_neg hh]

/-- A SYSWR with its register ready checks its system register, and then its level. -/
theorem syswr_ready {s : State} {k : Nat} {n : SysReg} {a : SReg} (hc : s.cur = .svc k) (hr : Claim.Ready s [a.toNat] []) :
    exec (.syswr n a) s = if SysReg.ro n = true then .next (s.raise .sregReadonly {})
      else if (n = .svec && !sstatHost (s.svc k).sstat) = true then .next (s.raise .privileged {})
      else .next ((s.setSvc k ((s.svc k).sysWrite n (s.thr.rd a.toNat))).pass 4) :=
  State.svcRegs_ready hc hr

theorem syswr_readonly {s : State} {k : Nat} {n : SysReg} {a : SReg} (hc : s.cur = .svc k) (hr : Claim.Ready s [a.toNat] [])
    (hn : SysReg.ro n = true) : exec (.syswr n a) s = .next (s.raise .sregReadonly {}) :=
  (syswr_ready hc hr).trans (if_pos hn)

theorem syswr_svec_part {s : State} {k : Nat} {a : SReg} (hc : s.cur = .svc k) (hr : Claim.Ready s [a.toNat] [])
    (hp : (s.svc k).sstat.getLsbD 4 = false) : exec (.syswr .svec a) s = .next (s.raise .privileged {}) := by
  rw [syswr_ready hc hr, if_neg (by decide), if_pos (by rw [sstatHost, hp]; rfl)]

/-- Settles O14: the words of a service thread turn a group away at their first guard, and the words of a group a service thread. -/
theorem privilegeIsChecked : Obligations.PrivilegeIsChecked := by
  unfold Obligations.PrivilegeIsChecked
  refine ⟨fun s g i hc hi => system_group hc hi, fun s k hc hp => ⟨eret_part hc hp, fun a hr => syswr_svec_part hc hr hp⟩,
    fun s k a hc hr => ⟨syswr_readonly hc hr rfl, syswr_readonly hc hr rfl, syswr_readonly hc hr rfl⟩, ?_⟩
  intro s k d a l n b q w e c hc _ off
  have h (f : Nat → Out) : s.groupOnly f = .next (s.raise .encReserved {}) := State.groupOnly_svc hc
  exact ⟨h _, h _, h _, h _, h _, h _, h _, h _, h _, h _, h _⟩

/-! ### The prefix (R159-R161) -/

theorem exec_pfx (cap sat : Bool) (rnd : Rnd) (s : State) : exec (.pfx cap sat rnd) s = execPfx cap sat rnd s := rfl

/-- A prefix that no word may follow: after another one, or in the upper half of an 8-byte slot. -/
def State.astray (s : State) : Bool := s.thr.pfx.isSome || s.thr.pcs.getLsbD 2

theorem State.astray_iff {s : State} : s.astray = true ↔ s.thr.pfx.isSome ∨ s.thr.pcs.toNat % 8 ≥ 4 := by
  have h : s.thr.pcs.getLsbD 2 = true ↔ s.thr.pcs.toNat % 8 ≥ 4 := by
    rw [BitVec.getLsbD, Nat.testBit_eq_decide_div_mod_eq, decide_eq_true_eq]
    omega
  rw [State.astray, Bool.or_eq_true, h]

/-- At its section's last word, or astray with RNE, a prefix looks at no word after it. -/
theorem pfx_orphan {cap sat : Bool} {rnd : Rnd} {s : State} (hc : s.cur ≠ .none)
    (h : s.lastWord s.thr.pcs = true ∨ s.astray = true ∧ rnd = .rne) : exec (.pfx cap sat rnd) s = .next (s.raise .orphanPrefix {}) := by
  rw [exec_pfx, execPfx, State.running_of hc]
  exact if_pos (by simpa [State.astray] using h)

/-- What a prefix checks of the word after it, in the order of R163. -/
theorem pfx_checks {cap sat : Bool} {rnd : Rnd} {s : State} {w : Word} (hc : s.cur ≠ .none)
    (h : ¬(s.lastWord s.thr.pcs = true ∨ s.astray = true ∧ rnd = .rne)) (hw : s.codeWord (s.thr.pcs + 4) = .ok w) :
    exec (.pfx cap sat rnd) s =
      if pfxClassOf w = .i ∧ rnd ≠ .rne then .next (s.raise .encReserved {})
      else if s.astray = true ∨ pfxClassOf w = .n then .next (s.raise .orphanPrefix {})
      else .next (s.modThr fun t => { t with pfx := some ⟨cap, sat, rnd⟩ }) := by
  rw [exec_pfx, execPfx, State.running_of hc]
  refine (if_neg (by simpa [State.astray] using h)).trans ?_
  simp only [hw, State.astray, Bool.and_eq_true, Bool.or_eq_true, decide_eq_true_eq]

/-- A change of the thread at hand is one of nothing else. -/
theorem State.modThr_only {s : State} (f : Thread → Thread) (hc : s.cur ≠ .none) : Claim.OnlyThread s (s.modThr f) := by
  cases ha : s.cur with
  | none => exact absurd ha hc
  | group g => rw [Claim.OnlyThread, ha, State.modThr, State.setThr, ha]; exact ⟨_, _, _, rfl⟩
  | svc k => rw [Claim.OnlyThread, ha, State.modThr, State.setThr, ha]; exact ⟨_, rfl⟩

/-- Settles O9: where the word after it can be read, the class of that word and the prefix's place decide (`pfx_checks`). -/
theorem prefixHeldOrRefused : Obligations.PrefixHeldOrRefused := by
  unfold Obligations.PrefixHeldOrRefused
  intro cap sat rnd s hc exc astray
  have ha : astray ↔ s.astray = true := State.astray_iff.symm
  rw [ha]
  have orphan := pfx_orphan (cap := cap) (sat := sat) (rnd := rnd) hc
  refine ⟨orphan, fun w hl hw => ?_⟩
  by_cases hr : s.astray = true ∧ rnd = .rne
  · obtain ⟨has, rfl⟩ := hr
    refine ⟨fun _ => orphan (.inr ⟨has, rfl⟩), fun _ hn => absurd rfl hn, fun _ _ => orphan (.inr ⟨has, rfl⟩), fun hn => absurd has hn⟩
  · have hx := pfx_checks (cap := cap) (sat := sat) hc (by simpa [hl] using hr) hw
    refine ⟨fun hw => ?_, fun hw hn => ?_, fun has hw => ?_, fun has hw => ?_⟩
    · exact hx.trans ((if_neg (by simp [hw])).trans (if_pos (.inr hw)))
    · exact hx.trans (if_pos ⟨hw, hn⟩)
    · exact hx.trans ((if_neg (by simp [hw])).trans (if_pos (.inl has)))
    · have hi : ¬(pfxClassOf w = .i ∧ rnd ≠ .rne) := by rcases hw with h | ⟨-, h⟩ <;> simp [h]
      have hn : ¬(s.astray = true ∨ pfxClassOf w = .n) := by rcases hw with h | ⟨h, -⟩ <;> simp [h, has]
      exact ⟨_, hx.trans ((if_neg hi).trans (if_neg hn)), State.modThr_only _ hc, State.thr_modThr _ hc⟩

end Sys2Proof.Machine
end

section
/-! SUPPORT. What a thread fetches where its words can be read (R154, R159-R165, R192, R197), and a step that issues one. -/

namespace Sys2Proof.Machine

/-! ### Words of code -/

/-- A word of a group's code section that can be read is fetched. -/
theorem State.codeWordG_of {s : State} {g : Nat} {lane : Bool} {a : DWord} {w : Word} (flm : Word) (hc : s.cur = .group g)
    (h : Claim.CodeAt s lane a w) : s.codeWordG g { xs := !lane, xl := lane } flm a = .ok w := by
  rw [Claim.CodeAt, hc] at h
  obtain ⟨ha, pa, pte, htr, hlink, hbad, hw⟩ := h
  have hrange : ¬(a.toNat / 2 ^ 58 != 0) = true := by simpa using ha
  simp only [State.codeWordG, if_neg hrange, htr, hlink, hbad, Bool.false_eq_true, if_false, ← hw, BitVec.ofNat_toNat, BitVec.setWidth_eq]

theorem State.codeWordS_of {s : State} {k : Nat} {a : DWord} {w : Word} (hc : s.cur = .svc k) (h : Claim.CodeAt s false a w) :
    s.codeWordS k a = .ok w := by
  rw [Claim.CodeAt, hc] at h
  obtain ⟨-, hlen, hw⟩ := h
  rw [State.codeWordS, if_pos hlen, field, ← hw]
  simp

theorem State.codeWord_of {s : State} {a : DWord} {w : Word} (h : Claim.CodeAt s false a w) : s.codeWord a = .ok w := by
  cases hc : s.cur with
  | none => rw [Claim.CodeAt, hc] at h; exact h.elim
  | group g => rw [State.codeWord, hc]; exact State.codeWordG_of 0 hc h
  | svc k => rw [State.codeWord, hc]; exact State.codeWordS_of hc h

/-! ### Scalar words -/

theorem State.openFor_eq (s : State) (i : Instr) : s.openFor i = Claim.Opened s i := by
  unfold State.openFor Claim.Opened
  cases s.cur with
  | none | svc k => rfl
  | group g => cases i <;> rfl

/-- Outside a block a thread fetches a scalar word, which is no system word of a group. -/
theorem State.fetch_scalar {s : State} {w : Word} (h : Claim.ScalarNext s w) :
    s.fetch = s.fetchScalar ∧ (s.isGroup && systemWord w) = false := by
  unfold Claim.ScalarNext at h
  unfold State.fetch State.isGroup
  cases hc : s.cur with
  | none => rw [hc] at h; exact h.elim
  | group g =>
    rw [hc] at h
    obtain ⟨hb, hs⟩ := h
    refine ⟨by simp [hb], ?_⟩
    rw [Bool.true_and, systemWord, Bool.eq_false_iff]
    simpa using hs
  | svc k => exact ⟨rfl, rfl⟩

theorem State.fetch_of_decodeAt {s : State} {w : Word} {i : Instr} (h : Claim.ScalarNext s w) (hw : Claim.CodeAt s false s.thr.wordAt w)
    (hd : s.decodeAt s.thr.wordAt w = .ok i) : s.fetch = .ok (i, Claim.Opened s i) := by
  rw [(State.fetch_scalar h).1, State.fetchScalar]
  simp only [State.codeWord_of hw, hd, State.openFor_eq]

/-- R154: a word of 32 bits. -/
theorem State.fetch_one {s : State} {w : Word} {i : Instr} (h : Claim.ScalarNext s w) (hl : w.extractLsb' 0 2 ≠ 1)
    (hw : Claim.CodeAt s false s.thr.wordAt w) (hi : decode (.one w) = .ok i) : s.fetch = .ok (i, Claim.Opened s i) := by
  refine State.fetch_of_decodeAt h hw ?_
  have hi : decodeScalar w 0 = .ok i := hi
  have hl : twoWords w = false := beq_eq_false_iff_ne.2 hl
  simp only [State.decodeAt, (State.fetch_scalar h).2, hl, hi, Bool.false_eq_true, if_false]

/-- R154: a word of 64 bits. -/
theorem State.fetch_two {s : State} {w w1 : Word} {i : Instr} (h : Claim.ScalarNext s w) (hl : w.extractLsb' 0 2 = 1)
    (hlast : s.lastWord s.thr.wordAt = false) (hw : Claim.CodeAt s false s.thr.wordAt w) (hw1 : Claim.CodeAt s false (s.thr.wordAt + 4) w1)
    (hi : decode (.two w w1) = .ok i) : s.fetch = .ok (i, Claim.Opened s i) := by
  refine State.fetch_of_decodeAt h hw ?_
  have hi : decodeScalar w w1 = .ok i := hi
  have hl : twoWords w = true := beq_iff_eq.2 hl
  simp only [State.decodeAt, (State.fetch_scalar h).2, hl, hlast, State.codeWord_of hw1, hi, Bool.false_eq_true, if_false, if_true]

/-! ### Lane words -/

/-- R165: a lane word of a running block. -/
theorem State.fetch_lane {s : State} {g : Nat} {w : BitVec 96} {i : Instr} (hc : s.cur = .group g) (hb : (s.group g).blk ≠ none)
    (hw : ∀ k : Fin 3, Claim.CodeAt s true (s.pcOf g + BitVec.ofNat 64 (4 * k.val)) (w.extractLsb' (32 * k.val) 32))
    (hi : decode (.lane w) = .ok i) : s.fetch = .ok (i, s) := by
  have hb : (s.group g).blk.isSome = true := Option.isSome_iff_ne_none.2 hb
  have hi : decodeLane w = .ok i := hi
  have hrd (k : Fin 3) : s.codeWordG g { xl := true } s.thr.em (s.pcOf g + BitVec.ofNat 64 (4 * k.val)) = .ok (w.extractLsb' (32 * k.val) 32) :=
    State.codeWordG_of s.thr.em hc (hw k)
  have h0 := hrd 0
  have h1 := hrd 1
  have h2 := hrd 2
  simp only [Fin.isValue, Fin.val_zero, Fin.val_one, Fin.val_two] at h0 h1 h2
  have hcat : w.extractLsb' (32 * 2) 32 ++ w.extractLsb' (32 * 1) 32 ++ w.extractLsb' (32 * 0) 32 = w := by
    iterate 2 rw [BitVec.extractLsb'_append_extractLsb'_eq_extractLsb' (by decide)]
    exact BitVec.extractLsb'_eq_self
  rw [State.fetch, hc]
  simp only [hb, if_true, State.fetchLane, h0, h1, h2, hcat, hi]

/-! ### Steps -/

/-- A step whose event issues a thread runs that thread's next instruction. -/
theorem step_runThread {s t u : State} {e : Instr} (hn : s.nextEvent = some (e, t)) (he : isEvent e = true) (hx : exec e t = .next u)
    (hc : u.cur ≠ .none) : step s = u.runThread t := by
  simp only [step, hn, he, if_true, hx, hc, if_false]

theorem State.runThread_of {t u v w : State} {i j : Instr} (hf : u.begun.fetch = .ok (i, v)) (hx : v.execute i = (.next w, j)) :
    u.runThread t = .next (w.finish t u u.cur (some j)) := by
  simp only [State.runThread, hf, hx]

theorem State.execute_of {v : State} {i : Instr} (h : ∀ c q r, i ≠ .pfx c q r) : v.execute i = (exec i v, i) := by
  unfold State.execute
  split
  · exact absurd rfl (h _ _ _)
  · rfl

/-- R160: a prefix that is refused ends the step. -/
theorem State.execute_pfx_refused {v w : State} {i : Instr} (hp : ∃ c q r, i = .pfx c q r) (hx : exec i v = .next w)
    (hn : w.thr.pfx = none) : v.execute i = (.next w, i) := by
  obtain ⟨c, q, r, rfl⟩ := hp
  simp only [State.execute, hx, hn, Option.isSome_none, Bool.false_eq_true, if_false]

/-- R160: after a prefix that is held the same step executes the instruction after it. -/
theorem State.execute_pfx_held {v w x : State} {i j : Instr} (hp : ∃ c q r, i = .pfx c q r) (hx : exec i v = .next w)
    (hn : w.thr.pfx ≠ none) (hf : w.fetch = .ok (j, x)) : v.execute i = (exec j x, j) := by
  obtain ⟨c, q, r, rfl⟩ := hp
  simp only [State.execute, hx, Option.isSome_iff_ne_none.2 hn, if_true, hf]

/-- Settles O58: a thread fetches what its words decode to, and a step that issues it executes that. -/
theorem stepRunsDecoded : Obligations.StepRunsDecoded := by
  unfold Obligations.StepRunsDecoded
  refine ⟨fun s w i h hl hw hi => State.fetch_one h hl hw hi, fun s w w1 i h hl hlast hw hw1 hi => State.fetch_two h hl hlast hw hw1 hi,
    fun s g w i hc hb hw hi => State.fetch_lane hc hb hw hi, fun s e t u i v hn he hx hc hf => ?_⟩
  have hrun := step_runThread hn he hx hc
  refine ⟨fun w hw hp => ?_, fun w hw hp => ⟨fun hno => ?_, fun hheld j x y hj hy => ?_⟩⟩
  · exact hrun.trans (State.runThread_of hf ((State.execute_of hp).trans (by rw [hw])))
  · exact hrun.trans (State.runThread_of hf (State.execute_pfx_refused hp hw hno))
  · exact hrun.trans (State.runThread_of hf ((State.execute_pfx_held hp hw hheld hj).trans (by rw [hy])))

end Sys2Proof.Machine
end
